-- ==== Sys2Proof/Word.lean ====
section
/-! DEFINITION. The word types of the device (spec 00_scope.md:R2: bits are numbered from 0 at the least significant end, multi-byte values are little-endian) and the type of a sparse store. -/

namespace Sys2Proof

/-- A byte of memory. -/
abbrev Byte := BitVec 8
/-- A 32-bit register word. -/
abbrev Word := BitVec 32
/-- A 64-bit address, pod time or register pair. -/
abbrev DWord := BitVec 64
/-- A 128-bit instruction word, clause header or register quad. -/
abbrev QWord := BitVec 128

/-- A sparse store: pairs of a key and a value, keys strictly rising, no value zero. A key that is not
listed reads zero. Memory, scratchpad, register files and poison marks all have this one form. -/
abbrev Cells (w : Nat) := List (Nat × BitVec w)

end Sys2Proof
end

