-- ==== Sys2Proof/Machine/Types.lean ====
section
/-! DEFINITION. The plain-data types an instruction word, a message or a table entry is made of
(03_encoding.md:R68 to R82, 19_quadrille.md:R333 to R336, 22_attach.md:R376). -/

namespace Sys2Proof

/-- The operations of the W-form words, in the order of the opcode map (03_encoding.md:R87). -/
inductive Op where
  | add | sub | addc | subb | mul | mulh | mulw | mad | idiv | irem | min | max | abs | neg
  | cmp | lea | add64 | sub64 | shl64 | and | or | xor | andn | orn | not | shl | shr | sar
  | rol | ror | perm | bfx | bfi | bfr | popc | clz | ctz | mov | ldi | ldih | sel | pand | por
  | pxor | pnot | rds | wrs | vote | shfl | red | scan | waitlt | bra | brx | call | ret | exit
  | trap | tret | trec | nop | fadd | fsub | fmul | fma | fmin | fmax | fneg | fabs | fcmp
  | fcls | frnd | fscl | fdiv | fsqrt | frcp | frsq | vfadd | vfsub | vfmul | vfma | vfdiv
  | vfsqrt | vfcmp | vfmin | vfmax | vfneg | vfabs | vfcvt | vfext | vfrnd | vfmov | fex2 | flg2
  | fsinp | fcosp | ftnh | cvt | cvtn | cvtw | cbdec | bfly | cbfly | cmul | twid | aget | aput
  | azero | ald | ast | ascl | aconv | omset | thset | mma | mmaz | kinit | stclr | stset | stadd
  | stget | stpre | sttot | stfind | stcut | stcutm | stq | stld | stst | ldg | stg | ldsp
  | stsp | ldvf | stvf | atomg | atomsp | fence | drain | tcopy | mcast | tbinit | tbexp | tbarr
  | tbwait | tbtest | lkl | ulk | pref | rput | rget | ratom | rflag | rwake | waitw | bar
  | yield | phase | xget | xput | hud | qpost | launch | refrd | refwr | refres | refstop | refkill
  | ctxsave | ctxrest | svc | svcw | evtpop | tlbinv | qsub | qblk | qunb | qcan | qrow | qdig
  | qseq | qwait
  deriving DecidableEq, Repr

/-- The selectors of 03_encoding.md:R77, codes 736 to 744. -/
inductive Sel where
  | imm | immz | imms | immh | zero | one | ones | true_ | lane
  deriving DecidableEq, Repr

/-- What a legal 10-bit operand code names (03_encoding.md:R74). -/
inductive Opnd where
  | none
  | v (n : Fin 384)
  | s (n : Fin 192)
  | p (n : Fin 96)
  | res (i : Fin 64)
  | sel (c : Sel)
  deriving DecidableEq, Repr

/-- One guard predicate, with its negation (03_encoding.md:R72). -/
structure GP where
  neg : Bool
  p : Fin 96
  deriving DecidableEq, Repr

/-- The well-formed guards of a W-form word; each has exactly one encoding (03_encoding.md:R72). -/
inductive Guard where
  | always
  | one (g0 : GP)
  | both (g0 g1 : GP)
  | either (g0 g1 : GP)
  deriving DecidableEq, Repr

/-- The cache hint CH (03_encoding.md:R68, R71). -/
inductive Hint where
  | dflt | stream | keep | noalloc
  deriving DecidableEq, Repr

/-- The fields of a W-form word other than its opcode (03_encoding.md:R68). -/
structure W where
  mod : BitVec 5
  d : Opnd
  a : Opnd
  b : Opnd
  c : Opnd
  e : Opnd
  g : Guard
  ch : Hint
  sat : Bool
  nf : Bool
  csel : Bool
  imm : Word
  deriving DecidableEq, Repr

/-- The half opcodes of a P-form word (03_encoding.md:R81). -/
inductive Hop where
  | nop | mov | add | sub | mul | min | max | minn | maxn | and | or | xor | andn | orn | shl | shr
  | sar | rol | ror | not | neg | abs | popc | clz | ctz | bfr | mulh | mulhn
  | fadd | fsub | fmul | fmin | fmax | fneg | fabs | fscl | pand | por | pxor | pnot
  deriving DecidableEq, Repr

/-- The second source of a half: nothing, a register, or IMM16 (03_encoding.md:R79). -/
inductive HSrc where
  | none
  | reg (o : Opnd)
  | imm (v : BitVec 16)
  deriving DecidableEq, Repr

/-- One half of a P-form word (03_encoding.md:R79). -/
structure Half where
  hop : Hop
  d : Opnd
  a : HSrc
  g : Option GP
  deriving DecidableEq, Repr

/-- Names the issuing path: the grid's launch sequence and the block's ticket on this module, the warp of
the block (or the block's handler activation), and the lowest lane of the path. -/
structure Ref where
  lsq : Nat
  tkt : Nat
  wrp : Nat
  lane : Nat
  handler : Bool
  deriving DecidableEq, Repr

/-- One access that the conflict detector keeps (10_ordering.md:R234, R235); `gngi` names the module that issued it. `kind`: 0 load, 1 store,
2 and above a non-returning integer atomic of operation kind − 2, 100 any other atomic. -/
structure DetAcc where
  gngi : Nat
  sector : Nat
  tkt : Nat
  wrp : Nat
  interval : Nat
  kind : Nat
  deriving DecidableEq, Repr

/-- What an operation of a deterministic grid tells the detector of the module where it is performed: its grid, by its place
among the grids of the Quadrille and the delivery position of its SUBMIT, or by its launch sequence on the module that sends
it; and its access (10_ordering.md:R234). -/
structure DetTag where
  qix : Option Nat
  dps : Nat := 0
  lsq : Nat
  acc : DetAcc
  deriving DecidableEq, Repr

/-- A reply to a remote operation (10_ordering.md:R232; 11_isa_memory.md:R258). `ok` false carries the failure code of
18_recovery.md:R330; `data` are the bytes of an `rget` or the old value of an atomic, and `poison` the indices of the
poisoned sectors within the operation's range at the target. `hit` tells that the target's detector refused the operation:
the offset of the sector and the other access (10_ordering.md:R234). `skipped` tells of an atomic that was not performed
because a lower lane of its word had found poison (11_isa_memory.md:R239). -/
structure RemoteReply where
  ok : Bool
  code : Nat
  cpod : DWord
  csys : DWord
  data : List Byte
  poison : List Nat
  hit : Option (Nat × DetAcc)
  skipped : Bool := false
  deriving DecidableEq, Repr

/-- What a remote operation asks of its target (11_isa_memory.md:R258). An `atom` carries its lane's operand and compare
value. A `probe` asks the target's detector about the lanes of an atomic word, each with its offset and its bytes, before any
of them is performed (10_ordering.md:R236). -/
inductive RemoteKind where
  | put (data : List Byte) (poison : List Nat)
  | get (len : Nat)
  | atom (op ty : Nat) (sat : Bool) (b c : DWord)
  | flag (v : DWord)
  | wake (v : DWord)
  | probe (ranges : List (Nat × Nat × Nat))
  deriving DecidableEq, Repr

/-- A remote operation on the fabric (16_isolation.md:R307): source module, issuing context, transport
sequence number, offset at the target, and whether its fabric tag verifies (16_isolation.md:R310). `after` are the sequence
numbers of the operations that are performed before it (10_ordering.md:R232), `mates` those of the lower lanes of its own word
(11_isa_memory.md:R239); `det` is there in a deterministic grid. `link` is the time at which the target's host link reports a
write that it waits for (10_ordering.md:R218). -/
structure Packet where
  src : Nat
  ctx : Nat
  seq : Nat
  off : DWord
  kind : RemoteKind
  after : List Nat
  det : Option DetTag
  sealOk : Bool
  mates : List Nat := []
  link : DWord := 0
  deriving DecidableEq, Repr

/-- A heartbeat (19_quadrille.md:R338). -/
structure Heartbeat where
  src : Nat
  sent : DWord
  osq : Nat
  digestSeq : Nat
  digest : BitVec 256
  deriving DecidableEq, Repr

/-- A host access to device memory over the link (22_attach.md:R374). `tee` is the TEE indication of IDE
(16_isolation.md:R310). -/
inductive HostAccess where
  | read (pa len : Nat) (tee : Bool)
  | write (pa : Nat) (data : List Byte) (tee : Bool)
  deriving DecidableEq, Repr

/-- A command as the service cores take it: its 64-byte entry (22_attach.md:R376), whether it came in a
secured message, and whether it stands in the command ring (its completion is then written there). For a
RELEASE, `answers` says whether a module answers on the port and `held` whether that joiner still holds a
grid (19_quadrille.md:R352): facts of another module. `bad` tells that the entry was read poisoned (22_attach.md:R378). -/
structure Cmd where
  entry : BitVec 512
  secured : Bool
  ring : Bool
  answers : Bool
  held : Bool
  bad : Bool
  deriving DecidableEq, Repr

/-- The member states of 19_quadrille.md:R333. -/
inductive MemberState where
  | absent | member | fenced | joining
  deriving DecidableEq, Repr

/-- The grid states GST of 19_quadrille.md:R334, codes 0 to 5. -/
inductive GridState where
  | empty | queued | placed | blocked | done | faulted
  deriving DecidableEq, Repr

/-- A grid entry of the replica (19_quadrille.md:R334). `cwa` is not among the fields of R334: the module
that submitted the grid keeps it (20_isa_system.md:R370). -/
structure GridEntry where
  gst : GridState
  dps : Nat
  pri : Nat
  gc : Nat
  gw : Nat
  gh : Nat
  skp : Nat
  rst : Bool
  ctx : Nat
  orm : Nat
  lra : DWord
  par : DWord
  sgw : Nat
  sgh : Nat
  gng : List Nat
  hsv : Bool
  fin : DWord
  osq : Nat
  deriving DecidableEq, Repr

/-- A row entry of the replica (19_quadrille.md:R335). -/
structure RowEntry where
  grx : Nat
  mdn : Nat
  x0 : Nat
  y0 : Nat
  deriving DecidableEq, Repr

/-- One counted SUSPECT: the suspecting module and the VAL it carried (19_quadrille.md:R350). -/
structure Suspicion where
  by_ : Nat
  subject : Nat
  val : DWord
  deriving DecidableEq, Repr

/-- The replicated tables of 19_quadrille.md:R333. Grid entries and rows are held as the non-empty and the
valid ones with their index, ascending; the occupancy is a function of the rows (R333). -/
structure Replica where
  members : List MemberState
  grids : List (Nat × GridEntry)
  rows : List (Nat × RowEntry)
  seq : Nat
  digest : BitVec 256
  suspects : List Suspicion
  deriving DecidableEq, Repr

/-- What becomes of a row that names this module (19_quadrille.md:R345): its part is launched, its saved blocks are
restored, its blocks are pre-empted or killed, or its own FINISH has removed it; or the saved blocks of a grid are
discarded (R343). `lost` kills or discards what a loss leaves of a grid that is queued again (R350). -/
inductive RowKind where
  | start | restore | preempt | kill | finished | discard | lost
  deriving DecidableEq, Repr

/-- A row change that names this module and is not yet enacted: the row's number (4,096 where no row is concerned),
the grid index, the row and the grid entry as the delivery left them. -/
structure RowChange where
  row : Nat
  kind : RowKind
  gix : Nat
  entry : RowEntry
  grid : GridEntry
  deriving DecidableEq, Repr

/-- What the power controller measures and lends (01_device.md:R23), by domain: the two compute dies, the HBM stacks with
the base dies, the I/O die. `draws` is the power in W that each domain would draw at full clocks, `loans` its share of the
pool in W. -/
structure Power where
  draws : List Nat
  loans : List Nat
  deriving DecidableEq, Repr

/-- A step of the join procedure as this module takes part in it (19_quadrille.md:R352, R353). -/
inductive JoinStep where
  /-- A module that has been lost hears the pod again, learns of its loss and drops its replica (R351). -/
  | lost
  /-- No fabric neighbour of a module that seeks a sponsor is a MEMBER. -/
  | noSponsor
  /-- Joiner, step 1: kill every block and set TIME once to the sponsor's corrected value. -/
  | begin_ (t : DWord) (num : Nat)
  /-- Joiner, step 2 and 3: load the sponsor's snapshot, with the `OSQ` of the last event of each origin that it
  covers, the pod's digest interval, and the modules that the sponsor knows to have been MEMBERs. -/
  | snapshot (r : Replica) (osqs : List Nat) (interval : Nat) (ever : List Nat)
  /-- Sponsor: raise JOIN phase 0 for module m, which reports this largest skew in ns to the members it hears. -/
  | sponsor0 (m skew : Nat)
  /-- Sponsor: raise JOIN phase 1 for module m, whose digest matched at sequence n. -/
  | sponsor1 (m n : Nat)
  deriving DecidableEq, Repr

end Sys2Proof
end

