-- ==== Sys2Proof/Syntax.lean ====
section
/-! DEFINITION. The instructions: one constructor for each row of spec/opcode_table.json. A W-form
instruction carries the fields of its word (03_encoding.md:R68); an operation or event of the device
(95_what_each_step_holds.md) carries the names of the agent, object or message it concerns. -/

namespace Sys2Proof

/-- The instructions, operations and events of the device. Those with operands come first, in the order of the opcode
table; those without follow. A command row (22_attach.md:R377) has no operand: it acts on the command the
service cores have taken. -/
inductive Instr where
  /-- ADD: R103. -/
  | add (w : W)
  /-- SUB: R103. -/
  | sub (w : W)
  /-- ADDC: R104. -/
  | addc (w : W)
  /-- SUBB: R104. -/
  | subb (w : W)
  /-- MUL: R103. -/
  | mul (w : W)
  /-- MULH: R103. -/
  | mulh (w : W)
  /-- MULW: R103. -/
  | mulw (w : W)
  /-- MAD: R103. -/
  | mad (w : W)
  /-- IDIV: R105. -/
  | idiv (w : W)
  /-- IREM: R105. -/
  | irem (w : W)
  /-- MIN: R103. -/
  | min (w : W)
  /-- MAX: R103. -/
  | max (w : W)
  /-- ABS: R103. -/
  | abs (w : W)
  /-- NEG: R103. -/
  | neg (w : W)
  /-- CMP: R106. -/
  | cmp (w : W)
  /-- LEA: R107. -/
  | lea (w : W)
  /-- ADD64: R107. -/
  | add64 (w : W)
  /-- SUB64: R107. -/
  | sub64 (w : W)
  /-- SHL64: R107. -/
  | shl64 (w : W)
  /-- AND: R108. -/
  | and (w : W)
  /-- OR: R108. -/
  | or (w : W)
  /-- XOR: R108. -/
  | xor (w : W)
  /-- ANDN: R108. -/
  | andn (w : W)
  /-- ORN: R108. -/
  | orn (w : W)
  /-- NOT: R108. -/
  | not (w : W)
  /-- SHL: R108. -/
  | shl (w : W)
  /-- SHR: R108. -/
  | shr (w : W)
  /-- SAR: R108. -/
  | sar (w : W)
  /-- ROL: R108. -/
  | rol (w : W)
  /-- ROR: R108. -/
  | ror (w : W)
  /-- PERM: R109. -/
  | perm (w : W)
  /-- BFX: R110. -/
  | bfx (w : W)
  /-- BFI: R110. -/
  | bfi (w : W)
  /-- BFR: R111. -/
  | bfr (w : W)
  /-- POPC: R111. -/
  | popc (w : W)
  /-- CLZ: R111. -/
  | clz (w : W)
  /-- CTZ: R111. -/
  | ctz (w : W)
  /-- MOV: R112. -/
  | mov (w : W)
  /-- LDI: R112. -/
  | ldi (w : W)
  /-- LDIH: R112. -/
  | ldih (w : W)
  /-- SEL: R112. -/
  | sel (w : W)
  /-- PAND: R113. -/
  | pand (w : W)
  /-- POR: R113. -/
  | por (w : W)
  /-- PXOR: R113. -/
  | pxor (w : W)
  /-- PNOT: R113. -/
  | pnot (w : W)
  /-- RDS: R114. -/
  | rds (w : W)
  /-- WRS: R114. -/
  | wrs (w : W)
  /-- VOTE: R118. -/
  | vote (w : W)
  /-- SHFL: R119. -/
  | shfl (w : W)
  /-- RED: R120. -/
  | red (w : W)
  /-- SCAN: R121. -/
  | scan (w : W)
  /-- WAITLT: R122. -/
  | waitlt (w : W)
  /-- BRA: R123. -/
  | bra (w : W)
  /-- BRX: R123. -/
  | brx (w : W)
  /-- CALL: R123. -/
  | call (w : W)
  /-- RET: R123. -/
  | ret (w : W)
  /-- EXIT: R124. -/
  | exit (w : W)
  /-- TRAP: R125. -/
  | trap (w : W)
  /-- TRET: R127. -/
  | tret (w : W)
  /-- TREC: R126. -/
  | trec (w : W)
  /-- NOP: R128. -/
  | nop (w : W)
  /-- P_FORM_WORD: R82. -/
  | pFormWord (x y : Half)
  /-- FADD: R162. -/
  | fadd (w : W)
  /-- FSUB: R162. -/
  | fsub (w : W)
  /-- FMUL: R162. -/
  | fmul (w : W)
  /-- FMA: R162. -/
  | fma (w : W)
  /-- FMIN: R162. -/
  | fmin (w : W)
  /-- FMAX: R162. -/
  | fmax (w : W)
  /-- FNEG: R162. -/
  | fneg (w : W)
  /-- FABS: R162. -/
  | fabs (w : W)
  /-- FCMP: R163. -/
  | fcmp (w : W)
  /-- FCLS: R164. -/
  | fcls (w : W)
  /-- FRND: R165. -/
  | frnd (w : W)
  /-- FSCL: R162. -/
  | fscl (w : W)
  /-- FDIV: R162. -/
  | fdiv (w : W)
  /-- FSQRT: R162. -/
  | fsqrt (w : W)
  /-- FRCP: R166. -/
  | frcp (w : W)
  /-- FRSQ: R166. -/
  | frsq (w : W)
  /-- VFADD: R171. -/
  | vfadd (w : W)
  /-- VFSUB: R171. -/
  | vfsub (w : W)
  /-- VFMUL: R171. -/
  | vfmul (w : W)
  /-- VFMA: R171. -/
  | vfma (w : W)
  /-- VFDIV: R171. -/
  | vfdiv (w : W)
  /-- VFSQRT: R171. -/
  | vfsqrt (w : W)
  /-- VFCMP: R172. -/
  | vfcmp (w : W)
  /-- VFMIN: R171. -/
  | vfmin (w : W)
  /-- VFMAX: R171. -/
  | vfmax (w : W)
  /-- VFNEG: R173. -/
  | vfneg (w : W)
  /-- VFABS: R173. -/
  | vfabs (w : W)
  /-- VFCVT: R174. -/
  | vfcvt (w : W)
  /-- VFEXT: R175. -/
  | vfext (w : W)
  /-- VFRND: R175. -/
  | vfrnd (w : W)
  /-- VFMOV: R173. -/
  | vfmov (w : W)
  /-- FEX2: R166. -/
  | fex2 (w : W)
  /-- FLG2: R166. -/
  | flg2 (w : W)
  /-- FSINP: R166. -/
  | fsinp (w : W)
  /-- FCOSP: R166. -/
  | fcosp (w : W)
  /-- FTNH: R166. -/
  | ftnh (w : W)
  /-- CVT: R168. -/
  | cvt (w : W)
  /-- CVTN: R169. -/
  | cvtn (w : W)
  /-- CVTW: R169. -/
  | cvtw (w : W)
  /-- CBDEC: R170. -/
  | cbdec (w : W)
  /-- BFLY: R178. -/
  | bfly (w : W)
  /-- CBFLY: R178. -/
  | cbfly (w : W)
  /-- CMUL: R178. -/
  | cmul (w : W)
  /-- TWID: R179. -/
  | twid (w : W)
  /-- AGET: R183. -/
  | aget (w : W)
  /-- APUT: R184. -/
  | aput (w : W)
  /-- AZERO: R200. -/
  | azero (w : W)
  /-- ALD: R199. -/
  | ald (w : W)
  /-- AST: R199. -/
  | ast (w : W)
  /-- ASCL: R200. -/
  | ascl (w : W)
  /-- ACONV: R201. -/
  | aconv (w : W)
  /-- OMSET: R185. -/
  | omset (w : W)
  /-- THSET: R186. -/
  | thset (w : W)
  /-- MMA: R193. -/
  | mma (w : W)
  /-- MMAZ: R193. -/
  | mmaz (w : W)
  /-- KINIT: R190. -/
  | kinit (w : W)
  /-- STCLR: R206. -/
  | stclr (w : W)
  /-- STSET: R205. -/
  | stset (w : W)
  /-- STADD: R205. -/
  | stadd (w : W)
  /-- STGET: R205. -/
  | stget (w : W)
  /-- STPRE: R205. -/
  | stpre (w : W)
  /-- STTOT: R205. -/
  | sttot (w : W)
  /-- STFIND: R205. -/
  | stfind (w : W)
  /-- STCUT: R205. -/
  | stcut (w : W)
  /-- STCUTM: R205. -/
  | stcutm (w : W)
  /-- STQ: R205. -/
  | stq (w : W)
  /-- STLD: R206. -/
  | stld (w : W)
  /-- STST: R206. -/
  | stst (w : W)
  /-- LDG: R241. -/
  | ldg (w : W)
  /-- STG: R241. -/
  | stg (w : W)
  /-- LDSP: R241. -/
  | ldsp (w : W)
  /-- STSP: R241. -/
  | stsp (w : W)
  /-- LDVF: R243. -/
  | ldvf (w : W)
  /-- STVF: R243. -/
  | stvf (w : W)
  /-- ATOMG: R244. -/
  | atomg (w : W)
  /-- ATOMSP: R244. -/
  | atomsp (w : W)
  /-- FENCE: R245. -/
  | fence (w : W)
  /-- DRAIN: R231. -/
  | drain (w : W)
  /-- TCOPY: R247. -/
  | tcopy (w : W)
  /-- MCAST: R251. -/
  | mcast (w : W)
  /-- TBINIT: R228. -/
  | tbinit (w : W)
  /-- TBEXP: R253. -/
  | tbexp (w : W)
  /-- TBARR: R253. -/
  | tbarr (w : W)
  /-- TBWAIT: R253. -/
  | tbwait (w : W)
  /-- TBTEST: R253. -/
  | tbtest (w : W)
  /-- LKL: R256. -/
  | lkl (w : W)
  /-- ULK: R256. -/
  | ulk (w : W)
  /-- PREF: R255. -/
  | pref (w : W)
  /-- RPUT: R258. -/
  | rput (w : W)
  /-- RGET: R258. -/
  | rget (w : W)
  /-- RATOM: R258. -/
  | ratom (w : W)
  /-- RFLAG: R258. -/
  | rflag (w : W)
  /-- RWAKE: R258. -/
  | rwake (w : W)
  /-- WAITW: R259. -/
  | waitw (w : W)
  /-- BAR: R283. -/
  | bar (w : W)
  /-- YIELD: R286. -/
  | yield (w : W)
  /-- PHASE: R287. -/
  | phase (w : W)
  /-- XGET: R288. -/
  | xget (w : W)
  /-- XPUT: R289. -/
  | xput (w : W)
  /-- HUD: R290. -/
  | hud (w : W)
  /-- QPOST: R294. -/
  | qpost (w : W)
  /-- LAUNCH: R295. -/
  | launch (w : W)
  /-- REFRD: R359. -/
  | refrd (w : W)
  /-- REFWR: R360. -/
  | refwr (w : W)
  /-- REFRES: R361. -/
  | refres (w : W)
  /-- REFSTOP: R358. -/
  | refstop (w : W)
  /-- REFKILL: R362. -/
  | refkill (w : W)
  /-- CTXSAVE: R363. -/
  | ctxsave (w : W)
  /-- CTXREST: R364. -/
  | ctxrest (w : W)
  /-- SVC: R365. -/
  | svc (w : W)
  /-- SVCW: R366. -/
  | svcw (w : W)
  /-- EVTPOP: R367. -/
  | evtpop (w : W)
  /-- TLBINV: R368. -/
  | tlbinv (w : W)
  /-- QSUB: R369. -/
  | qsub (w : W)
  /-- QBLK: R369. -/
  | qblk (w : W)
  /-- QUNB: R369. -/
  | qunb (w : W)
  /-- QCAN: R369. -/
  | qcan (w : W)
  /-- QROW: R371. -/
  | qrow (w : W)
  /-- QDIG: R371. -/
  | qdig (w : W)
  /-- QSEQ: R371. -/
  | qseq (w : W)
  /-- QWAIT: R372. -/
  | qwait (w : W)
  /-- ISSUE_SELECT: R272. -/
  | issueSelect (core part : Nat)
  /-- ICACHE_LINE_ARRIVES: R276. -/
  | icacheLineArrives (core part : Nat)
  /-- REGISTER_WRITE_LANDS: R83. -/
  | registerWriteLands (op : Nat)
  /-- HOME_PERFORMS_ACCESS: R218. -/
  | homePerformsAccess (op : Nat)
  /-- COMPLETION_REPLY_ARRIVES: R219. -/
  | completionReplyArrives (op : Nat) (remote : Option RemoteReply)
  /-- WAIT_TIME_PASSED: R221. -/
  | waitTimePassed (r : Ref)
  /-- WAITW_DEADLINE: R259. -/
  | waitwDeadline (r : Ref)
  /-- QWAIT_DEADLINE: R372. -/
  | qwaitDeadline (r : Ref)
  /-- COLLECTIVE_PERFORMED: R116. -/
  | collectivePerformed (r : Ref)
  /-- MMA_RETIRE: R193. -/
  | mmaRetire (op : Nat)
  /-- HANDLE_FETCH_FAULT: R196. -/
  | handleFetchFault (op : Nat)
  /-- TILE_GRANT: R271. -/
  | tileGrant (core : Nat)
  /-- EXTREG_GRANT: R288. -/
  | extregGrant (core part : Nat)
  /-- COMPACTION: R48. -/
  | compaction (core part : Nat)
  /-- ENGINE_SECTOR_REPORT: R228. -/
  | engineSectorReport (op sector : Nat)
  /-- GCM_ENGINE_JUDGE: R250. -/
  | gcmEngineJudge (op : Nat)
  /-- MCAST_SECTOR_ARRIVAL: R252. -/
  | mcastSectorArrival (op core sector : Nat)
  /-- REMOTE_OP_ARRIVAL: R307. -/
  | remoteOpArrival (k : Packet)
  /-- TRANSPORT_GIVE_UP: R331. -/
  | transportGiveUp (op : Nat)
  /-- PAGE_WALK_COMPLETE: R304. -/
  | pageWalkComplete (ctx : Nat) (va : BitVec 64)
  /-- INVALIDATION_COMPLETE: R305. -/
  | invalidationComplete (op : Nat)
  /-- REFEREE_TAKE_TRAP: R320. -/
  | refereeTakeTrap (core : Nat)
  /-- BLOCK_SAVE: R327. -/
  | blockSave (r : Ref)
  /-- BLOCK_RESTORE: R328. -/
  | blockRestore (r : Ref) (org : Nat)
  /-- WARP_RELEASE: R124. -/
  | warpRelease (r : Ref)
  /-- BLOCK_END: R278. -/
  | blockEnd (r : Ref)
  /-- HUDDLE_ROUND_END: R291. -/
  | huddleRoundEnd (r : Ref)
  /-- GRID_COMPLETION: R268. -/
  | gridCompletion (lsq : Nat)
  /-- BLOCK_DISPATCH: R269. -/
  | blockDispatch (lsq org : Nat)
  /-- PHASE_COUNTER_EXCHANGE: R275. -/
  | phaseCounterExchange (core : Nat)
  /-- SVC_REPLY: R277. -/
  | svcReply (r : Ref)
  /-- ECC_ERROR_DETECTED: R17. -/
  | eccErrorDetected (pa : Nat) (correctable : Bool) (kind : Nat)
  /-- POWER_ADJUST: R24. -/
  | powerAdjust (pool : Power) (clk0 clk1 : Nat)
  /-- TIME_DISCIPLINE: R20. -/
  | timeDiscipline (slew : Nat)
  /-- PORT_STATE_CHANGE: R383. -/
  | portStateChange (port state : Nat)
  /-- QUADRILLE_HEARTBEAT_RECEIVE: R339. -/
  | quadrilleHeartbeatReceive (h : Heartbeat)
  /-- EVENT_RECEIVE: R338. -/
  | eventReceive (e : BitVec 512)
  /-- FINISH_RAISE: R337. -/
  | finishRaise (lsq : Nat)
  /-- SUSPECT_RAISE: R350. -/
  | suspectRaise (m : Nat)
  /-- MEMBER_CUT: R351. -/
  | memberCut (m : Nat)
  /-- ROW_ENACT: R345. -/
  | rowEnact (row : Nat)
  /-- JOIN_PROCEDURE: R352. -/
  | joinProcedure (j : JoinStep)
  /-- HOST_MEMORY_ACCESS: R374. -/
  | hostMemoryAccess (h : HostAccess)
  /-- NCN_WRITE: R382. -/
  | ncnWrite (v : BitVec 64)
  /-- REGISTER_WRITE: R375. -/
  | registerWrite (off : Nat) (v : BitVec 64)
  /-- POD_FORMATION_COMPLETE: R386. -/
  | podFormationComplete (t : BitVec 64)
  /-- SCRUB_COMPLETE: R312. -/
  | scrubComplete (ok : Bool)
  /-- READY_REACHED: R384. -/
  | readyReached (ok : Bool)
  /-- UNASSIGNED_OPCODE: R88. -/
  | unassignedOpcode (word : BitVec 128)
  /-- SPDM_SESSION_SETUP: R315. -/
  | spdmSessionSetup (seconds : Nat)
  /-- ENDPOINT_CONTEXT_FETCH: R331. -/
  | endpointContextFetch (ctx peer : Nat)
  /-- CORE_POWER_GATING: R14. -/
  | corePowerGating (core : Nat) (gate : Bool) (groups : Nat)
  /-- QUEUE_FETCH: R263. -/
  | queueFetch
  /-- QUADRILLE_HEARTBEAT_SEND: R338. -/
  | quadrilleHeartbeatSend
  /-- DELIVER_SUBMIT: R342. -/
  | deliverSubmit
  /-- DELIVER_FINISH: R342. -/
  | deliverFinish
  /-- DELIVER_BLOCK: R342. -/
  | deliverBlock
  /-- DELIVER_UNBLOCK: R342. -/
  | deliverUnblock
  /-- DELIVER_CANCEL: R342. -/
  | deliverCancel
  /-- DELIVER_SUSPECT: R350. -/
  | deliverSuspect
  /-- DELIVER_JOIN: R342. -/
  | deliverJoin
  /-- DELIVER_FENCE: R342. -/
  | deliverFence
  /-- STATE_SUMMARY: R380. -/
  | stateSummary
  /-- CTX_CREATE: R299. -/
  | ctxCreate
  /-- CTX_DESTROY: R300. -/
  | ctxDestroy
  /-- QUEUE_TABLE: R260. -/
  | queueTable
  /-- EXPORT_TABLE: R306. -/
  | exportTable
  /-- WINDOW: R308. -/
  | window
  /-- INVALIDATE: R305. -/
  | invalidate
  /-- SUBMIT: R373. -/
  | submit
  /-- BLOCK: R373. -/
  | block
  /-- UNBLOCK: R373. -/
  | unblock
  /-- CANCEL: R373. -/
  | cancel
  /-- PREEMPT: R327. -/
  | preempt
  /-- KILL: R321. -/
  | kill
  /-- NOTIFY_RING: R382. -/
  | notifyRing
  /-- FORM_POD: R386. -/
  | formPod
  /-- FORM_POD_TIMEOUT: R386. -/
  | formPodTimeout
  /-- RELEASE: R352. -/
  | release
  /-- POWER_CAP: R384. -/
  | powerCap
  /-- ERROR_LOG: R381. -/
  | errorLog
  /-- FAULT_REPLY: R388. -/
  | faultReply
  /-- KEY_LOAD: R313. -/
  | keyLoad
  /-- KEY_BIND: R313. -/
  | keyBind
  /-- KEY_UNBIND: R313. -/
  | keyUnbind
  /-- HEARTBEAT: R315. -/
  | heartbeat
  /-- FABRIC_KEY: R310. -/
  | fabricKey
  /-- TRUSTED_RANGE: R310. -/
  | trustedRange
  /-- ENTER_CONFIDENTIAL: R309. -/
  | enterConfidential
  /-- LEAVE_CONFIDENTIAL: R309. -/
  | leaveConfidential
  /-- HEARTBEAT_LOSS: R315. -/
  | heartbeatLoss
  /-- COLD_RESET: R384. -/
  | coldReset
  /-- UNKNOWN_COMMAND: R378. -/
  | unknownCommand
  deriving DecidableEq, Repr

end Sys2Proof
end

