-- ==== Sys2Proof/Machine/OpMap.lean ====
section
/-! DEFINITION. The opcode map (03_encoding.md:R87) and, for each W-form instruction, its entry: the MOD
values it accepts, the classes its operand positions accept, the optional fields it honours and its use of
IMM32 (03_encoding.md:R69 to R78 and the entry tables of the instruction chapters). From them the
sub-cause of an illegal encoding is judged (03_encoding.md:R89). -/

namespace Sys2Proof

/-- The assigned codes of each opcode group, in order from the first code of the group
(03_encoding.md:R87). -/
def Op.groups : List (List Op) :=
  [[.add, .sub, .addc, .subb, .mul, .mulh, .mulw, .mad, .idiv, .irem, .min, .max, .abs, .neg, .cmp, .lea, .add64, .sub64, .shl64],
   [.and, .or, .xor, .andn, .orn, .not, .shl, .shr, .sar, .rol, .ror, .perm, .bfx, .bfi, .bfr, .popc, .clz, .ctz],
   [.mov, .ldi, .ldih, .sel, .pand, .por, .pxor, .pnot, .rds, .wrs],
   [.vote, .shfl, .red, .scan, .waitlt],
   [.bra, .brx, .call, .ret, .exit, .trap, .tret, .trec, .nop],
   [.fadd, .fsub, .fmul, .fma, .fmin, .fmax, .fneg, .fabs, .fcmp, .fcls, .frnd, .fscl, .fdiv, .fsqrt, .frcp, .frsq],
   [.vfadd, .vfsub, .vfmul, .vfma, .vfdiv, .vfsqrt, .vfcmp, .vfmin, .vfmax, .vfneg, .vfabs, .vfcvt, .vfext, .vfrnd, .vfmov],
   [.fex2, .flg2, .fsinp, .fcosp, .ftnh, .cvt, .cvtn, .cvtw, .cbdec, .bfly, .cbfly, .cmul, .twid],
   [.aget, .aput, .azero, .ald, .ast, .ascl, .aconv, .omset, .thset, .mma, .mmaz, .kinit],
   [.stclr, .stset, .stadd, .stget, .stpre, .sttot, .stfind, .stcut, .stcutm, .stq, .stld, .stst],
   [.ldg, .stg, .ldsp, .stsp, .ldvf, .stvf, .atomg, .atomsp, .fence, .drain],
   [.tcopy, .mcast, .tbinit, .tbexp, .tbarr, .tbwait, .tbtest, .lkl, .ulk, .pref],
   [.rput, .rget, .ratom, .rflag, .rwake, .waitw],
   [.bar, .yield, .phase, .xget, .xput, .hud, .qpost, .launch],
   [.refrd, .refwr, .refres, .refstop, .refkill, .ctxsave, .ctxrest, .svc, .svcw, .evtpop, .tlbinv, .qsub, .qblk, .qunb, .qcan, .qrow, .qdig, .qseq, .qwait]]

/-- The operation of an OPC value; none for an unassigned code and for group 0xF
(03_encoding.md:R87, R88). -/
def Op.ofOpc (n : Nat) : Option Op :=
  match Op.groups[n / 64]? with
  | some l => l[n % 64]?
  | none => none

/-- The 10-bit OPC of an operation (03_encoding.md:R87). -/
def Op.opc : Op → Nat
  | .add => 0x000
  | .sub => 0x001
  | .addc => 0x002
  | .subb => 0x003
  | .mul => 0x004
  | .mulh => 0x005
  | .mulw => 0x006
  | .mad => 0x007
  | .idiv => 0x008
  | .irem => 0x009
  | .min => 0x00A
  | .max => 0x00B
  | .abs => 0x00C
  | .neg => 0x00D
  | .cmp => 0x00E
  | .lea => 0x00F
  | .add64 => 0x010
  | .sub64 => 0x011
  | .shl64 => 0x012
  | .and => 0x040
  | .or => 0x041
  | .xor => 0x042
  | .andn => 0x043
  | .orn => 0x044
  | .not => 0x045
  | .shl => 0x046
  | .shr => 0x047
  | .sar => 0x048
  | .rol => 0x049
  | .ror => 0x04A
  | .perm => 0x04B
  | .bfx => 0x04C
  | .bfi => 0x04D
  | .bfr => 0x04E
  | .popc => 0x04F
  | .clz => 0x050
  | .ctz => 0x051
  | .mov => 0x080
  | .ldi => 0x081
  | .ldih => 0x082
  | .sel => 0x083
  | .pand => 0x084
  | .por => 0x085
  | .pxor => 0x086
  | .pnot => 0x087
  | .rds => 0x088
  | .wrs => 0x089
  | .vote => 0x0C0
  | .shfl => 0x0C1
  | .red => 0x0C2
  | .scan => 0x0C3
  | .waitlt => 0x0C4
  | .bra => 0x100
  | .brx => 0x101
  | .call => 0x102
  | .ret => 0x103
  | .exit => 0x104
  | .trap => 0x105
  | .tret => 0x106
  | .trec => 0x107
  | .nop => 0x108
  | .fadd => 0x140
  | .fsub => 0x141
  | .fmul => 0x142
  | .fma => 0x143
  | .fmin => 0x144
  | .fmax => 0x145
  | .fneg => 0x146
  | .fabs => 0x147
  | .fcmp => 0x148
  | .fcls => 0x149
  | .frnd => 0x14A
  | .fscl => 0x14B
  | .fdiv => 0x14C
  | .fsqrt => 0x14D
  | .frcp => 0x14E
  | .frsq => 0x14F
  | .vfadd => 0x180
  | .vfsub => 0x181
  | .vfmul => 0x182
  | .vfma => 0x183
  | .vfdiv => 0x184
  | .vfsqrt => 0x185
  | .vfcmp => 0x186
  | .vfmin => 0x187
  | .vfmax => 0x188
  | .vfneg => 0x189
  | .vfabs => 0x18A
  | .vfcvt => 0x18B
  | .vfext => 0x18C
  | .vfrnd => 0x18D
  | .vfmov => 0x18E
  | .fex2 => 0x1C0
  | .flg2 => 0x1C1
  | .fsinp => 0x1C2
  | .fcosp => 0x1C3
  | .ftnh => 0x1C4
  | .cvt => 0x1C5
  | .cvtn => 0x1C6
  | .cvtw => 0x1C7
  | .cbdec => 0x1C8
  | .bfly => 0x1C9
  | .cbfly => 0x1CA
  | .cmul => 0x1CB
  | .twid => 0x1CC
  | .aget => 0x200
  | .aput => 0x201
  | .azero => 0x202
  | .ald => 0x203
  | .ast => 0x204
  | .ascl => 0x205
  | .aconv => 0x206
  | .omset => 0x207
  | .thset => 0x208
  | .mma => 0x209
  | .mmaz => 0x20A
  | .kinit => 0x20B
  | .stclr => 0x240
  | .stset => 0x241
  | .stadd => 0x242
  | .stget => 0x243
  | .stpre => 0x244
  | .sttot => 0x245
  | .stfind => 0x246
  | .stcut => 0x247
  | .stcutm => 0x248
  | .stq => 0x249
  | .stld => 0x24A
  | .stst => 0x24B
  | .ldg => 0x280
  | .stg => 0x281
  | .ldsp => 0x282
  | .stsp => 0x283
  | .ldvf => 0x284
  | .stvf => 0x285
  | .atomg => 0x286
  | .atomsp => 0x287
  | .fence => 0x288
  | .drain => 0x289
  | .tcopy => 0x2C0
  | .mcast => 0x2C1
  | .tbinit => 0x2C2
  | .tbexp => 0x2C3
  | .tbarr => 0x2C4
  | .tbwait => 0x2C5
  | .tbtest => 0x2C6
  | .lkl => 0x2C7
  | .ulk => 0x2C8
  | .pref => 0x2C9
  | .rput => 0x300
  | .rget => 0x301
  | .ratom => 0x302
  | .rflag => 0x303
  | .rwake => 0x304
  | .waitw => 0x305
  | .bar => 0x340
  | .yield => 0x341
  | .phase => 0x342
  | .xget => 0x343
  | .xput => 0x344
  | .hud => 0x345
  | .qpost => 0x346
  | .launch => 0x347
  | .refrd => 0x380
  | .refwr => 0x381
  | .refres => 0x382
  | .refstop => 0x383
  | .refkill => 0x384
  | .ctxsave => 0x385
  | .ctxrest => 0x386
  | .svc => 0x387
  | .svcw => 0x388
  | .evtpop => 0x389
  | .tlbinv => 0x38A
  | .qsub => 0x38B
  | .qblk => 0x38C
  | .qunb => 0x38D
  | .qcan => 0x38E
  | .qrow => 0x38F
  | .qdig => 0x390
  | .qseq => 0x391
  | .qwait => 0x392

/-- What a word is made of: the operation and fields of a W-form word, the halves of a P-form word, a
W-form word with an unassigned OPC, or no word at all (an event of the device). -/
inductive Form where
  | w (op : Op) (w : W)
  | p (x y : Half)
  | bad (word : QWord)
  | event
  deriving DecidableEq, Repr

/-- The form of an instruction. -/
def Instr.form : Instr → Form
  | .add w => .w .add w
  | .sub w => .w .sub w
  | .addc w => .w .addc w
  | .subb w => .w .subb w
  | .mul w => .w .mul w
  | .mulh w => .w .mulh w
  | .mulw w => .w .mulw w
  | .mad w => .w .mad w
  | .idiv w => .w .idiv w
  | .irem w => .w .irem w
  | .min w => .w .min w
  | .max w => .w .max w
  | .abs w => .w .abs w
  | .neg w => .w .neg w
  | .cmp w => .w .cmp w
  | .lea w => .w .lea w
  | .add64 w => .w .add64 w
  | .sub64 w => .w .sub64 w
  | .shl64 w => .w .shl64 w
  | .and w => .w .and w
  | .or w => .w .or w
  | .xor w => .w .xor w
  | .andn w => .w .andn w
  | .orn w => .w .orn w
  | .not w => .w .not w
  | .shl w => .w .shl w
  | .shr w => .w .shr w
  | .sar w => .w .sar w
  | .rol w => .w .rol w
  | .ror w => .w .ror w
  | .perm w => .w .perm w
  | .bfx w => .w .bfx w
  | .bfi w => .w .bfi w
  | .bfr w => .w .bfr w
  | .popc w => .w .popc w
  | .clz w => .w .clz w
  | .ctz w => .w .ctz w
  | .mov w => .w .mov w
  | .ldi w => .w .ldi w
  | .ldih w => .w .ldih w
  | .sel w => .w .sel w
  | .pand w => .w .pand w
  | .por w => .w .por w
  | .pxor w => .w .pxor w
  | .pnot w => .w .pnot w
  | .rds w => .w .rds w
  | .wrs w => .w .wrs w
  | .vote w => .w .vote w
  | .shfl w => .w .shfl w
  | .red w => .w .red w
  | .scan w => .w .scan w
  | .waitlt w => .w .waitlt w
  | .bra w => .w .bra w
  | .brx w => .w .brx w
  | .call w => .w .call w
  | .ret w => .w .ret w
  | .exit w => .w .exit w
  | .trap w => .w .trap w
  | .tret w => .w .tret w
  | .trec w => .w .trec w
  | .nop w => .w .nop w
  | .fadd w => .w .fadd w
  | .fsub w => .w .fsub w
  | .fmul w => .w .fmul w
  | .fma w => .w .fma w
  | .fmin w => .w .fmin w
  | .fmax w => .w .fmax w
  | .fneg w => .w .fneg w
  | .fabs w => .w .fabs w
  | .fcmp w => .w .fcmp w
  | .fcls w => .w .fcls w
  | .frnd w => .w .frnd w
  | .fscl w => .w .fscl w
  | .fdiv w => .w .fdiv w
  | .fsqrt w => .w .fsqrt w
  | .frcp w => .w .frcp w
  | .frsq w => .w .frsq w
  | .vfadd w => .w .vfadd w
  | .vfsub w => .w .vfsub w
  | .vfmul w => .w .vfmul w
  | .vfma w => .w .vfma w
  | .vfdiv w => .w .vfdiv w
  | .vfsqrt w => .w .vfsqrt w
  | .vfcmp w => .w .vfcmp w
  | .vfmin w => .w .vfmin w
  | .vfmax w => .w .vfmax w
  | .vfneg w => .w .vfneg w
  | .vfabs w => .w .vfabs w
  | .vfcvt w => .w .vfcvt w
  | .vfext w => .w .vfext w
  | .vfrnd w => .w .vfrnd w
  | .vfmov w => .w .vfmov w
  | .fex2 w => .w .fex2 w
  | .flg2 w => .w .flg2 w
  | .fsinp w => .w .fsinp w
  | .fcosp w => .w .fcosp w
  | .ftnh w => .w .ftnh w
  | .cvt w => .w .cvt w
  | .cvtn w => .w .cvtn w
  | .cvtw w => .w .cvtw w
  | .cbdec w => .w .cbdec w
  | .bfly w => .w .bfly w
  | .cbfly w => .w .cbfly w
  | .cmul w => .w .cmul w
  | .twid w => .w .twid w
  | .aget w => .w .aget w
  | .aput w => .w .aput w
  | .azero w => .w .azero w
  | .ald w => .w .ald w
  | .ast w => .w .ast w
  | .ascl w => .w .ascl w
  | .aconv w => .w .aconv w
  | .omset w => .w .omset w
  | .thset w => .w .thset w
  | .mma w => .w .mma w
  | .mmaz w => .w .mmaz w
  | .kinit w => .w .kinit w
  | .stclr w => .w .stclr w
  | .stset w => .w .stset w
  | .stadd w => .w .stadd w
  | .stget w => .w .stget w
  | .stpre w => .w .stpre w
  | .sttot w => .w .sttot w
  | .stfind w => .w .stfind w
  | .stcut w => .w .stcut w
  | .stcutm w => .w .stcutm w
  | .stq w => .w .stq w
  | .stld w => .w .stld w
  | .stst w => .w .stst w
  | .ldg w => .w .ldg w
  | .stg w => .w .stg w
  | .ldsp w => .w .ldsp w
  | .stsp w => .w .stsp w
  | .ldvf w => .w .ldvf w
  | .stvf w => .w .stvf w
  | .atomg w => .w .atomg w
  | .atomsp w => .w .atomsp w
  | .fence w => .w .fence w
  | .drain w => .w .drain w
  | .tcopy w => .w .tcopy w
  | .mcast w => .w .mcast w
  | .tbinit w => .w .tbinit w
  | .tbexp w => .w .tbexp w
  | .tbarr w => .w .tbarr w
  | .tbwait w => .w .tbwait w
  | .tbtest w => .w .tbtest w
  | .lkl w => .w .lkl w
  | .ulk w => .w .ulk w
  | .pref w => .w .pref w
  | .rput w => .w .rput w
  | .rget w => .w .rget w
  | .ratom w => .w .ratom w
  | .rflag w => .w .rflag w
  | .rwake w => .w .rwake w
  | .waitw w => .w .waitw w
  | .bar w => .w .bar w
  | .yield w => .w .yield w
  | .phase w => .w .phase w
  | .xget w => .w .xget w
  | .xput w => .w .xput w
  | .hud w => .w .hud w
  | .qpost w => .w .qpost w
  | .launch w => .w .launch w
  | .refrd w => .w .refrd w
  | .refwr w => .w .refwr w
  | .refres w => .w .refres w
  | .refstop w => .w .refstop w
  | .refkill w => .w .refkill w
  | .ctxsave w => .w .ctxsave w
  | .ctxrest w => .w .ctxrest w
  | .svc w => .w .svc w
  | .svcw w => .w .svcw w
  | .evtpop w => .w .evtpop w
  | .tlbinv w => .w .tlbinv w
  | .qsub w => .w .qsub w
  | .qblk w => .w .qblk w
  | .qunb w => .w .qunb w
  | .qcan w => .w .qcan w
  | .qrow w => .w .qrow w
  | .qdig w => .w .qdig w
  | .qseq w => .w .qseq w
  | .qwait w => .w .qwait w
  | .pFormWord x y => .p x y
  | .issueSelect _ _ => .event
  | .icacheLineArrives _ _ => .event
  | .registerWriteLands _ => .event
  | .homePerformsAccess _ => .event
  | .completionReplyArrives _ _ => .event
  | .waitTimePassed _ => .event
  | .waitwDeadline _ => .event
  | .qwaitDeadline _ => .event
  | .collectivePerformed _ => .event
  | .mmaRetire _ => .event
  | .handleFetchFault _ => .event
  | .tileGrant _ => .event
  | .extregGrant _ _ => .event
  | .compaction _ _ => .event
  | .engineSectorReport _ _ => .event
  | .gcmEngineJudge _ => .event
  | .mcastSectorArrival _ _ _ => .event
  | .remoteOpArrival _ => .event
  | .transportGiveUp _ => .event
  | .pageWalkComplete _ _ => .event
  | .invalidationComplete _ => .event
  | .refereeTakeTrap _ => .event
  | .blockSave _ => .event
  | .blockRestore _ _ => .event
  | .warpRelease _ => .event
  | .blockEnd _ => .event
  | .huddleRoundEnd _ => .event
  | .gridCompletion _ => .event
  | .queueFetch => .event
  | .blockDispatch _ _ => .event
  | .phaseCounterExchange _ => .event
  | .svcReply _ => .event
  | .eccErrorDetected _ _ _ => .event
  | .powerAdjust _ _ _ => .event
  | .timeDiscipline _ => .event
  | .portStateChange _ _ => .event
  | .quadrilleHeartbeatSend => .event
  | .quadrilleHeartbeatReceive _ => .event
  | .eventReceive _ => .event
  | .deliverSubmit => .event
  | .deliverFinish => .event
  | .deliverBlock => .event
  | .deliverUnblock => .event
  | .deliverCancel => .event
  | .deliverSuspect => .event
  | .deliverJoin => .event
  | .deliverFence => .event
  | .finishRaise _ => .event
  | .suspectRaise _ => .event
  | .memberCut _ => .event
  | .rowEnact _ => .event
  | .joinProcedure _ => .event
  | .hostMemoryAccess _ => .event
  | .ncnWrite _ => .event
  | .registerWrite _ _ => .event
  | .stateSummary => .event
  | .ctxCreate => .event
  | .ctxDestroy => .event
  | .queueTable => .event
  | .exportTable => .event
  | .window => .event
  | .invalidate => .event
  | .submit => .event
  | .block => .event
  | .unblock => .event
  | .cancel => .event
  | .preempt => .event
  | .kill => .event
  | .notifyRing => .event
  | .formPod => .event
  | .podFormationComplete _ => .event
  | .formPodTimeout => .event
  | .release => .event
  | .powerCap => .event
  | .errorLog => .event
  | .faultReply => .event
  | .keyLoad => .event
  | .keyBind => .event
  | .keyUnbind => .event
  | .heartbeat => .event
  | .fabricKey => .event
  | .trustedRange => .event
  | .enterConfidential => .event
  | .leaveConfidential => .event
  | .heartbeatLoss => .event
  | .scrubComplete _ => .event
  | .coldReset => .event
  | .readyReached _ => .event
  | .unassignedOpcode q => .bad q
  | .unknownCommand => .event
  | .spdmSessionSetup _ => .event
  | .endpointContextFetch _ _ => .event
  | .corePowerGating _ _ _ => .event

/-- The W-form instruction of an operation and its fields. -/
def Instr.ofOp (op : Op) (w : W) : Instr :=
  match op with
  | .add => .add w
  | .sub => .sub w
  | .addc => .addc w
  | .subb => .subb w
  | .mul => .mul w
  | .mulh => .mulh w
  | .mulw => .mulw w
  | .mad => .mad w
  | .idiv => .idiv w
  | .irem => .irem w
  | .min => .min w
  | .max => .max w
  | .abs => .abs w
  | .neg => .neg w
  | .cmp => .cmp w
  | .lea => .lea w
  | .add64 => .add64 w
  | .sub64 => .sub64 w
  | .shl64 => .shl64 w
  | .and => .and w
  | .or => .or w
  | .xor => .xor w
  | .andn => .andn w
  | .orn => .orn w
  | .not => .not w
  | .shl => .shl w
  | .shr => .shr w
  | .sar => .sar w
  | .rol => .rol w
  | .ror => .ror w
  | .perm => .perm w
  | .bfx => .bfx w
  | .bfi => .bfi w
  | .bfr => .bfr w
  | .popc => .popc w
  | .clz => .clz w
  | .ctz => .ctz w
  | .mov => .mov w
  | .ldi => .ldi w
  | .ldih => .ldih w
  | .sel => .sel w
  | .pand => .pand w
  | .por => .por w
  | .pxor => .pxor w
  | .pnot => .pnot w
  | .rds => .rds w
  | .wrs => .wrs w
  | .vote => .vote w
  | .shfl => .shfl w
  | .red => .red w
  | .scan => .scan w
  | .waitlt => .waitlt w
  | .bra => .bra w
  | .brx => .brx w
  | .call => .call w
  | .ret => .ret w
  | .exit => .exit w
  | .trap => .trap w
  | .tret => .tret w
  | .trec => .trec w
  | .nop => .nop w
  | .fadd => .fadd w
  | .fsub => .fsub w
  | .fmul => .fmul w
  | .fma => .fma w
  | .fmin => .fmin w
  | .fmax => .fmax w
  | .fneg => .fneg w
  | .fabs => .fabs w
  | .fcmp => .fcmp w
  | .fcls => .fcls w
  | .frnd => .frnd w
  | .fscl => .fscl w
  | .fdiv => .fdiv w
  | .fsqrt => .fsqrt w
  | .frcp => .frcp w
  | .frsq => .frsq w
  | .vfadd => .vfadd w
  | .vfsub => .vfsub w
  | .vfmul => .vfmul w
  | .vfma => .vfma w
  | .vfdiv => .vfdiv w
  | .vfsqrt => .vfsqrt w
  | .vfcmp => .vfcmp w
  | .vfmin => .vfmin w
  | .vfmax => .vfmax w
  | .vfneg => .vfneg w
  | .vfabs => .vfabs w
  | .vfcvt => .vfcvt w
  | .vfext => .vfext w
  | .vfrnd => .vfrnd w
  | .vfmov => .vfmov w
  | .fex2 => .fex2 w
  | .flg2 => .flg2 w
  | .fsinp => .fsinp w
  | .fcosp => .fcosp w
  | .ftnh => .ftnh w
  | .cvt => .cvt w
  | .cvtn => .cvtn w
  | .cvtw => .cvtw w
  | .cbdec => .cbdec w
  | .bfly => .bfly w
  | .cbfly => .cbfly w
  | .cmul => .cmul w
  | .twid => .twid w
  | .aget => .aget w
  | .aput => .aput w
  | .azero => .azero w
  | .ald => .ald w
  | .ast => .ast w
  | .ascl => .ascl w
  | .aconv => .aconv w
  | .omset => .omset w
  | .thset => .thset w
  | .mma => .mma w
  | .mmaz => .mmaz w
  | .kinit => .kinit w
  | .stclr => .stclr w
  | .stset => .stset w
  | .stadd => .stadd w
  | .stget => .stget w
  | .stpre => .stpre w
  | .sttot => .sttot w
  | .stfind => .stfind w
  | .stcut => .stcut w
  | .stcutm => .stcutm w
  | .stq => .stq w
  | .stld => .stld w
  | .stst => .stst w
  | .ldg => .ldg w
  | .stg => .stg w
  | .ldsp => .ldsp w
  | .stsp => .stsp w
  | .ldvf => .ldvf w
  | .stvf => .stvf w
  | .atomg => .atomg w
  | .atomsp => .atomsp w
  | .fence => .fence w
  | .drain => .drain w
  | .tcopy => .tcopy w
  | .mcast => .mcast w
  | .tbinit => .tbinit w
  | .tbexp => .tbexp w
  | .tbarr => .tbarr w
  | .tbwait => .tbwait w
  | .tbtest => .tbtest w
  | .lkl => .lkl w
  | .ulk => .ulk w
  | .pref => .pref w
  | .rput => .rput w
  | .rget => .rget w
  | .ratom => .ratom w
  | .rflag => .rflag w
  | .rwake => .rwake w
  | .waitw => .waitw w
  | .bar => .bar w
  | .yield => .yield w
  | .phase => .phase w
  | .xget => .xget w
  | .xput => .xput w
  | .hud => .hud w
  | .qpost => .qpost w
  | .launch => .launch w
  | .refrd => .refrd w
  | .refwr => .refwr w
  | .refres => .refres w
  | .refstop => .refstop w
  | .refkill => .refkill w
  | .ctxsave => .ctxsave w
  | .ctxrest => .ctxrest w
  | .svc => .svc w
  | .svcw => .svcw w
  | .evtpop => .evtpop w
  | .tlbinv => .tlbinv w
  | .qsub => .qsub w
  | .qblk => .qblk w
  | .qunb => .qunb w
  | .qcan => .qcan w
  | .qrow => .qrow w
  | .qdig => .qdig w
  | .qseq => .qseq w
  | .qwait => .qwait w

end Sys2Proof
end

