-- ==== Sys2Proof/Machine/Entries.lean ====
section
/-! DEFINITION. The entry of each W-form instruction (03_encoding.md:R69 to R78; the tables of the
instruction chapters) and the sub-cause of a word that breaks it (03_encoding.md:R89). -/

namespace Sys2Proof

/-- The type of an operand position, as far as the selectors of 03_encoding.md:R77 tell types apart. -/
inductive Ty where
  | int (w : Nat)
  | bit (w : Nat)
  | flt (w : Nat)
  | vf
  deriving DecidableEq, Repr

/-- What an operand position admits (04_isa_core.md:R101, 06_isa_float.md:R161, 07_isa_matrix.md:R180).
`n` is the number of registers of the operand, which is also its alignment (02_state.md:R30). -/
inductive Cls where
  /-- Unused: 1023. -/
  | no
  /-- A `v` or `s` register, pair or quad. -/
  | reg (n : Nat)
  /-- The same, or a selector legal for the type. -/
  | src (n : Nat) (t : Ty)
  /-- The same, or `%zero` (11_isa_memory.md:R241). -/
  | zsrc (n : Nat)
  /-- A `p` register as destination. -/
  | pd
  /-- A `p` register, `%true` or `%zero`. -/
  | ps
  /-- An `s` register, pair or quad only. -/
  | sreg (n : Nat)
  /-- An `s` register or pair, or a selector. -/
  | u (n : Nat) (t : Ty)
  /-- A `v` register only: a VF destination, or a complex operand. -/
  | v (n : Nat)
  /-- A VF source: a `v` register, `%zero`, `%one` or selector 736. -/
  | vfs
  /-- A VF source that admits no selector, a selector being a misuse (06_isa_float.md:R173). -/
  | vfn
  /-- The member mask of a collective (04_isa_core.md:R115). -/
  | mask
  /-- A named resource with `n` names (03_encoding.md:R75). -/
  | res (n : Nat)
  /-- The position may be 1023. -/
  | opt (c : Cls)
  deriving DecidableEq, Repr

/-- How an entry uses IMM32: for its selectors only, as a field whose value is legal or not (03_encoding.md:R78), or, for `stvf`, as
a stride and for selector 736 in B (11_isa_memory.md:R242, R243). -/
inductive ImmUse where
  | sels
  | field (ok : Bool)
  | stride
  deriving DecidableEq, Repr

/-- The entry of an instruction at one MOD and IMM32. `extra` is a breach of a rule of the entry itself
(0 for none), as a sub-cause. -/
structure Ent where
  d : Cls := .no
  a : Cls := .no
  b : Cls := .no
  c : Cls := .no
  e : Cls := .no
  ch : Bool := false
  nf : Bool := false
  sat : Bool := false
  csel : Bool := false
  imm : ImmUse := .sels
  extra : Nat := 0
  deriving DecidableEq, Repr

/-- The integer types of 04_isa_core.md:R102: the width of code 0 to 5. -/
def intWidth (code : Nat) : Nat :=
  if code < 2 then 32 else if code < 4 then 16 else 8

/-- The float types of 06_isa_float.md:R160: the width of code 0 to 3. -/
def fltWidth (code : Nat) : Nat :=
  if code = 1 ∨ code = 2 then 16 else 32

/-- The types of the conversion codes of 06_isa_float.md:R167; none for a reserved code. -/
def tyOfCode : Nat → Option Ty
  | 0x01 => some (.flt 32)
  | 0x02 => some (.flt 16)
  | 0x03 => some (.flt 16)
  | 0x04 => some (.flt 8)
  | 0x05 => some (.flt 8)
  | 0x06 => some (.flt 8)
  | 0x08 => some (.int 8)
  | 0x09 => some (.int 8)
  | 0x0A => some (.int 16)
  | 0x0B => some (.int 16)
  | 0x0C => some (.int 32)
  | 0x0D => some (.int 32)
  | 0x0E => some (.int 64)
  | 0x0F => some (.int 64)
  | 0x10 => some (.flt 64)
  | _ => none

/-- Whether a conversion code names a float type. -/
def isFltCode (c : Nat) : Bool :=
  match tyOfCode c with
  | some (.flt _) => true
  | _ => false

/-- The number of registers of a type code: two for a 64-bit type (06_isa_float.md:R161). -/
def regsOfCode (c : Nat) : Nat :=
  match tyOfCode c with
  | some (.int 64) => 2
  | some (.flt 64) => 2
  | _ => 1

/-- The integer source class of an integer type code. -/
def iSrc (code : Nat) : Cls := .src 1 (.int (intWidth code))
/-- The float source class of a float type code. -/
def fSrc (code : Nat) : Cls := .src 1 (.flt (fltWidth code))
/-- A 32-bit integer source. -/
def nSrc : Cls := .src 1 (.int 32)
/-- A 64-bit integer or address source. -/
def qSrc : Cls := .src 2 (.int 64)
/-- A bit-type source of `n` words. -/
def bSrc (n : Nat) : Cls := .src n (.bit (32 * n))
/-- A uniform 32-bit source (class u of 07_isa_matrix.md:R180). -/
def uu : Cls := .u 1 (.int 32)
/-- A uniform 64-bit source (class 2u of 07_isa_matrix.md:R180). -/
def u2 : Cls := .u 2 (.int 64)

/-- The words of a `.b32`, `.b64`, `.b128` type code. -/
def bWords (code : Nat) : Nat := if code = 0 then 1 else if code = 1 then 2 else 4

/-- The words of a load type (11_isa_memory.md:R241). -/
def ldWords (code : Nat) : Nat := if code = 1 then 2 else if code = 2 then 4 else 1

/-- The legality of the types and scale of `cvt` (06_isa_float.md:R168). -/
def cvtOk (imm : Nat) : Bool :=
  let d := imm % 256
  let s := imm / 256 % 256
  let sc := imm / 65536 % 16
  let narrow := fun c : Nat => decide (c = 4 ∨ c = 5 ∨ c = 6)
  let wide := fun c : Nat => decide (c = 1 ∨ c = 2 ∨ c = 3)
  (tyOfCode d).isSome && (tyOfCode s).isSome && d != s && d != 0x10 && s != 0x10 &&
    (isFltCode d || isFltCode s) && decide (sc ≤ 2) && decide (imm / 1048576 = 0) &&
    (sc == 0 || (narrow d && wide s) || (narrow s && wide d))

/-- The legality of the types and scale of `cvtn` and `cvtw` (06_isa_float.md:R169). -/
def cvtnOk (imm : Nat) : Bool :=
  let d := imm % 256
  let s := imm / 256 % 256
  let sc := imm / 65536 % 16
  let hi := imm / 1048576 % 2
  decide (2 ≤ d ∧ d ≤ 6) && s == 1 && decide (sc ≤ 2) && decide (imm / 2097152 = 0) &&
    (hi == 0 || d == 6) && (sc == 0 || decide (4 ≤ d))

/-- The legality of the type and operation of an atomic (11_isa_memory.md:R244). -/
def atomOk (op imm : Nat) : Bool :=
  (imm == 0x0C || imm == 0x0D || imm == 0x0E || imm == 0x0F || imm == 0x01) &&
    (imm != 0x01 || op == 0 || op == 1 || op == 2 || op == 6) &&
    (!(op == 3 || op == 4 || op == 5 || op == 7) || imm == 0x0D || imm == 0x0F)

/-- The item codes of `refrd` and `refwr` (20_isa_system.md:R359). -/
def itemOk (i : Nat) : Bool :=
  decide (i ≤ 0x010) || (decide (0x100 ≤ i ∧ i ≤ 0x119) && i != 0x10F) ||
    decide (0x200 ≤ i ∧ i ≤ 0x2BF) || decide (0x300 ≤ i ∧ i ≤ 0x302) ||
    decide (0x400 ≤ i ∧ i ≤ 0x57F) || decide (0x800 ≤ i ∧ i ≤ 0x97F) ||
    decide (0xC00 ≤ i ∧ i ≤ 0xC0B)

/-- The legality of the selector field of `perm` (04_isa_core.md:R109): no reserved selector. -/
def permOk (sel : Nat) : Bool :=
  decide (sel / 1048576 = 0) && sel / 8 % 4 != 3 && sel / 256 % 4 != 3 && sel / 8192 % 4 != 3 &&
    sel / 262144 % 4 != 3

/-- The entry of an atomic (11_isa_memory.md:R244, R257): `a` is its address class. -/
def atomEnt (m imm : Nat) (a : Cls) (ch : Bool) : Ent :=
  let op := m % 8
  let ty := (tyOfCode (imm % 256)).getD (.int 32)
  let n := regsOfCode (imm % 256)
  { d := .opt (.reg n), a := a, b := .src n ty, c := if op = 7 then .src n ty else .no
    ch := ch, nf := true, csel := true, sat := op == 0 && isFltCode (imm % 256) == false
    imm := .field (atomOk op imm) }

/-- The entry of an operation at a MOD and IMM32; none when the entry does not list the MOD value
(03_encoding.md:R69). DESIGN CHOICE (log 52): the value that `ast` takes in A is of a bit type, which the table does not say, so that
its selectors are those of bits. -/
def entry (op : Op) (m imm : Nat) : Option Ent :=
  let when (c : Bool) (e : Ent) : Option Ent := if c then some e else none
  let lo := m % 8
  let hi := m / 8
  let mode := decide (lo ≤ 5)
  match op with
  -- 04_isa_core.md:R103 to R107
  | .add | .sub | .mul =>
    when (m ≤ 5) { d := .reg 1, a := iSrc m, b := iSrc m, sat := true, nf := true }
  | .mulh => when (m ≤ 1) { d := .reg 1, a := nSrc, b := nSrc }
  | .mulw => when (m ≤ 1) { d := .reg 2, a := nSrc, b := nSrc }
  | .mad => when (m ≤ 5) { d := .reg 1, a := iSrc m, b := iSrc m, c := iSrc m, sat := true, nf := true }
  | .idiv => when (m ≤ 5) { d := .reg 1, a := iSrc m, b := iSrc m, sat := true, nf := true }
  | .irem => when (m ≤ 5) { d := .reg 1, a := iSrc m, b := iSrc m, nf := true }
  | .min | .max => when (m ≤ 5) { d := .reg 1, a := iSrc m, b := iSrc m }
  | .abs | .neg => when (m = 0 ∨ m = 2 ∨ m = 4) { d := .reg 1, a := iSrc m, sat := true, nf := true }
  | .addc | .subb => when (m = 0) { d := .reg 1, a := nSrc, b := nSrc, c := .ps, e := .opt .pd }
  | .cmp =>
    when (m / 4 ≤ 5)
      (if m % 4 < 2 then { d := .pd, a := nSrc, b := nSrc } else { d := .pd, a := qSrc, b := qSrc })
  | .lea => when (m ≤ 15) { d := .reg 2, a := qSrc, b := nSrc }
  | .add64 | .sub64 => when (m ≤ 1) { d := .reg 2, a := qSrc, b := qSrc, sat := true }
  | .shl64 => when (m = 0) { d := .reg 2, a := bSrc 2, b := bSrc 1 }
  -- 04_isa_core.md:R108 to R111
  | .and | .or | .xor | .andn | .orn =>
    when (m ≤ 2) { d := .reg (bWords m), a := bSrc (bWords m), b := bSrc (bWords m) }
  | .not => when (m ≤ 2) { d := .reg (bWords m), a := bSrc (bWords m) }
  | .shl | .shr | .rol | .ror => when (m = 0) { d := .reg 1, a := bSrc 1, b := bSrc 1 }
  | .sar => when (m = 0) { d := .reg 1, a := nSrc, b := nSrc }
  | .perm =>
    if m = 0 then some { d := .reg 1, a := bSrc 1, b := bSrc 1, imm := .field (permOk imm) }
    else when (m = 1) { d := .reg 1, a := bSrc 1, b := bSrc 1, c := .reg 1 }
  | .bfx =>
    if m ≤ 1 then some { d := .reg 1, a := nSrc, b := nSrc, c := nSrc }
    else when (m ≤ 3) { d := .reg 1, a := nSrc, imm := .field (imm / 65536 == 0) }
  | .bfi =>
    if m = 0 then some { d := .reg 1, a := bSrc 1, b := bSrc 1, c := bSrc 1, e := bSrc 1 }
    else when (m = 2) { d := .reg 1, a := bSrc 1, b := bSrc 1, imm := .field (imm / 65536 == 0) }
  | .bfr => when (m ≤ 1) { d := .reg (m + 1), a := bSrc (m + 1) }
  | .popc | .clz | .ctz => when (m ≤ 1) { d := .reg 1, a := bSrc (m + 1) }
  -- 04_isa_core.md:R112 to R114
  | .mov =>
    match m with
    | 0 => some { d := .reg 1, a := .reg 1 }
    | 1 => some { d := .reg 2, a := bSrc 2 }
    | 2 => some { d := .reg 4, a := .reg 4 }
    | 3 => some { d := .pd, a := .ps }
    | _ => none
  | .ldi => when (m ≤ 1) { d := .reg (m + 1), imm := .field true }
  | .ldih => when (m = 0) { d := .reg 2, imm := .field true }
  | .sel => when (m ≤ 1) { d := .reg (m + 1), a := bSrc (m + 1), b := bSrc (m + 1), c := .ps }
  | .pand | .por | .pxor => when (m = 0) { d := .pd, a := .ps, b := .ps }
  | .pnot => when (m = 0) { d := .pd, a := .ps }
  | .rds => when (m ≤ 1) { d := .reg 1, imm := .field (decide (imm < 26) && imm != 15) }
  | .wrs =>
    when (m ≤ 1) { a := if m = 0 then .reg 1 else .sreg 1, imm := .field (decide (imm < 26) && imm != 15) }
  -- 04_isa_core.md:R118 to R122
  | .vote =>
    match m with
    | 0 | 4 | 5 => some { d := .reg 1, a := .ps, e := .opt .mask }
    | 1 | 2 => some { d := .pd, a := .ps, e := .opt .mask }
    | 3 => some { d := .pd, a := .reg 1, e := .opt .mask }
    | _ => none
  | .shfl =>
    if m ≤ 3 then some { d := .reg 1, a := .reg 1, b := nSrc, e := .opt .mask }
    else when (m ≤ 7) { d := .reg 2, a := bSrc 2, b := nSrc, e := .opt .mask }
  | .red =>
    when ((hi ≤ 1 ∧ lo ≤ 5) ∨ (hi = 2 ∧ lo ≤ 2))
      { d := .reg 1, a := .reg 1, e := .opt .mask, nf := hi == 2 }
  | .scan =>
    when (hi ≤ 1 ∨ (hi = 2 ∧ m % 4 ≤ 2)) { d := .reg 1, a := .reg 1, e := .opt .mask, nf := hi == 2 }
  | .waitlt => when (m = 0) { a := .res 12, imm := .field (decide (1 ≤ imm ∧ imm ≤ 63)) }
  -- 04_isa_core.md:R123 to R128
  | .bra => when (m = 0) { imm := .field true }
  | .brx | .ret => when (m = 0) { a := qSrc }
  | .call =>
    if m = 0 then some { d := .reg 2, imm := .field true }
    else when (m = 1) { d := .reg 2, a := qSrc, extra := if imm = 0 then 0 else 5 }
  | .exit | .nop => when (m = 0) {}
  | .trap => when (m = 0) { imm := .field (imm / 65536 == 0) }
  | .tret => when (m ≤ 2) {}
  | .trec => when (m = 0) { d := .sreg 1, imm := .field (imm / 16 == 0) }
  -- 06_isa_float.md:R162 to R166
  | .fadd | .fsub | .fmul | .fdiv =>
    when mode { d := .reg 1, a := fSrc hi, b := fSrc hi, sat := true, nf := true }
  | .fma => when mode { d := .reg 1, a := fSrc hi, b := fSrc hi, c := fSrc hi, sat := true, nf := true }
  | .fmin | .fmax => when (lo = 0) { d := .reg 1, a := fSrc hi, b := fSrc hi, nf := true }
  | .fneg | .fabs => when (lo = 0 ∧ hi ≤ 2) { d := .reg 1, a := fSrc hi }
  | .fscl => when mode { d := .reg 1, a := fSrc hi, b := nSrc, sat := true, nf := true }
  | .fsqrt => when mode { d := .reg 1, a := fSrc hi, sat := true, nf := true }
  | .fcmp => some { d := .pd, a := fSrc hi, b := fSrc hi, nf := true }
  | .fcls => when (lo = 0 ∧ hi ≤ 2) { d := .pd, a := .reg 1, imm := .field (imm / 1024 == 0) }
  | .frnd => when mode { d := .reg 1, a := fSrc hi, nf := true }
  | .frcp | .frsq | .fex2 | .flg2 | .fsinp | .fcosp | .ftnh =>
    when (lo = 0) { d := .reg 1, a := fSrc hi, sat := true, nf := true }
  -- 06_isa_float.md:R171 to R175
  | .vfadd | .vfsub | .vfmul | .vfdiv | .vfmin | .vfmax =>
    when (mode && hi == 0) { d := .v 1, a := .vfs, b := .vfs, sat := true, nf := true }
  | .vfma => when (mode && hi == 0) { d := .v 1, a := .vfs, b := .vfs, c := .vfs, sat := true, nf := true }
  | .vfsqrt => when (mode && hi == 0) { d := .v 1, a := .vfs, sat := true, nf := true }
  | .vfcmp => when (hi = 0) { d := .pd, a := .vfs, b := .vfs, nf := true }
  | .vfneg | .vfabs | .vfmov => when (m = 0) { d := .v 1, a := .vfn }
  | .vfcvt =>
    let ok := imm / 256 == 0 &&
      (imm == 1 || imm == 2 || imm == 3 || decide (0x0C ≤ imm ∧ imm ≤ 0x10))
    let n := regsOfCode (imm % 256)
    when (mode && decide (hi ≤ 1))
      (if hi = 0 then
        { d := .v 1, a := if n = 2 then .src 2 ((tyOfCode (imm % 256)).getD (.int 64)) else .reg 1
          sat := true, nf := true, imm := .field ok }
       else { d := .reg n, a := .vfs, sat := true, nf := true, imm := .field ok })
  | .vfext =>
    if m = 0 then some { d := .reg 1, a := .vfs }
    else when (hi = 1 ∧ lo ≤ 5) { d := .v 1, a := .vfs, b := nSrc, sat := true, nf := true }
  | .vfrnd => when (mode && hi == 0) { d := .v 1, a := .vfs, nf := true }
  -- 06_isa_float.md:R168 to R170, R177 to R179
  | .cvt =>
    let s := imm / 256 % 256
    when (mode && hi == 0)
      { d := .reg (regsOfCode (imm % 256))
        a := if regsOfCode s = 2 then .src 2 ((tyOfCode s).getD (.int 64)) else .reg 1
        b := if imm / 65536 % 16 = 0 then .no else .reg 1
        sat := true, nf := true, imm := .field (cvtOk imm) }
  | .cvtn =>
    when (mode && hi == 0)
      { d := .reg 1, a := .reg (if imm % 256 ≤ 3 then 2 else 4)
        b := if imm / 65536 % 16 = 0 then .no else .reg 1
        sat := true, nf := true, imm := .field (cvtnOk imm) }
  | .cvtw =>
    when (mode && hi == 0)
      { d := .reg (if imm % 256 ≤ 3 then 2 else 4), a := .reg 1
        b := if imm / 65536 % 16 = 0 then .no else .reg 1
        sat := true, nf := true, imm := .field (cvtnOk imm) }
  | .cbdec => when (m ≤ 1) { d := .reg 4, a := .reg 1, b := .reg 1, c := .res 8, sat := true, nf := true }
  | .bfly =>
    when (mode && decide (hi ≤ 1))
      (if hi = 0 then
        { d := .reg 1, e := .reg 1, a := .src 1 (.flt 32), b := .src 1 (.flt 32), sat := true, nf := true }
       else { d := .v 1, e := .v 1, a := .vfs, b := .vfs, sat := true, nf := true })
  | .cbfly =>
    let c : Cls := if hi = 0 then .v 2 else .v 1
    when (mode && decide (hi ≤ 1)) { d := c, e := c, a := c, b := c, c := c, sat := true, nf := true }
  | .cmul =>
    let c : Cls := if hi = 0 then .v 2 else .v 1
    when (mode && decide (hi ≤ 1)) { d := c, a := c, b := c, sat := true, nf := true }
  | .twid =>
    let c : Cls := if hi = 0 then .v 2 else .v 1
    when (mode && decide (hi ≤ 1)) { d := c, a := .reg 1, b := nSrc, nf := true }
  -- 07_isa_matrix.md:R188, R193, R198
  | .aget | .aput | .azero => when (m = 0) { d := .res 64 }
  | .ald =>
    when (m ≤ 2) { d := .reg (bWords m), a := .res 64, b := nSrc, c := nSrc }
  | .ast =>
    when (m ≤ 2)
      { d := .res 64
        a := if m = 0 then bSrc 1 else if m = 1 then bSrc 2 else .reg 4
        b := nSrc, c := nSrc }
  | .ascl =>
    when (mode && decide (hi ≤ 1)) { d := .res 64, a := .src 1 (.flt 32), b := nSrc, sat := true }
  | .aconv =>
    let g := hi % 2 == 1
    when mode
      { a := .res 64, b := if g then u2 else uu, c := uu, e := if hi / 2 = 1 then .no else .res 8
        sat := true, csel := true, ch := g }
  | .omset => when (m = 0) { d := .res 16, a := .sreg 4 }
  | .thset => when (m = 0) { d := .res 32, a := .sreg 4 }
  | .mma | .mmaz =>
    when (m ≤ 1)
      { d := .res 64, a := if m = 0 then .res 16 else .res 32, b := .res 16, c := .res 16
        sat := true, csel := true, imm := .field (imm / 65536 == 0) }
  | .kinit => when (m = 0) { d := .res 16, b := uu }
  -- 07_isa_matrix.md:R204
  | .stclr => when (m = 0) { a := .res 8 }
  | .stset => when (m = 0) { a := .res 8, b := nSrc, c := nSrc, nf := true }
  | .stadd => when (m ≤ 1) { d := .opt (.reg 1), a := .res 8, b := nSrc, c := nSrc, nf := true }
  | .stget => when (m = 0) { d := .reg 1, a := .res 8, b := nSrc }
  | .stpre => when (m = 0) { d := .reg 2, a := .res 8, b := nSrc }
  | .sttot => when (m = 0) { d := .reg 2, a := .res 8 }
  | .stfind | .stcutm => when (m = 0) { d := .reg 1, a := .res 8, b := qSrc, e := .opt .pd }
  | .stcut => when (m = 0) { a := .res 8, b := nSrc }
  | .stq =>
    when (m ≤ 2)
      { a := .res 8, b := nSrc, c := .src 1 (.flt (if m = 0 then 32 else 16)), e := nSrc, nf := true }
  | .stld | .stst =>
    when (m ≤ 1) { a := .res 8, b := if m = 0 then uu else u2, csel := true, ch := m == 1 }
  -- 11_isa_memory.md:R241 to R245
  | .ldg => when (m ≤ 6) { d := .reg (ldWords m), a := qSrc, ch := true, imm := .field true }
  | .stg => when (m ≤ 4) { a := qSrc, b := .zsrc (ldWords m), ch := true, csel := true, imm := .field true }
  | .ldsp => when (m ≤ 6) { d := .reg (ldWords m), a := nSrc, imm := .field true }
  | .stsp => when (m ≤ 4) { a := nSrc, b := .zsrc (ldWords m), csel := true, imm := .field true }
  | .ldvf =>
    when (m ≤ 1)
      { d := .v 1, a := if m = 0 then nSrc else qSrc, b := .opt (.reg 1)
        sat := true, nf := true, ch := m == 1, imm := .field (imm / 16777216 == 0) }
  | .stvf =>
    when (m ≤ 1)
      { a := if m = 0 then nSrc else qSrc, b := .vfs, c := .opt (.reg 1)
        nf := true, csel := true, ch := m == 1, imm := .stride }
  | .atomg => when (m ≤ 7) (atomEnt m imm qSrc true)
  | .atomsp => when (m ≤ 7) (atomEnt m imm nSrc false)
  | .fence => when (m ≤ 3) {}
  | .drain => when (m ≤ 2) {}
  -- 11_isa_memory.md:R246 to R256
  | .tcopy =>
    let dir := m % 4
    when (m ≤ 7 ∨ m = 8 ∨ m = 10)
      { d := if dir = 0 ∨ dir = 3 then uu else u2
        a := if dir = 1 ∨ dir = 3 then uu else u2
        b := if 4 ≤ m ∧ m ≤ 7 then .sreg 4 else uu
        c := if m ≥ 8 then uu else .opt uu
        e := if m ≥ 8 then .sreg 4 else .no
        ch := true, csel := true }
  | .mcast =>
    when (m ≤ 1) { a := .sreg 4, b := if m = 0 then uu else u2, c := .opt uu, csel := true, ch := m == 1 }
  | .tbinit | .tbexp => when (m = 0) { a := uu, b := uu }
  | .tbarr => when (m = 0) { a := uu }
  | .tbwait => when (m = 0) { d := .opt (.reg 1), a := uu, b := uu }
  | .tbtest => when (m = 0) { d := .pd, a := uu, b := uu, e := .opt (.reg 1) }
  | .lkl => when (m = 0) { d := .pd, a := qSrc }
  | .ulk => when (m = 0) { a := qSrc }
  | .pref => when (m ≤ 1) { a := qSrc, ch := true }
  -- 11_isa_memory.md:R257 to R259
  | .rput => when (m ≤ 3) { d := u2, a := if m / 2 = 0 then uu else u2, b := uu, c := .opt uu, ch := true, csel := true }
  | .rget => when (m ≤ 3) { d := if m / 2 = 0 then uu else u2, a := u2, b := uu, c := .opt uu, ch := true, csel := true }
  | .ratom => when (m % 16 ≤ 7) (atomEnt m imm qSrc false)
  | .rflag => when (m = 0) { a := u2, b := u2, csel := true }
  | .rwake => when (m = 0) { a := u2, b := uu, csel := true }
  | .waitw => when (m ≤ 3) { d := .opt .pd, a := u2, b := u2, c := .opt u2 }
  -- 14_isa_sync.md:R281
  | .bar =>
    if m ≤ 1 then some { d := .opt .pd, a := .res 16, b := uu }
    else when (m = 2) { a := .res 16, b := uu, c := .opt .ps }
  | .yield | .xput => when (m = 0) {}
  | .phase => when (m = 0) { d := .opt (.reg 1), a := uu }
  | .xget => when (m ≤ 1) { d := if m = 1 then .pd else .no, a := uu }
  | .hud => when (m = 0) { a := .reg 1, b := qSrc, imm := .field true }
  | .qpost => when (m = 0) { d := .opt (.reg 1), a := uu, b := uu, csel := true }
  | .launch =>
    when (m = 0) { d := .opt (.reg 1), a := u2, b := .opt u2, c := .opt u2, csel := true, imm := .field (imm / 256 == 0) }
  -- 20_isa_system.md:R354
  | .refrd => when (m = 0) { d := .reg 1, a := uu, b := uu, imm := .field (itemOk imm) }
  | .refwr => when (m ≤ 1) { a := uu, b := uu, c := if m = 0 then uu else .no, imm := .field (itemOk imm) }
  | .refres => when (m ≤ 2) { a := uu }
  | .refstop => when (m = 0) { d := .opt .pd, a := uu }
  | .refkill => when (m = 0) { a := uu, imm := .field (imm / 256 == 0) }
  | .ctxsave => when (m = 0) { a := uu, csel := true }
  | .ctxrest => when (m = 0) { a := uu, b := uu, csel := true }
  | .svc => when (m = 0) { a := .sreg 4, imm := .field (imm / 65536 == 0) }
  | .svcw => when (m = 0) { d := .sreg 4 }
  | .evtpop => when (m = 0) { d := .pd, a := uu }
  | .tlbinv => when (m ≤ 1) { a := u2, b := uu, c := if m = 1 then uu else .no, csel := true }
  | .qsub =>
    when (m ≤ 1) { d := .opt (.reg 1), a := u2, b := .opt u2, c := .opt u2, e := .opt (.reg 1), csel := true }
  | .qblk | .qunb | .qcan => when (m = 0) { d := .opt (.reg 1), a := uu }
  | .qrow => when (m = 0) { d := .reg 2, a := uu }
  | .qdig => when (m ≤ 1) { d := .reg 4, e := .opt (.reg 1) }
  | .qseq => when (m = 0) { d := .reg 2 }
  | .qwait =>
    when (m ≤ 1) { d := .opt (.reg 2), a := if m = 0 then u2 else uu, c := .opt u2, e := .opt .pd }

/-- Whether a selector is legal in a source of a type (03_encoding.md:R77, R78). DESIGN CHOICE (log 52): `%lane` is legal
in a uniform position too (07_isa_matrix.md:R180), where the value of the lowest active lane is read. -/
def selOk (t : Ty) (c : Sel) (imm : Nat) : Bool :=
  match c, t with
  | .zero, _ => true
  | .one, .int _ => true
  | .one, .flt _ => true
  | .one, .vf => true
  | .ones, .int _ => true
  | .ones, .bit _ => true
  | .lane, .int _ => true
  | .lane, .bit _ => true
  | .imm, .vf => true
  | .imm, .int w => decide (w ≤ 32) && imm / 2 ^ w == 0
  | .imm, .bit w => decide (w ≤ 32) && imm / 2 ^ w == 0
  | .imm, .flt w => decide (w ≤ 32) && imm / 2 ^ w == 0
  | .immz, .int 64 | .imms, .int 64 | .immh, .int 64 => true
  | .immz, .bit 64 | .imms, .bit 64 | .immh, .bit 64 => true
  | .immz, .flt 64 | .imms, .flt 64 | .immh, .flt 64 => true
  | _, _ => false

/-- A register of a class with alignment `n`: 0, or 10 for a broken pair or quad (02_state.md:R30). -/
def alignSub (i n : Nat) : Nat := if i % n = 0 then 0 else 10

/-- The sub-cause of an operand in a position of a class: 0 when the position admits it
(03_encoding.md:R74 to R78, R89). -/
def Cls.judge (imm : Nat) : Cls → Opnd → Nat
  | .opt _, .none => 0
  | .opt c, o => Cls.judge imm c o
  | .no, .none => 0
  | .no, _ => 4
  | .reg n, .v i => alignSub i n
  | .reg n, .s i => alignSub i n
  | .src n _, .v i => alignSub i n
  | .src n _, .s i => alignSub i n
  | .src _ t, .sel c => if selOk t c imm then 0 else 5
  | .zsrc n, .v i => alignSub i n
  | .zsrc n, .s i => alignSub i n
  | .zsrc _, .sel c => if c = .zero then 0 else 5
  | .pd, .p _ => 0
  | .ps, .p _ => 0
  | .ps, .sel c => if c = .true_ ∨ c = .zero then 0 else 5
  | .sreg n, .s i => alignSub i n
  | .u n _, .s i => alignSub i n
  | .u _ t, .sel c => if selOk t c imm then 0 else 5
  | .v n, .v i => alignSub i n
  | .vfs, .v _ => 0
  | .vfs, .sel c => if selOk .vf c imm then 0 else 5
  | .vfn, .v _ => 0
  | .vfn, .sel _ => 5
  | .mask, .s _ => 0
  | .mask, .sel c => if c = .ones ∨ c = .imm then 0 else 5
  | .res n, .res i => if i.val < n then 0 else 4
  | _, _ => 4

/-- Whether an operand reads IMM32 through a selector 736 to 739. -/
def Opnd.readsImm : Opnd → Bool
  | .sel .imm | .sel .immz | .sel .imms | .sel .immh => true
  | _ => false

/-- Whether some operand of a word reads IMM32 through a selector. -/
def W.readsImm (w : W) : Bool :=
  w.d.readsImm || w.a.readsImm || w.b.readsImm || w.c.readsImm || w.e.readsImm

/-- The sub-cause of a word's use of IMM32 (03_encoding.md:R78). DESIGN CHOICE (log 52): `stvf` takes selector 736 in B, as
11_isa_memory.md:R243 says, though its IMM32 is a field; without an index the word is the selector's value alone. -/
def ImmUse.judge (w : W) : ImmUse → Nat
  | .sels => if w.readsImm || w.imm == 0 then 0 else 5
  | .field ok => if ok && !w.readsImm then 0 else 5
  | .stride =>
    if w.a.readsImm || w.c.readsImm then 5
    else if (w.b = .sel .imm ∧ w.c = .none) ∨ w.imm.toNat < 2 ^ 24 then 0 else 5

/-- The least nonzero entry of a list of sub-causes, 0 for none (03_encoding.md:R89). -/
def leastSub : List Nat → Nat
  | [] => 0
  | x :: xs =>
    let r := leastSub xs
    if x = 0 then r else if r = 0 then x else Nat.min x r

/-- Rules that tie two fields of one word together: a stride without an index (11_isa_memory.md:R242),
and two destinations of `.f32` that share a register (06_isa_float.md:R177). -/
def W.ties (op : Op) (w : W) : Nat :=
  match op with
  | .ldvf => if w.b = .none ∧ w.imm ≠ 0 then 5 else 0
  | .stvf => if w.c = .none ∧ w.b ≠ .sel .imm ∧ w.imm ≠ 0 then 5 else 0
  | .bfly | .cbfly => if w.mod.toNat / 8 = 0 ∧ w.d = w.e then 10 else 0
  | _ => 0

/-- The sub-cause of a W-form word whose opcode is assigned and whose reserved bits, operand codes and
guard are legal; 0 when the word is a legal encoding (03_encoding.md:R89). -/
def W.subCause (op : Op) (w : W) : Nat :=
  match entry op w.mod.toNat w.imm.toNat with
  | none => 6
  | some t =>
    leastSub
      [t.d.judge w.imm.toNat w.d, t.a.judge w.imm.toNat w.a, t.b.judge w.imm.toNat w.b,
       t.c.judge w.imm.toNat w.c, t.e.judge w.imm.toNat w.e, t.imm.judge w, t.extra, w.ties op,
       if w.sat && !t.sat then 7 else 0, if w.nf && !t.nf then 7 else 0,
       if w.csel && !t.csel then 7 else 0, if w.ch != .dflt && !t.ch then 7 else 0]

/-- The half opcodes of codes 0x00 to 0x1B in order (03_encoding.md:R81). -/
def Hop.intHalves : List Hop :=
  [.nop, .mov, .add, .sub, .mul, .min, .max, .minn, .maxn, .and, .or, .xor, .andn, .orn, .shl,
   .shr, .sar, .rol, .ror, .not, .neg, .abs, .popc, .clz, .ctz, .bfr, .mulh, .mulhn]

/-- The half opcodes of codes 0x20 to 0x27 in order (03_encoding.md:R81). -/
def Hop.fltHalves : List Hop := [.fadd, .fsub, .fmul, .fmin, .fmax, .fneg, .fabs, .fscl]

/-- The half opcodes of codes 0x30 to 0x33 in order (03_encoding.md:R81). -/
def Hop.predHalves : List Hop := [.pand, .por, .pxor, .pnot]

/-- The half opcode of a HOP value; none for an unassigned one (03_encoding.md:R80, R81). -/
def Hop.ofCode (n : Nat) : Option Hop :=
  if n < 0x20 then Hop.intHalves[n]?
  else if n < 0x30 then Hop.fltHalves[n - 0x20]?
  else Hop.predHalves[n - 0x30]?

/-- The HOP value of a half opcode (03_encoding.md:R81). -/
def Hop.code : Hop → Nat
  | .nop => 0x00 | .mov => 0x01 | .add => 0x02 | .sub => 0x03 | .mul => 0x04 | .min => 0x05
  | .max => 0x06 | .minn => 0x07 | .maxn => 0x08 | .and => 0x09 | .or => 0x0A | .xor => 0x0B
  | .andn => 0x0C | .orn => 0x0D | .shl => 0x0E | .shr => 0x0F | .sar => 0x10 | .rol => 0x11
  | .ror => 0x12 | .not => 0x13 | .neg => 0x14 | .abs => 0x15 | .popc => 0x16 | .clz => 0x17
  | .ctz => 0x18 | .bfr => 0x19 | .mulh => 0x1A | .mulhn => 0x1B | .fadd => 0x20 | .fsub => 0x21
  | .fmul => 0x22 | .fmin => 0x23 | .fmax => 0x24 | .fneg => 0x25 | .fabs => 0x26 | .fscl => 0x27
  | .pand => 0x30 | .por => 0x31 | .pxor => 0x32 | .pnot => 0x33

/-- The halves that work on `p` registers (03_encoding.md:R81). -/
def Hop.isPred : Hop → Bool
  | .pand | .por | .pxor | .pnot => true
  | _ => false

/-- The halves of one source (03_encoding.md:R81). -/
def Hop.isUnary : Hop → Bool
  | .mov | .not | .neg | .abs | .popc | .clz | .ctz | .bfr | .fneg | .fabs | .pnot => true
  | _ => false

/-- How IMM16 is widened in a half (the Immediate column of 03_encoding.md:R81); none where a half with
an immediate is illegal. -/
def Hop.widen (h : Hop) (v : BitVec 16) : Option Word :=
  match h with
  | .nop | .pand | .por | .pxor | .pnot => none
  | .add | .sub | .mul | .min | .max | .neg | .abs | .mulh | .fscl => some (v.signExtend 32)
  | .fadd | .fsub | .fmul | .fmin | .fmax | .fneg | .fabs => some (v.zeroExtend 32 <<< 16)
  | _ => some (v.zeroExtend 32)

/-- The sub-cause of a register operand of a half: its class, then its bank
(03_encoding.md:R80; `upper` is half Y). -/
def halfOpndSub (pred upper : Bool) : Opnd → Nat
  | .v i => if pred then 4 else if (i.val % 4 ≥ 2) = upper then 0 else 9
  | .s _ => if pred then 4 else 0
  | .p _ => if pred then 0 else 4
  | _ => 4

/-- The sub-cause of one half (03_encoding.md:R80, R81). -/
def Half.subCause (upper : Bool) (h : Half) : Nat :=
  match h.hop with
  | .nop => leastSub [if h.d = .none then 0 else 4,
      match h.a with | .none => 0 | .reg _ => 4 | .imm _ => 9]
  | hop => leastSub [halfOpndSub hop.isPred upper h.d,
      match h.a with
      | .none => 4
      | .reg o => halfOpndSub hop.isPred upper o
      | .imm v => if (hop.widen v).isSome then 0 else 9]

/-- The sub-cause of a P-form word of two halves (03_encoding.md:R80). -/
def pSubCause (x y : Half) : Nat :=
  leastSub [x.subCause false, y.subCause true, if x.d ≠ .none ∧ x.d = y.d then 9 else 0]

/-- The sub-cause of an instruction's encoding; 0 for a legal one and for an event, 2 for a word with an
unassigned opcode (03_encoding.md:R88, R89). -/
def Instr.subCause (i : Instr) : Nat :=
  match i.form with
  | .w op w => w.subCause op
  | .p x y => pSubCause x y
  | .bad _ => 2
  | .event => 0

end Sys2Proof
end

