-- ==== Sys2Proof/WellFormed.lean ====
section
/-! DEFINITION. Well-formed instructions: those whose word is a legal encoding (03_encoding.md:R89).
Checks that depend on where a word stands (its position in the clause, its slot, its branch target) are
the machine's. -/

namespace Sys2Proof

/-- A W-form word is unassigned when its bit 0 is 0 and no operation has its OPC (03_encoding.md:R87). -/
def unassignedWord (q : QWord) : Bool :=
  q.toNat % 2 == 0 && (Op.ofOpc (q.toNat / 2 % 1024)).isNone

/-- An instruction is well-formed when its encoding breaks no rule. An event is well-formed. A word with
an unassigned opcode stands for itself: it is well-formed as the word that raises its trap. -/
def Instr.wf (i : Instr) : Bool :=
  match i.form with
  | .bad q => unassignedWord q
  | _ => i.subCause == 0

end Sys2Proof
end

