-- ==== Sys2Proof/Decode.lean ====
section
/-! DEFINITION. The decoder of 128-bit words and its encoder, written from the word layouts of
03_encoding.md:R68 and R79. The decoder is total: a word that is no instruction is refused by the name of
its sub-cause (03_encoding.md:R89). -/

namespace Sys2Proof

/-- Bits [lo + len - 1 : lo] of a number. -/
def fld (n lo len : Nat) : Nat := n / 2 ^ lo % 2 ^ len

/-- The sub-causes of an illegal encoding that the decoder judges (03_encoding.md:R89). -/
inductive Illegal where
  | unassigned | reserved | operand | selector | modifier | unhonoured | guard | half | range
  deriving DecidableEq, Repr

/-- The number of a sub-cause (03_encoding.md:R89). -/
def Illegal.code : Illegal → Nat
  | .unassigned => 2 | .reserved => 3 | .operand => 4 | .selector => 5 | .modifier => 6
  | .unhonoured => 7 | .guard => 8 | .half => 9 | .range => 10

/-- The sub-cause of a number. -/
def Illegal.ofCode : Nat → Illegal
  | 2 => .unassigned | 3 => .reserved | 4 => .operand | 5 => .selector | 6 => .modifier
  | 7 => .unhonoured | 8 => .guard | 9 => .half | _ => .range

/-- The selector of a code 736 to 744 (03_encoding.md:R77). -/
def Sel.ofCode : Nat → Option Sel
  | 736 => some .imm | 737 => some .immz | 738 => some .imms | 739 => some .immh
  | 740 => some .zero | 741 => some .one | 742 => some .ones | 743 => some .true_ | 744 => some .lane
  | _ => none

/-- The code of a selector (03_encoding.md:R77). -/
def Sel.code : Sel → Nat
  | .imm => 736 | .immz => 737 | .imms => 738 | .immh => 739 | .zero => 740 | .one => 741
  | .ones => 742 | .true_ => 743 | .lane => 744

/-- What an operand code names (03_encoding.md:R74); none for a reserved selector and for 768 to 1022. -/
def Opnd.ofCode (c : Nat) : Option Opnd :=
  if h : c < 384 then some (.v ⟨c, h⟩)
  else if h : c - 384 < 192 then some (.s ⟨c - 384, h⟩)
  else if h : c - 576 < 96 then some (.p ⟨c - 576, h⟩)
  else if h : c - 672 < 64 then some (.res ⟨c - 672, h⟩)
  else if c = 1023 then some .none
  else (Sel.ofCode c).map .sel

/-- The code of an operand (03_encoding.md:R74). -/
def Opnd.code : Opnd → Nat
  | .none => 1023
  | .v n => n
  | .s n => 384 + n
  | .p n => 576 + n
  | .res i => 672 + i
  | .sel c => c.code

/-- A guard field that names a predicate (03_encoding.md:R72). -/
def gpOf (f : Nat) : Option GP :=
  if h : f % 128 < 96 then some ⟨f / 128 % 2 == 1, ⟨f % 128, h⟩⟩ else none

/-- The field of a guard predicate. -/
def GP.code (g : GP) : Nat := (if g.neg then 128 else 0) + g.p

/-- The guard of the fields G0, G1 and GOP; none for a malformed one (03_encoding.md:R72). -/
def Guard.ofFields (g0 g1 gop : Nat) : Option Guard :=
  if g0 = 127 then (if g1 = 127 ∧ gop = 0 then some .always else none)
  else match gpOf g0 with
    | none => none
    | some x =>
      if g1 = 127 then (if gop = 0 then some (.one x) else none)
      else match gpOf g1 with
        | none => none
        | some y => some (if gop = 0 then .both x y else .either x y)

/-- The fields G0, G1 and GOP of a guard. -/
def Guard.fields : Guard → Nat × Nat × Nat
  | .always => (127, 127, 0)
  | .one x => (x.code, 127, 0)
  | .both x y => (x.code, y.code, 0)
  | .either x y => (x.code, y.code, 1)

/-- The cache hint of a CH field (03_encoding.md:R68). -/
def Hint.ofCode : Nat → Hint
  | 0 => .dflt | 1 => .stream | 2 => .keep | _ => .noalloc

/-- The CH field of a cache hint. -/
def Hint.code : Hint → Nat
  | .dflt => 0 | .stream => 1 | .keep => 2 | .noalloc => 3

/-- The fields of a W-form word, its operands and guard already read (03_encoding.md:R68). -/
def wOf (n : Nat) (d a b c e : Opnd) (g : Guard) : W :=
  { mod := BitVec.ofNat 5 (fld n 11 5), d := d, a := a, b := b, c := c, e := e, g := g
    ch := Hint.ofCode (fld n 83 2), nf := fld n 85 1 == 1, sat := fld n 86 1 == 1
    csel := fld n 87 1 == 1, imm := BitVec.ofNat 32 (fld n 88 32) }

/-- Whether an operand code is one of 768 to 1022, illegal in every position (03_encoding.md:R74, R89). -/
def codeDead (c : Nat) : Bool := decide (768 ≤ c ∧ c ≤ 1022)

/-- Decode a W-form word (03_encoding.md:R68, R89): an unassigned opcode is the instruction that raises
its trap; every other breach is refused by its lowest sub-cause. DESIGN CHOICE (log 52): a reserved selector code, 745 to
767, is an illegal operand code (sub-cause 4), not a misused selector (5), where the entry lists the MOD value. -/
def decodeW (q : QWord) : Except Illegal Instr :=
  let n := q.toNat
  match Op.ofOpc (fld n 1 10) with
  | none => .ok (.unassignedOpcode q)
  | some op =>
    let r := if fld n 120 8 = 0 then 0 else 3
    let cd := fld n 16 10
    let ca := fld n 26 10
    let cb := fld n 36 10
    let cc := fld n 46 10
    let ce := fld n 56 10
    let g := Guard.ofFields (fld n 66 8) (fld n 74 8) (fld n 82 1)
    let gs := if g.isSome then 0 else 8
    match Opnd.ofCode cd, Opnd.ofCode ca, Opnd.ofCode cb, Opnd.ofCode cc, Opnd.ofCode ce with
    | some d, some a, some b, some c, some e =>
      let w := wOf n d a b c e (g.getD .always)
      let s := leastSub [r, w.subCause op, gs]
      if s = 0 then .ok (Instr.ofOp op w) else .error (Illegal.ofCode s)
    | _, _, _, _, _ =>
      let dead := codeDead cd || codeDead ca || codeDead cb || codeDead cc || codeDead ce
      let listed := (entry op (fld n 11 5) (fld n 88 32)).isSome
      .error (Illegal.ofCode (leastSub [r, if dead || listed then 4 else 6]))

/-- The second source of a half from its UI, IMM16 and A fields; none when they do not agree, with the
sub-cause of the breach (03_encoding.md:R79, R80). -/
def hsrcOf (ui imm ca : Nat) : Except Nat HSrc :=
  if ui = 1 then
    (if ca = 1023 then .ok (.imm (BitVec.ofNat 16 imm)) else .error 9)
  else if imm ≠ 0 then .error 9
  else if ca = 1023 then .ok .none
  else match Opnd.ofCode ca with
    | some o => .ok (.reg o)
    | none => .error 4

/-- The guard of a half from its GP and GN fields (03_encoding.md:R79, R80). -/
def hguardOf (gp gn : Nat) : Except Nat (Option GP) :=
  if gp = 127 then (if gn = 0 then .ok none else .error 8)
  else match gpOf (gp + 128 * gn) with
    | some g => .ok (some g)
    | none => .error 8

/-- The sub-cause carried by an `Except`, 0 for a value. -/
def errSub {α : Type} : Except Nat α → Nat
  | .ok _ => 0
  | .error s => s

/-- The sub-cause of a half whose fields cannot all be read, each field judged by itself (03_encoding.md:R79 to R81, R89). -/
def halfFields (hop : Hop) (upper : Bool) (cd ca ui imm : Nat) : Nat :=
  let code := fun (used : Bool) (c : Nat) =>
    match Opnd.ofCode c with
    | none => 4
    | some .none => if used then 4 else 0
    | some o => if hop = .nop then 4 else halfOpndSub hop.isPred upper o
  leastSub [code (hop != .nop) cd, code (hop != .nop && ui != 1) ca,
    if (ui = 1 ∧ (ca ≠ 1023 ∨ hop.widen 0 = none)) ∨ (ui ≠ 1 ∧ imm ≠ 0) then 9 else 0]

/-- One half as the fields give it: the half where its fields can be read, otherwise their sub-cause; and the sub-causes
of its reserved bits and its guard. -/
def halfOf (n : Nat) (upper : Bool) (hop : Hop) : Except Nat Half × Nat :=
  let cd := fld n 7 10
  let ca := fld n 17 10
  let g := hguardOf (fld n 27 7) (fld n 34 1)
  let rest := leastSub [if fld n 52 11 = 0 then 0 else 3, errSub g]
  match Opnd.ofCode cd, hsrcOf (fld n 51 1) (fld n 35 16) ca with
  | some d, .ok a => (.ok { hop := hop, d := d, a := a, g := match g with | .ok x => x | .error _ => none }, rest)
  | _, _ => (.error (halfFields hop upper cd ca (fld n 51 1) (fld n 35 16)), rest)

/-- Decode a P-form word (03_encoding.md:R79, R80). -/
def decodeP (q : QWord) : Except Illegal Instr :=
  let n := q.toNat
  let nx := fld n 1 63
  let ny := fld n 64 63
  match Hop.ofCode (fld nx 0 7), Hop.ofCode (fld ny 0 7) with
  | some hx, some hy =>
    let rx := halfOf nx false hx
    let ry := halfOf ny true hy
    let top := if fld n 127 1 = 0 then 0 else 3
    match rx.1, ry.1 with
    | .ok x, .ok y =>
      let s := leastSub [top, rx.2, ry.2, pSubCause x y]
      if s = 0 then .ok (.pFormWord x y) else .error (Illegal.ofCode s)
    | x, y =>
      let own (r : Except Nat Half) (upper : Bool) : Nat :=
        match r with | .ok h => h.subCause upper | .error s => s
      .error (Illegal.ofCode (leastSub [top, rx.2, ry.2, own x false, own y true]))
  | _, _ => .error .unassigned

/-- Decode a 128-bit instruction word. -/
def decode (q : QWord) : Except Illegal Instr :=
  if q.toNat % 2 = 0 then decodeW q else decodeP q

/-- The little-endian value of a list of bytes (00_scope.md:R2). -/
def leNat : List Byte → Nat
  | [] => 0
  | b :: bs => b.toNat + 256 * leNat bs

/-- The `k` bytes of a number, lowest first (00_scope.md:R2). -/
def leBytes : Nat → Nat → List Byte
  | 0, _ => []
  | k + 1, n => BitVec.ofNat 8 n :: leBytes k (n / 256)

/-- Decode the sixteen bytes of an instruction word as they stand in memory. -/
def decodeBytes (bs : List Byte) : Except Illegal Instr := decode (BitVec.ofNat 128 (leNat bs))

/-- The number of a W-form word (03_encoding.md:R68). -/
def encodeWNat (op : Op) (w : W) : Nat :=
  let g := w.g.fields
  op.opc * 2 + w.mod.toNat * 2 ^ 11 + w.d.code * 2 ^ 16 + w.a.code * 2 ^ 26 + w.b.code * 2 ^ 36 +
    w.c.code * 2 ^ 46 + w.e.code * 2 ^ 56 + g.1 * 2 ^ 66 + g.2.1 * 2 ^ 74 + g.2.2 * 2 ^ 82 +
    w.ch.code * 2 ^ 83 + w.nf.toNat * 2 ^ 85 + w.sat.toNat * 2 ^ 86 + w.csel.toNat * 2 ^ 87 +
    w.imm.toNat * 2 ^ 88

/-- The number of a half (03_encoding.md:R79). -/
def Half.encodeNat (h : Half) : Nat :=
  let gp := match h.g with | none => 127 | some g => g.p.val
  let gn := match h.g with | none => 0 | some g => g.neg.toNat
  let src : Nat × Nat × Nat := match h.a with
    | .none => (1023, 0, 0)
    | .reg o => (o.code, 0, 0)
    | .imm v => (1023, v.toNat, 1)
  h.hop.code + h.d.code * 2 ^ 7 + src.1 * 2 ^ 17 + gp * 2 ^ 27 + gn * 2 ^ 34 + src.2.1 * 2 ^ 35 +
    src.2.2 * 2 ^ 51

/-- The word of an instruction; none for an event, which has no encoding. -/
def encode (i : Instr) : Option QWord :=
  match i.form with
  | .w op w => some (BitVec.ofNat 128 (encodeWNat op w))
  | .p x y => some (BitVec.ofNat 128 (1 + x.encodeNat * 2 + y.encodeNat * 2 ^ 64))
  | .bad q => some q
  | .event => none

/-- The instruction the decoder reads from an instruction whose bits are `w`, numbered as the opcode
table numbers them, in its `nbits` bits; the bits above are zero. -/
def decodeTableWord (nbits w : Nat) : Option Instr :=
  match decodeBytes (leBytes 16 (w % 2 ^ nbits)) with
  | .ok i => some i
  | .error _ => none

end Sys2Proof
end

