-- ==== Sys2Proof/Config.lean ====
section
/-! DEFINITION. What one part or one implementation fixes and the manual does not: constants without a
value (fuse data, firmware revision), and the free values, which nothing constrains. Nothing in Lean can
compute any of them. -/

namespace Sys2Proof

/-- Stepping and firmware revision, `IDN` [63:32] (22_attach.md:R375; 01_device.md:R21). -/
opaque Config.revision : BitVec 32

/-- Which of the physical cores still enabled the fuses make the k-th spare of a compute die (01_device.md:R9). -/
opaque Config.spare : Nat → Nat → Nat

/-- The enabled physical cores of a compute die: 72 of its 80, the other 8 are spares (01_device.md:R9). -/
def Config.enabled (die : Nat) : List Nat :=
  (List.range 8).foldl (fun l k => l.eraseIdx (Config.spare die k % l.length)) (List.range 80)

/-- The enabled-core map of each compute die, bit p for physical core p (01_device.md:R9;
22_attach.md:R380). -/
def Config.coreMap (die : Nat) : BitVec 80 := (Config.enabled die).foldl (fun m p => m ||| ((1 : BitVec 80) <<< p)) 0

/-- The binding of stacks 0 to 7 (22_attach.md:R380). -/
opaque Config.stackBinding : Nat → Byte

/-- The set of a line within its home slice (11_isa_memory.md:R256 limits the locked ways of a set; the
index of a set is not given). -/
opaque Config.lineSet : Nat → Nat

/-- The error class of a port event (18_recovery.md:R330, type 5: `AUX` error class, no classes given),
a free value for each event. -/
opaque Config.portErrorClass : Nat → DWord

/-- The bytes that save number `tag` leaves in the areas of a frame whose layout the firmware fixes
(18_recovery.md:R326), by offset: free values. -/
opaque Config.frameByte : Nat → Nat → Byte

/-- The zero bytes before the k-th of the session's three values in the 64 session bytes of STATE-SUMMARY, less the
multiples of 14, and its bytes beyond the fewest, less those of 5: the manual gives the values no places there
(22_attach.md:R380). -/
opaque Config.sessionGap : Nat → Nat
/-- See `Config.sessionGap`. -/
opaque Config.sessionMore : Nat → Nat

/-- The register offset of the session ring's doorbell, which the manual does not give (16_isolation.md:R310;
22_attach.md:R375). -/
opaque Config.sessionDoorbell : Nat

/-- The context that a session names, a fact of the host: a free value for each session (16_isolation.md:R310). -/
opaque Config.sessionCtx : Nat → Nat

/-- The address under which the error log names a scratchpad sector that a fabric payload marks, which has no physical address
(22_attach.md:R381): a free value for each event. -/
opaque Config.scratchSector : Nat → Nat

/-- Whether a module answers on the port that a RELEASE of the command ring names (22_attach.md:R379), a fact of
another module: a free value for each command. -/
opaque Config.joinerAnswers : Nat → Bool

/-- Whether that joiner holds a grid that is QUEUED, PLACED or BLOCKED (19_quadrille.md:R352), a fact of another
module: a free value for each command. -/
opaque Config.joinerHolds : Nat → Bool

end Sys2Proof
end

