-- ==== Sys2Proof/Machine/State.lean ====
section
/-! DEFINITION. The state of one PLD9-M module, as plain data: the registers of every class
(02_state.md:R27, R36), the blocks and grids on the module, memory and its caches, the front end, the
contexts, the security engine, the attachment and the Quadrille replica; and the lists of work that is
under way. -/

namespace Sys2Proof.Machine

/-- Why the machine stops with a fault. -/
inductive Fault where
  /-- Raised by the meaning of an instruction word when no path of a resident warp is issuing. A word is only
  ever issued by a path, so no hardware state is met by this: safe. -/
  | noIssuer
  /-- Raised by a host access to a device address at or above 512 GiB, which the spec says does not exist
  (01_device.md:R17, 22_attach.md:R374). Safe: the machine stops where the manual gives no effect. -/
  | noSuchAddress
  deriving DecidableEq, Repr

/-- Why an instruction has no meaning. -/
inductive Refusal where
  /-- Raised by an arm of `exec` whose instruction is not modelled. Safe: nothing can be proved of it. -/
  | notModelled (mnemonic : String)
  deriving DecidableEq, Repr

/-- Why a path does not issue its word (04_isa_core.md:R116, R122; 07_isa_matrix.md:R183, R189, R196;
10_ordering.md:R221, R231; 11_isa_memory.md:R253, R259; 14_isa_sync.md:R284, R288; 20_isa_system.md:R357,
R366, R372). `released` marks a wait that has ended: the word completes when it issues again. `stall` holds the whole
warp: its counter n stands at 63 (02_state.md:R31), or, with none, its core has 3,072 memory requests outstanding
(01_device.md:R12). `tile` holds a place in the tile order of its tile (07_isa_matrix.md:R189), and with a `why` stalls the
whole warp besides; `aput` holds the place of an `aput`. -/
inductive Park where
  | run
  | released (ok : Bool) (val : DWord)
  | waitlt (n t : Nat)
  | fence (scope : Nat) (ops : List Nat)
  | drain (kind : Nat) (ops : List Nat) (cpod : DWord)
  | tbwait (off ph : Nat) (lct : Option DWord)
  | waitw (sys : Bool) (pa : Nat) (cond : Nat) (cmp : DWord) (deadline : Option DWord)
  | qwait (osq : Bool) (a : DWord) (deadline : Option DWord)
  | bar (b : Nat) (parity : Bool)
  | aget (a : Nat) (order : Nat)
  | xget (n : Nat) (order : Nat)
  | tile (a : Nat) (place : Nat) (why : Option (Option Nat) := none)
  | aput (a : Nat) (place : Nat)
  | coll
  | svcw
  | stopping (r : Ref)
  | mma (op : Nat)
  | remote (grp : Nat)
  | stall (ctr : Option Nat)
  deriving DecidableEq, Repr

/-- A path of a warp: the lanes with one program counter (04_isa_core.md:R123). `hdr` is the address of the
clause's header, `held` the header once the clause has started, `word` the position of the next word, 0
when the clause has not started (03_encoding.md:R61). -/
structure Path where
  mask : Word
  hdr : DWord
  word : Nat
  held : QWord
  park : Park
  deriving DecidableEq, Repr

/-- A trap record (04_isa_core.md:R126). `path` is the mask of the whole trapped path
(09_prog_filter.md:R211) and `order` the time at which the trap was raised (18_recovery.md:R320). -/
structure TrapRec where
  cause : Nat
  sub : Nat
  code : Nat
  mask : Word
  hdr : DWord
  prog : Nat
  word : Nat
  addr : DWord
  ckpt : DWord
  other : Nat
  otherTkt : Nat
  otherGngi : Nat
  path : Word
  access : Nat
  order : Nat
  deriving DecidableEq, Repr

/-- Who holds a stopped warp (20_isa_system.md:R357): no one, the user handler of its block, or the sequence of the
firmware that acts on the block of a launch and ticket. -/
inductive Holder where
  | free
  | handler
  | firmware (lsq tkt : Nat)
  deriving DecidableEq, Repr

/-- One lane's fixed part in an instance of a collective (04_isa_core.md:R116): `ord` 0 in the pending instance of its
word, k in the k-th instance after it. `val` and `sel` are A and B as the lane read them when it issued the word. -/
structure CollPart where
  hdr : DWord
  word : Nat
  lane : Nat
  ord : Nat
  arrived : Bool
  op : Op
  w : W
  width : Nat
  named : Word
  val : DWord
  sel : Nat
  deriving DecidableEq, Repr

/-- The service call of a warp (20_isa_system.md:R365, 13_progress.md:R277): none, one that a service core has not
answered, under a name of its own, or one whose reply stands in the reply slot. -/
inductive SvcCall where
  | none
  | waiting (id num : Nat) (msg : QWord)
  | replied
  deriving DecidableEq, Repr

/-- A warp (02_state.md:R27, R35, R36). Registers are sparse: `v` is keyed by 32 × register + lane, `p` holds a
lane mask for each predicate register. `busy` names the remote atomics whose
register results have not landed, and the handle `mma` of its last signature that may still trap (03_encoding.md:R83,
R86). `lct` is the greatest `LCT` of the barriers whose phase the warp has found changed with `tbtest`
(10_ordering.md:R230). `released` marks an ended warp that has given up its registers and its slot (04_isa_core.md:R124), `hold` one whose
storage is to move (02_state.md:R48). A user handler's scalar state has this form too (18_recovery.md:R322). -/
structure Warp where
  idx : Nat
  core : Nat
  part : Nat
  baseAt : Nat
  extAt : Nat
  v : Cells 32
  s : Cells 32
  p : Cells 32
  tags : Cells 3
  paths : List Path
  live : Word
  sqd : Nat
  prec : List (BitVec 20)
  fenv : List (BitVec 7)
  ckpt : List DWord
  latchT : DWord
  latchC : DWord
  latchP : DWord
  latchS : DWord
  wctc : DWord
  wctp : DWord
  wcts : DWord
  lct : DWord
  cnt : List Nat
  ext : Nat
  trap : Option TrapRec
  holder : Holder
  stopped : Bool
  svc : SvcCall
  reply : BitVec 256
  pass : Bool
  age : Nat
  colls : List CollPart
  busy : List Nat
  released : Bool
  hold : Bool
  deriving DecidableEq, Repr

/-- A named barrier (14_isa_sync.md:R282). `warps` are the warps that have arrived in the current phase, which decide
whether its completion ends a barrier interval (10_ordering.md:R224). -/
structure Barrier where
  phb : Bool
  arc : Nat
  exc : Nat
  warps : List Nat
  deriving DecidableEq, Repr

/-- The captured word of an `mma` (07_isa_matrix.md:R191). `src` names the first signer, on whose behalf the
handle form reads memory; `rows` are the groups that the fetcher has brought in, each the bytes of the 64 rows with their
poison (07_isa_matrix.md:R195). -/
structure MmaRec where
  op : Op
  w : W
  aDesc : QWord
  bDesc : QWord
  aFmt : QWord
  bFmt : QWord
  aSlot : Nat
  bSlot : Nat
  src : Ref
  id : Nat
  rows : List (List (List Byte × Bool))
  deriving DecidableEq, Repr

/-- A signer of an `mma` word: its warp and the counter it raised (07_isa_matrix.md:R192). -/
structure Signer where
  wrp : Nat
  ctr : Option Nat
  deriving DecidableEq, Repr

/-- A scrum register (07_isa_matrix.md:R190). -/
structure Scrum where
  declared : Nat
  signed : Nat
  pend : Option MmaRec
  signers : List Signer
  deriving DecidableEq, Repr

/-- An issued `mma` that has not retired, with its progress (07_isa_matrix.md:R193, R196). -/
structure MmaOp where
  op : Nat
  core : Nat
  rec_ : MmaRec
  prog : Nat
  signers : List Signer
  last : Ref
  deriving DecidableEq, Repr

/-- An accumulator tile: element (i, j) is entry 64 × i + j (07_isa_matrix.md:R182). -/
structure Tile where
  el : Cells 32
  poison : Bool
  deriving DecidableEq, Repr

/-- A sum-tree register (07_isa_matrix.md:R203): its leaves; every sum is a function of them. -/
structure Tree where
  leaves : Cells 32
  poison : Bool
  deriving DecidableEq, Repr

/-- A huddle entry (14_isa_sync.md:R290). -/
structure HudEntry where
  key : Nat
  payload : DWord
  wrp : Nat
  lane : Nat
  deriving DecidableEq, Repr

/-- An activation of the referee slot for a block: a user handler and the warp whose trap it handles
(18_recovery.md:R322), or, with `firmware`, the ROM firmware acting on the block (20_isa_system.md:R355). -/
structure Activation where
  warp : Warp
  trapped : Nat
  firmware : Bool
  deriving DecidableEq, Repr

/-- Where a block is (18_recovery.md:R327, R321). -/
inductive Residence where
  | resident
  | saved
  | killed
  deriving DecidableEq, Repr

/-- What one core of a block holds: scratchpad and its poison for each sector, the allocation's generation and, while a
save waits for the sectors that carry it, the generation before (18_recovery.md:R327),
scrum registers, operand maps, tile handles and tiles (02_state.md:R28); in a deterministic grid the running warp
(13_progress.md:R274). -/
structure BlockCore where
  core : Nat
  sp : Cells 8
  spPoison : Cells 1
  gen : Nat
  old : Option Nat
  scrums : List Scrum
  maps : List (Nat × QWord)
  handles : List (Nat × QWord)
  tiles : List (Nat × Tile)
  running : Option Nat
  deriving DecidableEq, Repr

/-- A block on the module. `frameTag` names the bytes that a save left in the areas of its frame whose layout the
firmware fixes (18_recovery.md:R326). -/
structure Block where
  lsq : Nat
  tkt : Nat
  frame : Nat
  res : Residence
  cores : List BlockCore
  warps : List Warp
  bars : List Barrier
  trees : List Tree
  mmas : List MmaOp
  huddle : List HudEntry
  hudCont : Option DWord
  round : Nat
  handler : Option Activation
  interval : Nat
  killCode : Nat
  saving : Bool
  frameTag : Nat
  deriving DecidableEq, Repr

/-- The fields of a launch record (13_progress.md:R265). -/
structure LaunchRec where
  hnd : DWord
  prl : DWord
  par : DWord
  ent : DWord
  scr : Nat
  stg : Nat
  grdw : Nat
  grdh : Nat
  wpb : Nat
  ftv : Nat
  gngc : Nat
  gngh : Nat
  gngw : Nat
  ext : Nat
  base : Nat
  acc : Nat
  wtc : Nat
  wtl : Nat
  wtm : Bool
  alw : Nat
  pri : Nat
  det : Bool
  brc : Nat
  ctx : Nat
  reserved : Bool
  fmt : List QWord
  deriving DecidableEq, Repr

/-- An L1 copy of a line (10_ordering.md:R216). `expiry` none is a copy of class 7, which never expires. -/
structure L1Copy where
  core : Nat
  ctx : Nat
  line : Nat
  expiry : Option DWord
  data : List Byte
  poison : List Nat
  deriving DecidableEq, Repr

/-- A translation (16_isolation.md:R302): page number at its size, and the attributes of its leaf. -/
structure TlbEnt where
  ctx : Nat
  page : Nat
  bits : Nat
  pa : Nat
  lc : Nat
  tso : Bool
  sys : Bool
  x : Bool
  w : Bool
  deriving DecidableEq, Repr

/-- Memory (01_device.md:R16, R17; 16_isolation.md:R302): bytes and poison marks of device and host memory,
the lease bound Lmax of each line, L1 copies, translations and locked lines; the device lines that the host caches
(22_attach.md:R374), and the 4 KiB pages of host memory from which the host link cannot complete a read
(16_isolation.md:R303, kind 7). -/
structure Memory where
  dev : Cells 8
  devPoison : Cells 1
  host : Cells 8
  hostPoison : Cells 1
  lmax : Cells 64
  l1 : List L1Copy
  tlb : List TlbEnt
  locks : List (Nat × Nat)
  hostLines : List Nat
  hostLost : Cells 1
  deriving DecidableEq, Repr

/-- A long-latency operation under way: its warp, the counter it raised, the core it started from, its
`drain` path (0 none, 1 scratchpad-in, 2 global-out, 3 remote-out; 10_ordering.md:R231), the number of parts not
yet replied to, the largest Cpod returned, and whether it concerns a home of this module
(10_ordering.md:R221). -/
structure OpGroup where
  op : Nat
  lsq : Nat
  tkt : Nat
  wrp : Nat
  ctr : Option Nat
  core : Nat
  kind : Nat
  left : Nat
  cpod : DWord
  chip : Bool
  deriving DecidableEq, Repr

/-- A store on its way to its home (10_ordering.md:R213): part of an operation group. -/
structure HomeOp where
  id : Nat
  op : Nat
  sys : Bool
  pa : Nat
  data : List Byte
  mark : Bool
  core : Nat
  deriving DecidableEq, Repr

/-- A sector that the pending stores of one word wholly cover between them (18_recovery.md:R323): the word's operation group, the
sector, how many of its pieces there are still to come, and whether one has been performed. -/
structure Cover where
  op : Nat
  sys : Bool
  sector : Nat
  left : Nat
  begun : Bool
  deriving DecidableEq, Repr

/-- A reply on its way to its warp (10_ordering.md:R218, R219). `chip` tells whether Cchip is returned, `link` whether
Csys is a time that the host link reports. -/
structure Reply where
  id : Nat
  op : Nat
  chip : Bool
  cchip : DWord
  cpod : DWord
  csys : DWord
  link : Bool
  deriving DecidableEq, Repr

/-- One place of memory as an engine sees it. -/
inductive Place where
  | sp (off : Nat)
  | glob (va : DWord)
  deriving DecidableEq, Repr

/-- The confidential parameters of a copy (11_isa_memory.md:R250). -/
structure GcmPar where
  ctr : DWord
  fix : Word
  sto : Nat
  ksl : Nat
  deriving DecidableEq, Repr

/-- A copy under way: source, destination and length in bytes, the shape of a transposed copy, the parameters of a
confidential one (11_isa_memory.md:R247, R249, R250). Sector j of destination row c has the number
2^20 × c + j; `todo` are those not yet counted down, `gens` the generations of the block's allocations at issue
(R252), `data` the plaintext of a confidential copy that the engine has accepted, `path` the lanes of the path that issued it. -/
structure CopyOp where
  op : Nat
  src : Ref
  ctx : Nat
  core : Nat
  from_ : Place
  to_ : Place
  len : Nat
  shape : Option QWord
  gcm : Option GcmPar
  bar : Option Nat
  todo : List Nat
  gens : List Nat
  data : Option (List Byte)
  path : Word := 0
  deriving DecidableEq, Repr

/-- The target of a multicast on one core: the allocation and the generation it carried at issue
(11_isa_memory.md:R252). -/
structure CastTarget where
  core : Nat
  alloc : Option (Nat × Nat)
  gen : Nat
  todo : List Nat
  deriving DecidableEq, Repr

/-- A multicast under way (11_isa_memory.md:R251). -/
structure CastOp where
  op : Nat
  src : Ref
  ctx : Nat
  from_ : Place
  dst : Nat
  len : Nat
  bar : Option Nat
  rbar : Option Nat
  targets : List CastTarget
  deriving DecidableEq, Repr

/-- A remote operation of this module that is not finished (11_isa_memory.md:R258): `grp` is its operation group,
`result` the old value that an atomic's reply carried and whether it was poisoned. `after` are the operations that are
performed before it (10_ordering.md:R232), `seq` its sequence number, `sent` the time of its issue and `resends` the resends
without acknowledgement (18_recovery.md:R331); `answer` is this module's own reply to an operation aimed at itself. `path`,
`act`, `hdr` and `word` are the place of its word with its active lanes, `det` what a deterministic grid's detector keeps of it (10_ordering.md:R234).
`mates` are those of `after` that are lower lanes of its own word, and `late` marks a float atomic of a deterministic grid that was
held back to the end of its barrier interval (10_ordering.md:R224). -/
structure RemoteOp where
  op : Nat
  grp : Nat
  src : Ref
  ctx : Nat
  target : Nat
  off : DWord
  kind : RemoteKind
  ordered : Bool
  after : List Nat
  seq : Nat
  sent : DWord
  resends : Nat
  answer : Option RemoteReply
  det : Option DetTag
  path : Word
  act : Word
  hdr : DWord
  word : Nat
  lane : Nat
  dst : Option Opnd
  to_ : Option Place
  len : Nat
  bar : Option Nat
  nf : Bool
  gens : List Nat
  result : Option (DWord × Bool)
  mates : List Nat := []
  late : Bool := false
  deriving DecidableEq, Repr

/-- A global float atomic deferred to the end of its barrier interval (10_ordering.md:R224): its operation group, the warp
and lane, the word's place for a trap, where it acts and what it does; `rop` is the remote operation of a `ratom`, or of a
remote word that is performed behind one (10_ordering.md:R232), not yet sent. -/
structure DetAtom where
  grp : Nat
  tkt : Nat
  wrp : Nat
  lane : Nat
  path : Word
  hdr : DWord
  word : Nat
  addr : DWord
  sys : Bool
  pa : Nat
  op : Nat
  b : Word
  sat : Bool
  nf : Bool
  rop : Option RemoteOp
  deriving DecidableEq, Repr

/-- What the detector of a module keeps of a deterministic grid that has no part on it (10_ordering.md:R234): the grid is named by
its place among the grids of the Quadrille and the delivery position of its SUBMIT, or by the module that runs it and its launch
sequence there. -/
structure DetLog where
  qix : Option Nat
  num : Nat
  src : Nat
  log : List DetAcc
  deriving DecidableEq, Repr

/-- A grid with a part on this module. `dps` is the delivery position of its SUBMIT, 0 for one of a local queue. `held` marks a grid that is pre-empted, `closing` one whose row is gone or whose
context is destroyed, `silent` one whose end raises no FINISH. -/
structure Grid where
  lsq : Nat
  rec_ : LaunchRec
  ftv : Nat
  tables : List (Nat × Cells 32)
  qix : Option Nat
  dps : Nat
  gngi : Nat
  rx : Nat
  ry : Nat
  parent : Option Nat
  nextTkt : Nat
  ended : Nat
  killed : Nat
  killCode : Nat
  cwa : Option DWord
  cwv : DWord
  wctp : DWord
  phase : Cells 32
  seen : Cells 32
  detLog : List DetAcc
  detAtoms : List DetAtom
  held : Bool
  closing : Bool
  silent : Bool
  deriving DecidableEq, Repr

/-- An invalidation under way (16_isolation.md:R305): the operations that must have been performed. -/
structure InvalOp where
  op : Nat
  group : Option Nat
  ctx : Nat
  va : DWord
  units : Nat
  waits : List Nat
  deriving DecidableEq, Repr

/-- An endpoint context (18_recovery.md:R331): cached, or spilled and perhaps being fetched; the sequence numbers accepted,
and the next one to send. `cut` are those of the atomics that found poison, or were not performed behind one that did
(11_isa_memory.md:R239). -/
structure Endpoint where
  ctx : Nat
  peer : Nat
  cached : Bool
  fetching : Bool
  seen : List Nat
  next : Nat
  cut : List Nat := []
  deriving DecidableEq, Repr

/-- What the device keeps of a context (16_isolation.md:R299, 18_recovery.md:R329, 20_isa_system.md:R367). `marked` are the sectors of
its save frames that a save has marked as poisoned: frame, sector of the frame (18_recovery.md:R326). -/
structure CtxEnt where
  desc : BitVec 512
  written : Nat
  taken : Nat
  lost : Nat
  lostTotal : Nat
  marked : List (Nat × Nat)
  deriving DecidableEq, Repr

/-- A key slot (16_isolation.md:R313). -/
structure KeySlot where
  key : BitVec 256
  holds : Bool
  bound : Bool
  ctx : Nat
  mark : DWord
  deriving DecidableEq, Repr

/-- The TDISP states in which an interface stands (16_isolation.md:R310, R312; 22_attach.md:R374): CONFIG_UNLOCKED,
CONFIG_LOCKED, RUN. -/
inductive Tdisp where
  | unlocked | locked | run
  deriving DecidableEq, Repr

/-- What the SPDM measurements show: the mode, the firmware revision, the cause of the last scrub, whether it failed, and whether a
grid was running when it began (01_device.md:R21; 16_isolation.md:R309, R312, R315). -/
structure Measurements where
  confidential : Bool
  revision : Word
  lastScrub : Nat
  scrubFailed : Bool
  wasRunning : Bool
  deriving DecidableEq, Repr

/-- The security engine (16_isolation.md:R309 to R315). `scrub` is the scrub under way, with its cause:
1 entry, 2 leave, 3 heartbeat loss; `dropped` counts the host writes dropped in confidential mode. `ctx` is the context that the
session names, `doorbell` its ring's doorbell, `tdisp` the TDISP state of each context; `lastSys` is the page of the last
access that the device made to host memory in confidential mode, and whether it went out with the TEE indication, `measured` the
measurements last reported to the host. -/
structure Security where
  slots : List KeySlot
  confidential : Bool
  session : Bool
  interval : Nat
  lastBeat : DWord
  fabricKey : Option (BitVec 256)
  trusted : List (Nat × Nat)
  lastScrub : Nat
  scrub : Nat
  scrubFailed : Bool
  wasRunning : Bool
  dropped : Nat
  ctx : Nat
  doorbell : DWord
  tdisp : List Tdisp
  lastSys : Option (Nat × Bool)
  measured : Option Measurements
  deriving DecidableEq, Repr

/-- The front end (13_progress.md:R260 to R268). -/
structure FrontEnd where
  table : Option Nat
  pending : List Nat
  rot : List Nat
  round : Nat
  nextLsq : Nat
  deriving DecidableEq, Repr

/-- A post to the notification ring (22_attach.md:R382, R388). `src` names the service call that waits for its
acknowledgement. -/
structure Post where
  msg : QWord
  ctx : Nat
  frame : Nat
  wrp : Nat
  kind : Nat
  src : Option Nat
  deriving DecidableEq, Repr

/-- A pending escalation (22_attach.md:R388); `reply` is a FAULT-REPLY recorded while the block is saved. -/
structure Escalation where
  ctx : Nat
  frame : Nat
  wrp : Nat
  reply : Option Bool
  deriving DecidableEq, Repr

/-- The states of a fabric port (22_attach.md:R383): DOWN, TRAINING, UP, UP with 4 lanes, UP with 2. -/
inductive PortState where
  | down | training | up | up4 | up2
  deriving DecidableEq, Repr

/-- An uncorrectable event as ERROR-LOG reports it (22_attach.md:R381). -/
structure UncEvent where
  t : DWord
  pa : Nat
  stack : Nat
  kind : Nat
  ctx : Nat
  deriving DecidableEq, Repr

/-- Pod formation under way (22_attach.md:R386). -/
structure Formation where
  ident : DWord
  mask : DWord
  code : Nat
  number : Nat
  started : DWord
  cmd : Cmd
  deriving DecidableEq, Repr

/-- The device states of `DST` (22_attach.md:R375). -/
inductive DevState where
  | reset | init | ready | scrub | failed
  deriving DecidableEq, Repr

/-- The attachment: BAR0 registers, the command taken, the notification ring, ports, power, error counts
(22_attach.md:R375 to R388). `outbox` are the posts that wait for room in the ring, `posts` counts those written,
`awaiting` pairs an entry's number with the service call that it completes. `clk` is the arithmetic clock of each die
in MHz, `loans` the share of the pool of each power domain (01_device.md:R23). `exch` is the time of the last exchange of timestamps and
`slewed` that of the last correction of `TIME` (01_device.md:R20). `killing` is the launch sequence of the grid that a KILL command
waits for, `destroying` the context whose blocks a CTX-DESTROY has killed and waits for. `last` is the record of the last completion (R376), as a
secured message carries it; `lastRead` and `lastPoison` are the last completion of a host read. -/
structure Attach where
  dst : DevState
  crb : DWord
  crs : Nat
  cdb : Word
  cci : Word
  ncn : Word
  cmd : Option Cmd
  ring : Option (Nat × Nat)
  posts : Nat
  outbox : List Post
  awaiting : List (Nat × Nat)
  escal : List Escalation
  ports : List PortState
  cap : Nat
  clk : List Nat
  loans : List Nat
  exch : DWord
  slewed : DWord
  killing : Option Nat
  destroying : Option Nat
  corrected : List Nat
  uncorrected : List Nat
  detected : List Nat
  portErrors : List Nat
  slips : Cells 32
  errLog : List UncEvent
  uncTotal : Nat
  form : Option Formation
  releases : List Nat
  lastRead : List Byte
  lastPoison : Bool
  last : QWord
  deriving DecidableEq, Repr

/-- What the module keeps of a grid it submitted (20_isa_system.md:R370, 19_quadrille.md:R343). `dps` is the delivery position of
its SUBMIT, once it has been delivered. -/
structure Submission where
  osq : Nat
  dps : Option Nat
  ctx : Nat
  cwa : Option DWord
  cwv : DWord
  deriving DecidableEq, Repr

/-- What became of an own event (20_isa_system.md:R372): delivered at a sequence, or discarded. -/
inductive OwnFate where
  | delivered (seq : Nat)
  | discarded
  deriving DecidableEq, Repr

/-- The Quadrille on this module: the replica, the Caller's state and the module's own records
(19_quadrille.md:R333 to R352). `heard` are the heard times, `beats` the heartbeats that wait for events they count,
`lastRecv` the times at which something was last heard of a module, `recvOsq` the last `OSQ` held of it; `received` are
the events not yet delivered, `log` those delivered, newest first; `compared` is the last sequence whose digest reports
were compared and `majors` are the majority digests of the latest sequences; `fetch` are the modules whose missing events below their cut are
being fetched (19_quadrille.md:R351); `stepped` tells that the module has set `TIME` for a join under way, `stranded` its report to the host that it
found no sponsor (R352, R353; log 56); `lone` tells a module that has formed no pod (22_attach.md:R387), `known` the modules known to have been
MEMBERs; `lastBeat` is the last heartbeat sent; `pendRows` are the row changes that name this module and are not yet
enacted; `detAway` are the detector's logs of the grids that have no part here. -/
structure Quad where
  rep : Replica
  interval : Nat
  heard : List DWord
  beats : List Heartbeat
  lastRecv : List DWord
  received : List (BitVec 512)
  osq : Nat
  recvOsq : List Nat
  fates : List (Nat × OwnFate)
  reports : List (Nat × Nat × BitVec 256)
  ownReport : Nat × BitVec 256
  compared : Nat
  majors : List (Nat × BitVec 256)
  cut : List (Nat × DWord)
  fetch : List (Nat × DWord)
  log : List (BitVec 512)
  raisedSuspect : List Nat
  halted : Bool
  stepped : Bool
  stranded : Bool
  lone : Bool
  known : List Nat
  subs : List Submission
  lastBeat : Option Heartbeat
  pendRows : List RowChange
  detAway : List DetLog
  deriving DecidableEq, Repr

/-- One thing the environment does next, or a choice that the manual leaves open: an operation or event of
the table, a command for the service cores, the passage of T, the eviction of an L1 copy, a miss of the
instruction cache, an uncorrectable error that meets a sector of a copy or multicast (10_ordering.md:R229), a packet resent
for want of an acknowledgement (18_recovery.md:R331), a store of the host to its own memory (`mark`: it leaves the sectors poisoned), a device line that the
host begins or ceases to cache (22_attach.md:R374), a page of host memory whose reads the host link ceases or begins again
to complete (16_isolation.md:R303). -/
inductive Action where
  | event (i : Instr)
  | command (c : Cmd)
  | tick (ns : Nat)
  | evict (core line : Nat)
  | icacheMiss (core part : Nat)
  | hostStore (pa : Nat) (data : List Byte) (mark : Bool)
  | sectorError (op core sector : Nat)
  | resend (op : Nat)
  | hostCache (line : Nat) (held : Bool)
  | hostLink (page : Nat) (lost : Bool)
  deriving DecidableEq, Repr

/-- The state of the module. `pathCpod` holds, for path 0 (global-out) and 1 (remote-out) of core c at key
2 × c + path, the largest Cpod that the path's completed operations returned (10_ordering.md:R231). `traps` counts the traps raised. `lastReply` is what this module last
sent back to a remote operation; none for NOT READY (18_recovery.md:R331). -/
structure State where
  time : DWord
  modn : Nat
  mem : Memory
  blocks : List Block
  grids : List Grid
  groups : List OpGroup
  homeOps : List HomeOp
  covers : List Cover
  replies : List Reply
  copies : List CopyOp
  casts : List CastOp
  rops : List RemoteOp
  invals : List InvalOp
  endpoints : List Endpoint
  ctxs : List CtxEnt
  exportTable : Option Nat
  sec : Security
  front : FrontEnd
  att : Attach
  quad : Quad
  gens : Cells 6
  pathCpod : Cells 64
  gated : Cells 1
  groupsDown : Cells 3
  frozen : List Nat
  traps : Nat
  slots : List Ref
  cur : Option Ref
  agenda : List Action
  scan : Nat
  nextId : Nat
  fresh : Nat
  lastReply : Option RemoteReply
  deriving DecidableEq, Repr

/-- The lone replica of a module that has formed no pod, or the formation state of a pod: the modules of the
mask are MEMBERs (19_quadrille.md:R333; 22_attach.md:R387). -/
def Replica.formed (mask : DWord) : Replica :=
  { members := (List.range 64).map (fun m => if mask.getLsbD m then .member else .absent)
    grids := [], rows := [], seq := 0, digest := 0, suspects := [] }

/-- The Quadrille of a module at formation (19_quadrille.md:R333). -/
def Quad.formed (mask : DWord) (interval : Nat) : Quad :=
  { rep := Replica.formed mask, interval := interval, heard := List.replicate 64 0, beats := []
    lastRecv := List.replicate 64 0, received := [], osq := 0, recvOsq := List.replicate 64 0, fates := []
    reports := [], ownReport := (0, 0), compared := 0, majors := [], cut := [], fetch := [], log := [], raisedSuspect := []
    halted := false, stepped := false, stranded := false, lone := false, known := (List.range 64).filter (fun m => mask.getLsbD m), subs := []
    lastBeat := none, pendRows := [], detAway := [] }

/-- The security engine after power-on or a cold reset: ordinary mode, no session, empty slots
(16_isolation.md:R309, R313). DESIGN CHOICE (log 2): the doorbell and the session's context are zero; (log 57): every TDISP
interface is unlocked. -/
def Security.reset : Security :=
  { slots := List.replicate 16 { key := 0, holds := false, bound := false, ctx := 0, mark := 0 }
    confidential := false, session := false, interval := 0, lastBeat := 0, fabricKey := none
    trusted := [], lastScrub := 0, scrub := 0, scrubFailed := false, wasRunning := false, dropped := 0
    ctx := 0, doorbell := 0, tdisp := List.replicate 64 .unlocked, lastSys := none, measured := none }

/-- The front end after reset. DESIGN CHOICE (log 2): its registers are zero, and the first launch sequence is 1. -/
def FrontEnd.reset : FrontEnd :=
  { table := none, pending := [], rot := List.replicate 8 0, round := 0, nextLsq := 1 }

/-- The attachment after reset: `DST` is RESET (22_attach.md:R384), the cap is 2,200 W (01_device.md:R23),
the clocks 1,500 MHz (00_scope.md:R3). DESIGN CHOICE (log 2): the other registers are zero, the ports DOWN. -/
def Attach.reset : Attach :=
  { dst := .reset, crb := 0, crs := 0, cdb := 0, cci := 0, ncn := 0, cmd := none, ring := none
    posts := 0, outbox := [], awaiting := [], escal := [], ports := List.replicate 16 .down
    cap := 2200, clk := [1500, 1500], loans := [0, 0, 0, 0], exch := 0, slewed := 0, killing := none, destroying := none, corrected := List.replicate 8 0
    uncorrected := List.replicate 8 0, detected := List.replicate 8 0
    portErrors := List.replicate 16 0, slips := [], errLog := [], uncTotal := 0, form := none
    releases := [], lastRead := [], lastPoison := false, last := 0 }

/-- Memory after reset: every byte zero and no poison (22_attach.md:R384 writes all 512 GiB with zero and
valid ECC before the device is READY); no copy, translation or lock. DESIGN CHOICE (log 3): host memory
reads zero. -/
def Memory.reset : Memory :=
  { dev := [], devPoison := [], host := [], hostPoison := [], lmax := [], l1 := [], tlb := [], locks := []
    hostLines := [], hostLost := [] }

/-- A context that does not exist. -/
def CtxEnt.absent : CtxEnt := { desc := 0, written := 0, taken := 0, lost := 0, lostTotal := 0, marked := [] }

/-- The module right after power-on or a cold reset (22_attach.md:R384): `DST` RESET, `TIME` 0, no context,
no block, the lone replica of 22_attach.md:R387. -/
def State.reset : State :=
  { time := 0, modn := 0, mem := Memory.reset, blocks := [], grids := [], groups := [], homeOps := [], covers := []
    replies := [], copies := [], casts := [], rops := [], invals := [], endpoints := []
    ctxs := List.replicate 64 CtxEnt.absent, exportTable := none, sec := Security.reset
    front := FrontEnd.reset, att := Attach.reset, quad := { Quad.formed 1 64 with lone := true }, gens := [], pathCpod := [], gated := []
    groupsDown := [], frozen := [], traps := 0, slots := [], cur := none, agenda := [], scan := 0, nextId := 0
    fresh := 0, lastReply := none }

end Sys2Proof.Machine
end

