-- ==== Sys2Proof/Machine/Ops.lean ====
section
/-! DEFINITION. The named operations over the state: sparse stores, finding and updating blocks, warps and
paths, the movement of paths, taking a trap and returning from one, translation, memory at its home, replies
and completion counters, and the event ring. -/

namespace Sys2Proof.Machine

/-- The outcome of a step. -/
abbrev Out := Host.Outcome State Fault Refusal

/-! ## Sparse stores -/

/-- The value at a key; zero when nothing is listed. -/
def cget {w : Nat} (c : Cells w) (k : Nat) : BitVec w :=
  match c with
  | [] => 0
  | (j, v) :: r => if j = k then v else cget r k

/-- Forget one key. -/
def cdrop {w : Nat} (c : Cells w) (k : Nat) : Cells w := c.filter (fun e => e.1 != k)

/-- Write one key, keeping keys rising and listing no zero. -/
def cset {w : Nat} (c : Cells w) (k : Nat) (v : BitVec w) : Cells w :=
  match c with
  | [] => if v = 0 then [] else [(k, v)]
  | (j, x) :: r =>
    if j < k then (j, x) :: cset r k v
    else if v = 0 then cdrop ((j, x) :: r) k
    else if j = k then (k, v) :: r
    else (k, v) :: (j, x) :: r

/-- Keys strictly rising above `lo`, and no value zero. -/
def cwfFrom {w : Nat} (lo : Nat) : Cells w → Bool
  | [] => true
  | (k, v) :: r => decide (lo ≤ k) && v != 0 && cwfFrom (k + 1) r

/-- The canonical form of a sparse store. -/
def cwf {w : Nat} (c : Cells w) : Bool := cwfFrom 0 c

/-- The store that holds consecutive values from key `k`. -/
def cells {w : Nat} (k : Nat) : List (BitVec w) → Cells w
  | [] => []
  | v :: vs => if v = 0 then cells (k + 1) vs else (k, v) :: cells (k + 1) vs

/-- Write consecutive keys from `k`. -/
def csetMany {w : Nat} (c : Cells w) (k : Nat) (vs : List (BitVec w)) : Cells w :=
  match c with
  | [] => cells k vs
  | (j, x) :: r =>
    if j < k then (j, x) :: csetMany r k vs
    else cells k vs ++ ((j, x) :: r).filter (fun e => decide (e.1 < k ∨ k + vs.length ≤ e.1))

/-- `n` consecutive values from `k`. -/
def cgetMany {w : Nat} (c : Cells w) (k : Nat) : Nat → List (BitVec w)
  | 0 => []
  | n + 1 => cget c k :: cgetMany c (k + 1) n

/-- Write keys given as pairs, in order. -/
def csetAll {w : Nat} (c : Cells w) : List (Nat × BitVec w) → Cells w
  | [] => c
  | (k, v) :: r => csetAll (cset c k v) r

/-! ## Lists -/

/-- Apply `f` where `p` holds. -/
def updIf {α : Type} (p : α → Bool) (f : α → α) (l : List α) : List α :=
  l.map (fun x => if p x then f x else x)

/-- Apply `f` at one index. -/
def updAt {α : Type} (l : List α) (i : Nat) (f : α → α) : List α :=
  match l, i with
  | [], _ => []
  | x :: r, 0 => f x :: r
  | x :: r, i + 1 => x :: updAt r i f

/-- All or none. -/
def allSome {α : Type} : List (Option α) → Option (List α)
  | [] => some []
  | none :: _ => none
  | some a :: r => (allSome r).map (fun l => a :: l)

/-- The value at an index, with a default. -/
def nth {α : Type} (l : List α) (i : Nat) (d : α) : α :=
  match l, i with
  | [], _ => d
  | x :: _, 0 => x
  | _ :: r, i + 1 => nth r i d

/-- The lanes of a mask, ascending. -/
def lanesOf (m : Word) : List Nat := (List.range 32).filter (fun l => m.getLsbD l)

/-- The mask of a list of lanes. -/
def maskOf (ls : List Nat) : Word := ls.foldl (fun m l => m ||| ((1 : Word) <<< l)) 0

/-- The lanes of a mask that satisfy a predicate. -/
def maskBy (m : Word) (p : Nat → Bool) : Word := maskOf ((lanesOf m).filter p)

/-- The lowest lane of a mask, 32 for an empty one. -/
def lowLane (m : Word) : Nat := (lanesOf m).headD 32

/-- The maximum of a list of times. -/
def maxT (l : List DWord) : DWord := l.foldl (fun a b => if a.toNat < b.toNat then b else a) 0

/-- The larger of two times. -/
def tmax (a b : DWord) : DWord := if a.toNat < b.toNat then b else a

/-- Bits [lo + len - 1 : lo] of a bit vector as a number. -/
def bits {w : Nat} (x : BitVec w) (lo len : Nat) : Nat := fld x.toNat lo len

/-- ⌈a ÷ b⌉. -/
def cdiv (a b : Nat) : Nat := (a + b - 1) / b

/-- Change the attachment. -/
def State.setAtt (s : State) (f : Attach → Attach) : State := { s with att := f s.att }

/-- Change the security engine. -/
def State.setSec (s : State) (f : Security → Security) : State := { s with sec := f s.sec }

/-! ## Blocks, warps and paths -/

/-- The block of a launch and ticket. -/
def State.block? (s : State) (lsq tkt : Nat) : Option Block :=
  s.blocks.find? (fun b => b.lsq == lsq && b.tkt == tkt)

/-- The grid of a launch. -/
def State.grid? (s : State) (lsq : Nat) : Option Grid := s.grids.find? (fun g => g.lsq == lsq)

/-- Update a block. -/
def State.updBlock (s : State) (lsq tkt : Nat) (f : Block → Block) : State :=
  { s with blocks := updIf (fun b => b.lsq == lsq && b.tkt == tkt) f s.blocks }

/-- Update a grid. -/
def State.updGrid (s : State) (lsq : Nat) (f : Grid → Grid) : State :=
  { s with grids := updIf (fun g => g.lsq == lsq) f s.grids }

/-- The warp of an index in a block. -/
def Block.warp? (b : Block) (i : Nat) : Option Warp := b.warps.find? (fun w => w.idx == i)

/-- The warp that a reference names: a warp of the block, or the scalar state of its handler. -/
def Block.refWarp? (b : Block) (r : Ref) : Option Warp :=
  if r.handler then b.handler.map Activation.warp else b.warp? r.wrp

/-- What a core holds of a block. -/
def Block.coreAt (b : Block) (core : Nat) : Option BlockCore := b.cores.find? (fun c => c.core == core)

/-- Update a warp of a block. -/
def Block.updWarp (b : Block) (i : Nat) (f : Warp → Warp) : Block :=
  { b with warps := updIf (fun w => w.idx == i) f b.warps }

/-- Update the warp that a reference names. -/
def Block.updRef (b : Block) (r : Ref) (f : Warp → Warp) : Block :=
  if r.handler then { b with handler := b.handler.map (fun a => { a with warp := f a.warp }) }
  else b.updWarp r.wrp f

/-- Update the warp that a reference names. -/
def State.updRef (s : State) (r : Ref) (f : Warp → Warp) : State :=
  s.updBlock r.lsq r.tkt (fun b => b.updRef r f)

/-- Update a warp of a block by its index. -/
def State.updWarp (s : State) (lsq tkt wrp : Nat) (f : Warp → Warp) : State :=
  s.updBlock lsq tkt (fun b => b.updWarp wrp f)

/-- The context of a grid. -/
def State.ctxOf (s : State) (lsq : Nat) : Nat :=
  match s.grid? lsq with | some g => g.rec_.ctx | none => 0

/-- The path that holds a lane. -/
def Warp.path? (w : Warp) (lane : Nat) : Option Path := w.paths.find? (fun p => p.mask.getLsbD lane)

/-- Update the path that holds a lane. -/
def Warp.updPath (w : Warp) (lane : Nat) (f : Path → Path) : Warp :=
  { w with paths := updIf (fun p => p.mask.getLsbD lane) f w.paths }

/-- Park the path that holds a lane. -/
def Warp.parkAt (w : Warp) (lane : Nat) (k : Park) : Warp := w.updPath lane (fun p => { p with park := k })

/-- The word count of a clause header (03_encoding.md:R59). -/
def hdrWcnt (h : QWord) : Nat := bits h 0 4

/-- The address of the clause that follows (03_encoding.md:R58). -/
def nextClause (hdr : DWord) (h : QWord) : DWord := hdr + BitVec.ofNat 64 (16 * (hdrWcnt h + 1))

/-- A path at the start of a clause. -/
def Path.at (mask : Word) (hdr : DWord) : Path := { mask := mask, hdr := hdr, word := 0, held := 0, park := .run }

/-- Whether a path stands at a clause boundary, running. -/
def Path.fresh (p : Path) : Bool := p.word == 0 && p.park == .run

/-- Add a path, joining it with one that stands at the same clause boundary (04_isa_core.md:R123). -/
def joinPath (p : Path) : List Path → List Path
  | [] => if p.mask = 0 then [] else [p]
  | q :: r =>
    if p.fresh && q.fresh && p.hdr == q.hdr then { q with mask := q.mask ||| p.mask } :: r
    else q :: joinPath p r

/-- Replace the path that holds a lane by others, joined at clause boundaries. -/
def Warp.replacePath (w : Warp) (lane : Nat) (ps : List Path) : Warp :=
  { w with paths := ps.foldl (fun l p => joinPath p l) (w.paths.filter (fun p => !p.mask.getLsbD lane)) }

/-- Whether a path has finished its clause with this word. -/
def Path.lastWord (p : Path) : Bool := decide (hdrWcnt p.held ≤ p.word)

/-- A warp whose path has issued the last word of a clause with YLD 1 is passed over once
(03_encoding.md:R63). -/
def Warp.yielded (w : Warp) (p : Path) : Warp :=
  if p.lastWord && p.held.getLsbD 24 then { w with pass := true } else w

/-- A path completes its word: it goes on with the next word, or with the next clause. -/
def Warp.advance (w : Warp) (lane : Nat) : Warp :=
  match w.path? lane with
  | none => w
  | some p =>
    let w := w.yielded p
    if p.lastWord then w.replacePath lane [Path.at p.mask (nextClause p.hdr p.held)]
    else w.updPath lane (fun p => { p with word := p.word + 1, park := .run })

/-! ## Traps -/

/-- What a trap reports beyond the place it was raised at (04_isa_core.md:R126). -/
structure TrapV where
  cause : Nat
  sub : Nat := 0
  code : Nat := 0
  mask : Word
  addr : DWord := 0
  prog : Nat := 0
  other : Nat := 0
  otherTkt : Nat := 0
  otherGngi : Nat := 0
  access : Nat := 0
  deriving DecidableEq, Repr

/-- The record of a trap at a place of a path (04_isa_core.md:R126). -/
def TrapV.record (t : TrapV) (path : Word) (hdr : DWord) (word : Nat) (ckpt : List DWord) (order : Nat) : TrapRec :=
  { cause := t.cause, sub := t.sub, code := t.code, mask := t.mask, hdr := hdr, prog := t.prog
    word := if word = 0 then 1 else word, addr := t.addr, ckpt := nth ckpt (lowLane t.mask) 0
    other := t.other, otherTkt := t.otherTkt, otherGngi := t.otherGngi, path := path
    access := t.access, order := order }

/-- TAKING A TRAP (18_recovery.md:R319, 04_isa_core.md:R126): the warp that issued stops, and the record of
the trap is written to its control state. The path stands at the word that trapped, which has no effect. -/
def Warp.takeTrap (w : Warp) (lane order : Nat) (t : TrapV) : Warp :=
  match w.path? lane with
  | none => w
  | some p =>
    { w with trap := some (t.record p.mask p.hdr p.word w.ckpt order), stopped := true
             paths := updIf (fun q => q.mask.getLsbD lane) (fun q => { q with park := .run }) w.paths }

/-- Take a trap on the path of a reference; its record keeps the time at which it was raised (18_recovery.md:R320). -/
def State.takeTrap (s : State) (r : Ref) (t : TrapV) : State :=
  let s' := s.updRef r (fun w => w.takeTrap r.lane s.time.toNat t)
  { s' with traps := s.traps + 1 }

/-- A trap that an effect of an earlier word raises, at the place where that word stood; a warp that has trapped already keeps
its record. -/
def Warp.trapLate (w : Warp) (order : Nat) (t : TrapV) (path : Word) (hdr : DWord) (word : Nat) : Warp :=
  if w.trap.isSome then w else { w with stopped := true, trap := some (t.record path hdr word w.ckpt order) }

/-- Take a late trap, unless the block is killed already. -/
def State.trapLate (s : State) (r : Ref) (t : TrapV) (path : Word) (hdr : DWord) (word : Nat) : State :=
  if (s.block? r.lsq r.tkt).any (fun b => b.res == .killed) then s
  else { s.updRef r (fun w => w.trapLate s.time.toNat t path hdr word) with traps := s.traps + 1 }

/-- The modes of `tret` and `refres` (04_isa_core.md:R127). -/
inductive RetMode where
  | retry | skip | ckpt
  deriving DecidableEq, Repr

/-- The mode of a MOD value. -/
def RetMode.ofMod : Nat → RetMode
  | 0 => .retry | 1 => .skip | _ => .ckpt

/-- The paths of the checkpoints of some lanes. -/
def Warp.ckptPaths (w : Warp) (m : Word) : List Path :=
  (lanesOf m).map (fun l => Path.at (maskOf [l]) (nth w.ckpt l 0))

/-- A parked `waitw` issues its word again: it evaluates its condition afresh, through a new translation (11_isa_memory.md:R259;
20_isa_system.md:R361). -/
def Path.rewait (p : Path) : Path :=
  match p.park with
  | .waitw _ _ _ _ _ => { p with park := .run }
  | _ => p

/-- Whether a path stands at the word of a record. A word that was over before it trapped, as a held-back float atomic may be, is not
issued again (log 54). -/
def TrapRec.stands (t : TrapRec) (p : Path) : Bool := p.hdr == t.hdr && max p.word 1 == t.word

/-- RETURNING FROM A TRAP (04_isa_core.md:R127, 09_prog_filter.md:R211): the lanes of the trap mask go where
the mode says, the other lanes of the trapped path issue word j again, and the other paths resume where
they stood, their conditions judged afresh. A path that has left the word stays where it stands, but for `.ckpt`. DESIGN CHOICE (log 64):
`.skip` of a path whose clause has not started, since its header could not be fetched, goes on at the header + 16, as a clause that
starts there. -/
def Warp.returnFrom (w : Warp) (t : TrapRec) (m : RetMode) : Warp :=
  let w := { w with trap := none, stopped := false, holder := .free, paths := w.paths.map Path.rewait }
  match w.path? (lowLane t.path) with
  | none => w
  | some p =>
    let mine := p.mask &&& t.mask
    let rest := p.mask &&& ~~~t.mask
    match m with
    | .retry => w
    | .skip =>
      if !t.stands p then w
      else
      let q := { p with mask := mine }
      let moved := if q.lastWord then Path.at mine (nextClause p.hdr p.held)
        else { q with word := p.word + 1, park := .run }
      w.replacePath (lowLane p.mask) [{ p with mask := rest }, moved]
    | .ckpt => w.replacePath (lowLane p.mask) ({ p with mask := rest } :: w.ckptPaths mine)

/-! ## Memory at its home -/

/-- One byte of device or host memory. -/
def Memory.byte (m : Memory) (sys : Bool) (pa : Nat) : Byte :=
  if sys then cget m.host pa else cget m.dev pa

/-- Consecutive bytes. -/
def Memory.bytes (m : Memory) (sys : Bool) (pa len : Nat) : List Byte :=
  if sys then cgetMany m.host pa len else cgetMany m.dev pa len

/-- Whether the 32-byte sector of an address is poisoned (18_recovery.md:R323). -/
def Memory.poisoned (m : Memory) (sys : Bool) (pa : Nat) : Bool :=
  if sys then cget m.hostPoison (pa / 32) == 1 else cget m.devPoison (pa / 32) == 1

/-- Whether an access to an address cannot be completed: host memory that the host link does not reach (16_isolation.md:R303). -/
def Memory.unreachable (m : Memory) (sys : Bool) (pa : Nat) : Bool := sys && cget m.hostLost (pa / 4096) == 1

/-- The indices of the sectors of a range. -/
def sectorsOf (pa len : Nat) : List Nat :=
  if len = 0 then [] else (List.range ((pa + len - 1) / 32 - pa / 32 + 1)).map (· + pa / 32)

/-- Whether a read of 64 bytes of host memory, an entry of the command ring or a descriptor, faults or meets poison
(22_attach.md:R378). -/
def Memory.unreadable (m : Memory) (pa : Nat) : Bool :=
  (sectorsOf pa 64).any (fun k => m.poisoned true (32 * k) || m.unreachable true (32 * k))

/-- The poison marks after a store: a sector wholly covered is cleared, or marked when the writer marks it
(18_recovery.md:R323). -/
def poisonAfter (c : Cells 1) (pa len : Nat) (mark : Bool) : Cells 1 :=
  (sectorsOf pa len).foldl (fun c i =>
    if mark then cset c i 1
    else if pa ≤ 32 * i ∧ 32 * i + 32 ≤ pa + len then cset c i 0 else c) c

/-- The sectors that ranges of bytes, address and length, wholly cover between them. -/
def coveredSectors (rs : List (Nat × Nat)) : List Nat :=
  (rs.flatMap (fun r => sectorsOf r.1 r.2)).eraseDups.filter (fun k =>
    (List.range 32).all (fun j => rs.any (fun r => decide (r.1 ≤ 32 * k + j ∧ 32 * k + j < r.1 + r.2))))

/-- Write bytes, with the rule of poison. -/
def Memory.write (m : Memory) (sys : Bool) (pa : Nat) (data : List Byte) (mark : Bool) : Memory :=
  if sys then
    { m with host := csetMany m.host pa data, hostPoison := poisonAfter m.hostPoison pa data.length mark }
  else
    { m with dev := csetMany m.dev pa data, devPoison := poisonAfter m.devPoison pa data.length mark }

/-- The canonical form of memory: every sparse store of it is canonical. -/
def Memory.wf (m : Memory) : Bool :=
  cwf m.dev && cwf m.devPoison && cwf m.host && cwf m.hostPoison && cwf m.lmax && cwf m.hostLost

/-- A number of `n` bytes at a physical address, little-endian. -/
def Memory.nat (m : Memory) (sys : Bool) (pa n : Nat) : Nat := leNat (m.bytes sys pa n)

/-- Bytes of a copy replaced by stored bytes. -/
def patchBytes (data : List Byte) (base pa : Nat) (st : List Byte) : List Byte :=
  let lo := pa - base
  let skip := base - pa
  data.take lo ++ (st.drop skip).take (data.length - lo) ++ data.drop (lo + (st.length - skip))

/-- Whether a range of bytes has a byte in a line. -/
def inLine (pa len line : Nat) : Bool := decide (pa < 128 * line + 128 ∧ 128 * line < pa + len)

/-- The poisoned sectors of a copy after a store: one wholly covered is clean, and one that the writer marks is poisoned
(18_recovery.md:R323). -/
def copyPoison (line pa len : Nat) (mark : Bool) (l : List Nat) : List Nat :=
  let hit := (sectorsOf pa len).filter (fun i => i / 4 == line)
  if mark then l.filter (fun i => !hit.contains i) ++ hit
  else l.filter (fun i => !(decide (pa ≤ 32 * i ∧ 32 * i + 32 ≤ pa + len)))

/-- The own core's copies of the lines of a store are updated, with the rule of poison (10_ordering.md:R216). -/
def updateCopies (core : Nat) (pa : Nat) (data : List Byte) (mark : Bool) (l : List L1Copy) : List L1Copy :=
  updIf (fun c => c.core == core && inLine pa data.length c.line)
    (fun c => { c with data := patchBytes c.data (128 * c.line) pa data
                       poison := copyPoison c.line pa data.length mark c.poison }) l

/-- The conditions of `waitw` (11_isa_memory.md:R259). -/
def waitwHolds (cond : Nat) (x cmp : DWord) : Bool :=
  match cond with
  | 0 => x != cmp
  | 1 => x == cmp
  | 2 => decide (cmp.toNat ≤ x.toNat)
  | _ => decide (cmp.toNat < x.toNat)

/-- A parked `waitw` is judged when its home performs a store on its line (11_isa_memory.md:R259). -/
def Path.wake (m : Memory) (sys : Bool) (pa len : Nat) (p : Path) : Path :=
  match p.park with
  | .waitw ys ya cond cmp _ =>
    if ys = sys ∧ pa / 128 ≤ ya / 128 ∧ ya / 128 ≤ (pa + len - 1) / 128 ∧
        waitwHolds cond (BitVec.ofNat 64 (m.nat ys ya 8)) cmp then
      { p with park := .released true 0 } else p
  | _ => p

/-- A warp that runs judges its parked `waitw` words; one that is held or has trapped judges them afresh when it resumes
(20_isa_system.md:R361). -/
def Warp.wake (m : Memory) (sys : Bool) (pa len : Nat) (w : Warp) : Warp :=
  if w.stopped then w else { w with paths := w.paths.map (Path.wake m sys pa len) }

/-- Update every warp and handler. -/
def State.mapWarps (s : State) (f : Warp → Warp) : State :=
  { s with blocks := s.blocks.map (fun b =>
      { b with warps := b.warps.map f, handler := b.handler.map (fun a => { a with warp := f a.warp }) }) }

/-- Update every path of every warp and handler. -/
def State.mapPaths (s : State) (f : Path → Path) : State :=
  s.mapWarps (fun w => { w with paths := w.paths.map f })

/-- Add a number to an ascending list without repeats. -/
def insertNat (n : Nat) : List Nat → List Nat
  | [] => [n]
  | x :: r => if n < x then n :: x :: r else if n = x then x :: r else x :: insertNat n r

/-- Whether queue `q` of a table is enabled (13_progress.md:R260, bit 161 of its descriptor). -/
def Memory.queueOn (m : Memory) (table q : Nat) : Bool := (m.byte false (table + 64 * q + 20)).getLsbD 1

/-- A store to the notify word of an enabled queue sets its pending bit (13_progress.md:R262). -/
def State.notify (s : State) (pa len : Nat) : State :=
  match s.front.table with
  | none => s
  | some t =>
    if pa + len ≤ t ∨ t + 64 * 4096 ≤ pa then s
    else
      let lo := (pa - t) / 64
      let qs := ((List.range ((pa + len - t) / 64 + 1 - lo)).map (· + lo)).filter (fun q =>
        decide (q < 4096 ∧ pa < t + 64 * q + 4 ∧ t + 64 * q < pa + len) && s.mem.queueOn t q)
      { s with front := { s.front with pending := qs.foldl (fun l q => insertNat q l) s.front.pending } }

/-! ## Where an address lives -/

/-- The 4 KiB granule of a physical address (01_device.md:R16). -/
def granuleOf (pa : Nat) : Nat := pa / 4096

/-- The logical memory bank of an address. -/
def bankOf (pa : Nat) : Nat := granuleOf pa % 64

/-- The compute die of an address's home slice. -/
def homeDie (pa : Nat) : Nat := granuleOf pa / 64 % 2

/-- THE HOME SLICE of an address: slice `Bank` on compute die `HomeDie` (01_device.md:R16). -/
def homeSlice (pa : Nat) : Nat := 64 * homeDie pa + bankOf pa

/-- The stack that backs a physical address (01_device.md:R16). -/
def stackOf (pa : Nat) : Nat := bankOf pa % 8

/-- The L2 set of a line: one of the 768 sets of 16 lines of 128 bytes that the 1.5 MiB of the home slice of its address hold
(01_device.md:R16). -/
def setOf (line : Nat) : Nat × Nat := (homeSlice (128 * line), Config.lineSet line % 768)

/-- Whether an access to host memory carries the TEE indication: in confidential mode, for memory that the session has declared
trusted (16_isolation.md:R310). -/
def State.teeOut (s : State) (pa : Nat) : Bool :=
  s.sec.confidential && s.sec.trusted.any (fun r => decide (r.1 ≤ pa ∧ pa < r.1 + r.2))

/-- An access of the device to host memory goes out (16_isolation.md:R310). -/
def State.noteSys (s : State) (sys : Bool) (pa : Nat) : State :=
  if sys && s.sec.confidential then { s with sec := { s.sec with lastSys := some (pa / 65536, s.teeOut pa) } } else s

/-- A marked sector is written, or an error strikes one: it stays poisoned after a word some of whose pieces there have been
performed (18_recovery.md:R323). -/
def uncover (sys : Bool) (ks : List Nat) (l : List Cover) : List Cover :=
  l.filter (fun c => !(c.begun && c.sys == sys && ks.contains c.sector))

/-- PERFORM A STORE AT ITS HOME (10_ordering.md:R213): the bytes change, the storing core's own copies follow, the host's
copies of a device line are back-invalidated (22_attach.md:R374), waiters on the line judge their conditions, and a notify
word is reported. `core` is none for a store that no core issues. -/
def State.homeStore (s : State) (core : Option Nat) (sys : Bool) (pa : Nat) (data : List Byte) (mark : Bool) :
    State :=
  let m := s.mem.write sys pa data mark
  let m := match core, sys with
    | some c, false => { m with l1 := updateCopies c pa data mark m.l1 }
    | _, _ => m
  let m := if sys then m else { m with hostLines := m.hostLines.filter (fun k => !inLine pa data.length k) }
  let cs := if mark then uncover sys (sectorsOf pa data.length) s.covers else s.covers
  let s := { s with mem := m, covers := cs }.mapWarps (Warp.wake m sys pa data.length)
  if sys then s.noteSys sys pa else s.notify pa data.length

/-- Sectors are clean, in memory and in the copies of a core. -/
def Memory.clean (m : Memory) (core : Nat) (sys : Bool) (ks : List Nat) : Memory :=
  let wipe := fun c : Cells 1 => ks.foldl (fun c k => cset c k 0) c
  if sys then { m with hostPoison := wipe m.hostPoison }
  else
    { m with devPoison := wipe m.devPoison
             l1 := updIf (fun c => c.core == core) (fun c => { c with poison := c.poison.filter (fun k => !ks.contains k) }) m.l1 }

/-- A piece of a word's stores has been performed: the sectors of which it was the last piece have been stored whole, and are clean
(18_recovery.md:R323). -/
def State.coverDone (s : State) (h : HomeOp) : State :=
  let mine := fun c : Cover => c.op == h.op && c.sys == h.sys && (sectorsOf h.pa h.data.length).contains c.sector
  let whole := fun c : Cover => mine c && decide (c.left ≤ 1)
  { s with covers := updIf mine (fun c => { c with left := c.left - 1, begun := true }) (s.covers.filter (fun c => !whole c))
           mem := s.mem.clean h.core h.sys ((s.covers.filter whole).map Cover.sector) }

/-- Lmax of the line of an address; 0 for host memory (10_ordering.md:R216, R217). -/
def Memory.lmaxOf (m : Memory) (sys : Bool) (pa : Nat) : DWord := if sys then 0 else cget m.lmax (pa / 128)

/-- Whether the Csys of a store is a time that the host link reports: a store to host memory, or to a device line that the
host caches (10_ordering.md:R218). -/
def Memory.linked (m : Memory) (sys : Bool) (pa len : Nat) : Bool := sys || m.hostLines.any (inLine pa len)

/-- The completion times of a store performed now: Cchip, Cpod and the least Csys (10_ordering.md:R218). -/
def State.completion (s : State) (sys : Bool) (pa : Nat) : DWord × DWord × DWord :=
  let c := tmax s.time (s.mem.lmaxOf sys pa)
  (c, c + 40, if sys then s.time else c + 40)

/-! ## Translation -/

/-- What a translation gives (16_isolation.md:R302). -/
structure Xlat where
  sys : Bool
  pa : Nat
  lc : Nat
  tso : Bool
  deriving DecidableEq, Repr

/-- Kinds of access: a load, a store or atomic, an instruction fetch. -/
inductive Acc where
  | load | store | fetch
  deriving DecidableEq, Repr

/-- The access type passed with an escalation (22_attach.md:R388); 4 is an asynchronous copy or a handle fetch. -/
def Acc.code : Acc → Nat
  | .load => 1 | .store => 2 | .fetch => 3

/-- The levels of the walk: index position and width, alignment of the table below in bits, and page size of a leaf
(0 where a leaf is not allowed) (16_isolation.md:R301). -/
def walkLevels : List (Nat × Nat × Nat × Nat) :=
  [(48, 8, 12, 0), (39, 9, 12, 0), (30, 9, 12, 30), (21, 9, 8, 21), (16, 5, 0, 16)]

/-- The malformations of a table entry at a level (16_isolation.md:R302, R303 kind 3). -/
def entryBad (e : Nat) (leafBits nextAlign : Nat) : Bool :=
  let leaf := fld e 1 1 == 1
  let pa := fld e 16 36 * 65536
  let pal := fld e 8 8 * 256
  let sys := fld e 4 1 == 1
  fld e 60 4 != 0 || fld e 52 4 != 0 || fld e 5 3 != 0 ||
  (if leaf then
    leafBits == 0 || pa % 2 ^ leafBits != 0 || pal != 0 || (!sys && decide (2 ^ 39 ≤ pa))
   else
    nextAlign == 0 || fld e 56 4 != 0 || (pa + pal) % 2 ^ nextAlign != 0 ||
      (!sys && decide (2 ^ 39 ≤ pa + pal)))

/-- Walk the tables from one at `base`; the fault kind, or the leaf entry and its page size (16_isolation.md:R301 to R303):
kind 7 for an entry that is poisoned or cannot be read over the host link. -/
def walkFrom (m : Memory) (va : Nat) : List (Nat × Nat × Nat × Nat) → Bool → Nat → Except Nat (Nat × Nat)
  | [], _, _ => .error 3
  | (lo, len, nextAlign, leafBits) :: rest, sys, base =>
    let ea := base + 8 * fld va lo len
    if m.poisoned sys ea || m.unreachable sys ea then .error 7
    else
      let e := m.nat sys ea 8
      if e % 2 = 0 then .error 2
      else if entryBad e leafBits nextAlign then .error 3
      else if fld e 1 1 = 1 then .ok (e, leafBits)
      else walkFrom m va rest (fld e 4 1 == 1) (fld e 16 36 * 65536 + fld e 8 8 * 256)

/-- The translation held by a leaf entry. -/
def TlbEnt.ofLeaf (ctx va e n : Nat) : TlbEnt :=
  { ctx := ctx, page := va / 2 ^ n, bits := n, pa := fld e 16 36 * 65536, lc := fld e 57 3
    tso := fld e 56 1 == 1, sys := fld e 4 1 == 1, x := fld e 3 1 == 1, w := fld e 2 1 == 1 }

/-- The descriptor of a context. -/
def State.ctxDesc (s : State) (ctx : Nat) : BitVec 512 := (nth s.ctxs ctx CtxEnt.absent).desc

/-- The TLB entry of an address, or the walk that fills it (16_isolation.md:R301, R304). -/
def State.lookup (s : State) (ctx va : Nat) : Except Nat TlbEnt :=
  match s.mem.tlb.find? (fun t => t.ctx == ctx && t.page == va / 2 ^ t.bits) with
  | some t => .ok t
  | none =>
    let d := s.ctxDesc ctx
    match walkFrom s.mem va walkLevels (d.getLsbD 128) (bits d 448 64) with
    | .error k => .error k
    | .ok (e, n) => .ok (TlbEnt.ofLeaf ctx va e n)

/-- The faults of an access through a leaf: kinds 4, 5 and 6 (16_isolation.md:R303). -/
def TlbEnt.fault (t : TlbEnt) (acc : Acc) : Nat :=
  if (4 ≤ t.lc ∧ t.lc ≤ 6) ∨ (t.tso ∧ t.lc ≠ 0) then 4
  else if acc = .store ∧ (!t.w ∨ t.lc = 7) then 5
  else if acc = .fetch ∧ !t.x then 6 else 0

/-- Translate one address for one kind of access: the fault kind, or the translation
(16_isolation.md:R301 to R303). Kind 1 is an address with bits above 55. -/
def State.translate (s : State) (ctx va : Nat) (acc : Acc) : Except Nat Xlat :=
  if 2 ^ 56 ≤ va then .error 1
  else match s.lookup ctx va with
    | .error k => .error k
    | .ok t =>
      let f := t.fault acc
      if f ≠ 0 then .error f
      else .ok { sys := t.sys, pa := t.pa + va % 2 ^ t.bits, lc := t.lc, tso := t.tso }

/-- Install the translation of an address, when its walk succeeds (16_isolation.md:R304). -/
def State.fillTlb (s : State) (ctx va : Nat) : State :=
  if s.mem.tlb.any (fun t => t.ctx == ctx && t.page == va / 2 ^ t.bits) then s
  else match s.lookup ctx va with
    | .error _ => s
    | .ok t => { s with mem := { s.mem with tlb := s.mem.tlb ++ [t] } }

/-- The pieces of a range that each lie in one unit of `2 ^ n` bytes, ascending. -/
def pieces (n : Nat) : Nat → Nat → Nat → List (Nat × Nat)
  | 0, _, _ => []
  | f + 1, a, len =>
    if len = 0 then [] else
      let l := Nat.min len (2 ^ n - a % 2 ^ n)
      (a, l) :: pieces n f (a + l) (len - l)

/-- The pieces of a range by units of `2 ^ n` bytes. -/
def splitRange (n a len : Nat) : List (Nat × Nat) := pieces n (len / 2 ^ n + 2) a len

/-- Translate a range: the fault of the lowest kind with the first address that meets it, or the translated pieces
(16_isolation.md:R303). -/
def State.translateRange (s : State) (ctx va len : Nat) (acc : Acc) :
    Except (Nat × Nat) (List (Xlat × Nat)) :=
  (splitRange 16 va len).foldr (fun c r =>
    match s.translate ctx c.1 acc, r with
    | .error k, .error e => .error (if e.1 < k then e else (k, c.1))
    | .error k, .ok _ => .error (k, c.1)
    | .ok _, .error e => .error e
    | .ok x, .ok l => .ok ((x, c.2) :: l)) (.ok [])

/-- Install the translations of a range. -/
def State.fillRange (s : State) (ctx va len : Nat) : State :=
  (splitRange 16 va len).foldl (fun s c => s.fillTlb ctx c.1) s

/-- The lease of a class in nanoseconds (10_ordering.md:R215). -/
def leaseOf : Nat → Nat
  | 1 => 128 | 2 => 512 | 3 => 4000 | _ => 0

/-- Whether a line of a translation is kept in L1 (10_ordering.md:R215, R216). -/
def Xlat.cached (x : Xlat) : Bool := !x.sys && (x.lc == 1 || x.lc == 2 || x.lc == 3 || x.lc == 7)

/-- Whether a core may use a copy for a load performed now (10_ordering.md:R216). -/
def L1Copy.usable (c : L1Copy) (t : DWord) : Bool :=
  match c.expiry with
  | none => true
  | some e => decide (t.toNat < e.toNat)

/-- Scratchpad bytes that the blocks of a core hold. -/
def State.scratchUsed (s : State) (core : Nat) : Nat :=
  ((s.blocks.filter (fun b => b.res != .saved && (b.coreAt core).isSome)).map (fun b =>
    match s.grid? b.lsq with | some g => g.rec_.scr + g.rec_.stg | none => 0)).foldl (· + ·) 0

/-- The lines that the L1 of a core holds at most: 128 KiB, and the scratchpad that no allocation holds
(01_device.md:R11; 13_progress.md:R280). -/
def State.l1Lines (s : State) (core : Nat) : Nat := (2 ^ 17 + (2 ^ 19 - s.scratchUsed core)) / 128

/-- The first `n` copies of a core, and those of the others. -/
def keepCopies (core : Nat) : Nat → List L1Copy → List L1Copy
  | _, [] => []
  | n, c :: r =>
    if c.core ≠ core then c :: keepCopies core n r
    else match n with
      | 0 => keepCopies core 0 r
      | n + 1 => c :: keepCopies core n r

/-- A core drops the copies, oldest first, for which its L1 has no room (13_progress.md:R280). -/
def State.trimL1 (s : State) (core : Nat) : State :=
  { s with mem := { s.mem with l1 := keepCopies core (s.l1Lines core) s.mem.l1 } }

/-- A core drops its copies of the lines of a range. -/
def State.forgetLines (s : State) (core : Nat) (sys : Bool) (pa len : Nat) : State :=
  if sys then s
  else { s with mem := { s.mem with l1 := s.mem.l1.filter (fun c => !(c.core == core && inLine pa len c.line)) } }

/-- Fill the L1 copy of a line: it is stamped with its expiry, and Lmax follows (10_ordering.md:R216, R217). -/
def State.fillLine (s : State) (core ctx : Nat) (x : Xlat) : State :=
  let line := x.pa / 128
  let e := s.time + BitVec.ofNat 64 (leaseOf x.lc)
  let copy : L1Copy :=
    { core := core, ctx := ctx, line := line, expiry := if x.lc = 7 then none else some e
      data := s.mem.bytes false (128 * line) 128
      poison := (sectorsOf (128 * line) 128).filter (fun i => s.mem.poisoned false (32 * i)) }
  let m := s.mem
  let m := { m with l1 := copy :: m.l1.filter (fun c => !(c.core == core && c.line == line)) }
  { s with mem := if x.lc = 7 then m else { m with lmax := cset m.lmax line (tmax (cget m.lmax line) e) } }.trimL1 core

/-- PERFORM A LOAD of bytes that lie in one line (10_ordering.md:R213, R216): from an unexpired copy of the
core, or at the home. The bytes, whether a sector read is poisoned, and the state with the fill; a load that the home serves leaves
no older copy of a line that is not kept, since no later load of the warp returns an older value. -/
def State.loadLine (s : State) (core ctx : Nat) (x : Xlat) (len : Nat) : List Byte × Bool × State :=
  let line := x.pa / 128
  let home := (s.mem.bytes x.sys x.pa len, (sectorsOf x.pa len).any (fun i => s.mem.poisoned x.sys (32 * i)))
  if x.cached then
    match s.mem.l1.find? (fun c => c.core == core && c.line == line && c.usable s.time) with
    | some c => ((c.data.drop (x.pa % 128)).take len, (sectorsOf x.pa len).any (fun i => c.poison.contains i), s)
    | none => (home.1, home.2, s.fillLine core ctx x)
  else (home.1, home.2, (s.noteSys x.sys x.pa).forgetLines core x.sys x.pa len)

/-! ## The error log -/

/-- Add an uncorrectable event to the log, which keeps the last 256 (22_attach.md:R381). -/
def Attach.logEvent (a : Attach) (e : UncEvent) : Attach :=
  { a with errLog := (a.errLog ++ [e]).drop (a.errLog.length - 255), uncTotal := a.uncTotal + 1 }

/-- A fabric payload arrives with a sector marked (18_recovery.md:R323; 22_attach.md:R381). -/
def State.logFabric (s : State) (pa : Nat) : State :=
  { s with att := s.att.logEvent { t := s.time, pa := pa / 32 * 32, stack := 255, kind := 3, ctx := 255 } }

/-- A context consumes a poisoned sector: the events of the sector that no context has consumed name it, and one that the host
link delivers is detected now (22_attach.md:R381). -/
def State.consumeSector (s : State) (ctx : Nat) (sys : Bool) (k : Nat) : State :=
  if !s.mem.poisoned sys (32 * k) then s
  else
    let mine := fun e : UncEvent => e.pa == 32 * k && (e.kind == 2) == sys
    let note := fun e : UncEvent => if e.ctx = 255 then { e with ctx := ctx } else e
    if s.att.errLog.any mine then { s with att := { s.att with errLog := updIf mine note s.att.errLog } }
    else if sys then { s with att := s.att.logEvent { t := s.time, pa := 32 * k, stack := 255, kind := 2, ctx := ctx } }
    else s

/-- The service cores read 64 bytes of host memory, for no context: an access that goes out, and in the error log the poison that the
host link delivers with them (16_isolation.md:R310; 22_attach.md:R378, R381). -/
def State.deviceRead (s : State) (pa : Nat) : State :=
  (sectorsOf pa 64).foldl (fun s k => s.consumeSector 255 true k) (s.noteSys true pa)

/-- A context consumes the sectors of some pieces of memory. -/
def State.consume (s : State) (ctx : Nat) (ps : List (Xlat × Nat)) : State :=
  ps.foldl (fun s p => (sectorsOf p.1.pa p.2).foldl (fun s k => s.consumeSector ctx p.1.sys k) s) s

/-- The poisoned entry at which the walk of an address ends: its space and address (16_isolation.md:R303, kind 7). -/
def poisonedEntry (m : Memory) (va : Nat) : List (Nat × Nat × Nat × Nat) → Bool → Nat → Option (Bool × Nat)
  | [], _, _ => none
  | (lo, len, _, _) :: rest, sys, base =>
    let ea := base + 8 * fld va lo len
    let e := m.nat sys ea 8
    if m.poisoned sys ea then some (sys, ea)
    else if e % 2 = 0 ∨ fld e 1 1 = 1 then none
    else poisonedEntry m va rest (fld e 4 1 == 1) (fld e 16 36 * 65536 + fld e 8 8 * 256)

/-- A walk for a context that meets a poisoned entry consumes it (22_attach.md:R381). -/
def State.consumeWalk (s : State) (ctx va : Nat) : State :=
  let d := s.ctxDesc ctx
  match s.lookup ctx va with
  | .error 7 => match poisonedEntry s.mem va walkLevels (d.getLsbD 128) (bits d 448 64) with
    | some x => s.consumeSector ctx x.1 (x.2 / 32)
    | none => s
  | _ => s

/-- The walks for the pages of a range. -/
def State.consumeWalks (s : State) (ctx va len : Nat) : State :=
  (splitRange 16 va len).foldl (fun s c => s.consumeWalk ctx c.1) s

/-! ## Groups, replies and counters -/

/-- A fresh operation name. -/
def State.newId (s : State) : Nat × State := (s.nextId, { s with nextId := s.nextId + 1 })

/-- The counter that a long-latency word selects in its clause header (03_encoding.md:R59, R62). -/
def counterOf (held : QWord) (csel : Bool) : Option Nat :=
  let n := if csel then bits held 20 4 else bits held 16 4
  if n < 12 then some n else none

/-- Whether a counter may rise (02_state.md:R31). -/
def Warp.canRaise (w : Warp) : Option Nat → Bool
  | none => true
  | some n => decide (nth w.cnt n 0 < 63)

/-- A counter rises by one. -/
def Warp.raise (w : Warp) : Option Nat → Warp
  | none => w
  | some n => { w with cnt := updAt w.cnt n (· + 1) }

/-- A counter falls by one. -/
def Warp.lower (w : Warp) : Option Nat → Warp
  | none => w
  | some n => { w with cnt := updAt w.cnt n (· - 1) }

/-- The completion-time registers follow a reply (10_ordering.md:R219). -/
def Warp.complete (w : Warp) (chip : Bool) (c p y : DWord) : Warp :=
  { w with wctc := if chip then tmax w.wctc c else w.wctc, wctp := tmax w.wctp p, wcts := tmax w.wcts y }

/-- The warp number that stands for a block's handler in operation groups. -/
def handlerWrp : Nat := 128

/-- The warp of a block, or its handler, that an operation names by its number. -/
def opRef (lsq tkt wrp : Nat) : Ref := { lsq := lsq, tkt := tkt, wrp := wrp, lane := 0, handler := wrp == handlerWrp }

/-- See `opRef`. -/
def Block.opRef (b : Block) (wrp : Nat) : Ref := Machine.opRef b.lsq b.tkt wrp

/-- The user handler of a block by its name, or else the name that it takes once its activation has ended. -/
def Ref.past (lsq tkt wrp : Nat) (r : Ref) : Ref :=
  if r.lsq = lsq ∧ r.tkt = tkt ∧ r.handler then { r with wrp := wrp, handler := false } else r

/-- THE ACTIVATION OF A BLOCK ENDS: the operations that its handler has started go on under a number of their own, of no warp and no
later activation, whose counters they do not change (02_state.md:R31; 18_recovery.md:R322). -/
def State.endHandler (s : State) (lsq tkt : Nat) : State :=
  let n := s.newId
  let wrp := 128 * (n.1 + 2)
  let ref := Ref.past lsq tkt wrp
  let num := fun (l t k : Nat) => if l = lsq ∧ t = tkt ∧ k = handlerWrp then wrp else k
  let sign := fun (b : Block) (x : Signer) => { x with wrp := num b.lsq b.tkt x.wrp }
  let rec_ := fun m : MmaRec => { m with src := ref m.src }
  { n.2 with
    groups := s.groups.map (fun g => { g with wrp := num g.lsq g.tkt g.wrp })
    copies := s.copies.map (fun o => { o with src := ref o.src })
    casts := s.casts.map (fun o => { o with src := ref o.src })
    rops := s.rops.map (fun o => { o with src := ref o.src })
    grids := s.grids.map (fun g => { g with detAtoms := g.detAtoms.map (fun a =>
      { a with wrp := num g.lsq a.tkt a.wrp, rop := a.rop.map (fun o => { o with src := ref o.src }) }) })
    blocks := s.blocks.map (fun b => { b with
      mmas := b.mmas.map (fun m => { m with rec_ := rec_ m.rec_, signers := m.signers.map (sign b), last := ref m.last })
      cores := b.cores.map (fun c => { c with scrums := c.scrums.map (fun k =>
        { k with pend := k.pend.map rec_, signers := k.signers.map (sign b) }) }) }) }

/-- Update the warp that started an operation, whether or not its block is resident. -/
def State.updOpWarp (s : State) (g : OpGroup) (f : Warp → Warp) : State := s.updRef (opRef g.lsq g.tkt g.wrp) f

/-- A waiting `drain` learns the Cpod of an operation it waits for (10_ordering.md:R231). -/
def Path.drained (op : Nat) (c : DWord) (p : Path) : Path :=
  match p.park with
  | .drain kind ops m => if ops.contains op then { p with park := .drain kind ops (tmax m c) } else p
  | _ => p

/-- The outgoing path of a core keeps the largest Cpod of its completed operations (10_ordering.md:R231). -/
def State.notePath (s : State) (g : OpGroup) : State :=
  if g.kind < 2 then s
  else
    let k := 2 * g.core + (g.kind - 2)
    { s with pathCpod := cset s.pathCpod k (tmax (cget s.pathCpod k) g.cpod) }.mapPaths (Path.drained g.op g.cpod)

/-- An operation group with nothing outstanding completes: its counter falls (03_encoding.md:R62). -/
def State.closeGroup (s : State) (op : Nat) : State :=
  match s.groups.find? (fun g => g.op == op) with
  | some g =>
    if g.left = 0 then
      let s := { s with groups := s.groups.filter (fun g => g.op != op) }
      (s.updOpWarp g (fun w => w.lower g.ctr)).notePath g
    else s
  | none => s

/-- One part of a group has returned its completion times. -/
def State.groupReply (s : State) (op : Nat) (chip : Bool) (c p y : DWord) : State :=
  match s.groups.find? (fun g => g.op == op) with
  | some g =>
    let f := fun g : OpGroup => { g with left := g.left - 1, cpod := tmax g.cpod p }
    let s := { s with groups := updIf (fun g => g.op == op) f s.groups }
    (s.updOpWarp g (fun w => w.complete chip c p y)).closeGroup op
  | none => s

/-- One part of a group has ended without completion times. -/
def State.groupDone (s : State) (op : Nat) : State :=
  let f := fun g : OpGroup => { g with left := g.left - 1 }
  { s with groups := updIf (fun g => g.op == op) f s.groups }.closeGroup op

/-- Queue a reply with its completion times; `link` tells whether the host link reports its Csys. -/
def State.queueReply (s : State) (op : Nat) (link chip : Bool) (c p y : DWord) : State :=
  let n := s.newId
  { n.2 with replies := s.replies ++ [{ id := n.1, op := op, chip := chip, cchip := c, cpod := p, csys := y, link := link }] }

/-- Queue the reply to a store or an atomic performed now. -/
def State.pushReply (s : State) (op : Nat) (link sys : Bool) (pa : Nat) : State :=
  let c := s.completion sys pa
  s.queueReply op link (!sys) c.1 c.2.1 c.2.2

/-- A pending store is performed at its home, which replies (10_ordering.md:R213, R218). DESIGN CHOICE (log 6): all of one lane's
bytes in one line are performed in one step, where R212 promises it for each aligned piece of 16 bytes only. -/
def State.performHome (s : State) (h : HomeOp) : State :=
  let link := s.mem.linked h.sys h.pa h.data.length
  let s := { s with homeOps := s.homeOps.filter (fun x => x.id != h.id) }
  ((s.homeStore (some h.core) h.sys h.pa h.data h.mark).coverDone h).pushReply h.op link h.sys h.pa

/-- Whether a pending store touches a line of a range. -/
def HomeOp.touches (h : HomeOp) (sys : Bool) (pa len : Nat) : Bool :=
  h.sys == sys && decide (h.pa / 128 ≤ (pa + len - 1) / 128 ∧ pa / 128 ≤ (h.pa + h.data.length - 1) / 128)

/-- A warp's pending stores on the lines of a range are performed before its next access to them
(10_ordering.md:R213, R216). With `tso`, all its pending stores are (10_ordering.md:R225). The stores of a word that come before
one of them are performed first (11_isa_memory.md:R239). -/
def State.flushOwn (s : State) (r : Ref) (x : Xlat) (len : Nat) : State :=
  let due := s.homeOps.filter (fun h =>
    s.groups.any (fun g => g.op == h.op && g.lsq == r.lsq && g.tkt == r.tkt && g.wrp == r.wrp) &&
      (x.tso || h.touches x.sys x.pa len))
  (s.homeOps.filter (fun h => due.any (fun d => d.op == h.op && decide (h.id ≤ d.id)))).foldl State.performHome s

/-! ## The event ring -/

/-- The 64-byte entry of an event (18_recovery.md:R329). -/
def eventEntry (t adr aux : DWord) (lsq tkt wrp mdl lost seq code typ : Nat) : Nat :=
  t.toNat * 2 ^ 448 + adr.toNat * 2 ^ 384 + aux.toNat * 2 ^ 320 + lsq % 2 ^ 64 * 2 ^ 192 +
    tkt % 2 ^ 32 * 2 ^ 160 + wrp % 128 * 2 ^ 146 + mdl % 64 * 2 ^ 140 + lost % 2 ^ 32 * 2 ^ 96 +
    seq % 2 ^ 32 * 2 ^ 64 + code % 256 * 2 ^ 8 + typ % 256

/-- The number of entries of a context's ring (18_recovery.md:R329). -/
def State.ringSize (s : State) (ctx : Nat) : Nat := 2 ^ (8 + bits (s.ctxDesc ctx) 68 4)

/-- The address of event `n` of a context (18_recovery.md:R329). -/
def State.eventAddr (s : State) (ctx n : Nat) : Nat :=
  bits (s.ctxDesc ctx) 384 64 + 64 * (n % s.ringSize ctx)

/-- Whether the device is in a reset with scrub: it accepts nothing, and nothing leaves it (16_isolation.md:R312, R315). -/
def State.sealed (s : State) : Bool := s.att.dst == .scrub

/-- `TIME` steps to a value; the time since the session's last heartbeat stays (16_isolation.md:R315; 19_quadrille.md:R353;
22_attach.md:R386). -/
def State.stepTime (s : State) (t : DWord) : State :=
  { s with time := t, sec := { s.sec with lastBeat := s.sec.lastBeat + (t - s.time) } }

/-- Change what the device keeps of one context. -/
def State.updCtx (s : State) (ctx : Nat) (f : CtxEnt → CtxEnt) : State := { s with ctxs := updAt s.ctxs ctx f }

/-- An event of a context that is counted and not written (18_recovery.md:R329). -/
def CtxEnt.drop (c : CtxEnt) : CtxEnt := { c with lost := c.lost + 1, lostTotal := c.lostTotal + 1 }

/-- An event of a context is written: it takes a number, and carries the count of those dropped (18_recovery.md:R329). -/
def CtxEnt.wrote (c : CtxEnt) : CtxEnt := { c with written := c.written + 1, lost := 0 }

/-- Post an event to a context's ring (18_recovery.md:R329): written when its entry is free, its address accepts a store and the
write can be completed, otherwise counted as lost. A context that does not exist receives nothing (16_isolation.md:R300). -/
def State.postEvent (s : State) (ctx typ code : Nat) (adr aux : DWord) (lsq tkt wrp mdl : Nat) : State :=
  let c := nth s.ctxs ctx CtxEnt.absent
  if !c.desc.getLsbD 64 then s
  else
    let va := s.eventAddr ctx c.written
    match (if c.written - c.taken ≥ s.ringSize ctx then .error 0 else s.translate ctx va .store) with
    | .error k => (if k = 7 then s.consumeWalk ctx va else s).updCtx ctx CtxEnt.drop
    | .ok x =>
      if s.mem.unreachable x.sys x.pa then s.updCtx ctx CtxEnt.drop
      else
        let e := eventEntry s.time adr aux lsq tkt wrp mdl c.lost c.written code typ
        (s.updCtx ctx CtxEnt.wrote).homeStore none x.sys x.pa (leBytes 64 e) false

end Sys2Proof.Machine
end

