-- ==== Sys2Proof/Machine/Flags.lean ====
section
/-! DEFINITION. The `FENV` flags (02_state.md:R40, 05_numbers.md:R137), the float formats
(05_numbers.md:R139, R145), exact values and the rounding every float result passes through
(05_numbers.md:R133 to R136, R153). -/

namespace Sys2Proof.Machine

/-- A set of `FENV` flags (02_state.md:R36). -/
abbrev Flags := BitVec 7

/-- Invalid operation. -/
def fNV : Flags := 1
/-- Division by zero. -/
def fDZ : Flags := 2
/-- Overflow. -/
def fOF : Flags := 4
/-- Underflow. -/
def fUF : Flags := 8
/-- Inexact. -/
def fNX : Flags := 16
/-- Precision exhausted. -/
def fPX : Flags := 32
/-- Saturated. -/
def fSAT : Flags := 64

/-- Flags raised under NF (02_state.md:R40). -/
def unlessNF (nf : Bool) (f : Flags) : Flags := if nf then 0 else f

/-- The rounding modes of 05_numbers.md:R133. -/
inductive Mode where
  | rne | rna | rtz | rup | rdn
  deriving DecidableEq, Repr

/-- The mode of a code 0 to 4. -/
def Mode.ofCode : Nat → Mode
  | 0 => .rne | 1 => .rna | 2 => .rtz | 3 => .rup | _ => .rdn

/-- How a format treats its top exponent (05_numbers.md:R139). -/
inductive FKind where
  | ieee | e4m3 | e2m1
  deriving DecidableEq, Repr

/-- A float format: `p` significand bits with the leading one, `eb` exponent bits. -/
structure Fmt where
  p : Nat
  eb : Nat
  kind : FKind
  deriving DecidableEq, Repr

/-- binary32. -/
def fmt32 : Fmt := ⟨24, 8, .ieee⟩
/-- bfloat16. -/
def fmtBf16 : Fmt := ⟨8, 8, .ieee⟩
/-- binary16. -/
def fmt16 : Fmt := ⟨11, 5, .ieee⟩
/-- E5M2. -/
def fmtE5m2 : Fmt := ⟨3, 5, .ieee⟩
/-- E4M3. -/
def fmtE4m3 : Fmt := ⟨4, 4, .e4m3⟩
/-- E2M1. -/
def fmtE2m1 : Fmt := ⟨2, 2, .e2m1⟩
/-- binary64. -/
def fmt64 : Fmt := ⟨53, 11, .ieee⟩
/-- VF_L (05_numbers.md:R146). -/
def fmtVf (l : Nat) : Fmt := ⟨l + 1, 15, .ieee⟩

/-- The exponent bias. -/
def Fmt.bias (f : Fmt) : Int := 2 ^ (f.eb - 1) - 1
/-- The least normal exponent. -/
def Fmt.emin (f : Fmt) : Int := 1 - f.bias
/-- The largest exponent of a finite value. -/
def Fmt.emax (f : Fmt) : Int :=
  match f.kind with
  | .ieee => 2 ^ f.eb - 2 - f.bias
  | .e4m3 => 8
  | .e2m1 => 2
/-- The significand of the largest finite value, as an integer of `p` bits. -/
def Fmt.maxM (f : Fmt) : Nat :=
  match f.kind with
  | .e4m3 => 14
  | _ => 2 ^ f.p - 1
/-- The bits of the largest finite value of a sign. -/
def Fmt.maxBits (f : Fmt) (neg : Bool) : Nat :=
  (if neg then 2 ^ (f.eb + f.p - 1) else 0) +
    match f.kind with
    | .ieee => (2 ^ f.eb - 2) * 2 ^ (f.p - 1) + (2 ^ (f.p - 1) - 1)
    | .e4m3 => 0x7E
    | .e2m1 => 0x7
/-- The sign bit of a sign. -/
def Fmt.signBit (f : Fmt) (neg : Bool) : Nat := if neg then 2 ^ (f.eb + f.p - 1) else 0
/-- The bits of an infinity of an IEEE-style format. -/
def Fmt.infBits (f : Fmt) (neg : Bool) : Nat := f.signBit neg + (2 ^ f.eb - 1) * 2 ^ (f.p - 1)
/-- The default NaN (05_numbers.md:R136); +0 for E2M1. -/
def Fmt.nanBits (f : Fmt) : Nat :=
  match f.kind with
  | .ieee => (2 ^ f.eb - 1) * 2 ^ (f.p - 1) + 2 ^ (f.p - 2)
  | .e4m3 => 0x7F
  | .e2m1 => 0

/-- An exact value: a NaN (signaling or quiet), an infinity, a zero, or ± m × 2^e with m positive. -/
inductive Num where
  | nan (sig : Bool)
  | inf (neg : Bool)
  | zero (neg : Bool)
  | fin (neg : Bool) (m : Nat) (e : Int)
  deriving DecidableEq, Repr

/-- The value ± m × 2^e, a zero of that sign when m is 0. -/
def Num.mk (neg : Bool) (m : Nat) (e : Int) : Num := if m = 0 then .zero neg else .fin neg m e

/-- The value of an integer. -/
def Num.ofInt (x : Int) : Num := Num.mk (decide (x < 0)) x.natAbs 0

/-- The sign of a value. -/
def Num.neg : Num → Bool
  | .nan _ => false
  | .inf n | .zero n | .fin n _ _ => n

/-- Whether a value is a NaN. -/
def Num.isNan : Num → Bool
  | .nan _ => true
  | _ => false
/-- Whether a value is a signaling NaN. -/
def Num.isSig : Num → Bool
  | .nan s => s
  | _ => false
/-- Whether a value is an infinity. -/
def Num.isInf : Num → Bool
  | .inf _ => true
  | _ => false
/-- Whether a value is a zero. -/
def Num.isZero : Num → Bool
  | .zero _ => true
  | _ => false

/-- The value with its sign turned. -/
def Num.negate : Num → Num
  | .nan s => .nan s
  | .inf n => .inf (!n)
  | .zero n => .zero (!n)
  | .fin n m e => .fin (!n) m e

/-- floor(log2 |x|) of ± m × 2^e (05_numbers.md:R158). -/
def expOf (m : Nat) (e : Int) : Int := e + Nat.log2 m

/-- Decode (05_numbers.md:R139, R145, R158). -/
def decodeF (f : Fmt) (ftz : Bool) (x : Nat) : Num :=
  let neg := fld x (f.eb + f.p - 1) 1 == 1
  let e := fld x (f.p - 1) f.eb
  let fr := fld x 0 (f.p - 1)
  let special := match f.kind with
    | .ieee => e == 2 ^ f.eb - 1
    | .e4m3 => e == 15 && fr == 7
    | .e2m1 => false
  if special then
    (if f.kind = .e4m3 then .nan false
     else if fr = 0 then .inf neg
     else .nan (f.p != 3 && fr / 2 ^ (f.p - 2) == 0))
  else if e = 0 then
    (if ftz then .zero neg else Num.mk neg fr (f.emin - (f.p - 1)))
  else .fin neg (fr + 2 ^ (f.p - 1)) (e - f.bias - (f.p - 1))

/-- The bits of a result with the flags it raises. -/
structure FRes where
  bits : Nat
  fl : Flags
  deriving DecidableEq, Repr

/-- m × 2^e as a multiple of 2^q: the rounded multiple, and whether it is inexact (05_numbers.md:R133). -/
def quant (mode : Mode) (neg : Bool) (m : Nat) (e q : Int) : Nat × Bool :=
  if q ≤ e then (m * 2 ^ (e - q).toNat, false)
  else
    let d := (q - e).toNat
    let fl := m / 2 ^ d
    let r := m % 2 ^ d
    let half := 2 ^ (d - 1)
    let up := match mode with
      | .rne => decide (half < r) || (r == half && fl % 2 == 1)
      | .rna => decide (half ≤ r)
      | .rtz => false
      | .rup => !neg && r != 0
      | .rdn => neg && r != 0
    (if up then fl + 1 else fl, r != 0)

/-- The bits of M × 2^q, where q is the quantum of the format at that magnitude. -/
def Fmt.encode (f : Fmt) (neg : Bool) (m : Nat) (q : Int) : Nat :=
  if m < 2 ^ (f.p - 1) then f.signBit neg + m
  else if m = 2 ^ f.p then f.signBit neg + (q + 1 + (f.p - 1) + f.bias).toNat * 2 ^ (f.p - 1)
  else f.signBit neg + (q + (f.p - 1) + f.bias).toNat * 2 ^ (f.p - 1) + (m - 2 ^ (f.p - 1))

/-- Overflow (05_numbers.md:R135). -/
def Fmt.overflow (f : Fmt) (neg : Bool) (mode : Mode) (sat : Bool) : FRes :=
  if f.kind = .e2m1 ∨ sat then ⟨f.maxBits neg, fSAT ||| fNX⟩
  else if f.kind = .e4m3 then ⟨f.nanBits, fOF ||| fNX⟩
  else
    let toInf := match mode with
      | .rne | .rna => true
      | .rtz => false
      | .rup => !neg
      | .rdn => neg
    ⟨if toInf then f.infBits neg else f.maxBits neg, fOF ||| fNX⟩

/-- An infinite result (05_numbers.md:R135, last paragraph; R136 adds NX in E2M1). -/
def Fmt.infinity (f : Fmt) (neg sat : Bool) : FRes :=
  match f.kind with
  | .ieee => ⟨f.infBits neg, 0⟩
  | .e4m3 => if sat then ⟨f.maxBits neg, fSAT⟩ else ⟨f.nanBits, fNV⟩
  | .e2m1 => ⟨f.maxBits neg, fSAT ||| fNX⟩

/-- A NaN result; in E2M1 it is +0 with NV (05_numbers.md:R136). -/
def Fmt.nan (f : Fmt) : FRes := ⟨f.nanBits, if f.kind = .e2m1 then fNV else 0⟩

/-- The compare M × 2^q > max finite of a format. -/
def Fmt.exceeds (f : Fmt) (m : Nat) (q : Int) : Bool :=
  let top := f.emax - (f.p - 1)
  if top ≤ q then decide (f.maxM < m * 2 ^ (q - top).toNat)
  else decide (f.maxM * 2 ^ (top - q).toNat < m)

/-- Round (05_numbers.md:R153). -/
def round (f : Fmt) (mode : Mode) (sat ftz : Bool) (x : Num) : FRes :=
  match x with
  | .nan _ => f.nan
  | .inf n => f.infinity n sat
  | .zero n => ⟨f.signBit n, 0⟩
  | .fin n m e =>
    let qt := expOf m e - (f.p - 1)
    let t := quant mode n m e qt
    if f.exceeds t.1 qt then f.overflow n mode sat
    else
      let qy := max qt (f.emin - (f.p - 1))
      let y := quant mode n m e qy
      let tiny := decide (expOf t.1 qt < f.emin)
      let nx : Flags := if y.2 then fNX else 0
      let uf : Flags := if tiny && y.2 then fUF else 0
      if ftz && decide (0 < y.1 ∧ y.1 < 2 ^ (f.p - 1)) then ⟨f.signBit n, fUF ||| fNX⟩
      else ⟨f.encode n y.1 qy, nx ||| uf⟩

/-- A rounding that also raises what an invalid operation or signaling operand raises (05_numbers.md:R136). -/
def FRes.nv (r : FRes) (b : Bool) : FRes := if b then { r with fl := r.fl ||| fNV } else r

/-- The exact sum of two values; an exact zero sum of opposite signs is +0, or −0 under RDN
(05_numbers.md:R134). ∞ − ∞ is a NaN. PRESUMED (log 53): the same holds of two zeros of opposite sign, of which R134 does
not speak. -/
def Num.add (mode : Mode) (a b : Num) : Num :=
  match a, b with
  | .nan s, .nan t => .nan (s || t)
  | .nan s, _ => .nan s
  | _, .nan s => .nan s
  | .inf x, .inf y => if x = y then .inf x else .nan false
  | .inf x, _ => .inf x
  | _, .inf y => .inf y
  | .zero x, .zero y => .zero (if x = y then x else mode == .rdn)
  | .zero _, y => y
  | x, .zero _ => x
  | .fin x m e, .fin y k g =>
    let q := min e g
    let sm : Int := (m * 2 ^ (e - q).toNat : Nat)
    let sk : Int := (k * 2 ^ (g - q).toNat : Nat)
    let s := (if x then -sm else sm) + (if y then -sk else sk)
    if s = 0 then .zero (mode == .rdn) else .fin (decide (s < 0)) s.natAbs q

/-- The exact product; 0 × ∞ is a NaN. -/
def Num.mul (a b : Num) : Num :=
  match a, b with
  | .nan s, .nan t => .nan (s || t)
  | .nan s, _ => .nan s
  | _, .nan s => .nan s
  | .inf _, .zero _ => .nan false
  | .zero _, .inf _ => .nan false
  | .inf x, y => .inf (x != y.neg)
  | x, .inf y => .inf (x.neg != y)
  | .zero x, y => .zero (x != y.neg)
  | x, .zero y => .zero (x.neg != y)
  | .fin x m e, .fin y k g => .fin (x != y) (m * k) (e + g)

/-- Whether adding two values is ∞ − ∞. -/
def Num.addInvalid : Num → Num → Bool
  | .inf x, .inf y => x != y
  | _, _ => false

/-- Whether multiplying two values is 0 × ∞. -/
def Num.mulInvalid : Num → Num → Bool
  | .inf _, .zero _ => true
  | .zero _, .inf _ => true
  | _, _ => false

/-- The bits kept of a quotient or root beyond its leading one, more than any format holds. -/
def wide : Nat := 400

/-- m ÷ k × 2^e with a sticky lowest bit: it rounds as the exact quotient does. -/
def quoNum (neg : Bool) (m k : Nat) (e : Int) : Num :=
  let sh := wide + Nat.log2 k - Nat.log2 m
  let n := m * 2 ^ sh
  .fin neg (2 * (n / k) + (if n % k = 0 then 0 else 1)) (e - sh - 1)

/-- The exact quotient; 0 ÷ 0 and ∞ ÷ ∞ are NaN. -/
def Num.div (a b : Num) : Num :=
  match a, b with
  | .nan s, .nan t => .nan (s || t)
  | .nan s, _ => .nan s
  | _, .nan s => .nan s
  | .inf _, .inf _ | .zero _, .zero _ => .nan false
  | .inf x, y => .inf (x != y.neg)
  | x, .inf y => .zero (x.neg != y)
  | .zero x, y => .zero (x != y.neg)
  | x, .zero y => .inf (x.neg != y)
  | .fin x m e, .fin y k g => quoNum (x != y) m k (e - g)

/-- Whether a division is invalid. -/
def Num.divInvalid : Num → Num → Bool
  | .inf _, .inf _ => true
  | .zero _, .zero _ => true
  | _, _ => false

/-- Whether a finite nonzero value is divided by zero. -/
def Num.divByZero : Num → Num → Bool
  | .fin _ _ _, .zero _ => true
  | _, _ => false

/-- ⌊√n⌋ by bisection over its bits: `k` bits remain. -/
def isqrtGo (n : Nat) : Nat → Nat → Nat
  | 0, r => r
  | k + 1, r => let c := r + 2 ^ k; if c * c ≤ n then isqrtGo n k c else isqrtGo n k r

/-- ⌊√n⌋. -/
def isqrt (n : Nat) : Nat := isqrtGo n (Nat.log2 n / 2 + 1) 0

/-- The exact square root with a sticky lowest bit; of a negative value, a NaN. -/
def Num.sqrt (a : Num) : Num :=
  match a with
  | .nan s => .nan s
  | .inf n => if n then .nan false else .inf false
  | .zero n => .zero n
  | .fin n m e =>
    if n then .nan false
    else
      let sh := 2 * wide + (if (e % 2 = 0) then 0 else 1)
      let v := m * 2 ^ sh
      let r := isqrt v
      .fin false (2 * r + (if r * r = v then 0 else 1)) ((e - sh) / 2 - 1)

/-- Whether a square root is invalid. -/
def Num.sqrtInvalid : Num → Bool
  | .inf n => n
  | .fin n _ _ => n
  | _ => false

/-- a < b for values that are not NaN; −0 equals +0. -/
def Num.lt (a b : Num) : Bool :=
  match a, b with
  | .nan _, _ | _, .nan _ => false
  | .inf x, .inf y => x && !y
  | .inf x, _ => x
  | _, .inf y => !y
  | .zero _, .zero _ => false
  | .zero _, y => !y.neg
  | x, .zero _ => x.neg
  | .fin x m e, .fin y k g =>
    let q := min e g
    let sm : Int := (m * 2 ^ (e - q).toNat : Nat)
    let sk : Int := (k * 2 ^ (g - q).toNat : Nat)
    decide ((if x then -sm else sm) < (if y then -sk else sk))

/-- Numeric equality of values that are not NaN. -/
def Num.eqv (a b : Num) : Bool := !a.isNan && !b.isNan && !a.lt b && !b.lt a

/-- The lesser, −0 below +0; a single NaN gives the other operand (05_numbers.md:R159). -/
def Num.min2 (a b : Num) : Num :=
  if a.isNan then b else if b.isNan then a
  else if a.lt b then a else if b.lt a then b
  else if a.neg then a else b

/-- The greater, −0 below +0; a single NaN gives the other operand (05_numbers.md:R159). -/
def Num.max2 (a b : Num) : Num :=
  if a.isNan then b else if b.isNan then a
  else if a.lt b then b else if b.lt a then a
  else if a.neg then b else a

/-- A value times 2^k. -/
def Num.scale (a : Num) (k : Int) : Num :=
  match a with
  | .fin n m e => .fin n m (e + k)
  | x => x

/-- The integer a finite value rounds to (05_numbers.md:R133), and whether it is inexact. -/
def Num.toInt (mode : Mode) : Num → Int × Bool
  | .fin n m e =>
    let q := quant mode n m e 0
    (if n then -(q.1 : Int) else q.1, q.2)
  | _ => (0, false)

/-- Exponent(x) of a finite nonzero value (05_numbers.md:R158). -/
def Num.exponent : Num → Option Int
  | .fin _ m e => some (expOf m e)
  | _ => none

/-- PrecisionExhausted (05_numbers.md:R150). -/
def precisionExhausted (addends : List Num) (r : Num) (l floor : Nat) : Bool :=
  if (r :: addends).any (fun x => x.isNan || x.isInf) then false
  else match (addends.filterMap Num.exponent) with
    | [] => false
    | e :: es =>
      let top := es.foldl max e
      match r.exponent with
      | none => true
      | some x => decide (x < top - (l - floor))

/-- TruncTowardZero(z, 2^q) as a multiple of 2^q (05_numbers.md:R154). -/
def truncTo (q : Int) : Num → Int
  | .fin n m e =>
    let v : Nat := if q ≤ e then m * 2 ^ (e - q).toNat else m / 2 ^ (q - e).toNat
    if n then -(v : Int) else v
  | _ => 0

/-- GroupSum (05_numbers.md:R154). -/
def groupSum (acc : Num) (ps : List Num) (sat : Bool) : Nat :=
  let z := acc :: ps
  if z.any Num.isNan || (z.contains (.inf false) && z.contains (.inf true)) then fmt32.nanBits
  else if z.contains (.inf false) then fmt32.infBits false
  else if z.contains (.inf true) then fmt32.infBits true
  else match z.filterMap Num.exponent with
    | [] => 0
    | e :: es =>
      let q := es.foldl max e - 60
      let s := z.foldl (fun a x => a + truncTo q x) 0
      (round fmt32 .rne sat false (if s = 0 then .zero false else .fin (decide (s < 0)) s.natAbs q)).bits

/-- The integer group of 05_numbers.md:R155: 16 exact products added to the accumulator, wrapped or clamped. -/
def groupSumInt (acc : Int) (ps : List Int) (sat : Bool) : Word :=
  let s := ps.foldl (· + ·) acc
  if sat then BitVec.ofInt 32 (max (-2147483648) (min s 2147483647)) else BitVec.ofInt 32 s

/-- MassFromFloat (05_numbers.md:R151). -/
def massFromFloat (x : Num) (scale : Int) (b : Nat) : Nat × Flags :=
  match x with
  | .nan _ => (0, fNV)
  | .inf n => if n then (0, fNV) else (2 ^ b - 1, fSAT)
  | .zero _ => (0, 0)
  | .fin n m e =>
    if n then (0, fNV)
    else
      let y := quant .rne false m (e + scale) 0
      if 2 ^ b - 1 < y.1 then (2 ^ b - 1, fSAT)
      else (y.1, if y.2 then fNX else 0)

/-- The value of a scale byte: none for a NaN scale (05_numbers.md:R140). -/
def scaleValue (e8 : Bool) (s : Nat) : Option Num :=
  if e8 then (if s = 255 then none else some (.fin false 1 ((s : Int) - 127)))
  else if 128 ≤ s then none
  else match decodeF fmtE4m3 false s with
    | .nan _ => none
    | x => some x

/-- An element under its block's scale; the flag tells an invalid operation (05_numbers.md:R140). -/
def scaled (x : Num) (sc : Option Num) : Num × Bool :=
  match sc with
  | none => (.nan false, true)
  | some k =>
    match x with
    | .nan s => (.nan s, false)
    | x => (x.mul k, x.mulInvalid k)

/-- The eight values of a codebook index under a scale (05_numbers.md:R144). -/
def cbDecode (table : Cells 32) (idx : Nat) (sc : Option Num) : List Num :=
  match sc with
  | none => List.replicate 8 (.nan false)
  | some k =>
    let row := (cget table (idx % 256)).toNat
    let s := fld idx 8 7
    let neg7 := ((List.range 7).filter (fun j => fld s j 1 == 1)).length % 2 == 1
    (List.range 8).map (fun j =>
      let m2 := 2 * fld row (4 * j) 4 + fld idx 15 1
      let neg := if j < 7 then fld s j 1 == 1 else neg7
      if m2 = 0 then .zero false else (Num.fin neg m2 (-1)).mul k)

end Sys2Proof.Machine
end

