-- ==== Sys2Proof/Machine/Operands.lean ====
section
/-! DEFINITION. Operands: reading registers, selectors and VF windows, writing registers, predicates, tags
and flags (02_state.md:R29, R30, R50 to R54; 03_encoding.md:R74 to R78, R81). -/

namespace Sys2Proof

/-- The register of a VF operand. -/
def Opnd.vreg : Opnd → Nat
  | .v i => i
  | _ => 0

/-- The index of a named resource. -/
def Opnd.resIx : Opnd → Nat
  | .res j => j
  | _ => 0

end Sys2Proof

namespace Sys2Proof.Machine

/-! ## Reading -/

/-- `n` words of a register operand in a lane, low word first (02_state.md:R30). -/
def Warp.reg (w : Warp) (n : Nat) (o : Opnd) (lane : Nat) : Nat :=
  match o with
  | .v i => (List.range n).foldl (fun a j => a + (cget w.v (32 * (i + j) + lane)).toNat * 2 ^ (32 * j)) 0
  | .s i => (List.range n).foldl (fun a j => a + (cget w.s (i + j)).toNat * 2 ^ (32 * j)) 0
  | _ => 0

/-- The value of a selector for an operand of `n` words (03_encoding.md:R77, R78). `one` is 1 in the operand's
type. -/
def selValue (imm : Word) (n one : Nat) (c : Sel) (lane : Nat) : Nat :=
  match c with
  | .imm | .immz => imm.toNat
  | .imms => (imm.signExtend 64).toNat
  | .immh => imm.toNat * 2 ^ 32
  | .zero => 0
  | .one => one
  | .ones => 2 ^ (32 * n) - 1
  | .true_ => 1
  | .lane => lane

/-- A source of `n` words in a lane. -/
def Warp.src (w : Warp) (imm : Word) (n one : Nat) (o : Opnd) (lane : Nat) : Nat :=
  match o with
  | .sel c => selValue imm n one c lane
  | o => w.reg n o lane

/-- A predicate source in a lane (03_encoding.md:R77). -/
def Warp.pred (w : Warp) (o : Opnd) (lane : Nat) : Bool :=
  match o with
  | .p i => (cget w.p i).getLsbD lane
  | .sel .true_ => true
  | _ => false

/-- A guard predicate in a lane (03_encoding.md:R73). -/
def Warp.gp (w : Warp) (g : GP) (lane : Nat) : Bool := (cget w.p g.p).getLsbD lane != g.neg

/-- The guard of a word in a lane (03_encoding.md:R73). -/
def Warp.guard (w : Warp) (g : Guard) (lane : Nat) : Bool :=
  match g with
  | .always => true
  | .one a => w.gp a lane
  | .both a b => w.gp a lane && w.gp b lane
  | .either a b => w.gp a lane || w.gp b lane

/-- The fields of `PREC` in a lane (02_state.md:R36). -/
def Warp.precOf (w : Warp) (lane : Nat) : BitVec 20 := nth w.prec lane 0
/-- `PREC.L`. -/
def precL (p : BitVec 20) : Nat := bits p 0 8
/-- `PREC.FLOOR`. -/
def precFloor (p : BitVec 20) : Nat := bits p 8 8
/-- `PREC.PXEN`. -/
def precPxen (p : BitVec 20) : Bool := p.getLsbD 16
/-- `PREC.RMD`. -/
def precRmd (p : BitVec 20) : Nat := bits p 17 3
/-- Whether a value of `PREC` is legal (02_state.md:R39). -/
def precOk (p : BitVec 20) : Bool :=
  decide (8 ≤ precL p ∧ precL p ≤ 176 ∧ precFloor p ≤ precL p ∧ precRmd p ≤ 4)

/-- ModeOf (05_numbers.md:R158). -/
def Warp.modeOf (w : Warp) (m : BitVec 5) (lane : Nat) : Mode :=
  let c := bits m 0 3
  Mode.ofCode (if c = 5 then precRmd (w.precOf lane) else c)

/-! ## Writing -/

/-- A write that is not a VF write takes the tag of every window it touches (02_state.md:R54). -/
def clearTags (t : Cells 3) (lo len : Nat) : Cells 3 :=
  t.filter (fun h => !(decide (h.1 < lo + len ∧ lo < h.1 + h.2.toNat)))

/-- Write `n` words of a register operand in the given lanes; an `s` register takes the value of the lowest
(02_state.md:R29, R54). -/
def Warp.put (w : Warp) (n : Nat) (o : Opnd) (ls : List Nat) (val : Nat → Nat) : Warp :=
  match ls with
  | [] => w
  | l0 :: _ =>
    match o with
    | .v i =>
      { w with
        v := csetAll w.v ((List.range n).flatMap (fun j => ls.map (fun l =>
          (32 * (i + j) + l, BitVec.ofNat 32 (val l / 2 ^ (32 * j))))))
        tags := clearTags w.tags i n }
    | .s i =>
      { w with s := csetAll w.s ((List.range n).map (fun j =>
          (i + j, BitVec.ofNat 32 (val l0 / 2 ^ (32 * j))))) }
    | _ => w

/-- Write a predicate register in the given lanes. -/
def Warp.putP (w : Warp) (o : Opnd) (ls : List Nat) (val : Nat → Bool) : Warp :=
  match o with
  | .p i => { w with p := cset w.p i ((cget w.p i &&& ~~~(maskOf ls)) ||| maskOf (ls.filter val)) }
  | _ => w

/-- Change one value of each given lane of a per-lane list. -/
def mapLanes {α : Type} (l : List α) (ls : List Nat) (f : Nat → α → α) : List α :=
  ls.foldl (fun l i => updAt l i (f i)) l

/-- Raise flags in the given lanes (02_state.md:R40). -/
def Warp.raiseFlags (w : Warp) (ls : List Nat) (fl : Nat → Flags) : Warp :=
  { w with fenv := mapLanes w.fenv ls (fun l x => x ||| fl l) }

/-! ## VF windows -/

/-- The window length k of `PREC.L` (02_state.md:R50). -/
def vfLen (l : Nat) : Nat := if l ≤ 16 then 1 else cdiv (l - 16) 32 + 1

/-- The head alignment of k (02_state.md:R50). -/
def vfAlign (k : Nat) : Nat := if k ≤ 1 then 1 else if k = 2 then 2 else if k ≤ 4 then 4 else 8

/-- The tag of a `v` register (02_state.md:R52). -/
def Warp.tag (w : Warp) (i : Nat) : Nat := (cget w.tags i).toNat

/-- The fraction bits a window of k registers holds (02_state.md:R50). -/
def vfFrac (k : Nat) : Nat := 16 + 32 * (k - 1)

/-- The value of the window at a head with length k (05_numbers.md:R145). -/
def Warp.vfVal (w : Warp) (h k lane : Nat) : Num :=
  decodeF (fmtVf (vfFrac k)) false
    ((List.range k).foldl (fun a j => a * 2 ^ 32 + (cget w.v (32 * (h + j) + lane)).toNat) 0)

/-- A VF source: a window at its tagged length, or a selector (02_state.md:R53; 03_encoding.md:R78). -/
def Warp.vfSrc (w : Warp) (imm : Word) (o : Opnd) (lane : Nat) : Num :=
  match o with
  | .v i => w.vfVal i (w.tag i) lane
  | .sel .one => .fin false 1 0
  | .sel .imm => decodeF fmt32 false imm.toNat
  | _ => .zero false

/-- Whether a VF source names a window (02_state.md:R53). -/
def Warp.vfTagged (w : Warp) (o : Opnd) : Bool :=
  match o with
  | .v i => decide (1 ≤ w.tag i ∧ w.tag i ≤ 6)
  | _ => true

/-- The one k that every given lane's `PREC.L` implies; none when they differ (02_state.md:R54). -/
def Warp.oneK (w : Warp) (ls : List Nat) : Option Nat :=
  match ls with
  | [] => some 1
  | l :: r =>
    let k := vfLen (precL (w.precOf l))
    if r.all (fun j => vfLen (precL (w.precOf j)) == k) then some k else none

/-- Write the bits of VF values into the window at a head: `b` gives, for a lane, bits of 32 × k; tags follow
(02_state.md:R54). -/
def Warp.putWindow (w : Warp) (h k : Nat) (ls : List Nat) (b : Nat → Nat) : Warp :=
  match ls with
  | [] => w
  | _ =>
    { w with
      v := csetAll w.v ((List.range k).flatMap (fun j => ls.map (fun l =>
        (32 * (h + j) + l, BitVec.ofNat 32 (b l / 2 ^ (32 * (k - 1 - j)))))))
      tags := cset (clearTags w.tags h k) h (BitVec.ofNat 3 k) }

/-- The window bits of a result of VF_L: fraction bits beyond L are zero (05_numbers.md:R146). -/
def vfWindow (k l b : Nat) : Nat := b * 2 ^ (vfFrac k - l)

/-! ## The issuing path -/

/-- What an instruction word sees when it issues: its block, grid, warp and path, and the lanes of the path
whose guard is true. -/
structure Iss where
  r : Ref
  blk : Block
  grid : Grid
  warp : Warp
  path : Path
  act : Word
  deriving DecidableEq, Repr

/-- The active lanes, ascending. -/
def Iss.lanes (i : Iss) : List Nat := lanesOf i.act
/-- The context that issues. -/
def Iss.ctx (i : Iss) : Nat := i.grid.rec_.ctx
/-- The lowest active lane. -/
def Iss.lane0 (i : Iss) : Nat := lowLane i.act
/-- A uniform source of `n` words, read once for the path (07_isa_matrix.md:R181). -/
def Iss.uni (i : Iss) (w : W) (n : Nat) (o : Opnd) : Nat := i.warp.src w.imm n 1 o i.lane0
/-- A source of `n` words in a lane. -/
def Iss.src (i : Iss) (w : W) (n : Nat) (o : Opnd) (lane : Nat) : Nat := i.warp.src w.imm n 1 o lane

/-- Whether a block's activation is a sequence of the ROM firmware. -/
def Block.firmware (b : Block) : Bool := match b.handler with | some a => a.firmware | none => false

/-- Whether float atomics of a block that its last barrier interval held back are still on their way: they are applied at the end of
that interval, so no word of the block is issued before they are (10_ordering.md:R224). -/
def State.lateOps (s : State) (b : Block) : Bool :=
  s.rops.any (fun o => o.late && o.result.isNone && o.src.lsq == b.lsq && o.src.tkt == b.tkt)

/-- Whether a save has advanced the generations of a block's allocations. -/
def Block.advanced (b : Block) : Bool := b.cores.all (fun c => c.old.isSome)

/-- Whether no word of a block is issued for a reference: the end of a barrier interval is under way (10_ordering.md:R224), or a save
has come to rest and waits for the last sectors (18_recovery.md:R327), unless the firmware carries it out. -/
def State.stands (s : State) (b : Block) (r : Ref) : Bool :=
  s.lateOps b || (b.saving && b.advanced && !(r.handler && b.firmware))

/-- Whether a reference of a block may issue: its block is resident, or it names a sequence of the firmware, which may
save its own block (20_isa_system.md:R363). -/
def Block.mayIssue (b : Block) (r : Ref) : Bool := b.res == .resident || (r.handler && b.firmware)

/-- The path that issues: the current reference names a running warp of a resident block and a path of it
whose clause has started. -/
def State.issuing (s : State) : Option Iss :=
  match s.cur with
  | none => none
  | some r =>
    match s.block? r.lsq r.tkt, s.grid? r.lsq with
    | some b, some g =>
      match b.refWarp? r with
      | some w =>
        match w.path? r.lane with
        | some p =>
          if b.mayIssue r ∧ !w.stopped ∧ 1 ≤ p.word then
            some { r := r, blk := b, grid := g, warp := w, path := p, act := p.mask }
          else none
        | none => none
      | none => none
    | _, _ => none

end Sys2Proof.Machine
end

