-- ==== Sys2Proof/Machine/Issue.lean ====
section
/-! DEFINITION. Issuing an instruction word: the checks that every word passes, in the order of
02_state.md:R56, and what becomes of the path afterwards (03_encoding.md:R65, R67). -/

namespace Sys2Proof

/-- The control transfers, legal only as the last word of a clause (03_encoding.md:R65). -/
def Op.isTransfer : Op → Bool
  | .bra | .brx | .call | .ret | .exit | .tret | .hud => true
  | _ => false

/-- The words of the referee slot (03_encoding.md:R88; 20_isa_system.md:R355). -/
def Op.needsReferee : Op → Bool
  | .refrd | .refwr | .refres | .refstop | .refkill | .ctxsave | .ctxrest => true
  | _ => false

/-- The words that only a user trap handler may execute (04_isa_core.md:R114, R126, R127). -/
def Op.needsHandler (op : Op) (w : W) : Bool :=
  match op with
  | .trec | .tret => true
  | .rds | .wrs => w.mod == 1
  | _ => false

/-- The collectives: a lane whose guard is false takes part as absent (04_isa_core.md:R116). -/
def Op.isCollective : Op → Bool
  | .vote | .shfl | .red | .scan => true
  | _ => false

/-- The words of an operand of a class. -/
def Cls.words : Cls → Nat
  | .reg n | .src n _ | .zsrc n | .sreg n | .u n _ | .v n => n
  | .opt c => c.words
  | _ => 1

/-- Whether two references name one warp, or one handler. -/
def Ref.sameWarp (a b : Ref) : Bool := a.lsq == b.lsq && a.tkt == b.tkt && a.wrp == b.wrp && a.handler == b.handler

end Sys2Proof

namespace Sys2Proof.Machine

/-- What the meaning of a word says about its path. -/
inductive Res where
  /-- The word is complete: its path goes on with the next. -/
  | done (s : State)
  /-- The path stays at the word and issues it again. -/
  | stay (s : State)
  /-- The word traps. -/
  | trap (s : State) (t : TrapV)
  /-- The meaning has moved the path itself. -/
  | moved (s : State)

/-- The `v` registers an operand of some words names. -/
def vSpan (n : Nat) : Opnd → List (Nat × Nat)
  | .v i => [(i, n)]
  | _ => []

/-- The largest k that the `PREC.L` of the lanes of a mask implies (02_state.md:R46). -/
def Warp.maxK (w : Warp) (m : Word) : Nat :=
  ((lanesOf m).map (fun l => vfLen (precL (w.precOf l)))).foldl max 1

/-- The extent of a VF source (02_state.md:R46). -/
def Warp.srcSpan (w : Warp) : Opnd → List (Nat × Nat)
  | .v i => [(i, max 1 (w.tag i))]
  | _ => []

/-- The extent of a complex VF source (02_state.md:R46). -/
def Warp.cxSpan (w : Warp) : Opnd → List (Nat × Nat)
  | .v i => [(i, if w.tag i = 0 then 1 else vfAlign (w.tag i) + w.tag i)]
  | _ => []

/-- The registers a word names, as the register-allocation check counts them (02_state.md:R46). -/
def spansOf (op : Op) (w : W) (wp : Warp) (m : Word) : List (Nat × Nat) :=
  let k := wp.maxK m
  let hi := bits w.mod 3 2
  let dst := vSpan k
  let cxd := vSpan (vfAlign k + k)
  let plain := match entry op w.mod.toNat w.imm.toNat with
    | some t => vSpan t.d.words w.d ++ vSpan t.a.words w.a ++ vSpan t.b.words w.b ++
        vSpan t.c.words w.c ++ vSpan t.e.words w.e
    | none => []
  let cOf (o : Opnd) (c : Ent → Cls) : List (Nat × Nat) :=
    match entry op w.mod.toNat w.imm.toNat with
    | some t => vSpan (c t).words o
    | none => []
  match op with
  | .vfadd | .vfsub | .vfmul | .vfma | .vfdiv | .vfsqrt | .vfmin | .vfmax | .vfrnd =>
    dst w.d ++ wp.srcSpan w.a ++ wp.srcSpan w.b ++ wp.srcSpan w.c
  | .vfcmp => wp.srcSpan w.a ++ wp.srcSpan w.b
  | .vfneg | .vfabs | .vfmov => vSpan (max 1 (wp.tag w.a.vreg)) w.d ++ wp.srcSpan w.a
  | .vfcvt =>
    if hi = 0 then dst w.d ++ cOf w.a Ent.a else cOf w.d Ent.d ++ wp.srcSpan w.a
  | .vfext =>
    if hi = 0 then vSpan 1 w.d ++ wp.srcSpan w.a else dst w.d ++ wp.srcSpan w.a ++ vSpan 1 w.b
  | .bfly =>
    if hi = 0 then plain else dst w.d ++ dst w.e ++ wp.srcSpan w.a ++ wp.srcSpan w.b
  | .cbfly =>
    if hi = 0 then plain
    else cxd w.d ++ cxd w.e ++ wp.cxSpan w.a ++ wp.cxSpan w.b ++ wp.cxSpan w.c
  | .cmul => if hi = 0 then plain else cxd w.d ++ wp.cxSpan w.a ++ wp.cxSpan w.b
  | .twid => if hi = 0 then plain else cxd w.d ++ vSpan 1 w.a ++ vSpan 1 w.b
  | .ldvf => dst w.d ++ cOf w.a Ent.a ++ vSpan 1 w.b
  | .stvf => cOf w.a Ent.a ++ wp.srcSpan w.b ++ vSpan 1 w.c
  | _ => plain

/-- Whether a named list binds a name. -/
def bound {α : Type} (l : List (Nat × α)) (n : Nat) : Bool := l.any (fun x => x.1 == n)

/-- The tile and the place in its order that a stalled word holds (07_isa_matrix.md:R189). -/
def Park.placed : Park → Option (Nat × Nat)
  | .tile a n _ | .aput a n => some (a, n)
  | _ => none

/-- The place that a stalled path holds. -/
def Path.place? (p : Path) : Option Nat := p.park.placed.map Prod.snd

/-- Whether a place comes before the word of a path: a word without one has yet to take its own (07_isa_matrix.md:R189). -/
def Path.behind (p : Path) (n : Nat) : Bool := p.place?.all (fun k => decide (n < k))

/-- Whether an `aput` of a tile is stalled before the word of a path on its core: to that word the tile is unbound
(07_isa_matrix.md:R184, R189). -/
def Block.putBefore (b : Block) (core a : Nat) (p : Path) : Bool :=
  (b.warps ++ (b.handler.map Activation.warp).toList).any (fun w => w.core == core && w.paths.any (fun q => match q.park with
    | .aput x n => x == a && p.behind n
    | _ => false))

/-- The named resources of a word that the register-allocation fault covers (02_state.md:R33): tiles below
`.acc` and bound, maps and handles bound, sum-tree registers below `.wtree`. -/
def resMissing (op : Op) (w : W) (i : Iss) : Bool :=
  let c := i.blk.coreAt i.warp.core
  let tiles := match c with | some c => c.tiles | none => []
  let maps := match c with | some c => c.maps | none => []
  let handles := match c with | some c => c.handles | none => []
  let high (o : Opnd) : Bool := decide (i.grid.rec_.acc ≤ o.resIx)
  let tile (o : Opnd) : Bool := high o || !bound tiles o.resIx || i.blk.putBefore i.warp.core o.resIx i.path
  match op with
  | .aget => high w.d
  | .aput | .azero | .ast | .ascl => tile w.d
  | .ald | .aconv => tile w.a
  | .mma | .mmaz =>
    tile w.d || (if w.mod = 0 then !bound maps w.a.resIx else !bound handles w.a.resIx) || !bound maps w.b.resIx
  | .stclr | .stset | .stadd | .stget | .stpre | .sttot | .stfind | .stcut | .stcutm | .stq | .stld
  | .stst => decide (i.grid.rec_.wtc ≤ w.a.resIx)
  | _ => false

/-- Whether a user trap handler issues. -/
def Iss.userHandler (i : Iss) : Bool := i.r.handler && !i.blk.firmware

/-- The sub-cause of a word where it stands: an encoding breach, a control transfer that is not last, a word outside the
slot that may execute it (03_encoding.md:R89). -/
def Iss.subCause (i : Iss) (op : Op) (w : W) : Nat :=
  leastSub [w.subCause op, if op.isTransfer && !i.path.lastWord then 11 else 0,
    if (op.needsReferee && !i.r.handler) || (op.needsHandler w && !i.userHandler) then 12 else 0]

/-- The illegal-operand trap on the active lanes. -/
def Iss.illegal (i : Iss) (s : State) : Res := .trap s { cause := 3, mask := i.act }

/-- Whether a path waits at, or has ended, a word that has issued already: its resources are not judged again. -/
def Path.waited (p : Path) : Bool :=
  match p.park with
  | .released _ _ | .mma _ => true
  | _ => false

/-- The checks of a word before its meaning, in the order of 02_state.md:R56. DESIGN CHOICE (log 51): in a handler a word
that names a `v` register (18_recovery.md:R322, cause 3) and an unbound resource (02_state.md:R33, cause 2) meets the first
trap; R56 gives the two no order there. -/
def Iss.precheck (i : Iss) (op : Op) (w : W) : Option TrapV :=
  let m := i.path.mask
  let sub := i.subCause op w
  if sub ≠ 0 then some { cause := 1, sub := sub, mask := m }
  else if i.r.handler then
    (if spansOf op w i.warp m ≠ [] ∧ i.act ≠ 0 then some { cause := 3, mask := i.act }
     else if resMissing op w i && !i.path.waited then some { cause := 2, mask := m } else none)
  else if (spansOf op w i.warp m).any (fun x => decide (8 * i.grid.rec_.base + i.warp.ext < x.1 + x.2)) ||
      (resMissing op w i && !i.path.waited) then some { cause := 2, mask := m }
  else none

/-- Whether an older word of the warp may still trap: a remote operation, an `mma` whose handle is being fetched, or a word that
another path holds stalled in a tile order; a path with an older place in such an order goes on (03_encoding.md:R86;
07_isa_matrix.md:R189). -/
def Iss.held (i : Iss) : Bool :=
  i.warp.busy.any i.path.behind ||
    i.warp.paths.any (fun p => !p.mask.getLsbD i.r.lane && (match p.park with
      | .mma k => i.path.behind k
      | _ => p.place?.any i.path.behind))

/-- The state after a word, with no path issuing. -/
def finish (i : Iss) (r : Res) : State :=
  match r with
  | .done s => { s.updRef i.r (fun w => w.advance i.r.lane) with cur := none }
  | .stay s => { s with cur := none }
  | .moved s => { s with cur := none }
  | .trap s t => { s.takeTrap i.r t with cur := none }

/-- ISSUE A W-FORM WORD: its checks, then its meaning `k` for the lanes whose guard is true. A word with no
lane left has no effect (03_encoding.md:R73). While a remote atomic or a handle `mma` of the warp may still trap, its younger
words wait (03_encoding.md:R83, R86). -/
def issueW (op : Op) (w : W) (k : Iss → State → Res) (s : State) : Out :=
  match s.issuing with
  | none => .fault .noIssuer
  | some i0 =>
    let i := { i0 with act := maskBy i0.path.mask (fun l => i0.warp.guard w.g l) }
    .next (finish i (
      match i.precheck op w with
      | some t => .trap s t
      | none =>
        if i.held then .stay s
        else if i.act = 0 ∧ !op.isCollective then .done s
        else k i s))

/-- A meaning that changes only its own warp. -/
def localOp (f : Iss → Warp → Warp) (i : Iss) (s : State) : Res := .done (s.updRef i.r (f i))

/-- An effect that writes `n` words of D and raises flags, lane by lane; the values are functions of the state
the word saw. -/
def laneOut (n : Nat) (w : W) (f : Iss → Nat → Nat × Flags) (i : Iss) (wp : Warp) : Warp :=
  (wp.put n w.d i.lanes (fun l => (f i l).1)).raiseFlags i.lanes (fun l => unlessNF w.nf (f i l).2)

/-- An effect that writes the predicate D, lane by lane. -/
def predOut (w : W) (f : Iss → Nat → Bool × Flags) (i : Iss) (wp : Warp) : Warp :=
  (wp.putP w.d i.lanes (fun l => (f i l).1)).raiseFlags i.lanes (fun l => unlessNF w.nf (f i l).2)

/-- An effect whose values raise no flag. -/
def plain (f : Iss → Nat → Nat) (i : Iss) (l : Nat) : Nat × Flags := (f i l, 0)

end Sys2Proof.Machine
end

