-- ==== Sys2Proof/Machine/Fetch.lean ====
section
/-! DEFINITION. Fetching: the clause header and its checks (03_encoding.md:R59 to R61), the instruction word
of a path, the judgment of a control-transfer target (03_encoding.md:R66), and what happens next on the
module: the environment's action, the issue of a chosen path, an internal event, or the passage of time. -/

namespace Sys2Proof.Machine

/-- Whether a header is well-formed (03_encoding.md:R60). -/
def headerOk (h : QWord) : Bool :=
  let a := bits h 16 4
  let b := bits h 20 4
  bits h 0 4 != 0 && (a < 12 || a == 15) && (b < 12 || b == 15) && (a != b || a == 15) &&
    bits h 25 7 == 0 && bits h 64 64 == 0

/-- Fetch 16 bytes of code (16_isolation.md:R303 kind 6, 18_recovery.md:R324). Instruction fetch reads memory at
the home. -/
def State.fetch (s : State) (ctx : Nat) (va : DWord) : Except TrapV QWord :=
  match s.translate ctx va.toNat .fetch with
  | .error k => .error { cause := 4, sub := k, mask := 0, addr := va, access := Acc.code .fetch }
  | .ok x =>
    if s.mem.poisoned x.sys x.pa then .error { cause := 5, mask := 0, addr := va, access := Acc.code .fetch }
    else .ok (BitVec.ofNat 128 (s.mem.nat x.sys x.pa 16))

/-- What a fetch leaves behind: the access to host memory that it was, and in the error log the consumption of a poisoned sector or
table entry (16_isolation.md:R310; 22_attach.md:R381). -/
def State.noteFetch (s : State) (ctx : Nat) (va : DWord) : State :=
  match s.translate ctx va.toNat .fetch with
  | .error _ => s.consumeWalk ctx va.toNat
  | .ok x => (s.noteSys x.sys x.pa).consumeSector ctx x.sys (x.pa / 32)

/-- Judge a target: none when it is aligned and holds a header, otherwise the trap of the transferring word
(03_encoding.md:R66). -/
def State.judgeTarget (s : State) (ctx : Nat) (va : DWord) : Option TrapV :=
  if va.toNat % 16 ≠ 0 then some { cause := 1, sub := 1, mask := 0, addr := va }
  else match s.fetch ctx va with
    | .error t => some t
    | .ok h => if headerOk h then none else some { cause := 1, sub := 1, mask := 0, addr := va }

/-- The first trap of some lanes' targets in the order of causes, with the lanes whose target meets it
(03_encoding.md:R66). DESIGN CHOICE (log 51): where the lanes' targets meet different traps, the lower cause comes first,
and among translation faults the lower kind; R56 ranks the traps of execution as one class. -/
def firstTrap (ts : List (Nat × TrapV)) : Option TrapV :=
  let rank := fun t : TrapV => t.cause * 16 + (if t.cause = 4 then t.sub else 0)
  match ts with
  | [] => none
  | x :: r =>
    let best := r.foldl (fun b y => if rank y.2 < rank b.2 then y else b) x
    let same := ts.filter (fun y => rank y.2 == rank best.2)
    some { best.2 with mask := maskOf (same.map Prod.fst) }

/-- Whether the counters masked in WAITZ all read zero (03_encoding.md:R61). -/
def Warp.waitzOk (w : Warp) (h : QWord) : Bool :=
  (List.range 12).all (fun n => !h.getLsbD (4 + n) || nth w.cnt n 0 == 0)

/-- The mesh neighbours of a core inside a grid's rectangle on this module (13_progress.md:R275). -/
def Grid.neighbours (g : Grid) (core : Nat) : List Nat :=
  let x := core % 12
  let y := core / 12
  (if g.rx < x then [core - 1] else []) ++ (if x < g.rx + g.rec_.gngw then [core + 1] else []) ++
    (if g.ry < y then [core - 12] else []) ++ (if y < g.ry + g.rec_.gngh then [core + 12] else [])

/-- Whether a core is offside for a grid: its counter less the least it last received exceeds the allowance, as a signed
difference (13_progress.md:R275). -/
def Grid.offside (g : Grid) (core : Nat) : Bool :=
  let own := cget g.phase core
  (g.neighbours core).any (fun n => decide ((g.rec_.alw : Int) < (own - cget g.seen (144 * core + n)).toInt))

/-- Whether a warp is stalled by another path than the one that holds a lane (02_state.md:R31; 01_device.md:R12). -/
def Warp.stalledBut (w : Warp) (lane : Nat) : Bool :=
  w.paths.any (fun p => !p.mask.getLsbD lane && (match p.park with | .stall _ | .tile _ _ (some _) => true | _ => false))

/-- Whether a path parked at `refstop` waits for a warp to come to rest (20_isa_system.md:R358). -/
def State.beingStopped (s : State) (b : Block) (w : Warp) : Bool :=
  s.blocks.any (fun x => match x.handler with
    | none => false
    | some a => a.warp.paths.any (fun p => match p.park with
      | .stopping t => t.lsq == b.lsq && t.tkt == b.tkt && t.wrp == w.idx
      | _ => false))

/-- Whether a rule other than a wait keeps the paths of a warp from starting a clause: a save of its block under way
(18_recovery.md:R327), offside (13_progress.md:R275), a `refstop` of the warp (20_isa_system.md:R358), or a compaction that
moves its storage (02_state.md:R48). -/
def State.heldBack (s : State) (b : Block) (w : Warp) (r : Ref) : Bool :=
  b.saving || (!r.handler && (w.hold || s.beingStopped b w ||
    (match s.grid? b.lsq with | some g => g.offside w.core | none => false)))

/-- What a path does when its slot comes: start its clause, or run the instruction of its word. An
instruction is run by the dispatch on the state returned with it. -/
def State.beginWord (s : State) (r : Ref) : Option Instr × State :=
  match s.block? r.lsq r.tkt with
  | none => (none, s)
  | some b =>
    match b.refWarp? r with
    | none => (none, s)
    | some w =>
      match w.path? r.lane with
      | none => (none, s)
      | some p =>
        let ctx := s.ctxOf r.lsq
        if w.stopped || !b.mayIssue r || s.stands b r || w.stalledBut r.lane then (none, s)
        else if p.word = 0 then
          if s.heldBack b w r then (none, s)
          else match s.judgeTarget ctx p.hdr, s.fetch ctx p.hdr with
          | some t, _ | none, .error t => (none, (s.noteFetch ctx p.hdr).takeTrap r { t with mask := p.mask })
          | none, .ok h =>
            if w.waitzOk h then
              (none, ((s.noteFetch ctx p.hdr).fillTlb ctx p.hdr.toNat).updRef r
                (fun w => w.updPath r.lane (fun p => { p with word := 1, held := h })))
            else (none, s)
        else
          let va := p.hdr + BitVec.ofNat 64 (16 * p.word)
          let s := s.noteFetch ctx va
          match s.fetch ctx va with
          | .error t => (none, s.takeTrap r { t with mask := p.mask })
          | .ok q =>
            match decode q with
            | .error e => (none, s.takeTrap r { cause := 1, sub := e.code, mask := p.mask })
            | .ok i => (some i, { s with cur := some r })

end Sys2Proof.Machine
end

