-- ==== Sys2Proof/Machine/Int.lean ====
section
/-! DEFINITION. The integer instructions (04_isa_core.md:R102 to R107). -/

namespace Sys2Proof.Machine

/-- Whether an integer type code is signed (04_isa_core.md:R102). -/
def intSigned (code : Nat) : Bool := code % 2 == 0

/-- The low `wd` bits of a word as a value of an integer type (04_isa_core.md:R102). -/
def readInt (signed : Bool) (wd x : Nat) : Int :=
  let v := x % 2 ^ wd
  if signed && decide (2 ^ (wd - 1) ≤ v) then (v : Int) - 2 ^ wd else v

/-- A value of `wd` bits extended to `n` bits by its type (04_isa_core.md:R102). -/
def extInt (signed : Bool) (wd n : Nat) (x : Int) : Nat :=
  let v := (x % 2 ^ wd).toNat
  if signed && decide (2 ^ (wd - 1) ≤ v) then v + (2 ^ n - 2 ^ wd) else v

/-- The bounds of an integer type. -/
def intMin (signed : Bool) (wd : Nat) : Int := if signed then -(2 ^ (wd - 1)) else 0
/-- The bounds of an integer type. -/
def intMax (signed : Bool) (wd : Nat) : Int := if signed then 2 ^ (wd - 1) - 1 else 2 ^ wd - 1

/-- The result rule of 04_isa_core.md:R102, extended to `n` bits: saturated with SAT, or wrapped. -/
def intResult (signed sat : Bool) (wd n : Nat) (x : Int) : Nat × Flags :=
  if sat && decide (x < intMin signed wd) then (extInt signed wd n (intMin signed wd), fSAT)
  else if sat && decide (intMax signed wd < x) then (extInt signed wd n (intMax signed wd), fSAT)
  else (extInt signed wd n x, 0)

/-- An integer source of a word in a lane, in the type of its MOD. -/
def Iss.int (i : Iss) (w : W) (o : Opnd) (l : Nat) : Int :=
  readInt (intSigned w.mod.toNat) (intWidth w.mod.toNat) (i.src w 1 o l)

/-- The result of a word of integer type. -/
def intOut (w : W) (x : Int) : Nat × Flags :=
  intResult (intSigned w.mod.toNat) w.sat (intWidth w.mod.toNat) 32 x

/-- A word of one register whose result is a function of two integer sources. -/
def intBin (w : W) (f : Int → Int → Int) : Iss → Warp → Warp :=
  laneOut 1 w (fun i l => intOut w (f (i.int w w.a l) (i.int w w.b l)))

/-- A word of one register whose result is a function of one integer source. -/
def intUn (w : W) (f : Int → Int) : Iss → Warp → Warp :=
  laneOut 1 w (fun i l => intOut w (f (i.int w w.a l)))

/-- The exact 64-bit product of two 32-bit sources (04_isa_core.md:R103). -/
def wideMul (w : W) (i : Iss) (l : Nat) : Nat := ((i.int w w.a l * i.int w w.b l) % 2 ^ 64).toNat

/-- The high word of a product. -/
def mulhEff (w : W) : Iss → Warp → Warp := laneOut 1 w (plain (fun i l => wideMul w i l / 2 ^ 32))

/-- `addc` and `subb`: the sum or difference with the carry or borrow in (04_isa_core.md:R104). -/
def carrySum (w : W) (sub : Bool) (i : Iss) (l : Nat) : Int :=
  let a : Int := i.src w 1 w.a l
  let b : Int := i.src w 1 w.b l
  let c : Int := if i.warp.pred w.c l then 1 else 0
  if sub then a - b - c else a + b + c

/-- `addc` and `subb` write D and the carry or borrow out. -/
def carryEff (w : W) (sub : Bool) (i : Iss) (wp : Warp) : Warp :=
  (wp.put 1 w.d i.lanes (fun l => (carrySum w sub i l % 2 ^ 32).toNat)).putP w.e i.lanes (fun l =>
    decide (2 ^ 32 ≤ carrySum w sub i l ∨ carrySum w sub i l < 0))

/-- Division toward zero with its borderline cases (04_isa_core.md:R105). -/
def idivRes (w : W) (a b : Int) : Nat × Flags :=
  let sg := intSigned w.mod.toNat
  let wd := intWidth w.mod.toNat
  if b = 0 then
    (extInt sg wd 32 (if sg && decide (a < 0) then intMin sg wd else intMax sg wd), fDZ)
  else intOut w (Int.tdiv a b)

/-- The remainder with the sign of the dividend (04_isa_core.md:R105). -/
def iremRes (w : W) (a b : Int) : Nat × Flags :=
  let sg := intSigned w.mod.toNat
  let wd := intWidth w.mod.toNat
  if b = 0 then (extInt sg wd 32 a, fDZ) else (extInt sg wd 32 (Int.tmod a b), 0)

/-- The conditions 0 to 5 (04_isa_core.md:R106). -/
def condHolds (c : Nat) (lt eq : Bool) : Bool :=
  match c with
  | 0 => eq
  | 1 => !eq
  | 2 => lt
  | 3 => lt || eq
  | 4 => !lt && !eq
  | _ => !lt

/-- The compare of `cmp` (04_isa_core.md:R106). -/
def cmpRes (w : W) (i : Iss) (l : Nat) : Bool :=
  let ty := bits w.mod 0 2
  let n := if ty < 2 then 1 else 2
  let a := readInt (ty % 2 == 0) (32 * n) (i.src w n w.a l)
  let b := readInt (ty % 2 == 0) (32 * n) (i.src w n w.b l)
  condHolds (bits w.mod 2 3) (decide (a < b)) (decide (a = b))

/-- `lea`: base and scaled index, modulo 2^64 (04_isa_core.md:R107). -/
def leaRes (w : W) (i : Iss) (l : Nat) : Nat :=
  let ix := readInt (bits w.mod 3 1 == 1) 32 (i.src w 1 w.b l)
  (((i.src w 2 w.a l : Int) + ix * 2 ^ bits w.mod 0 3) % 2 ^ 64).toNat

/-- `add64` and `sub64`: the result rule at width 64 (04_isa_core.md:R107). A saturation sets the flag whatever NF
holds, since NF is not honoured. -/
def wide64 (w : W) (f : Int → Int → Int) : Iss → Warp → Warp :=
  laneOut 2 w (fun i l =>
    let sg := w.mod.toNat == 0
    intResult sg w.sat 64 64 (f (readInt sg 64 (i.src w 2 w.a l)) (readInt sg 64 (i.src w 2 w.b l))))

/-- `shl64` (04_isa_core.md:R107). -/
def shl64Res (w : W) (i : Iss) (l : Nat) : Nat :=
  let n := i.src w 1 w.b l % 256
  if 64 ≤ n then 0 else i.src w 2 w.a l * 2 ^ n % 2 ^ 64

/-- `add` (04_isa_core.md:R103). -/
def execAdd (w : W) (s : State) : Out := issueW .add w (localOp (intBin w (· + ·))) s

/-- `sub` (04_isa_core.md:R103). -/
def execSub (w : W) (s : State) : Out := issueW .sub w (localOp (intBin w (· - ·))) s

/-- `mul` (04_isa_core.md:R103). -/
def execMul (w : W) (s : State) : Out := issueW .mul w (localOp (intBin w (· * ·))) s

/-- `min` (04_isa_core.md:R103). -/
def execMin (w : W) (s : State) : Out := issueW .min w (localOp (intBin w min)) s

/-- `max` (04_isa_core.md:R103). -/
def execMax (w : W) (s : State) : Out := issueW .max w (localOp (intBin w max)) s

/-- `abs` (04_isa_core.md:R103). -/
def execAbs (w : W) (s : State) : Out := issueW .abs w (localOp (intUn w (fun a => a.natAbs))) s

/-- `neg` (04_isa_core.md:R103). -/
def execNeg (w : W) (s : State) : Out := issueW .neg w (localOp (intUn w (fun a => -a))) s

/-- `addc` (04_isa_core.md:R104). -/
def execAddc (w : W) (s : State) : Out := issueW .addc w (localOp (carryEff w false)) s

/-- `subb` (04_isa_core.md:R104). -/
def execSubb (w : W) (s : State) : Out := issueW .subb w (localOp (carryEff w true)) s

/-- `mulh` (04_isa_core.md:R103). -/
def execMulh (w : W) (s : State) : Out := issueW .mulh w (localOp (mulhEff w)) s

/-- `mulw` (04_isa_core.md:R103). -/
def execMulw (w : W) (s : State) : Out := issueW .mulw w (localOp (laneOut 2 w (plain (wideMul w)))) s

/-- `mad`: a × b + c exactly, then the result rule once (04_isa_core.md:R103). -/
def execMad (w : W) (s : State) : Out :=
  issueW .mad w (localOp (laneOut 1 w (fun i l =>
    intOut w (i.int w w.a l * i.int w w.b l + i.int w w.c l)))) s

/-- `idiv` (04_isa_core.md:R105). -/
def execIdiv (w : W) (s : State) : Out := issueW .idiv w (localOp (laneOut 1 w (fun i l => idivRes w (i.int w w.a l) (i.int w w.b l)))) s

/-- `irem` (04_isa_core.md:R105). -/
def execIrem (w : W) (s : State) : Out := issueW .irem w (localOp (laneOut 1 w (fun i l => iremRes w (i.int w w.a l) (i.int w w.b l)))) s

/-- `cmp` (04_isa_core.md:R106). -/
def execCmp (w : W) (s : State) : Out := issueW .cmp w (localOp (predOut w (fun i l => (cmpRes w i l, 0)))) s

/-- `lea` (04_isa_core.md:R107). -/
def execLea (w : W) (s : State) : Out := issueW .lea w (localOp (laneOut 2 w (plain (leaRes w)))) s

/-- `add64` (04_isa_core.md:R107). -/
def execAdd64 (w : W) (s : State) : Out := issueW .add64 w (localOp (wide64 w (· + ·))) s

/-- `sub64` (04_isa_core.md:R107). -/
def execSub64 (w : W) (s : State) : Out := issueW .sub64 w (localOp (wide64 w (· - ·))) s

/-- `shl64` (04_isa_core.md:R107). -/
def execShl64 (w : W) (s : State) : Out := issueW .shl64 w (localOp (laneOut 2 w (plain (shl64Res w)))) s

end Sys2Proof.Machine
end

