-- ==== Sys2Proof/Machine/Logic.lean ====
section
/-! DEFINITION. Logic, shifts, bit fields, moves and predicates (04_isa_core.md:R108 to R113). -/

namespace Sys2Proof.Machine

/-- The words of a logic type: MOD 0, 1, 2 for 32, 64 and 128 bits (04_isa_core.md:R108). -/
def W.words (w : W) : Nat := bWords w.mod.toNat

/-- A logic instruction of two sources. -/
def logic2 (w : W) (f : QWord → QWord → QWord) : Iss → Warp → Warp :=
  let n := bWords w.mod.toNat
  laneOut n w (plain (fun i l =>
    (f (BitVec.ofNat 128 (i.src w n w.a l)) (BitVec.ofNat 128 (i.src w n w.b l))).toNat))

/-- `not` (04_isa_core.md:R108). -/
def notEff (w : W) : Iss → Warp → Warp :=
  let n := bWords w.mod.toNat
  laneOut n w (plain (fun i l => (~~~(BitVec.ofNat 128 (i.src w n w.a l))).toNat))

/-- A shift or rotate of a word by b[7:0] (04_isa_core.md:R108). -/
def shiftEff (w : W) (f : Word → Nat → Word) : Iss → Warp → Warp :=
  laneOut 1 w (plain (fun i l => (f (BitVec.ofNat 32 (i.src w 1 w.a l)) (i.src w 1 w.b l % 256)).toNat))

/-- Shift left; 0 from 32 on. -/
def shlW (a : Word) (n : Nat) : Word := a <<< n
/-- Shift right; 0 from 32 on. -/
def shrW (a : Word) (n : Nat) : Word := a >>> n
/-- Arithmetic shift right; the sign from 32 on. -/
def sarW (a : Word) (n : Nat) : Word := a.sshiftRight n
/-- Rotate left by n mod 32. -/
def rolW (a : Word) (n : Nat) : Word := a.rotateLeft (n % 32)
/-- Rotate right by n mod 32. -/
def rorW (a : Word) (n : Nat) : Word := a.rotateRight (n % 32)

/-- Result byte of `perm` for a 5-bit selector (04_isa_core.md:R109); a reserved selector never gets here. -/
def permByte (ab sel : Nat) : Nat :=
  let b := fld ab (8 * (sel % 8)) 8
  match sel / 8 with
  | 0 => b
  | 1 => if 128 ≤ b then 255 else 0
  | _ => 0

/-- `perm` of the eight bytes of a pair of sources (04_isa_core.md:R109). -/
def permWord (a b sel : Nat) : Nat :=
  (List.range 4).foldl (fun x k => x + permByte (a % 2 ^ 32 + b * 2 ^ 32) (fld sel (5 * k) 5) * 2 ^ (8 * k)) 0

/-- The selectors of `perm` in a lane. -/
def permSel (w : W) (i : Iss) (l : Nat) : Nat :=
  if w.mod = 0 then w.imm.toNat else i.src w 1 w.c l

/-- A reserved selector among the four (04_isa_core.md:R109). -/
def permReserved (sel : Nat) : Bool := (List.range 4).any (fun k => fld sel (5 * k + 3) 2 == 3)

/-- The position and length of a bit-field instruction in a lane (04_isa_core.md:R110). -/
def fieldPos (w : W) (i : Iss) (pos len : Opnd) (l : Nat) : Nat × Nat :=
  if w.mod.getLsbD 1 then (bits w.imm 0 8, min (bits w.imm 8 8) 32)
  else (i.src w 1 pos l % 256, min (i.src w 1 len l % 256) 32)

/-- `bfx` (04_isa_core.md:R110). -/
def bfxRes (w : W) (i : Iss) (l : Nat) : Nat :=
  let sg := !w.mod.getLsbD 0
  let p := fieldPos w i w.b w.c l
  let a := readInt sg 32 (i.src w 1 w.a l)
  if p.2 = 0 then 0 else extInt sg p.2 32 (a / 2 ^ p.1)

/-- `bfi` (04_isa_core.md:R110). -/
def bfiRes (w : W) (i : Iss) (l : Nat) : Nat :=
  let p := fieldPos w i w.c w.e l
  let m : Word := BitVec.ofNat 32 ((2 ^ p.2 - 1) * 2 ^ p.1)
  let a : Word := BitVec.ofNat 32 (i.src w 1 w.a l)
  ((a &&& ~~~m) ||| (BitVec.ofNat 32 (i.src w 1 w.b l * 2 ^ p.1) &&& m)).toNat

/-- The bits of a number in reverse order. -/
def revBits (n x : Nat) : Nat := (List.range n).foldl (fun a k => 2 * a + fld x k 1) 0
/-- The number of 1 bits. -/
def popBits (n x : Nat) : Nat := ((List.range n).filter (fun k => fld x k 1 == 1)).length
/-- The number of trailing zeros; n for zero. -/
def trailZeros (n x : Nat) : Nat := ((List.range n).find? (fun k => fld x k 1 == 1)).getD n
/-- The number of leading zeros; n for zero. -/
def leadZeros (n x : Nat) : Nat := trailZeros n (revBits n x)

/-- A bit count of a word or pair (04_isa_core.md:R111): `out` words of result. -/
def countEff (w : W) (out : Nat) (f : Nat → Nat → Nat) : Iss → Warp → Warp :=
  let n := w.mod.toNat + 1
  laneOut out w (plain (fun i l => f (32 * n) (i.src w n w.a l)))

/-- A predicate instruction of two sources (04_isa_core.md:R113). -/
def pred2 (w : W) (f : Bool → Bool → Bool) : Iss → Warp → Warp :=
  predOut w (fun i l => (f (i.warp.pred w.a l) (i.warp.pred w.b l), 0))

/-- `pnot` (04_isa_core.md:R113). -/
def pnotEff (w : W) : Iss → Warp → Warp := predOut w (fun i l => (!i.warp.pred w.a l, 0))

/-- `mov` (04_isa_core.md:R112). -/
def movEff (w : W) : Iss → Warp → Warp :=
  let n := bWords w.mod.toNat
  if w.mod = 3 then predOut w (fun i l => (i.warp.pred w.a l, 0))
  else laneOut n w (plain (fun i l => i.src w n w.a l))

/-- `ldi` (04_isa_core.md:R112). -/
def ldiEff (w : W) : Iss → Warp → Warp :=
  laneOut (w.mod.toNat + 1) w (plain (fun _ _ => if w.mod = 0 then w.imm.toNat else (w.imm.signExtend 64).toNat))

/-- The odd register of a pair. -/
def oddReg : Opnd → Opnd
  | .v i => .v (Fin.ofNat 384 (i + 1))
  | .s i => .s (Fin.ofNat 192 (i + 1))
  | o => o

/-- `ldih`: the high word of the pair only (04_isa_core.md:R112). -/
def ldihEff (w : W) (i : Iss) (wp : Warp) : Warp := wp.put 1 (oddReg w.d) i.lanes (fun _ => w.imm.toNat)

/-- `sel` (04_isa_core.md:R112). -/
def selEff (w : W) : Iss → Warp → Warp :=
  let n := w.mod.toNat + 1
  laneOut n w (plain (fun i l => if i.warp.pred w.c l then i.src w n w.a l else i.src w n w.b l))

/-- `and` (04_isa_core.md:R108). -/
def execAnd (w : W) (s : State) : Out := issueW .and w (localOp (logic2 w (· &&& ·))) s

/-- `or` (04_isa_core.md:R108). -/
def execOr (w : W) (s : State) : Out := issueW .or w (localOp (logic2 w (· ||| ·))) s

/-- `xor` (04_isa_core.md:R108). -/
def execXor (w : W) (s : State) : Out := issueW .xor w (localOp (logic2 w (· ^^^ ·))) s

/-- `andn` (04_isa_core.md:R108). -/
def execAndn (w : W) (s : State) : Out := issueW .andn w (localOp (logic2 w (fun a b => a &&& ~~~b))) s

/-- `orn` (04_isa_core.md:R108). -/
def execOrn (w : W) (s : State) : Out := issueW .orn w (localOp (logic2 w (fun a b => a ||| ~~~b))) s

/-- `not` (04_isa_core.md:R108). -/
def execNot (w : W) (s : State) : Out := issueW .not w (localOp (notEff w)) s

/-- `shl` (04_isa_core.md:R108). -/
def execShl (w : W) (s : State) : Out := issueW .shl w (localOp (shiftEff w shlW)) s

/-- `shr` (04_isa_core.md:R108). -/
def execShr (w : W) (s : State) : Out := issueW .shr w (localOp (shiftEff w shrW)) s

/-- `sar` (04_isa_core.md:R108). -/
def execSar (w : W) (s : State) : Out := issueW .sar w (localOp (shiftEff w sarW)) s

/-- `rol` (04_isa_core.md:R108). -/
def execRol (w : W) (s : State) : Out := issueW .rol w (localOp (shiftEff w rolW)) s

/-- `ror` (04_isa_core.md:R108). -/
def execRor (w : W) (s : State) : Out := issueW .ror w (localOp (shiftEff w rorW)) s

/-- `perm`; a reserved selector in a lane raises the illegal-operand trap (04_isa_core.md:R109). -/
def execPerm (w : W) (s : State) : Out :=
  issueW .perm w (fun i s =>
    let bad := maskBy i.act (fun l => permReserved (permSel w i l))
    if bad ≠ 0 then .trap s { cause := 3, mask := bad }
    else localOp (laneOut 1 w (plain (fun i l =>
      permWord (i.src w 1 w.a l) (i.src w 1 w.b l) (permSel w i l)))) i s) s

/-- `bfx` (04_isa_core.md:R110). -/
def execBfx (w : W) (s : State) : Out := issueW .bfx w (localOp (laneOut 1 w (plain (bfxRes w)))) s

/-- `bfi` (04_isa_core.md:R110). -/
def execBfi (w : W) (s : State) : Out := issueW .bfi w (localOp (laneOut 1 w (plain (bfiRes w)))) s

/-- `bfr` (04_isa_core.md:R111). -/
def execBfr (w : W) (s : State) : Out := issueW .bfr w (localOp (countEff w (w.mod.toNat + 1) revBits)) s

/-- `popc` (04_isa_core.md:R111). -/
def execPopc (w : W) (s : State) : Out := issueW .popc w (localOp (countEff w 1 popBits)) s

/-- `clz` (04_isa_core.md:R111). -/
def execClz (w : W) (s : State) : Out := issueW .clz w (localOp (countEff w 1 leadZeros)) s

/-- `ctz` (04_isa_core.md:R111). -/
def execCtz (w : W) (s : State) : Out := issueW .ctz w (localOp (countEff w 1 trailZeros)) s

/-- `mov` (04_isa_core.md:R112). -/
def execMov (w : W) (s : State) : Out := issueW .mov w (localOp (movEff w)) s

/-- `ldi` (04_isa_core.md:R112). -/
def execLdi (w : W) (s : State) : Out := issueW .ldi w (localOp (ldiEff w)) s

/-- `ldih` (04_isa_core.md:R112). -/
def execLdih (w : W) (s : State) : Out := issueW .ldih w (localOp (ldihEff w)) s

/-- `sel` (04_isa_core.md:R112). -/
def execSel (w : W) (s : State) : Out := issueW .sel w (localOp (selEff w)) s

/-- `pand` (04_isa_core.md:R113). -/
def execPand (w : W) (s : State) : Out := issueW .pand w (localOp (pred2 w (· && ·))) s

/-- `por` (04_isa_core.md:R113). -/
def execPor (w : W) (s : State) : Out := issueW .por w (localOp (pred2 w (· || ·))) s

/-- `pxor` (04_isa_core.md:R113). -/
def execPxor (w : W) (s : State) : Out := issueW .pxor w (localOp (pred2 w (· != ·))) s

/-- `pnot` (04_isa_core.md:R113). -/
def execPnot (w : W) (s : State) : Out := issueW .pnot w (localOp (pnotEff w)) s

end Sys2Proof.Machine
end

