-- ==== Sys2Proof/Machine/Lane.lean ====
section
/-! DEFINITION. Special registers (02_state.md:R36 to R43, 04_isa_core.md:R114), lane collectives
(04_isa_core.md:R115 to R121) and `waitlt` (R122). -/

namespace Sys2Proof.Machine

/-! ## Special registers -/

/-- The low or high word of a 64-bit value. -/
def half64 (hi : Bool) (x : DWord) : Nat := if hi then x.toNat / 2 ^ 32 else x.toNat % 2 ^ 32

/-- The value of special register `sel` of a warp in a lane (02_state.md:R36, R38). High halves read the
latch. -/
def srRead (s : State) (b : Block) (g : Grid) (w : Warp) (sel lane : Nat) : Nat :=
  match sel with
  | 0 => lane
  | 1 => w.idx
  | 2 => b.tkt % g.rec_.grdw
  | 3 => b.tkt / g.rec_.grdw
  | 4 => w.core % 12
  | 5 => w.core / 12
  | 6 => g.rec_.grdw
  | 7 => g.rec_.grdh
  | 8 => s.modn
  | 9 => g.gngi
  | 10 => g.rec_.alw
  | 11 => g.ftv
  | 12 => w.sqd
  | 13 => (w.precOf lane).toNat
  | 14 => (nth w.fenv lane 0).toNat
  | 16 => half64 false s.time
  | 17 => half64 true w.latchT
  | 18 => half64 false (nth w.ckpt lane 0)
  | 19 => half64 true (nth w.ckpt lane 0)
  | 20 => half64 false w.wctc
  | 21 => half64 true w.latchC
  | 22 => half64 false w.wctp
  | 23 => half64 true w.latchP
  | 24 => half64 false w.wcts
  | 25 => half64 true w.latchS
  | _ => 0

/-- What reading a low half latches (02_state.md:R38). -/
def srLatch (s : State) (sel : Nat) (w : Warp) : Warp :=
  match sel with
  | 16 => { w with latchT := s.time }
  | 20 => { w with latchC := w.wctc }
  | 22 => { w with latchP := w.wctp }
  | 24 => { w with latchS := w.wcts }
  | _ => w

/-- Whether a value may be written to a special register (02_state.md:R37, R39, R41). -/
def srWritable (sel x : Nat) : Bool :=
  match sel with
  | 12 => decide (1 ≤ x ∧ x ≤ 5)
  | 13 => decide (x < 2 ^ 20) && precOk (BitVec.ofNat 20 x)
  | 14 => decide (x < 2 ^ 7)
  | 18 | 19 => true
  | _ => false

/-- Replace one half of a 64-bit value. -/
def setHalf (hi : Bool) (x : Nat) (old : DWord) : DWord :=
  if hi then BitVec.ofNat 64 (x % 2 ^ 32 * 2 ^ 32 + old.toNat % 2 ^ 32)
  else BitVec.ofNat 64 (old.toNat / 2 ^ 32 * 2 ^ 32 + x % 2 ^ 32)

/-- Write a special register in some lanes (02_state.md:R36). -/
def Warp.srWrite (w : Warp) (sel : Nat) (ls : List Nat) (val : Nat → Nat) : Warp :=
  match sel with
  | 12 => match ls with
    | [] => w
    | l :: _ => { w with sqd := val l }
  | 13 => { w with prec := mapLanes w.prec ls (fun l _ => BitVec.ofNat 20 (val l)) }
  | 14 => { w with fenv := mapLanes w.fenv ls (fun l _ => BitVec.ofNat 7 (val l)) }
  | 18 => { w with ckpt := mapLanes w.ckpt ls (fun l x => setHalf false (val l) x) }
  | 19 => { w with ckpt := mapLanes w.ckpt ls (fun l x => setHalf true (val l) x) }
  | _ => w

/-- The trapped warp of the handler that issues. -/
def Iss.trapped (i : Iss) : Option Warp :=
  match i.blk.handler with
  | some a => i.blk.warp? a.trapped
  | none => none

/-- Whether an earlier instruction of a warp may still raise flags: a float atomic that a deterministic grid has not yet
applied (02_state.md:R40; 10_ordering.md:R224). -/
def Grid.flagsDue (g : Grid) (tkt wrp : Nat) (ls : List Nat) : Bool :=
  g.detAtoms.any (fun a => a.tkt == tkt && a.wrp == wrp && ls.contains a.lane && !a.nf)

/-- Whether an access of special register `sel` of a warp waits (02_state.md:R40). -/
def Iss.flagsWait (i : Iss) (sel wrp : Nat) (ls : List Nat) : Bool := sel == 14 && i.grid.flagsDue i.blk.tkt wrp ls

/-- `rds` of the issuing warp (04_isa_core.md:R114). -/
def rdsOwn (w : W) (i : Iss) (s : State) : Res :=
  let sel := w.imm.toNat
  if i.flagsWait sel i.r.wrp i.lanes then .stay s
  else .done (s.updRef i.r (fun wp =>
    (srLatch s sel wp).put 1 w.d i.lanes (fun l => srRead s i.blk i.grid i.warp sel l)))

/-- `rds.tw`: the lowest lane of the trap mask of the trapped warp, whose latches it fills
(02_state.md:R38; 04_isa_core.md:R114). -/
def rdsTw (w : W) (i : Iss) (s : State) : Res :=
  match i.trapped with
  | none => i.illegal s
  | some t =>
    let sel := w.imm.toNat
    let lane := match t.trap with | some r => lowLane r.mask | none => 0
    if i.flagsWait sel t.idx [lane] then .stay s
    else
      let s := s.updWarp i.r.lsq i.r.tkt t.idx (srLatch s sel)
      .done (s.updRef i.r (fun wp => wp.put 1 w.d i.lanes (fun _ => srRead s i.blk i.grid t sel lane)))

/-- `rds` (04_isa_core.md:R114). -/
def execRds (w : W) (s : State) : Out :=
  issueW .rds w (fun i s => if w.mod = 0 then rdsOwn w i s else rdsTw w i s) s

/-- `wrs` of the issuing warp: every value is checked, and the lanes agree on `SQD`
(02_state.md:R37, R39, R41). -/
def wrsOwn (w : W) (i : Iss) (s : State) : Res :=
  let sel := w.imm.toNat
  let val := fun l => i.src w 1 w.a l
  let bad := maskBy i.act (fun l => !srWritable sel (val l))
  if bad ≠ 0 then .trap s { cause := 3, mask := bad }
  else if i.flagsWait sel i.r.wrp i.lanes then .stay s
  else if sel = 12 ∧ i.lanes.any (fun l => val l != val i.lane0) then i.illegal s
  else .done (s.updRef i.r (fun wp => wp.srWrite sel i.lanes val))

/-- `wrs.tw`: every lane of the trapped warp that has not exited (04_isa_core.md:R114). -/
def wrsTw (w : W) (i : Iss) (s : State) : Res :=
  match i.trapped with
  | none => i.illegal s
  | some t =>
    let x := i.uni w 1 w.a
    if i.flagsWait w.imm.toNat t.idx (lanesOf t.live) then .stay s
    else if srWritable w.imm.toNat x then
      .done (s.updWarp i.r.lsq i.r.tkt t.idx (fun wp =>
        wp.srWrite w.imm.toNat (lanesOf wp.live) (fun _ => x)))
    else i.illegal s

/-- `wrs` (04_isa_core.md:R114). -/
def execWrs (w : W) (s : State) : Out :=
  issueW .wrs w (fun i s => if w.mod = 0 then wrsOwn w i s else wrsTw w i s) s

/-! ## Collectives -/

/-- The squad width of a code (02_state.md:R41). -/
def squadWidth (sqd : Nat) : Nat := 2 ^ sqd

/-- The lanes of the squad of a lane (04_isa_core.md:R115). -/
def squadOf (width lane : Nat) : Word := maskOf ((List.range width).map (fun k => lane - lane % width + k))

/-- The named set of a lane: its squad under the member mask (04_isa_core.md:R115). -/
def namedSet (w : W) (wp : Warp) (width lane : Nat) : Word :=
  let m : Word := match w.e with
    | .none => 0xFFFFFFFF
    | o => BitVec.ofNat 32 (wp.src w.imm 1 1 o lane)
  squadOf width lane &&& m

/-- What a lane contributes (04_isa_core.md:R118 to R121). -/
def collVal (op : Op) (w : W) (wp : Warp) (lane : Nat) : DWord :=
  match op with
  | .vote => if w.mod = 3 then BitVec.ofNat 64 (wp.reg 1 w.a lane) else if wp.pred w.a lane then 1 else 0
  | .shfl => BitVec.ofNat 64 (wp.src w.imm (if w.mod.getLsbD 2 then 2 else 1) 1 w.a lane)
  | _ => BitVec.ofNat 64 (wp.reg 1 w.a lane)

/-- The part of a lane in an instance of a word. -/
def Warp.partOf (w : Warp) (hdr : DWord) (word ord lane : Nat) : Option CollPart :=
  w.colls.find? (fun c => c.hdr == hdr && c.word == word && c.ord == ord && c.lane == lane)

/-- Whether a named lane is no longer waited for: its part is fixed or it has exited (04_isa_core.md:R116). -/
def Warp.settled (w : Warp) (hdr : DWord) (word ord lane : Nat) : Bool :=
  (w.partOf hdr word ord lane).isSome || !w.live.getLsbD lane

/-- Whether two parts belong to one instance of a word, and the first lane is named by the other part. -/
def CollPart.namedBy (l : Nat) (c o : CollPart) : Bool :=
  o.hdr == c.hdr && o.word == c.word && o.ord == c.ord && o.named.getLsbD l

/-- The words of the register result of a part. -/
def CollPart.words (c : CollPart) : Nat :=
  match c.op with
  | .shfl => if c.w.mod.getLsbD 2 then 2 else 1
  | _ => 1

/-- Whether a collective of a warp has issued whose result is to be written to an extended register: one beyond the 8 × `BASE`
(14_isa_sync.md:R289). -/
def Warp.extOwed (w : Warp) (base : Nat) : Bool :=
  w.colls.any (fun c => c.arrived && (match c.w.d with | .v r => decide (8 * base < r.val + c.words) | _ => false))

/-- Whether the pending instance of a part can be performed: no lane that it names is waited for (04_isa_core.md:R116).
An absent lane's part stands for an instance only where no lane that has arrived names it, and it names none that has arrived
(DEDUCED, log 51): those lanes wait for the lanes that they name themselves. -/
def Warp.complete? (w : Warp) (c : CollPart) : Bool :=
  c.ord == 0 && (lanesOf c.named).all (fun l => w.settled c.hdr c.word 0 l) &&
    (c.arrived || !w.colls.any (fun o => o.arrived && (CollPart.namedBy c.lane c o || CollPart.namedBy o.lane o c)))

/-- Whether a part belongs to the instance of another: it is named by it, or it names the same lanes of the same squad; and the
part of an absent lane also where it names a lane of the instance that has arrived (04_isa_core.md:R116; log 51). -/
def Warp.inInstance (w : Warp) (c p : CollPart) : Bool :=
  let core := fun p : CollPart => p.hdr == c.hdr && p.word == c.word && p.ord == 0 &&
    (c.named.getLsbD p.lane ||
      (p.named == c.named && p.width == c.width && squadOf p.width p.lane == squadOf c.width c.lane))
  core p || (p.hdr == c.hdr && p.word == c.word && p.ord == 0 && !p.arrived &&
    w.colls.any (fun o => o.arrived && core o && p.named.getLsbD o.lane))

/-- Combine two present values of a reduction (04_isa_core.md:R120; 05_numbers.md:R158). -/
def combine (ty op : Nat) (x y : Nat) : Nat × Flags :=
  if ty = 2 then
    let a := decodeF fmt32 false x
    let b := decodeF fmt32 false y
    let sig := a.isSig || b.isSig
    match op with
    | 0 => let r := (round fmt32 .rne false false (a.add .rne b)).nv (sig || a.addInvalid b); (r.bits, r.fl)
    | 1 => ((round fmt32 .rne false false (a.min2 b)).bits, if sig then fNV else 0)
    | _ => ((round fmt32 .rne false false (a.max2 b)).bits, if sig then fNV else 0)
  else
    let a := readInt (ty == 0) 32 x
    let b := readInt (ty == 0) 32 y
    match op with
    | 0 => (extInt false 32 32 (a + b), 0)
    | 1 => (extInt false 32 32 (min a b), 0)
    | 2 => (extInt false 32 32 (max a b), 0)
    | 3 => (x &&& y, 0)
    | 4 => (x ||| y, 0)
    | _ => (x ^^^ y, 0)

/-- One level of the tree of 04_isa_core.md:R120. -/
def treeLevel (ty op : Nat) : List (Option Nat) → List (Option Nat) × Flags
  | a :: b :: r =>
    let t := treeLevel ty op r
    match a, b with
    | none, y => (y :: t.1, t.2)
    | x, none => (x :: t.1, t.2)
    | some x, some y => let c := combine ty op x y; (some c.1 :: t.1, c.2 ||| t.2)
  | l => (l, 0)

/-- The fixed tree of 04_isa_core.md:R120 over 2^k positions, with the flags any step raises. -/
def reduceTree (ty op : Nat) : Nat → List (Option Nat) → Option Nat × Flags
  | 0, l => (l.headD none, 0)
  | k + 1, l =>
    let t := treeLevel ty op l
    let r := reduceTree ty op k t.1
    (r.1, t.2 ||| r.2)

/-- The identity of a scan operation (04_isa_core.md:R121). -/
def scanIdentity (ty op : Nat) : Nat :=
  match op, ty with
  | 1, 0 => 0x7FFFFFFF
  | 1, 1 => 0xFFFFFFFF
  | 1, _ => fmt32.infBits false
  | 2, 0 => 0x80000000
  | 2, 1 => 0
  | 2, _ => fmt32.infBits true
  | _, _ => 0

/-- The contribution of each position of the squad of a part (04_isa_core.md:R116). -/
def Warp.contributions (w : Warp) (c : CollPart) : List (Option Nat) :=
  (List.range c.width).map (fun k =>
    let l := c.lane - c.lane % c.width + k
    if !c.named.getLsbD l then none
    else match w.partOf c.hdr c.word c.ord l with
      | some p => if p.arrived then some p.val.toNat else none
      | none => if w.live.getLsbD l then none else some 0)

/-- The lanes that contribute to the instance of a part. -/
def Warp.contributors (w : Warp) (c : CollPart) : List Nat :=
  (lanesOf c.named).filter (fun l => match w.partOf c.hdr c.word c.ord l with
    | some p => p.arrived
    | none => false)

/-- The result of a lane of an instance from the contributions, `a` and `b` being A and B as the lane read them: words,
value, predicate, flags (04_isa_core.md:R118 to R121). -/
def collResult (c : CollPart) (xs : List (Option Nat)) (from_ : List Nat) (a b lane : Nat) : Nat × Bool × Flags :=
  let base := c.lane - c.lane % c.width
  let q := lane - base
  let m := c.w.mod.toNat
  match c.op with
  | .vote =>
    let trues := (List.range c.width).filter (fun k => nth xs k none == some 1)
    let there := xs.filterMap id
    match m with
    | 0 => ((maskOf (trues.map (· + base))).toNat, false, 0)
    | 1 => (0, trues != [], 0)
    | 2 => (0, there.all (· == 1), 0)
    | 3 => (0, there.all (fun x => x == there.headD 0), 0)
    | 4 => (trues.length, false, 0)
    | _ => (match trues with | [] => 32 | k :: _ => base + k, false, 0)
  | .shfl =>
    let src := match m % 4 with
      | 0 => base + b % c.width
      | 1 => if b ≤ q then lane - b else lane
      | 2 => if q + b < c.width then lane + b else lane
      | _ => base + (q ^^^ (b % c.width))
    (if from_.contains src then (nth xs (src - base) none).getD a else a, false, 0)
  | .scan =>
    let ty := m / 8
    let op := if m % 4 = 3 then 4 else m % 4
    let upTo := if m / 4 % 2 = 1 then q else q + 1
    let ys := xs.take upTo ++ List.replicate (c.width - upTo) none
    let r := reduceTree ty op 5 ys
    (r.1.getD (scanIdentity ty (if op = 4 then 3 else op)), false, r.2)
  | _ =>
    let r := reduceTree (m / 8) (m % 8) 5 xs
    (r.1.getD 0, false, r.2)

/-- Lanes parked at a collective go on: each path that holds some of them splits (03_encoding.md:R65). -/
def Warp.advanceLanes (w : Warp) (m : Word) : Warp :=
  let at_ := fun p : Path => if p.park = .coll then m else 0
  let moved := w.paths.filterMap (fun p =>
    let k := p.mask &&& at_ p
    if k = 0 then none
    else some (if p.lastWord then Path.at k (nextClause p.hdr p.held)
      else { p with mask := k, word := p.word + 1, park := .run }))
  let kept := (w.paths.map (fun p => { p with mask := p.mask &&& ~~~(at_ p) })).filter (fun p => p.mask != 0)
  { w with paths := moved.foldl (fun l p => joinPath p l) kept }

/-- The result of a lane of the instance of a part. -/
def Warp.collRes (w : Warp) (c : CollPart) (l : Nat) : Nat × Bool × Flags :=
  let p := (w.partOf c.hdr c.word c.ord l).getD c
  collResult c (w.contributions c) (w.contributors c) p.val.toNat p.sel l

/-- Perform the pending instance of a part: every contributing lane takes its result, the parts of the instance are gone,
and the later parts of its lanes move up; the second component is the lanes that had arrived (04_isa_core.md:R116). A `shfl`
writes D of every active lane, one outside its own member mask included (R119). DESIGN CHOICE (log 51): a lane that issues another
collective with its own bit clear goes on with its instance and takes no result. -/
def Warp.performColl (w : Warp) (c : CollPart) : Warp × Word :=
  let lanes := maskOf ((w.colls.filter (w.inInstance c)).map CollPart.lane)
  let here := fun p : CollPart => p.hdr == c.hdr && p.word == c.word && lanes.getLsbD p.lane
  let arrived := maskOf ((w.colls.filter (fun p => here p && p.ord == 0 && p.arrived)).map CollPart.lane)
  let from_ := match c.op with | .shfl => lanesOf arrived | _ => w.contributors c
  let res := w.collRes c
  let pd := match c.op with | .vote => c.w.mod == 1 || c.w.mod == 2 || c.w.mod == 3 | _ => false
  let n := c.words
  let out := if pd then w.putP c.w.d from_ (fun l => (res l).2.1)
    else w.put n c.w.d from_ (fun l => (res l).1)
  let out := out.raiseFlags from_ (fun l => unlessNF c.w.nf (res l).2.2)
  let up := fun p : CollPart => { p with ord := p.ord - 1 }
  ({ out with colls := updIf here up (w.colls.filter (fun p => !(here p && p.ord == 0))) }, arrived)

/-- The part with the highest lane whose instance can be performed. -/
def Warp.nextColl (w : Warp) : Option CollPart :=
  (w.colls.filter w.complete?).foldl (fun o c =>
    match o with
    | none => some c
    | some x => if x.lane < c.lane then some c else some x) none

/-- Perform every instance that can be performed, at most `k` of them, the squad of the lowest lane last, so that its value
stays in a scalar destination (02_state.md:R29; DESIGN CHOICE, log 51: squads performed at different times each write it in
turn); then the lanes `m` and every lane that had arrived go on together, so that
a path whose lanes all go on stays one path (04_isa_core.md:R116, R123). -/
def Warp.performColls : Nat → Word → Warp → Warp
  | 0, m, w => w.advanceLanes m
  | k + 1, m, w =>
    match w.nextColl with
    | some c => (w.performColl c).1.performColls k (m ||| (w.performColl c).2)
    | none => w.advanceLanes m

/-- Perform what can be performed; the lanes `m` go on too. -/
def Warp.collect (w : Warp) (m : Word) : Warp := w.performColls (w.colls.length + 1) m

/-- The parts of a lane of a word that are not yet over. -/
def Warp.partsOf (w : Warp) (hdr : DWord) (word lane : Nat) : List CollPart :=
  w.colls.filter (fun c => c.hdr == hdr && c.word == word && c.lane == lane)

/-- The parts of the lanes of a path, fixed as they issue; a lane that has arrived is still at its issue, and a lane whose
part is fixed issues for the instance after (04_isa_core.md:R116; DEDUCED, log 51). -/
def newParts (op : Op) (w : W) (i : Iss) : List CollPart :=
  let width := squadWidth i.warp.sqd
  let old := fun l => i.warp.partsOf i.path.hdr i.path.word l
  ((lanesOf i.path.mask).filter (fun l => !(old l).any CollPart.arrived)).map (fun l =>
    { hdr := i.path.hdr, word := i.path.word, lane := l, ord := (old l).length, arrived := i.act.getLsbD l, op := op, w := w
      width := width, named := namedSet w i.warp width l, val := collVal op w i.warp l, sel := i.src w 1 w.b l })

/-- Whether two parts disagree: lanes that meet with different widths or masks (04_isa_core.md:R116), or a
lane that is waited for reaches another collective that names its waiter (04_isa_core.md:R117). -/
def partsClash (w : Warp) (n o : CollPart) : Bool :=
  let same := n.hdr == o.hdr && n.word == o.word
  let meet := n.ord == o.ord && (n.named.getLsbD o.lane || o.named.getLsbD n.lane)
  let agree := fun a b : CollPart =>
    let sq := squadOf a.width a.lane
    a.named &&& sq == b.named &&& sq
  n.arrived && o.arrived && n.lane != o.lane &&
    (if same then meet && (n.width != o.width || !agree n o || !agree o n)
     else o.named.getLsbD n.lane && (w.partOf o.hdr o.word o.ord n.lane).isNone && n.named.getLsbD o.lane)

/-- Issue a collective: fix the parts of the path's lanes, and perform what can be performed; lanes whose guard
is false go on (04_isa_core.md:R116, R117). DESIGN CHOICE (log 51): a mismatch's record names the path's lanes whose part
disagrees, and the first other collective that disagrees with the lowest of them. -/
def collective (op : Op) (w : W) (i : Iss) (s : State) : Res :=
  let ps := newParts op w i
  let clash := ps.filterMap (fun n => ((i.warp.colls ++ ps).find? (fun o => partsClash i.warp n o)).map (fun o => (n, o)))
  match clash with
  | c :: _ =>
    .trap s { cause := 9, mask := maskOf (clash.map (fun x => x.1.lane)), addr := c.2.hdr, other := c.2.word }
  | [] =>
    .moved (s.updRef i.r (fun wp =>
      let wp := { wp with colls := wp.colls ++ ps }
      let wp := wp.parkAt i.r.lane .coll
      (wp.collect (i.path.mask &&& ~~~i.act)).yielded i.path))

/-- `vote` (04_isa_core.md:R118). -/
def execVote (w : W) (s : State) : Out := issueW .vote w (collective .vote w) s

/-- `shfl` (04_isa_core.md:R119). -/
def execShfl (w : W) (s : State) : Out := issueW .shfl w (collective .shfl w) s

/-- `red` (04_isa_core.md:R120). -/
def execRed (w : W) (s : State) : Out := issueW .red w (collective .red w) s

/-- `scan` (04_isa_core.md:R121). -/
def execScan (w : W) (s : State) : Out := issueW .scan w (collective .scan w) s

/-- COLLECTIVE_PERFORMED: the instances of a warp that no lane is waited for are performed
(04_isa_core.md:R116). -/
def execCollectivePerformed (r : Ref) (s : State) : Out := .next (s.updRef r (fun w => w.collect 0))

/-! ## Completion counters -/

/-- `waitlt`: the path parks until the counter reads less than t (04_isa_core.md:R122). -/
def execWaitlt (w : W) (s : State) : Out :=
  issueW .waitlt w (fun i s =>
    let n := w.a.resIx
    let t := w.imm.toNat
    if nth i.warp.cnt n 0 < t then .done s
    else .stay (s.updRef i.r (fun wp => wp.parkAt i.r.lane (.waitlt n t)))) s

end Sys2Proof.Machine
end

