-- ==== Sys2Proof/Machine/Control.lean ====
section
/-! DEFINITION. Control flow, the software trap, the trap record and the return from a handler
(04_isa_core.md:R123 to R128). -/

namespace Sys2Proof.Machine

/-- The lanes of a path whose target fails, with their traps (03_encoding.md:R66). -/
def badTargets (s : State) (ctx : Nat) (ls : List Nat) (target : Nat → DWord) : List (Nat × TrapV) :=
  ls.filterMap (fun l => (s.judgeTarget ctx (target l)).map (fun t => (l, t)))

/-- A path splits at the end of its clause: the given lanes go to their targets, the others to the next
clause (03_encoding.md:R65). -/
def Warp.transfer (w : Warp) (p : Path) (ls : List Nat) (target : Nat → DWord) : Warp :=
  let rest := p.mask &&& ~~~(maskOf ls)
  (w.yielded p).replacePath (lowLane p.mask)
    (Path.at rest (nextClause p.hdr p.held) :: ls.map (fun l => Path.at (maskOf [l]) (target l)))

/-- A transfer of the active lanes to their targets, each judged first (03_encoding.md:R66); `pre` is the
register effect that goes with it. -/
def transferOp (target : Iss → Nat → DWord) (pre : Iss → Warp → Warp) (i : Iss) (s : State) : Res :=
  match firstTrap (badTargets s i.ctx i.lanes (target i)) with
  | some t => .trap s t
  | none => .moved (s.updRef i.r (fun wp => (pre i wp).transfer i.path i.lanes (target i)))

/-- A target given relative to the clause's header (04_isa_core.md:R123). -/
def relTarget (w : W) (i : Iss) (_ : Nat) : DWord :=
  i.path.hdr + BitVec.ofNat 64 (16 * (w.imm.signExtend 64).toNat)

/-- A target given by a register pair. -/
def regTarget (w : W) (i : Iss) (l : Nat) : DWord := BitVec.ofNat 64 (i.src w 2 w.a l)

/-- `bra` (04_isa_core.md:R123). -/
def execBra (w : W) (s : State) : Out := issueW .bra w (transferOp (relTarget w) (fun _ wp => wp)) s

/-- `brx` (04_isa_core.md:R123). -/
def execBrx (w : W) (s : State) : Out := issueW .brx w (transferOp (regTarget w) (fun _ wp => wp)) s

/-- `call`: D receives the header of the next clause (04_isa_core.md:R123). -/
def execCall (w : W) (s : State) : Out :=
  issueW .call w (transferOp (if w.mod = 0 then relTarget w else regTarget w)
    (fun i wp => wp.put 2 w.d i.lanes (fun _ => (nextClause i.path.hdr i.path.held).toNat))) s

/-- `ret` (04_isa_core.md:R123). -/
def execRet (w : W) (s : State) : Out := issueW .ret w (transferOp (regTarget w) (fun _ wp => wp)) s

/-- The lanes of a mask end (04_isa_core.md:R124). -/
def Warp.exitLanes (w : Warp) (p : Path) (ls : List Nat) : Warp :=
  let m := maskOf ls
  let w := (w.yielded p).replacePath (lowLane p.mask) [Path.at (p.mask &&& ~~~m) (nextClause p.hdr p.held)]
  { w with live := w.live &&& ~~~m }

/-- `exit`; in a handler it raises the illegal-operand trap (18_recovery.md:R322). -/
def execExit (w : W) (s : State) : Out :=
  issueW .exit w (fun i s =>
    if i.r.handler then i.illegal s
    else .moved (s.updRef i.r (fun wp => wp.exitLanes i.path i.lanes))) s

/-- `trap`: the software trap with its code on the active lanes (04_isa_core.md:R125). -/
def execTrap (w : W) (s : State) : Out :=
  issueW .trap w (fun i s => .trap s { cause := 7, code := bits w.imm 0 16, mask := i.act }) s

/-- A word of a trap record (04_isa_core.md:R126). -/
def TrapRec.word_ (t : TrapRec) (wrp i : Nat) : Nat :=
  match i with
  | 0 => t.code % 2 ^ 16 * 2 ^ 16 + t.sub % 256 * 2 ^ 8 + t.cause % 256
  | 1 => t.mask.toNat
  | 2 => half64 false t.hdr
  | 3 => half64 true t.hdr
  | 4 => t.prog * 16 + t.word % 16
  | 5 => wrp % 128
  | 6 => half64 false t.addr
  | 7 => half64 true t.addr
  | 8 => half64 false t.ckpt
  | 9 => half64 true t.ckpt
  | 10 => t.other
  | 11 => t.otherTkt % 2 ^ 32
  | 12 => t.otherGngi
  | _ => 0

/-- Word i of the record of a warp; 0 without a trap. -/
def Warp.trapWord (w : Warp) (i : Nat) : Nat :=
  match w.trap with
  | some t => t.word_ w.idx i
  | none => 0

/-- `trec` (04_isa_core.md:R126). -/
def execTrec (w : W) (s : State) : Out :=
  issueW .trec w (fun i s =>
    match i.trapped with
    | none => i.illegal s
    | some t => localOp (fun i wp => wp.put 1 w.d i.lanes (fun _ => t.trapWord w.imm.toNat)) i s) s

/-- A path as a save keeps it, and as it stands when its warp resumes: a wait is evaluated afresh, but for one that has ended or that
stands for an arrival, a collective part, a signature or a place in a tile order already given (14_isa_sync.md:R284;
18_recovery.md:R328; 20_isa_system.md:R361). -/
def Path.saved (p : Path) : Path :=
  match p.park with
  | .released _ _ | .bar _ _ | .coll | .mma _ | .tile _ _ _ | .aput _ _ => p
  | _ => { p with park := .run }

/-- Whether a `bar` wait's phase has completed (14_isa_sync.md:R284). -/
def Path.barDone (bars : List Barrier) (p : Path) : Path :=
  match p.park with
  | .bar n par => if ((bars[n]?).map Barrier.phb) = some par then p else { p with park := .released true 0 }
  | _ => p

/-- A held warp that has not trapped goes on; its parked paths judge their conditions afresh (20_isa_system.md:R361). -/
def Warp.resume (w : Warp) (bars : List Barrier) : Warp :=
  { w with holder := .free, stopped := false, paths := w.paths.map (fun p => (p.saved).barDone bars) }

/-- Resume every warp of a block that an activation holds, at its stopped position; one that has trapped waits for the
referee (20_isa_system.md:R357, 18_recovery.md:R320). -/
def Block.letGo (b : Block) (h : Holder) : Block :=
  let free := fun w : Warp => if w.trap.isSome then { w with holder := .free, stopped := true } else w.resume b.bars
  { b with warps := updIf (fun w : Warp => w.holder == h) free b.warps }

/-- The failing checkpoint of some lanes of a warp (04_isa_core.md:R127). -/
def ckptTrap (s : State) (ctx : Nat) (t : Warp) (m : Word) : Option TrapV :=
  firstTrap (badTargets s ctx (lanesOf m) (fun l => nth t.ckpt l 0))

/-- `tret`: the trapped warp returns, the activation ends, and the warps it still holds resume
(04_isa_core.md:R127; 20_isa_system.md:R357). What it has started goes on without it (02_state.md:R31). -/
def execTret (w : W) (s : State) : Out :=
  issueW .tret w (fun i s =>
    match i.trapped with
    | none => i.illegal s
    | some t =>
      match t.trap with
      | none => i.illegal s
      | some rec_ =>
        let mode := RetMode.ofMod w.mod.toNat
        match (if mode = .ckpt then ckptTrap s i.ctx t rec_.mask else none) with
        | some e => .trap s { e with mask := i.act }
        | none =>
          .moved ((s.endHandler i.r.lsq i.r.tkt).updBlock i.r.lsq i.r.tkt (fun b =>
            let b := (b.updWarp t.idx (fun wp => wp.returnFrom rec_ mode)).letGo .handler
            { b with handler := none }))) s

/-- `nop` (04_isa_core.md:R128). -/
def execNop (w : W) (s : State) : Out := issueW .nop w (fun _ s => .done s) s

/-- A word whose opcode is unassigned raises the illegal-encoding trap with sub-cause 2, or a lower one
(03_encoding.md:R88, R89). -/
def execUnassignedOpcode (_ : BitVec 128) (s : State) : Out :=
  match s.issuing with
  | none => .fault .noIssuer
  | some i => .next (finish i (.trap s { cause := 1, sub := 2, mask := i.path.mask }))

end Sys2Proof.Machine
end

