-- ==== Sys2Proof/Machine/Transcend.lean ====
section
/-! DEFINITION. The transcendental functions (05_numbers.md:R157, 06_isa_float.md:R166, R179): their exact
results to 500 binary places, with a sticky lowest bit, so that every rounding of R157 sees the exact value.
An irrational result is never a tie and never representable; the exact results are told apart first. -/

namespace Sys2Proof.Machine

/-- Binary places of the fixed-point work; results are cut to `fxKeep`. -/
def fxP : Nat := 560
/-- Binary places kept of a result. -/
def fxKeep : Nat := 500
/-- One in fixed point. -/
def fxOne : Int := 2 ^ fxP
/-- A product in fixed point. -/
def fxMul (a b : Int) : Int := a * b / fxOne

/-- Σ of t_k ÷ d_k where t_{k+1} = t_k × r, d_k = first + step × k; `n` terms. -/
def fxOdd (r : Int) : Nat → Nat → Int → Int
  | 0, _, _ => 0
  | n + 1, d, t => t / d + fxOdd r n (d + 2) (fxMul t r)

/-- Σ x^(2k+1)/(2k+1), the inverse hyperbolic tangent of x, |x| ≤ 1/3. -/
def fxAtanh (x : Int) : Int := fxOdd (fxMul x x) 190 1 x

/-- The inverse tangent of 1/n. -/
def fxAtanInv (n : Int) : Int := fxOdd (-(fxOne / (n * n))) 130 1 (fxOne / n)

/-- π. -/
def fxPi : Int := 16 * fxAtanInv 5 - 4 * fxAtanInv 239
/-- The natural logarithm of 2. -/
def fxLn2 : Int := 2 * fxAtanh (fxOne / 3)

/-- The tail of a Taylor series: the term t = x^k/k! and what follows it in steps of `s`, with ratio r. -/
def fxTaylor (r : Int) (s : Nat) : Nat → Nat → Int → Int
  | 0, _, _ => 0
  | n + 1, k, t =>
    let den : Int := if s = 1 then k + 1 else (k + 1) * (k + 2)
    t + fxTaylor r s n (k + s) (fxMul t r / den)

/-- e^x for 0 ≤ x < 1. -/
def fxExp (x : Int) : Int := fxTaylor x 1 120 0 fxOne
/-- sin x for 0 ≤ x ≤ π/2. -/
def fxSin (x : Int) : Int := fxTaylor (-(fxMul x x)) 2 80 1 x
/-- cos x for 0 ≤ x ≤ π/2. -/
def fxCos (x : Int) : Int := fxTaylor (-(fxMul x x)) 2 80 0 fxOne

/-- An irrational positive value known in fixed point: its leading places with a sticky bit. -/
def fxNum (neg : Bool) (v : Int) : Num :=
  .fin neg (2 * (v / 2 ^ (fxP - fxKeep)).toNat + 1) (-(fxKeep : Int) - 1)

/-- m × 2^e in fixed point, cut below the last place. -/
def fxOf (m : Nat) (e : Int) : Int :=
  let k := e + fxP
  if 0 ≤ k then (m * 2 ^ k.toNat : Nat) else (m / 2 ^ (-k).toNat : Nat)

/-- 2^a (06_isa_float.md:R166). Exact for an integral a; beyond the range of every format the value is replaced
by one that rounds alike. -/
def exp2Num (a : Num) : Num :=
  match a with
  | .nan s => .nan s
  | .inf n => if n then .zero false else .inf false
  | .zero _ => .fin false 1 0
  | .fin n m e =>
    if 14 < expOf m e then (if n then .fin false 3 (-20000) else .fin false 1 20000)
    else
      let x := if n then -fxOf m e else fxOf m e
      if 0 ≤ e ∨ m % 2 ^ (-e).toNat = 0 then .fin false 1 (x / fxOne)
      else
        let y := match fxNum false (fxExp (fxMul (x % fxOne) fxLn2)) with
          | .fin _ k g => (k, g)
          | _ => (1, 0)
        .fin false y.1 (y.2 + x / fxOne)

/-- log2 a (06_isa_float.md:R166). Exact for a power of two. -/
def log2Num (a : Num) : Num :=
  match a with
  | .nan s => .nan s
  | .inf n => if n then .nan false else .inf false
  | .zero _ => .inf true
  | .fin n m e =>
    if n then .nan false
    else
      let x := expOf m e
      if m = 2 ^ Nat.log2 m then Num.ofInt x
      else
        let f := fxOf m (-(Nat.log2 m : Int))
        let l := 2 * fxAtanh ((f - fxOne) * fxOne / (f + fxOne)) * fxOne / fxLn2
        let v := x * fxOne + l
        fxNum (decide (v < 0)) (if v < 0 then -v else v)

/-- sin(πr) for the quadrant q and t in [0, 1/2) with r = q/2 + t; exact at t = 0. -/
def sinQuad (q : Nat) (t : Int) : Num :=
  let neg := decide (2 ≤ q)
  if t = 0 then (if q % 2 = 0 then .zero false else .fin neg 1 0)
  else
    let x := fxMul t fxPi
    fxNum neg (if q % 2 = 0 then fxSin x else fxCos x)

/-- sin(π |a|) of m × 2^e shifted by `h` half turns, without a's sign. -/
def sinPiAbs (m : Nat) (e : Int) (h : Nat) : Num :=
  let r := if 1 ≤ e then 0 else fxOf m e % (2 * fxOne)
  let q := (2 * r / fxOne).toNat
  sinQuad ((q + h) % 4) (r - q * fxOne / 2)

/-- sin(πa) (06_isa_float.md:R166); integral a gives a zero with the sign of a. -/
def sinPiNum (a : Num) : Num :=
  match a with
  | .nan s => .nan s
  | .inf _ => .nan false
  | .zero n => .zero n
  | .fin n m e =>
    match sinPiAbs m e 0 with
    | .zero _ => .zero n
    | y => if n then y.negate else y

/-- cos(πa) (06_isa_float.md:R166). -/
def cosPiNum (a : Num) : Num :=
  match a with
  | .nan s => .nan s
  | .inf _ => .nan false
  | .zero _ => .fin false 1 0
  | .fin _ m e => sinPiAbs m e 1

/-- tanh a (06_isa_float.md:R166). Below 2^−60 the value lies just below |a|, and above 2^9 just below 1. -/
def tanhNum (a : Num) : Num :=
  match a with
  | .nan s => .nan s
  | .inf n => .fin n 1 0
  | .zero n => .zero n
  | .fin n m e =>
    if expOf m e < -60 then .fin n (m * 2 ^ 200 - 1) (e - 200)
    else if 9 < expOf m e then .fin n (2 ^ 400 - 1) (-400)
    else
      let x := 2 * fxOf m e * fxOne / fxLn2
      let g : Int := fxExp (fxMul (x % fxOne) fxLn2) * 2 ^ (x / fxOne).toNat
      fxNum n ((g - fxOne) * fxOne / (g + fxOne))

/-- 1 ÷ √a, exactly or with a sticky bit (06_isa_float.md:R166). -/
def rsqrtNum (a : Num) : Num :=
  match a with
  | .nan s => .nan s
  | .inf n => if n then .nan false else .zero false
  | .zero n => .inf n
  | .fin n m e =>
    if n then .nan false
    else
      let odd := e % 2 != 0
      let sh := 2 * wide + 2 * Nat.log2 m + 2 + (if odd then 1 else 0)
      let r := isqrt (2 ^ sh / m)
      .fin false (2 * r + (if r * r * m = 2 ^ sh then 0 else 1)) (-((e + sh) / 2) - 1)

/-- The functions of 06_isa_float.md:R166. -/
inductive TFun where
  | ex2 | lg2 | sinp | cosp | tnh | rcp | rsq
  deriving DecidableEq, Repr

/-- The exact result of a function. -/
def TFun.value (f : TFun) (a : Num) : Num :=
  match f with
  | .ex2 => exp2Num a
  | .lg2 => log2Num a
  | .sinp => sinPiNum a
  | .cosp => cosPiNum a
  | .tnh => tanhNum a
  | .rcp => (Num.fin false 1 0).div a
  | .rsq => rsqrtNum a

/-- The flags of the special cases (06_isa_float.md:R166). -/
def TFun.special (f : TFun) (a : Num) : Flags :=
  if a.isSig then fNV
  else match f, a with
    | .lg2, .zero _ => fDZ
    | .rcp, .zero _ => fDZ
    | .rsq, .zero _ => fDZ
    | .lg2, .inf true => fNV
    | .rsq, .inf true => fNV
    | .lg2, .fin true _ _ => fNV
    | .rsq, .fin true _ _ => fNV
    | .sinp, .inf _ => fNV
    | .cosp, .inf _ => fNV
    | _, _ => 0

/-- The d of T(d) for a version; none for CR (05_numbers.md:R157). -/
def TFun.trunc (f : TFun) (ver : Nat) : Option Nat :=
  match f, ver with
  | .tnh, 1 => some 2
  | .tnh, 2 => some 1
  | .tnh, _ => some 0
  | .rcp, 3 => none
  | .rsq, 3 => none
  | .rcp, _ => some 0
  | .rsq, _ => some 0
  | _, 1 => some 1
  | _, 2 => some 0
  | _, _ => none

/-- The result a function-table version defines (05_numbers.md:R157): a representable value as it is, then an overflow,
then the method of the version. DEDUCED (log 53): a representable subnormal is such a value under `.ftz` too, R157 putting
that case first. -/
def TFun.result (f : TFun) (ver : Nat) (fm : Fmt) (sat ftz : Bool) (a : Num) : FRes :=
  let y := f.value a
  let exact := round fm .rne sat false y
  let r := round fm .rne sat ftz y
  let ovf := r.fl &&& (fOF ||| fSAT) != 0
  let r :=
    if exact.fl = 0 then exact
    else match f.trunc ver with
    | some d =>
      if r.fl &&& fNX != 0 && !ovf then
        let t := round fm .rtz sat ftz y
        { t with bits := t.bits - t.bits % 2 ^ d }
      else r
    | none => r
  { r with fl := r.fl ||| f.special a }

end Sys2Proof.Machine
end

