-- ==== Sys2Proof/Machine/Float.lean ====
section
/-! DEFINITION. The float instructions of group 0x5, the transcendentals (06_isa_float.md:R160 to R166), and the
P-form word (03_encoding.md:R79 to R82). -/

namespace Sys2Proof.Machine

/-- The format of a float type code (06_isa_float.md:R160). -/
def fltFmt (ty : Nat) : Fmt := if ty = 1 then fmt16 else if ty = 2 then fmtBf16 else fmt32

/-- The bits of 1.0 in a format. -/
def Fmt.oneBits (f : Fmt) : Nat := f.bias.toNat * 2 ^ (f.p - 1)

/-- The format of the float type of a word. -/
def wFmt (w : W) : Fmt := fltFmt (bits w.mod 3 2)
/-- Whether the float type of a word flushes subnormals (06_isa_float.md:R160). -/
def wFtz (w : W) : Bool := bits w.mod 3 2 == 3

/-- The bits of a float source, cut to the format's width (06_isa_float.md:R161). -/
def Iss.fbits (i : Iss) (w : W) (f : Fmt) (o : Opnd) (l : Nat) : Nat :=
  i.warp.src w.imm 1 f.oneBits o l % 2 ^ (f.eb + f.p)

/-- The value of a float source. -/
def Iss.fnum (i : Iss) (w : W) (o : Opnd) (l : Nat) : Num := decodeF (wFmt w) (wFtz w) (i.fbits w (wFmt w) o l)

/-- Round an exact result into the word's type under its mode, with NV where an operand is signaling or the
operation invalid (06_isa_float.md:R162, 05_numbers.md:R136). -/
def fround (w : W) (i : Iss) (l : Nat) (x : Num) (nv : Bool) : Nat × Flags :=
  let r := (round (wFmt w) (i.warp.modeOf w.mod l) w.sat (wFtz w) x).nv nv
  (r.bits, r.fl)

/-- a + b. -/
def faddRes (w : W) (sub : Bool) (i : Iss) (l : Nat) : Nat × Flags :=
  let a := i.fnum w w.a l
  let b := i.fnum w w.b l
  let b := if sub then b.negate else b
  fround w i l (a.add (i.warp.modeOf w.mod l) b) (a.isSig || b.isSig || a.addInvalid b)

/-- a × b. -/
def fmulRes (w : W) (i : Iss) (l : Nat) : Nat × Flags :=
  let a := i.fnum w w.a l
  let b := i.fnum w w.b l
  fround w i l (a.mul b) (a.isSig || b.isSig || a.mulInvalid b)

/-- The exact a × b + c, and whether an operation of it is invalid (05_numbers.md:R136). -/
def fmaNum (mode : Mode) (a b c : Num) : Num × Bool :=
  let p := a.mul b
  let nv := a.isSig || b.isSig || c.isSig || a.mulInvalid b || p.addInvalid c
  (if a.mulInvalid b then .nan false else p.add mode c, nv)

/-- a × b + c, rounded once. -/
def fmaRes (w : W) (i : Iss) (l : Nat) : Nat × Flags :=
  let r := fmaNum (i.warp.modeOf w.mod l) (i.fnum w w.a l) (i.fnum w w.b l) (i.fnum w w.c l)
  fround w i l r.1 r.2

/-- a ÷ b; a finite nonzero a over zero raises DZ. -/
def fdivRes (w : W) (i : Iss) (l : Nat) : Nat × Flags :=
  let a := i.fnum w w.a l
  let b := i.fnum w w.b l
  let r := fround w i l (a.div b) (a.isSig || b.isSig || a.divInvalid b)
  (r.1, if a.divByZero b then r.2 ||| fDZ else r.2)

/-- √a. -/
def fsqrtRes (w : W) (i : Iss) (l : Nat) : Nat × Flags :=
  let a := i.fnum w w.a l
  fround w i l a.sqrt (a.isSig || a.sqrtInvalid)

/-- A signed 32-bit exponent, cut where every format has overflowed or underflowed. -/
def expArg (x : Nat) : Int := max (-100000) (min (readInt true 32 x) 100000)

/-- a × 2^b. -/
def fsclRes (w : W) (i : Iss) (l : Nat) : Nat × Flags :=
  let a := i.fnum w w.a l
  fround w i l (a.scale (expArg (i.src w 1 w.b l))) a.isSig

/-- The lesser or greater (05_numbers.md:R159). -/
def fminRes (w : W) (mx : Bool) (i : Iss) (l : Nat) : Nat × Flags :=
  let a := i.fnum w w.a l
  let b := i.fnum w w.b l
  let x := if mx then a.max2 b else a.min2 b
  ((round (wFmt w) .rne false false x).bits, if a.isSig || b.isSig then fNV else 0)

/-- The sign bit inverted or cleared (05_numbers.md:R136). -/
def fsignRes (w : W) (abs : Bool) (i : Iss) (l : Nat) : Nat :=
  let f := wFmt w
  let x := i.fbits w f w.a l
  let top := 2 ^ (f.eb + f.p - 1)
  if abs then x % top else if x < top then x + top else x - top

/-- The conditions of 06_isa_float.md:R163 and the NV they raise. -/
def fcond (c : Nat) (a b : Num) : Bool × Flags :=
  let un := a.isNan || b.isNan
  let sig := a.isSig || b.isSig
  let lt := a.lt b
  let eq := a.eqv b
  let v := match c with
    | 0 => eq
    | 1 => !eq
    | 2 => lt
    | 3 => lt || eq
    | 4 => b.lt a
    | 5 => b.lt a || eq
    | 6 => un
    | _ => !un
  (v, if sig || (un && decide (2 ≤ c ∧ c ≤ 5)) then fNV else 0)

/-- `fcmp` (06_isa_float.md:R163). -/
def fcmpRes (w : W) (i : Iss) (l : Nat) : Bool × Flags :=
  fcond (bits w.mod 0 3) (i.fnum w w.a l) (i.fnum w w.b l)

/-- The class bit of a value (06_isa_float.md:R164). -/
def fclass (f : Fmt) (x : Num) : Nat :=
  match x with
  | .nan s => if s then 9 else 8
  | .inf n => if n then 7 else 0
  | .zero n => if n then 4 else 3
  | .fin n m e =>
    let sub := decide (expOf m e < f.emin)
    if n then (if sub then 5 else 6) else (if sub then 2 else 1)

/-- A value rounded to an integral value, and whether it changed (06_isa_float.md:R165). -/
def roundIntegral (mode : Mode) (a : Num) : Num × Bool :=
  match a with
  | .fin n m e => let q := quant mode n m e 0; (Num.mk n q.1 0, q.2)
  | x => (x, false)

/-- `frnd` (06_isa_float.md:R165). -/
def frndRes (w : W) (i : Iss) (l : Nat) : Nat × Flags :=
  let a := i.fnum w w.a l
  let q := roundIntegral (i.warp.modeOf w.mod l) a
  let nv : Flags := if a.isSig then fNV else 0
  ((round (wFmt w) .rne false false q.1).bits, nv ||| (if q.2 then fNX else 0))

/-- A transcendental instruction (06_isa_float.md:R166). -/
def transEff (f : TFun) (w : W) : Iss → Warp → Warp :=
  laneOut 1 w (fun i l =>
    let r := f.result i.grid.ftv (wFmt w) w.sat (wFtz w) (i.fnum w w.a l)
    (r.bits, r.fl))

/-- `fadd` (06_isa_float.md:R162). -/
def execFadd (w : W) (s : State) : Out := issueW .fadd w (localOp (laneOut 1 w (faddRes w false))) s

/-- `fsub` (06_isa_float.md:R162). -/
def execFsub (w : W) (s : State) : Out := issueW .fsub w (localOp (laneOut 1 w (faddRes w true))) s

/-- `fmul` (06_isa_float.md:R162). -/
def execFmul (w : W) (s : State) : Out := issueW .fmul w (localOp (laneOut 1 w (fmulRes w))) s

/-- `fma` (06_isa_float.md:R162). -/
def execFma (w : W) (s : State) : Out := issueW .fma w (localOp (laneOut 1 w (fmaRes w))) s

/-- `fmin` (06_isa_float.md:R162). -/
def execFmin (w : W) (s : State) : Out := issueW .fmin w (localOp (laneOut 1 w (fminRes w false))) s

/-- `fmax` (06_isa_float.md:R162). -/
def execFmax (w : W) (s : State) : Out := issueW .fmax w (localOp (laneOut 1 w (fminRes w true))) s

/-- `fscl` (06_isa_float.md:R162). -/
def execFscl (w : W) (s : State) : Out := issueW .fscl w (localOp (laneOut 1 w (fsclRes w))) s

/-- `fdiv` (06_isa_float.md:R162). -/
def execFdiv (w : W) (s : State) : Out := issueW .fdiv w (localOp (laneOut 1 w (fdivRes w))) s

/-- `fsqrt` (06_isa_float.md:R162). -/
def execFsqrt (w : W) (s : State) : Out := issueW .fsqrt w (localOp (laneOut 1 w (fsqrtRes w))) s

/-- `fneg` (06_isa_float.md:R162). -/
def execFneg (w : W) (s : State) : Out := issueW .fneg w (localOp (laneOut 1 w (plain (fsignRes w false)))) s

/-- `fabs` (06_isa_float.md:R162). -/
def execFabs (w : W) (s : State) : Out := issueW .fabs w (localOp (laneOut 1 w (plain (fsignRes w true)))) s

/-- `fcmp` (06_isa_float.md:R163). -/
def execFcmp (w : W) (s : State) : Out := issueW .fcmp w (localOp (predOut w (fcmpRes w))) s

/-- `fcls` (06_isa_float.md:R164). -/
def execFcls (w : W) (s : State) : Out := issueW .fcls w (localOp (predOut w (fun i l => (w.imm.getLsbD (fclass (wFmt w) (i.fnum w w.a l)), 0)))) s

/-- `frnd` (06_isa_float.md:R165). -/
def execFrnd (w : W) (s : State) : Out := issueW .frnd w (localOp (laneOut 1 w (frndRes w))) s

/-- `frcp` (06_isa_float.md:R166). -/
def execFrcp (w : W) (s : State) : Out := issueW .frcp w (localOp (transEff .rcp w)) s

/-- `frsq` (06_isa_float.md:R166). -/
def execFrsq (w : W) (s : State) : Out := issueW .frsq w (localOp (transEff .rsq w)) s

/-- `fex2` (06_isa_float.md:R166). -/
def execFex2 (w : W) (s : State) : Out := issueW .fex2 w (localOp (transEff .ex2 w)) s

/-- `flg2` (06_isa_float.md:R166). -/
def execFlg2 (w : W) (s : State) : Out := issueW .flg2 w (localOp (transEff .lg2 w)) s

/-- `fsinp` (06_isa_float.md:R166). -/
def execFsinp (w : W) (s : State) : Out := issueW .fsinp w (localOp (transEff .sinp w)) s

/-- `fcosp` (06_isa_float.md:R166). -/
def execFcosp (w : W) (s : State) : Out := issueW .fcosp w (localOp (transEff .cosp w)) s

/-- `ftnh` (06_isa_float.md:R166). -/
def execFtnh (w : W) (s : State) : Out := issueW .ftnh w (localOp (transEff .tnh w)) s

/-! ## The P-form word -/

/-- The W-form word that a half stands for (03_encoding.md:R81): a binary half takes D as first source. Integer types
are coded 0 `.i32`, 1 `.n32`. -/
def halfWord (h : Half) (m : BitVec 5) : W :=
  let b : Opnd := match h.a with
    | .reg o => o
    | .imm _ => .sel .imm
    | .none => .none
  let imm : Word := match h.a with
    | .imm v => (h.hop.widen v).getD 0
    | _ => 0
  { mod := m, d := h.d, a := if h.hop.isUnary then b else h.d, b := if h.hop.isUnary then .none else b
    c := .none, e := .none, g := .always, ch := .dflt, sat := false, nf := false, csel := false, imm := imm }

/-- The effect of a half (03_encoding.md:R81). -/
def halfEffect (h : Half) : Iss → Warp → Warp :=
  let w := halfWord h 0
  let n := halfWord h 1
  match h.hop with
  | .nop => fun _ wp => wp
  | .mov => movEff w
  | .add => intBin w (· + ·)
  | .sub => intBin w (· - ·)
  | .mul => intBin w (· * ·)
  | .min => intBin w min
  | .max => intBin w max
  | .minn => intBin n min
  | .maxn => intBin n max
  | .and => logic2 w (· &&& ·)
  | .or => logic2 w (· ||| ·)
  | .xor => logic2 w (· ^^^ ·)
  | .andn => logic2 w (fun a b => a &&& ~~~b)
  | .orn => logic2 w (fun a b => a ||| ~~~b)
  | .shl => shiftEff w shlW
  | .shr => shiftEff w shrW
  | .sar => shiftEff w sarW
  | .rol => shiftEff w rolW
  | .ror => shiftEff w rorW
  | .not => notEff w
  | .neg => intUn w (fun a => -a)
  | .abs => intUn w (fun a => a.natAbs)
  | .popc => countEff w 1 popBits
  | .clz => countEff w 1 leadZeros
  | .ctz => countEff w 1 trailZeros
  | .bfr => countEff w 1 revBits
  | .mulh => mulhEff w
  | .mulhn => mulhEff n
  | .fadd => laneOut 1 w (faddRes w false)
  | .fsub => laneOut 1 w (faddRes w true)
  | .fmul => laneOut 1 w (fmulRes w)
  | .fmin => laneOut 1 w (fminRes w false)
  | .fmax => laneOut 1 w (fminRes w true)
  | .fneg => laneOut 1 w (plain (fsignRes w false))
  | .fabs => laneOut 1 w (plain (fsignRes w true))
  | .fscl => laneOut 1 w (fsclRes w)
  | .pand => pred2 w (· && ·)
  | .por => pred2 w (· || ·)
  | .pxor => pred2 w (· != ·)
  | .pnot => pnotEff w

/-- The issue as a half sees it: the lanes of the path whose own guard is true (03_encoding.md:R82). -/
def Iss.half (i : Iss) (h : Half) : Iss :=
  { i with act := maskBy i.path.mask (fun l => match h.g with | none => true | some g => i.warp.gp g l) }

/-- The `v` registers of a half. -/
def halfSpans (h : Half) : List (Nat × Nat) :=
  vSpan 1 h.d ++ match h.a with | .reg o => vSpan 1 o | _ => []

/-- A P-form word: both halves read the state before the word (03_encoding.md:R80, R82; 02_state.md:R46). -/
def execPFormWord (x y : Half) (s : State) : Out :=
  match s.issuing with
  | none => .fault .noIssuer
  | some i =>
    let ix := i.half x
    let iy := i.half y
    let spans := halfSpans x ++ halfSpans y
    let sub := pSubCause x y
    .next (finish i (
      if sub ≠ 0 then .trap s { cause := 1, sub := sub, mask := i.path.mask }
      else if i.r.handler then
        (if (halfSpans x ≠ [] ∧ ix.act ≠ 0) ∨ (halfSpans y ≠ [] ∧ iy.act ≠ 0) then
          .trap s { cause := 3, mask := ix.act ||| iy.act }
         else .done (s.updRef i.r (fun wp => halfEffect y iy (halfEffect x ix wp))))
      else if spans.any (fun z => decide (8 * i.grid.rec_.base + i.warp.ext < z.1 + z.2)) then
        .trap s { cause := 2, mask := i.path.mask }
      else if i.held then .stay s
      else .done (s.updRef i.r (fun wp => halfEffect y iy (halfEffect x ix wp)))))

end Sys2Proof.Machine
end

