-- ==== Sys2Proof/Machine/Vf.lean ====
section
/-! DEFINITION. Conversions (06_isa_float.md:R167 to R170), the variable-precision instructions (R171 to R176) and the
transform instructions (R177 to R179). -/

namespace Sys2Proof.Machine

/-! ## Types of conversions -/

/-- The float format of a type code; none for an integer type (06_isa_float.md:R167). -/
def codeFmt : Nat → Option Fmt
  | 0x01 => some fmt32
  | 0x02 => some fmtBf16
  | 0x03 => some fmt16
  | 0x04 => some fmtE4m3
  | 0x05 => some fmtE5m2
  | 0x06 => some fmtE2m1
  | 0x10 => some fmt64
  | _ => none

/-- The width of an integer type code 0x08 to 0x0F; even codes are signed (06_isa_float.md:R167). -/
def codeWidth (c : Nat) : Nat := if c < 0x0A then 8 else if c < 0x0C then 16 else if c < 0x0E then 32 else 64

/-- The value of bits in a type code. -/
def readType (c x : Nat) : Num :=
  match codeFmt c with
  | some f => decodeF f false x
  | none => Num.ofInt (readInt (c % 2 == 0) (codeWidth c) x)

/-- An exact value written in a type code: a float by Round, an integer clamped with NV
(06_isa_float.md:R168). -/
def writeType (c : Nat) (mode : Mode) (sat : Bool) (x : Num) : FRes :=
  match codeFmt c with
  | some f => (round f mode sat false x).nv x.isSig
  | none =>
    let sg := c % 2 == 0
    let wd := codeWidth c
    let n := if wd = 64 then 64 else 32
    match x with
    | .nan _ => ⟨0, fNV⟩
    | .inf m => ⟨extInt sg wd n (if m then intMin sg wd else intMax sg wd), fNV⟩
    | x =>
      let y := x.toInt mode
      if y.1 < intMin sg wd then ⟨extInt sg wd n (intMin sg wd), fNV⟩
      else if intMax sg wd < y.1 then ⟨extInt sg wd n (intMax sg wd), fNV⟩
      else ⟨extInt sg wd n y.1, if y.2 then fNX else 0⟩

/-- Whether a type code is one of the narrow formats. -/
def narrowCode (c : Nat) : Bool := decide (4 ≤ c ∧ c ≤ 6)

/-- Convert one element under a scale byte (06_isa_float.md:R168): `sf` is 0 for none, 1 for E8M0, 2 for
E4M3. -/
def convert (dst src sf : Nat) (mode : Mode) (sat : Bool) (x : Num) (scale : Nat) : FRes :=
  if sf = 0 then writeType dst mode sat x
  else
    let bad : FRes := match codeFmt dst with
      | some f => ⟨f.nanBits, fNV⟩
      | none => ⟨0, fNV⟩
    match scaleValue (sf == 1) (scale % 256) with
    | none => bad
    | some s =>
      if s.isZero && (narrowCode dst || x.isInf) then bad
      else
        let y := if narrowCode src then x.mul s else x.div s
        (writeType dst mode sat (if x.isNan then x else y))

/-- The fields of `cvt`, `cvtn` and `cvtw` (06_isa_float.md:R168, R169). -/
def cvDst (w : W) : Nat := bits w.imm 0 8
/-- The source code. -/
def cvSrc (w : W) : Nat := bits w.imm 8 8
/-- The scale format. -/
def cvScale (w : W) : Nat := bits w.imm 16 4

/-- `cvt` in a lane. -/
def cvtRes (w : W) (i : Iss) (l : Nat) : Nat × Flags :=
  let x := readType (cvSrc w) (i.src w (regsOfCode (cvSrc w)) w.a l)
  let r := convert (cvDst w) (cvSrc w) (cvScale w) (i.warp.modeOf w.mod l) w.sat x (i.src w 1 w.b l)
  (r.bits, r.fl)

/-- The elements and their width in bits of a narrow type code (06_isa_float.md:R169). -/
def packOf (c : Nat) : Nat × Nat := if c = 2 ∨ c = 3 then (2, 16) else if c = 6 then (4, 4) else (4, 8)

/-- The lowest bit that `cvtn` and `cvtw` use: 16 for `.hi` (06_isa_float.md:R169). -/
def packLo (w : W) : Nat := if w.imm.getLsbD 20 then 16 else 0

/-- `cvtn` in a lane: n elements rounded and packed; E2M1 keeps the other half of D. -/
def cvtnRes (w : W) (i : Iss) (l : Nat) : Nat × Flags :=
  let c := cvDst w
  let p := packOf c
  let old := i.warp.reg 1 w.d l
  let src := i.src w p.1 w.a l
  let rs := (List.range p.1).map (fun k =>
    convert c 1 (cvScale w) (i.warp.modeOf w.mod l) w.sat (readType 1 (fld src (32 * k) 32)) (i.src w 1 w.b l))
  let v := ((List.range p.1).zip rs).foldl (fun a k => a + k.2.bits * 2 ^ (p.2 * k.1)) 0
  let v := if c = 6 then (if packLo w = 16 then old % 2 ^ 16 + v * 2 ^ 16 else old / 2 ^ 16 * 2 ^ 16 + v) else v
  (v, rs.foldl (fun f r => f ||| r.fl) 0)

/-- `cvtw` in a lane: n elements unpacked to binary32. -/
def cvtwRes (w : W) (i : Iss) (l : Nat) : Nat × Flags :=
  let c := cvDst w
  let p := packOf c
  let src := i.src w 1 w.a l / 2 ^ packLo w
  let rs := (List.range p.1).map (fun k =>
    convert 1 c (cvScale w) (i.warp.modeOf w.mod l) w.sat (readType c (fld src (p.2 * k) p.2)) (i.src w 1 w.b l))
  (((List.range p.1).zip rs).foldl (fun a k => a + k.2.bits * 2 ^ (32 * k.1)) 0,
    rs.foldl (fun f r => f ||| r.fl) 0)

/-- The words of the wide side of `cvtn` and `cvtw`. -/
def packWords (w : W) : Nat := (packOf (cvDst w)).1

/-- A format slot of the grid (05_numbers.md:R141). -/
def Grid.slot (g : Grid) (k : Nat) : QWord := nth g.rec_.fmt k 0
/-- The element code of a slot. -/
def slotElt (q : QWord) : Nat := bits q 0 8
/-- The block size code of a slot. -/
def slotBsz (q : QWord) : Nat := bits q 8 4
/-- The scale format of a slot. -/
def slotScf (q : QWord) : Nat := bits q 12 4
/-- The default SAT of a slot. -/
def slotSat (q : QWord) : Bool := q.getLsbD 16

/-- The codebook table held for a slot (05_numbers.md:R143). -/
def Grid.table (g : Grid) (k : Nat) : Cells 32 := ((g.tables.find? (fun t => t.1 == k)).map Prod.snd).getD []

/-- `cbdec` in a lane (06_isa_float.md:R170). -/
def cbdecRes (w : W) (i : Iss) (l : Nat) : Nat × Flags :=
  let k := w.c.resIx
  let sc := scaleValue true (i.src w 1 w.b l % 256)
  let f := if w.mod = 0 then fmtBf16 else fmt16
  let sat := w.sat || slotSat (i.grid.slot k)
  let rs := (cbDecode (i.grid.table k) (i.src w 1 w.a l) sc).map (round f .rne sat false)
  (((List.range 8).zip rs).foldl (fun a j => a + j.2.bits * 2 ^ (16 * j.1)) 0,
    rs.foldl (fun f r => f ||| r.fl) (if sc.isNone then fNV else 0))

/-! ## VF instructions -/

/-- A result for VF_L of a lane, under the word's mode. -/
def vfRound (w : W) (i : Iss) (l : Nat) (x : Num) (nv : Bool) : FRes :=
  (round (fmtVf (precL (i.warp.precOf l))) (i.warp.modeOf w.mod l) w.sat false x).nv nv

/-- The destinations of a VF instruction: the heads written for a window length k, and whether they are aligned
and apart. -/
structure VfDst where
  heads : Nat → List Nat
  ok : Nat → Bool

/-- One plain VF destination (02_state.md:R54). -/
def vfDst1 (d : Opnd) : VfDst := ⟨fun _ => [d.vreg], fun k => d.vreg % vfAlign k == 0⟩

/-- A VF result: each component of a lane with its bits and flags, and whether it meets the precision-exhausted
condition. -/
abbrev VfOut := List (FRes × Bool)

/-- WRITE VF RESULTS (02_state.md:R53, R54; 06_isa_float.md:R176): sources must be windows, the active lanes
agree on k, heads are aligned; a lane that meets the precision-exhausted condition with PXEN traps, otherwise it
raises PX. -/
def vfWrite (w : W) (srcOk : Iss → Bool) (d : VfDst) (f : Iss → Nat → VfOut) (i : Iss) (s : State) : Res :=
  match i.warp.oneK i.lanes with
  | none => i.illegal s
  | some k =>
    if !srcOk i || !d.ok k then i.illegal s
    else
      let px := fun l => (f i l).any Prod.snd
      let stop := maskBy i.act (fun l => px l && precPxen (i.warp.precOf l))
      if stop ≠ 0 then .trap s { cause := 6, mask := stop }
      else
        .done (s.updRef i.r (fun wp =>
          let wp := ((d.heads k).zip (List.range 4)).foldl (fun wp h =>
            wp.putWindow h.1 k i.lanes (fun l =>
              vfWindow k (precL (i.warp.precOf l)) (nth (f i l) h.2 (⟨0, 0⟩, false)).1.bits)) wp
          wp.raiseFlags i.lanes (fun l => unlessNF w.nf
            ((f i l).foldl (fun a r => a ||| r.1.fl ||| (if r.2 then fPX else 0)) 0))))

/-- Whether VF source operands are windows (02_state.md:R53). -/
def tagged (os : List Opnd) (i : Iss) : Bool := os.all i.warp.vfTagged

/-- A VF source value. -/
def Iss.vf (i : Iss) (w : W) (o : Opnd) (l : Nat) : Num := i.warp.vfSrc w.imm o l

/-- The precision-exhausted condition of a lane. -/
def Iss.exhausted (i : Iss) (l : Nat) (addends : List Num) (r : Num) : Bool :=
  let p := i.warp.precOf l
  precisionExhausted addends r (precL p) (precFloor p)

/-- a + b or a − b with its test (06_isa_float.md:R171). -/
def vfaddOut (w : W) (sub : Bool) (i : Iss) (l : Nat) : VfOut :=
  let a := i.vf w w.a l
  let b := i.vf w w.b l
  let b := if sub then b.negate else b
  let x := a.add (i.warp.modeOf w.mod l) b
  [(vfRound w i l x (a.isSig || b.isSig || a.addInvalid b), i.exhausted l [a, b] x)]

/-- a × b. -/
def vfmulOut (w : W) (i : Iss) (l : Nat) : VfOut :=
  let a := i.vf w w.a l
  let b := i.vf w w.b l
  [(vfRound w i l (a.mul b) (a.isSig || b.isSig || a.mulInvalid b), false)]

/-- a × b + c with its test. -/
def vfmaOut (w : W) (i : Iss) (l : Nat) : VfOut :=
  let a := i.vf w w.a l
  let b := i.vf w w.b l
  let c := i.vf w w.c l
  let r := fmaNum (i.warp.modeOf w.mod l) a b c
  [(vfRound w i l r.1 r.2, i.exhausted l [a.mul b, c] r.1)]

/-- a ÷ b. -/
def vfdivOut (w : W) (i : Iss) (l : Nat) : VfOut :=
  let a := i.vf w w.a l
  let b := i.vf w w.b l
  let r := vfRound w i l (a.div b) (a.isSig || b.isSig || a.divInvalid b)
  [({ r with fl := if a.divByZero b then r.fl ||| fDZ else r.fl }, false)]

/-- √a. -/
def vfsqrtOut (w : W) (i : Iss) (l : Nat) : VfOut :=
  let a := i.vf w w.a l
  [(vfRound w i l a.sqrt (a.isSig || a.sqrtInvalid), false)]

/-- The lesser or greater (06_isa_float.md:R171; 05_numbers.md:R159). -/
def vfminOut (w : W) (mx : Bool) (i : Iss) (l : Nat) : VfOut :=
  let a := i.vf w w.a l
  let b := i.vf w w.b l
  [(vfRound w i l (if mx then a.max2 b else a.min2 b) (a.isSig || b.isSig), false)]

/-- A VF instruction with a plain destination. -/
def vfOp (w : W) (srcs : List Opnd) (f : Iss → Nat → VfOut) : Iss → State → Res :=
  vfWrite w (tagged srcs) (vfDst1 w.d) f

/-- The raw bits of a window. -/
def Warp.vfBits (w : Warp) (h k lane : Nat) : Nat :=
  (List.range k).foldl (fun a j => a * 2 ^ 32 + (cget w.v (32 * (h + j) + lane)).toNat) 0

/-- `vfneg`, `vfabs` and `vfmov`: a copy at the source's own k with its sign bit changed
(06_isa_float.md:R173). -/
def vfCopy (w : W) (f : Nat → Nat → Nat) (i : Iss) (s : State) : Res :=
  let k := i.warp.tag w.a.vreg
  if !i.warp.vfTagged w.a || w.d.vreg % vfAlign k != 0 then i.illegal s
  else .done (s.updRef i.r (fun wp =>
    wp.putWindow w.d.vreg k i.lanes (fun l => f (2 ^ (32 * k - 1)) (i.warp.vfBits w.a.vreg k l))))

/-- `vfcvt` out of VF in a lane. -/
def vfcvtOutRes (w : W) (i : Iss) (l : Nat) : Nat × Flags :=
  let r := writeType (bits w.imm 0 8) (i.warp.modeOf w.mod l) w.sat (i.vf w w.a l)
  (r.bits, r.fl)

/-- `vfcvt` into VF in a lane. -/
def vfcvtIn (w : W) (i : Iss) (l : Nat) : VfOut :=
  let c := bits w.imm 0 8
  let one := match codeFmt c with | some f => f.oneBits | none => 1
  let x := readType c (i.warp.src w.imm (regsOfCode c) one w.a l)
  [(vfRound w i l x x.isSig, false)]

/-- `vfext.exp` in a lane (06_isa_float.md:R175). -/
def vfexpRes (w : W) (i : Iss) (l : Nat) : Nat :=
  match i.vf w w.a l with
  | .zero _ => 0x80000000
  | .fin _ m e => extInt true 32 32 (expOf m e)
  | _ => 0x7FFFFFFF

/-- `vfrnd` in a lane (06_isa_float.md:R175). DESIGN CHOICE (log 66): a nonzero a that rounds to zero gives the zero of its sign, which
R165 says of `frnd` only. -/
def vfrndOut (w : W) (i : Iss) (l : Nat) : VfOut :=
  let a := i.vf w w.a l
  let q := roundIntegral (i.warp.modeOf w.mod l) a
  let r := vfRound w i l q.1 a.isSig
  [({ r with fl := if q.2 then r.fl ||| fNX else r.fl }, false)]

/-! ## Transforms -/

/-- One output component of a transform: its exact terms, and whether forming them is invalid. -/
structure Comp where
  terms : List Num
  nv : Bool

/-- The exact sum of the terms of a component, and its NV (06_isa_float.md:R178). DESIGN CHOICE (log 53): the terms are added one by
one, plain terms first, which settles the sign of an exact zero of three terms. -/
def Comp.sum (c : Comp) (mode : Mode) : Num × Bool :=
  let clash := c.terms.contains (.inf false) && c.terms.contains (.inf true)
  let nan := c.terms.any Num.isNan
  match c.terms with
  | [] => (.zero false, c.nv)
  | t :: ts =>
    (if nan || clash then .nan false else ts.foldl (fun a x => a.add mode x) t,
     c.nv || c.terms.any Num.isSig || clash)

/-- The component whose terms are ± products and plain terms. -/
def comp (plain : List Num) (prods : List (Bool × Num × Num)) : Comp :=
  { terms := plain ++ prods.map (fun p =>
      let x := p.2.1.mul p.2.2
      if p.1 then x.negate else x)
    nv := prods.any (fun p => p.2.1.mulInvalid p.2.2 || p.2.1.isSig || p.2.2.isSig) }

/-- A complex value. -/
abbrev Cx := Num × Num

/-- `bfly` (06_isa_float.md:R178). -/
def bflyComps (a b : Num) : List Comp := [comp [a, b] [], comp [a, b.negate] []]

/-- `cmul` (06_isa_float.md:R178). -/
def cmulComps (a b : Cx) : List Comp :=
  [comp [] [(false, a.1, b.1), (true, a.2, b.2)], comp [] [(false, a.1, b.2), (false, a.2, b.1)]]

/-- `cbfly` (06_isa_float.md:R178). -/
def cbflyComps (x y k : Cx) : List Comp :=
  [comp [x.1] [(false, k.1, y.1), (true, k.2, y.2)], comp [x.2] [(false, k.1, y.2), (false, k.2, y.1)],
   comp [x.1] [(true, k.1, y.1), (false, k.2, y.2)], comp [x.2] [(true, k.1, y.2), (true, k.2, y.1)]]

/-- A `.f32` source of a transform. -/
def Iss.f32 (i : Iss) (w : W) (o : Opnd) (l : Nat) : Num :=
  decodeF fmt32 false (i.warp.src w.imm 1 fmt32.oneBits o l)

/-- A complex `.f32` source: an even pair (06_isa_float.md:R177). -/
def Iss.cx32 (i : Iss) (w : W) (o : Opnd) (l : Nat) : Cx := (i.f32 w o l, i.f32 w (oddReg o) l)

/-- The real and imaginary heads of a complex operand of k (06_isa_float.md:R177). -/
def cxHeads (k : Nat) (o : Opnd) : Nat × Nat := (o.vreg, o.vreg + vfAlign k)

/-- A complex VF source. -/
def Iss.cxVf (i : Iss) (o : Opnd) (l : Nat) : Cx :=
  let k := i.warp.tag o.vreg
  (i.warp.vfVal (cxHeads k o).1 k l, i.warp.vfVal (cxHeads k o).2 k l)

/-- Whether a complex VF source is two windows of one k, aligned (06_isa_float.md:R177). DESIGN CHOICE (log 53): a real
head that is no multiple of 2j, for which R177 names no trap, is an illegal operand as two heads without one k are. -/
def cxTagged (i : Iss) (o : Opnd) : Bool :=
  let k := i.warp.tag o.vreg
  decide (1 ≤ k ∧ k ≤ 6) && i.warp.tag (cxHeads k o).2 == k && o.vreg % (2 * vfAlign k) == 0

/-- A component rounded to binary32. -/
def comp32 (w : W) (i : Iss) (l : Nat) (c : Comp) : FRes :=
  let r := c.sum (i.warp.modeOf w.mod l)
  (round fmt32 (i.warp.modeOf w.mod l) w.sat false r.1).nv r.2

/-- A component rounded to VF_L, with its precision-exhausted test. -/
def compVf (w : W) (i : Iss) (l : Nat) (c : Comp) : FRes × Bool :=
  let r := c.sum (i.warp.modeOf w.mod l)
  (vfRound w i l r.1 r.2, i.exhausted l c.terms r.1)

/-- A `.f32` transform: one register for each component. -/
def xf32 (w : W) (ds : List Opnd) (f : Iss → Nat → List FRes) : Iss → State → Res :=
  localOp (fun i wp =>
    let wp := (ds.zip (List.range 4)).foldl (fun wp d =>
      wp.put 1 d.1 i.lanes (fun l => (nth (f i l) d.2 ⟨0, 0⟩).bits)) wp
    wp.raiseFlags i.lanes (fun l => unlessNF w.nf ((f i l).foldl (fun a r => a ||| r.fl) 0)))

/-- Whether [a, a + n) and [b, b + n) are apart. -/
def apart (a b n : Nat) : Bool := decide (a + n ≤ b ∨ b + n ≤ a)

/-- Two plain VF destinations that share no register (06_isa_float.md:R177). -/
def vfDst2 (d e : Opnd) : VfDst :=
  ⟨fun _ => [d.vreg, e.vreg],
   fun k => d.vreg % vfAlign k == 0 && e.vreg % vfAlign k == 0 && apart d.vreg e.vreg k⟩

/-- One complex VF destination. -/
def cxDst1 (d : Opnd) : VfDst :=
  ⟨fun k => [d.vreg, d.vreg + vfAlign k], fun k => d.vreg % (2 * vfAlign k) == 0⟩

/-- Two complex VF destinations that share no register. -/
def cxDst2 (d e : Opnd) : VfDst :=
  ⟨fun k => [d.vreg, d.vreg + vfAlign k, e.vreg, e.vreg + vfAlign k],
   fun k => d.vreg % (2 * vfAlign k) == 0 && e.vreg % (2 * vfAlign k) == 0 &&
     apart d.vreg e.vreg (vfAlign k + k)⟩

/-- Whether a transform is of type `.f32` (06_isa_float.md:R178). -/
def xfIs32 (w : W) : Bool := bits w.mod 3 2 == 0

/-- The exact twiddle factor (cos, sin)(−2πk'/n), zeros positive (06_isa_float.md:R179). -/
def twidNum (k m : Nat) : Cx :=
  let r := k % 2 ^ m
  let pos := fun x : Num => match x with | .zero _ => .zero false | x => x
  if r = 0 then (.fin false 1 0, .zero false)
  else (pos (sinPiAbs (2 * r) (-(m : Int)) 1), pos (sinPiAbs (2 * r) (-(m : Int)) 0).negate)

/-- The factor of a lane. -/
def Iss.twid (i : Iss) (w : W) (l : Nat) : Cx := twidNum (i.src w 1 w.a l) (i.src w 1 w.b l)

/-- A `.vf` component of `twid`: toward zero above L = 112 (06_isa_float.md:R179). -/
def twidVf (w : W) (i : Iss) (l : Nat) (x : Num) : FRes × Bool :=
  let p := precL (i.warp.precOf l)
  (round (fmtVf p) (if 112 < p then .rtz else i.warp.modeOf w.mod l) false false x, false)

/-- `cvt` (06_isa_float.md:R168). -/
def execCvt (w : W) (s : State) : Out := issueW .cvt w (localOp (laneOut (regsOfCode (cvDst w)) w (cvtRes w))) s

/-- `cvtn` (06_isa_float.md:R169). -/
def execCvtn (w : W) (s : State) : Out := issueW .cvtn w (localOp (laneOut 1 w (cvtnRes w))) s

/-- `cvtw` (06_isa_float.md:R169). -/
def execCvtw (w : W) (s : State) : Out := issueW .cvtw w (localOp (laneOut (packWords w) w (cvtwRes w))) s

/-- `cbdec`; a slot that holds no codebook raises the illegal-operand trap (06_isa_float.md:R170). -/
def execCbdec (w : W) (s : State) : Out :=
  issueW .cbdec w (fun i s =>
    if slotElt (i.grid.slot w.c.resIx) ≠ 7 then i.illegal s
    else localOp (laneOut 4 w (cbdecRes w)) i s) s

/-- `vfadd` (06_isa_float.md:R171). -/
def execVfadd (w : W) (s : State) : Out := issueW .vfadd w (vfOp w [w.a, w.b] (vfaddOut w false)) s

/-- `vfsub` (06_isa_float.md:R171). -/
def execVfsub (w : W) (s : State) : Out := issueW .vfsub w (vfOp w [w.a, w.b] (vfaddOut w true)) s

/-- `vfmul` (06_isa_float.md:R171). -/
def execVfmul (w : W) (s : State) : Out := issueW .vfmul w (vfOp w [w.a, w.b] (vfmulOut w)) s

/-- `vfma` (06_isa_float.md:R171). -/
def execVfma (w : W) (s : State) : Out := issueW .vfma w (vfOp w [w.a, w.b, w.c] (vfmaOut w)) s

/-- `vfdiv` (06_isa_float.md:R171). -/
def execVfdiv (w : W) (s : State) : Out := issueW .vfdiv w (vfOp w [w.a, w.b] (vfdivOut w)) s

/-- `vfsqrt` (06_isa_float.md:R171). -/
def execVfsqrt (w : W) (s : State) : Out := issueW .vfsqrt w (vfOp w [w.a] (vfsqrtOut w)) s

/-- `vfmin` (06_isa_float.md:R171). -/
def execVfmin (w : W) (s : State) : Out := issueW .vfmin w (vfOp w [w.a, w.b] (vfminOut w false)) s

/-- `vfmax` (06_isa_float.md:R171). -/
def execVfmax (w : W) (s : State) : Out := issueW .vfmax w (vfOp w [w.a, w.b] (vfminOut w true)) s

/-- `vfcmp` (06_isa_float.md:R172). -/
def execVfcmp (w : W) (s : State) : Out :=
  issueW .vfcmp w (fun i s =>
    if !tagged [w.a, w.b] i then i.illegal s
    else localOp (predOut w (fun i l => fcond (bits w.mod 0 3) (i.vf w w.a l) (i.vf w w.b l))) i s) s

/-- `vfneg` (06_isa_float.md:R173). -/
def execVfneg (w : W) (s : State) : Out := issueW .vfneg w (vfCopy w (fun top x => if x < top then x + top else x - top)) s

/-- `vfabs` (06_isa_float.md:R173). -/
def execVfabs (w : W) (s : State) : Out := issueW .vfabs w (vfCopy w (fun top x => x % top)) s

/-- `vfmov` (06_isa_float.md:R173). -/
def execVfmov (w : W) (s : State) : Out := issueW .vfmov w (vfCopy w (fun _ x => x)) s

/-- `vfcvt` (06_isa_float.md:R174). -/
def execVfcvt (w : W) (s : State) : Out :=
  issueW .vfcvt w (fun i s =>
    if bits w.mod 3 1 = 0 then vfWrite w (fun _ => true) (vfDst1 w.d) (vfcvtIn w) i s
    else if !tagged [w.a] i then i.illegal s
    else localOp (laneOut (regsOfCode (bits w.imm 0 8)) w (vfcvtOutRes w)) i s) s

/-- `vfext` (06_isa_float.md:R175). -/
def execVfext (w : W) (s : State) : Out :=
  issueW .vfext w (fun i s =>
    if bits w.mod 3 2 = 0 then
      (if !tagged [w.a] i then i.illegal s else localOp (laneOut 1 w (plain (vfexpRes w))) i s)
    else vfOp w [w.a] (fun i l =>
      let a := i.vf w w.a l
      [(vfRound w i l (a.scale (expArg (i.src w 1 w.b l))) a.isSig, false)]) i s) s

/-- `vfrnd` (06_isa_float.md:R175). -/
def execVfrnd (w : W) (s : State) : Out := issueW .vfrnd w (vfOp w [w.a] (vfrndOut w)) s

/-- `bfly` (06_isa_float.md:R178). -/
def execBfly (w : W) (s : State) : Out :=
  issueW .bfly w (
    if xfIs32 w then xf32 w [w.d, w.e] (fun i l => (bflyComps (i.f32 w w.a l) (i.f32 w w.b l)).map (comp32 w i l))
    else vfWrite w (tagged [w.a, w.b]) (vfDst2 w.d w.e) (fun i l =>
      (bflyComps (i.vf w w.a l) (i.vf w w.b l)).map (compVf w i l))) s

/-- `cbfly` (06_isa_float.md:R178). -/
def execCbfly (w : W) (s : State) : Out :=
  issueW .cbfly w (
    if xfIs32 w then xf32 w [w.d, oddReg w.d, w.e, oddReg w.e] (fun i l =>
      (cbflyComps (i.cx32 w w.a l) (i.cx32 w w.b l) (i.cx32 w w.c l)).map (comp32 w i l))
    else vfWrite w (fun i => [w.a, w.b, w.c].all (cxTagged i)) (cxDst2 w.d w.e) (fun i l =>
      (cbflyComps (i.cxVf w.a l) (i.cxVf w.b l) (i.cxVf w.c l)).map (compVf w i l))) s

/-- `cmul` (06_isa_float.md:R178). -/
def execCmul (w : W) (s : State) : Out :=
  issueW .cmul w (
    if xfIs32 w then xf32 w [w.d, oddReg w.d] (fun i l =>
      (cmulComps (i.cx32 w w.a l) (i.cx32 w w.b l)).map (comp32 w i l))
    else vfWrite w (fun i => [w.a, w.b].all (cxTagged i)) (cxDst1 w.d) (fun i l =>
      (cmulComps (i.cxVf w.a l) (i.cxVf w.b l)).map (compVf w i l))) s

/-- `twid`; m above 20 raises the illegal-operand trap (06_isa_float.md:R179). -/
def execTwid (w : W) (s : State) : Out :=
  issueW .twid w (fun i s =>
    let bad := maskBy i.act (fun l => decide (20 < i.src w 1 w.b l))
    if bad ≠ 0 then .trap s { cause := 3, mask := bad }
    else if xfIs32 w then
      xf32 w [w.d, oddReg w.d] (fun i l =>
        [round fmt32 (i.warp.modeOf w.mod l) false false (i.twid w l).1,
         round fmt32 (i.warp.modeOf w.mod l) false false (i.twid w l).2]) i s
    else vfWrite w (fun _ => true) (cxDst1 w.d) (fun i l =>
      [twidVf w i l (i.twid w l).1, twidVf w i l (i.twid w l).2]) i s) s

end Sys2Proof.Machine
end

