-- ==== Sys2Proof/Machine/Access.lean ====
section
/-! DEFINITION. Shared operations of the memory instructions: scratchpad (11_isa_memory.md:R238), lane accesses
and their faults (R239), loads and stores, operation groups (03_encoding.md:R62), and the conflict detector
(10_ordering.md:R234 to R236). -/

namespace Sys2Proof.Machine

/-! ## Scratchpad -/

/-- The pieces of a scratchpad range by core: core index, offset on it, length (11_isa_memory.md:R238). -/
def spPieces (size : Nat) : Nat → Nat → Nat → List (Nat × Nat × Nat)
  | 0, _, _ => []
  | f + 1, off, len =>
    if len = 0 then []
    else
      let l := Nat.min len (size - off % size)
      (off / size, off % size, l) :: spPieces size f (off + l) (len - l)

/-- The bytes of a scratchpad range. -/
def Block.spRead (b : Block) (size off len : Nat) : List Byte :=
  (spPieces size (b.cores.length + 1) off len).flatMap (fun p =>
    match b.cores[p.1]? with
    | some c => cgetMany c.sp p.2.1 p.2.2
    | none => List.replicate p.2.2 0)

/-- Whether a scratchpad range touches a poisoned sector. -/
def Block.spPoisoned (b : Block) (size off len : Nat) : Bool :=
  (spPieces size (b.cores.length + 1) off len).any (fun p =>
    match b.cores[p.1]? with
    | some c => (sectorsOf p.2.1 p.2.2).any (fun k => cget c.spPoison k == 1)
    | none => false)

/-- Write bytes on one core's allocation, with the rule of poison (18_recovery.md:R323). -/
def BlockCore.write (c : BlockCore) (off : Nat) (data : List Byte) (mark : Bool) : BlockCore :=
  { c with sp := csetMany c.sp off data, spPoison := poisonAfter c.spPoison off data.length mark }

/-- Write a scratchpad range (10_ordering.md:R222). -/
def Block.spWrite (b : Block) (size off : Nat) (data : List Byte) (mark : Bool) : Block :=
  { b with cores := ((spPieces size (b.cores.length + 1) off data.length).foldl (fun (a : List BlockCore × List Byte) p =>
      (updAt a.1 p.1 (fun c => c.write p.2.1 (a.2.take p.2.2) mark), a.2.drop p.2.2)) (b.cores, data)).1 }

/-- The sectors of scratchpad that ranges wholly cover between them are clean (18_recovery.md:R323). -/
def Block.spClean (b : Block) (size : Nat) (rs : List (Nat × Nat)) : Block :=
  let ps := rs.flatMap (fun r => spPieces size (b.cores.length + 1) r.1 r.2)
  let on := fun k : Nat => coveredSectors ((ps.filter (fun p => p.1 == k)).map Prod.snd)
  { b with cores := (b.cores.zip (List.range b.cores.length)).map (fun c =>
      { c.1 with spPoison := (on c.2).foldl (fun p k => cset p k 0) c.1.spPoison }) }

/-- THE STORES OF ONE WORD to scratchpad, in order: a sector that they store whole between them is clean
(10_ordering.md:R222; 11_isa_memory.md:R239; 18_recovery.md:R323). -/
def Block.spStores (b : Block) (size : Nat) (ls : List (Nat × List Byte)) : Block :=
  (ls.foldl (fun b x => b.spWrite size x.1 x.2 false) b).spClean size (ls.map (fun x => (x.1, x.2.length)))

/-- The scratchpad size of the block on each core. -/
def Iss.scr (i : Iss) : Nat := i.grid.rec_.scr

/-- Whether a scratchpad range lies inside the allocation (11_isa_memory.md:R238). -/
def Iss.inScratch (i : Iss) (off len : Nat) : Bool := decide (off + len ≤ i.blk.cores.length * i.scr)

/-- Update the block that issues. -/
def Iss.updBlk (i : Iss) (s : State) (f : Block → Block) : State := s.updBlock i.r.lsq i.r.tkt f

/-- Update what the issuing warp's core holds of the block. -/
def Iss.updCore (i : Iss) (s : State) (f : BlockCore → BlockCore) : State :=
  i.updBlk s (fun b => { b with cores := updIf (fun c => c.core == i.warp.core) f b.cores })

/-- What the issuing warp's core holds of the block. -/
def Iss.core? (i : Iss) : Option BlockCore := i.blk.coreAt i.warp.core

/-! ## Global accesses -/

/-- The faults of some lanes' ranges: the lowest kind, the lanes that meet it, the address of the lowest
(16_isolation.md:R303; 11_isa_memory.md:R239). -/
def State.laneFault (s : State) (ctx : Nat) (acc : Acc) (ls : List (Nat × Nat × Nat)) : Option TrapV :=
  let fs := ls.filterMap (fun x =>
    match s.translateRange ctx x.2.1 x.2.2 acc with
    | .error e => some (x.1, e.1, e.2)
    | .ok _ => none)
  match fs with
  | [] => none
  | f :: r =>
    let k := (r.map (fun x => x.2.1)).foldl min f.2.1
    let same := fs.filter (fun x => x.2.1 == k)
    some { cause := 4, sub := k, mask := maskOf (same.map Prod.fst)
           addr := BitVec.ofNat 64 ((same.headD f).2.2), access := acc.code }

/-- The translated pieces of a range, each within one line. -/
def State.linePieces (s : State) (ctx va len : Nat) (acc : Acc) : List (Xlat × Nat) :=
  match s.translateRange ctx va len acc with
  | .error _ => []
  | .ok ps => ps.flatMap (fun p =>
      (splitRange 7 p.1.pa p.2).map (fun q => ({ p.1 with pa := q.1 }, q.2)))

/-- PERFORM A LOAD of a translated range: its bytes and whether a sector was poisoned
(10_ordering.md:R213, R216). -/
def State.loadRange (s : State) (r : Ref) (core ctx va len : Nat) : List Byte × Bool × State :=
  let x := (s.linePieces ctx va len .load).foldl (fun a p =>
    let t := (a.2.2.flushOwn r p.1 p.2)
    let x := t.loadLine core ctx p.1 p.2
    (a.1 ++ x.1, a.2.1 || x.2.1, x.2.2)) ([], false, s.fillRange ctx va len)
  (x.1, x.2.1, if x.2.1 then x.2.2.consume ctx (s.linePieces ctx va len .load) else x.2.2)

/-- Read a translated range at its home, past every L1 copy (18_recovery.md:R326). -/
def State.homeRead (s : State) (ctx va len : Nat) : List Byte × Bool :=
  (s.linePieces ctx va len .load).foldl (fun a p =>
    (a.1 ++ s.mem.bytes p.1.sys p.1.pa p.2,
     a.2 || (sectorsOf p.1.pa p.2).any (fun k => s.mem.poisoned p.1.sys (32 * k)))) ([], false)

/-- Store to a translated range at its home, at once. -/
def State.homeStoreVa (s : State) (core : Option Nat) (ctx va : Nat) (data : List Byte) (mark : Bool) : State :=
  ((s.linePieces ctx va data.length .store).foldl (fun (a : State × List Byte) p =>
    (a.1.homeStore core p.1.sys p.1.pa (a.2.take p.2) mark, a.2.drop p.2)) (s, data)).1

/-! ## The handle that a matrix operation fetches -/

/-- The element width in bits of a slot's element (07_isa_matrix.md:R187); a codebook index of 16 bits stands
for eight elements. -/
def eltBits (elt : Nat) : Nat :=
  if elt = 1 then 32 else if elt = 2 ∨ elt = 3 then 16 else if elt = 6 then 4 else if elt = 7 then 2 else 8

/-- Whether an operand of `mma` is a tile handle (07_isa_matrix.md:R193). -/
def MmaRec.handle (m : MmaRec) : Bool := m.w.mod.getLsbD 0

/-- K of a captured word. -/
def mmaK (w : W) : Nat := bits w.imm 0 16

/-- The bytes of one group of a row of a handle: the address and length (07_isa_matrix.md:R195). -/
def MmaRec.groupRow (m : MmaRec) (g r : Nat) : Nat × Nat :=
  let n := 2 * eltBits (slotElt m.aFmt)
  (bits m.aDesc 0 64 + r * bits m.aDesc 64 24 + g * n, n)

/-- The groups of a handle that the fetcher has not brought in. -/
def MmaRec.missing (m : MmaRec) : Nat := if m.handle then mmaK m.w / 16 - m.rows.length else 0

/-- The ranges of a handle that are still to be fetched. -/
def MmaRec.todoRows (m : MmaRec) : List (Nat × Nat) :=
  if m.missing = 0 then []
  else (List.range 64).map (fun r => ((m.groupRow m.rows.length r).1, m.missing * (m.groupRow 0 r).2))

/-- The records whose fetch is not over (07_isa_matrix.md:R195). -/
def State.fetches (s : State) : List MmaRec :=
  (s.blocks.flatMap (fun b => b.mmas.map MmaOp.rec_ ++ b.cores.flatMap (fun c => c.scrums.filterMap Scrum.pend))).filter
    (fun m => m.missing != 0)

/-! ## Operation groups -/

/-- The counter a word selects. -/
def Iss.counter (i : Iss) (w : W) : Option Nat := counterOf i.path.held w.csel

/-- A long-latency operation issues: its counter rises and its group is recorded (03_encoding.md:R62).
`kind` is its `drain` path, `chip` whether it concerns a home of this module. -/
def State.startGroup (s : State) (i : Iss) (w : W) (kind : Nat) (chip : Bool) (left : Nat) : Nat × State :=
  let ctr := i.counter w
  let n := s.newId
  let g : OpGroup :=
    { op := n.1, lsq := i.r.lsq, tkt := i.r.tkt, wrp := i.r.wrp, ctr := ctr, core := i.warp.core, kind := kind
      left := left, cpod := 0, chip := chip }
  (n.1, ({ n.2 with groups := s.groups ++ [g] }).updRef i.r (fun w => w.raise ctr))

/-- The core that an operation group started from. -/
def State.groupCore (s : State) (op : Nat) : Option Nat := (s.groups.find? (fun g => g.op == op)).map OpGroup.core

/-- The path waits at its word with the whole warp stalled; a word that holds a place in the order of a tile keeps the place
(07_isa_matrix.md:R189). -/
def Iss.stall (i : Iss) (why : Option Nat) (s : State) : Res :=
  match i.path.park with
  | .tile a n _ => .stay (s.updRef i.r (fun wp => wp.parkAt i.r.lane (.tile a n (some why))))
  | _ => .stay (s.updRef i.r (fun wp => wp.parkAt i.r.lane (.stall why)))

/-- A long-latency word issues only when its counter may rise; until then its warp is stalled (02_state.md:R31). -/
def withCounter (w : W) (k : Iss → State → Res) (i : Iss) (s : State) : Res :=
  if i.warp.canRaise (i.counter w) then k i s else i.stall (i.counter w) s

/-! ## Remote operations aimed at this module -/

/-- The size in bytes of an atomic's type (11_isa_memory.md:R244). -/
def atomBytes (ty : Nat) : Nat := if ty = 14 ∨ ty = 15 then 8 else 4

/-- Entry of a context in the export table (16_isolation.md:R306). -/
def State.exportEntry (s : State) (ctx : Nat) : Nat :=
  match s.exportTable with
  | some t => s.mem.nat false (t + 32 * ctx) 32
  | none => 0

/-- The bytes a remote operation touches at its target. -/
def remoteSize : RemoteKind → Nat
  | .put d _ => d.length
  | .get n => n
  | .atom _ ty _ _ _ => atomBytes ty
  | .flag _ | .wake _ => 8
  | .probe _ => 0

/-- Whether a remote operation only reads. -/
def remoteReads : RemoteKind → Bool
  | .get _ => true
  | _ => false

/-- Whether a remote operation moves bytes behind its warp, as an engine does (10_ordering.md:R226). -/
def remoteMoves : RemoteKind → Bool
  | .put _ _ | .get _ => true
  | _ => false

/-- How a remote operation accesses its target. -/
def RemoteOp.acc (o : RemoteOp) : Acc := if remoteReads o.kind then .load else .store

/-- The pieces of this module's memory that a remote operation aimed at it touches (10_ordering.md:R213; 16_isolation.md:R306);
none once it has been performed. -/
def State.targetPieces (s : State) (o : RemoteOp) : List (Xlat × Nat) :=
  if o.target ≠ s.modn ∨ o.answer.isSome then []
  else s.linePieces o.ctx (fld (s.exportEntry o.ctx) 64 64 + o.off.toNat) (remoteSize o.kind) o.acc

/-! ## The order behind asynchronous operations -/

/-- The fields of a transpose shape (11_isa_memory.md:R249). -/
def shEsz (q : QWord) : Nat := 4 * 2 ^ bits q 96 2
/-- Destination row stride. -/
def shDrs (q : QWord) : Nat := bits q 64 32
/-- Source row stride. -/
def shSrs (q : QWord) : Nat := bits q 32 32
/-- Columns of the source. -/
def shNc (q : QWord) : Nat := bits q 16 16
/-- Rows of the source. -/
def shNr (q : QWord) : Nat := bits q 0 16
/-- Bytes of a destination row. -/
def shDrow (q : QWord) : Nat := shNr q * shEsz q / 8
/-- Bytes of a source row. -/
def shSrow (q : QWord) : Nat := shNc q * shEsz q / 8

/-- The address of a place as a number. -/
def Place.base : Place → Nat
  | .sp o => o
  | .glob va => va.toNat

/-- The destination ranges of a copy: offset from the destination, and length. -/
def CopyOp.rows (o : CopyOp) : List (Nat × Nat) :=
  match o.shape with
  | none => [(0, o.len)]
  | some q => (List.range (shNc q)).map (fun c => (c * shDrs q, shDrow q))

/-- The source ranges of a copy. -/
def CopyOp.srcRows (o : CopyOp) : List (Nat × Nat) :=
  match o.shape, o.gcm with
  | some q, _ => (List.range (shNr q)).map (fun r => (r * shSrs q, shSrow q))
  | none, some _ => [(0, o.len + 16)]
  | none, none => [(0, o.len)]

/-- The pieces of memory that rows of a place cover. -/
def State.placePieces (s : State) (ctx : Nat) (acc : Acc) (p : Place) (rows : List (Nat × Nat)) : List (Xlat × Nat) :=
  match p with
  | .sp _ => []
  | .glob va => rows.flatMap (fun r => s.linePieces ctx (va.toNat + r.1) r.2 acc)

/-- A warp's asynchronous operations issued before `op` that are under way: copies, multicasts, remote operations and the fetches
of handles (10_ordering.md:R226). -/
def State.olderAsync (s : State) (r : Ref) (op : Nat) : Bool :=
  s.copies.any (fun o => o.src.sameWarp r && decide (o.op < op)) ||
    s.casts.any (fun o => o.src.sameWarp r && decide (o.op < op)) ||
    s.rops.any (fun o => o.src.sameWarp r && decide (o.op < op)) ||
    s.fetches.any (fun m => m.src.sameWarp r && decide (m.id < op))

/-- The pieces that engines have yet to read and to write for a warp's operations issued before `op` (10_ordering.md:R226). -/
def State.enginePieces (s : State) (r : Ref) (op : Nat) : List (Xlat × Nat) × List (Xlat × Nat) :=
  let cs := s.copies.filter (fun o => o.src.sameWarp r && decide (o.op < op))
  let ms := s.casts.filter (fun o => o.src.sameWarp r && decide (o.op < op))
  let rs := s.rops.filter (fun o => o.src.sameWarp r && decide (o.op < op))
  let hs := s.fetches.filter (fun m => m.src.sameWarp r && decide (m.id < op))
  (cs.flatMap (fun o => s.placePieces o.ctx .load o.from_ o.srcRows) ++
     ms.flatMap (fun o => s.placePieces o.ctx .load o.from_ [(0, o.len)]) ++
     hs.flatMap (fun m => m.todoRows.flatMap (fun r => s.linePieces (s.ctxOf m.src.lsq) r.1 r.2 .load)),
   cs.flatMap (fun o => s.placePieces o.ctx .store o.to_ o.rows) ++
     rs.flatMap (fun o => (o.to_.map (fun p => s.placePieces o.ctx .store p [(0, o.len)])).getD []))

/-- Whether two pieces share a line. -/
def sameLine (a b : Xlat × Nat) : Bool := a.1.sys == b.1.sys && a.1.pa / 128 == b.1.pa / 128

/-- A warp's remote operations before `op` that are aimed at this module and not yet performed. -/
def State.ownRemote (s : State) (r : Ref) (op : Nat) : List RemoteOp :=
  s.rops.filter (fun o => o.src.sameWarp r && decide (o.op < op) && o.target == s.modn && o.answer.isNone)

/-- The pieces that some remote operations aimed at this module have yet to read and to write (10_ordering.md:R213). -/
def State.remotePieces (s : State) (os : List RemoteOp) : List (Xlat × Nat) × List (Xlat × Nat) :=
  ((os.filter (fun o => remoteReads o.kind)).flatMap s.targetPieces, (os.filter (fun o => !remoteReads o.kind)).flatMap s.targetPieces)

/-- Whether accesses wait for older reads and writes: a store for the writes to its lines (10_ordering.md:R213, R226), and an access
to a TSO page for what R225 puts before it: older loads, for a load older stores to its lines, and for a store all older
stores. -/
def orderWaits (acc : Acc) (ps rd wr : List (Xlat × Nat)) : Bool :=
  let tso := fun l : List (Xlat × Nat) => l.any (fun x => x.1.tso)
  ps.any (fun p => (acc == .store || p.1.tso) && wr.any (sameLine p)) || (tso ps && (tso rd || (acc == .store && tso wr)))

/-- Whether accesses of a warp wait for the warp's asynchronous operations before `op`, and its remote operations on this module
among them; a load waits besides for the words that the warp has stored through a pod-global address
(10_ordering.md:R213, R225, R226). -/
def State.behind (s : State) (r : Ref) (op : Nat) (acc : Acc) (ps : List (Xlat × Nat)) : Bool :=
  let e := s.enginePieces r op
  let os := s.ownRemote r op
  let o := s.remotePieces os
  orderWaits acc ps (e.1 ++ o.1) (e.2 ++ o.2) ||
    (acc == .load && (s.remotePieces (os.filter (fun o => !remoteMoves o.kind))).2.any (fun x => ps.any (sameLine x)))

/-- Whether a remote operation aimed at this module waits to be performed, behind the asynchronous operations of its warp: as the
accesses that it makes, but for the remote operations among them, which `after` orders, only on TSO pages
(10_ordering.md:R213, R225, R232). -/
def State.ownWaits (s : State) (o : RemoteOp) : Bool :=
  let ps := s.targetPieces o
  let e := s.enginePieces o.src o.op
  let x := s.remotePieces (s.ownRemote o.src o.op)
  let tso := List.filter (fun p : Xlat × Nat => p.1.tso)
  s.olderAsync o.src o.op && orderWaits o.acc ps (e.1 ++ tso x.1) (e.2 ++ tso x.2)

/-- Whether the ranges of a word's lanes wait for the warp's asynchronous operations. -/
def Iss.behind (i : Iss) (acc : Acc) (rs : List (Nat × Nat × Nat)) (s : State) : Bool :=
  s.olderAsync i.r s.nextId &&
    s.behind i.r s.nextId acc (rs.flatMap (fun x => s.linePieces i.ctx x.2.1 x.2.2 acc))

/-- The parts of an operation group that are requests of its core to homes, not yet replied to: none of one that an engine or the
fabric carries, and not the float atomics that a deterministic grid holds back (01_device.md:R12; 10_ordering.md:R224). -/
def State.requestsOf (s : State) (g : OpGroup) : Nat :=
  if (g.kind == 0 || g.kind == 2) && !s.copies.any (fun o => o.op == g.op) && !s.casts.any (fun o => o.op == g.op) &&
      !s.rops.any (fun o => o.grp == g.op) then
    let held := s.grids.flatMap (fun x => x.detAtoms.filter (fun a => a.grp == g.op))
    if held.any (fun a => a.rop.isSome) then 0 else g.left - held.length
  else 0

/-- The memory requests of a core that are outstanding: the parts of its loads, stores and atomics not yet replied to
(01_device.md:R12). -/
def State.requests (s : State) (core : Nat) : Nat :=
  ((s.groups.filter (fun g => g.core == core)).map s.requestsOf).foldl (· + ·) 0

/-- The requests of some ranges: one for each line touched (DESIGN CHOICE, log 54). -/
def State.pieceCount (s : State) (ctx : Nat) (acc : Acc) (rs : List (Nat × Nat × Nat)) : Nat :=
  (rs.map (fun x => (s.linePieces ctx x.2.1 x.2.2 acc).length)).foldl (· + ·) 0

/-- An access waits, with its warp stalled, behind the warp's asynchronous operations, and while it would take its core
beyond 3,072 outstanding requests; one that no core could ever hold waits only for the others (01_device.md:R12). -/
def withRoom (acc : Acc) (rs : List (Nat × Nat × Nat)) (k : Iss → State → Res) (i : Iss) (s : State) : Res :=
  let n := s.requests i.warp.core
  if !i.behind acc rs s && decide (n = 0 ∨ n + s.pieceCount i.ctx acc rs ≤ 3072) then k i s else i.stall none s

/-- Queue stores of one operation for their homes (10_ordering.md:R213): pieces with data; the group counts
them. -/
def State.pushStores (s : State) (op core : Nat) (mark : Bool) (ps : List (Xlat × List Byte)) : State :=
  ps.foldl (fun s p =>
    let n := s.newId
    { n.2 with homeOps := s.homeOps ++
        [{ id := n.1, op := op, sys := p.1.sys, pa := p.1.pa, data := p.2, mark := mark, core := core }] }) s

/-- The pieces of a store with their data. -/
def State.storePieces (s : State) (ctx va : Nat) (data : List Byte) : List (Xlat × List Byte) :=
  ((s.linePieces ctx va data.length .store).foldl (fun (a : List (Xlat × List Byte) × List Byte) p =>
    (a.1 ++ [(p.1, a.2.take p.2)], a.2.drop p.2)) ([], data)).1

/-- The sectors that the pieces of a word's stores wholly cover between them (18_recovery.md:R323). -/
def coversOf (op : Nat) (ps : List (Xlat × List Byte)) : List Cover :=
  let mine := fun sys : Bool => (ps.filter (fun p => p.1.sys == sys)).map (fun p => (p.1.pa, p.2.length))
  [false, true].flatMap (fun sys => (coveredSectors (mine sys)).map (fun k =>
    { op := op, sys := sys, sector := k, left := ((mine sys).filter (fun r => (sectorsOf r.1 r.2).contains k)).length, begun := false }))

/-- Stores of some lanes issue, in ascending lane order: one group for the word (11_isa_memory.md:R241). Stores of
one warp to the same line keep their order, so earlier pending ones are performed first. `kind` is the `drain` path. -/
def State.issueStores (s : State) (i : Iss) (w : W) (kind : Nat) (ls : List (Nat × List Byte)) (mark : Bool) : State :=
  let ps := ls.flatMap (fun x => s.storePieces i.ctx x.1 x.2)
  let s := ls.foldl (fun s x => s.fillRange i.ctx x.1 x.2.length) s
  let s := ps.foldl (fun s p => s.flushOwn i.r p.1 p.2.length) s
  let g := s.startGroup i w kind (ps.any (fun p => !p.1.sys)) ps.length
  let t := g.2.pushStores g.1 i.warp.core mark ps
  if mark then t else { t with covers := t.covers ++ coversOf g.1 ps }

/-! ## The conflict detector -/

/-- The kind of a non-returning integer atomic of one commuting operation (10_ordering.md:R235). DESIGN CHOICE (log 55): atomics of one
operation are of one kind whatever their types. -/
def detAtomKind (op : Nat) (sat returning float : Bool) : Nat :=
  if float || returning || sat || op == 6 || op == 7 then 100 else 2 + op

/-- Whether two accesses conflict (10_ordering.md:R234, R235): of one block in one interval, or of different blocks; a block
is named by the `GNGI` of its module and its ticket. -/
def detConflict (a b : DetAcc) : Bool :=
  a.sector == b.sector &&
  (if a.gngi = b.gngi ∧ a.tkt = b.tkt then
    a.interval == b.interval && a.wrp != b.wrp && decide (a.kind ≤ 1 ∧ b.kind ≤ 1) && (a.kind == 1 || b.kind == 1)
  else !(a.kind == 0 && b.kind == 0) && !(a.kind == b.kind && decide (2 ≤ a.kind ∧ a.kind < 100)))

/-- The log of a grid takes accesses, each once. -/
def State.detNote (s : State) (lsq : Nat) (l : List DetAcc) : State :=
  s.updGrid lsq (fun g => { g with detLog := g.detLog ++ (l.filter (fun a => !g.detLog.contains a)).eraseDups })

/-- The sectors of some lanes' accesses, as the detector names them: the sector, the lane, its virtual
address. -/
def State.detSectors (s : State) (ctx : Nat) (acc : Acc) (ls : List (Nat × Nat × Nat)) : List (Nat × Nat × Nat) :=
  ls.flatMap (fun x => (splitRange 5 x.2.1 x.2.2).filterMap (fun p =>
    match s.translate ctx p.1 acc with
    | .ok t => some (2 * (t.pa / 32) + (if t.sys then 1 else 0), x.1, p.1 / 32 * 32)
    | .error _ => none))

/-- The sectors of scratchpad accesses of a block on several cores (10_ordering.md:R234). -/
def Iss.detScratch (i : Iss) (ls : List (Nat × Nat × Nat)) : List (Nat × Nat × Nat) :=
  if i.blk.cores.length ≤ 1 then []
  else ls.flatMap (fun x => (splitRange 5 x.2.1 x.2.2).map (fun p =>
    (2 ^ 60 + i.blk.tkt * 2 ^ 20 + p.1 / 32, x.1, p.1 / 32 * 32)))

/-- The detector's judgment of some accesses of a deterministic grid: the trap, or the log with them
(10_ordering.md:R234 to R236). DESIGN CHOICE (log 55): the accesses of a user handler are not tracked, since the rule speaks of logical
warps. -/
def Iss.detect (i : Iss) (kind : Nat) (ss : List (Nat × Nat × Nat)) (s : State) : Except TrapV State :=
  if !i.grid.rec_.det || i.r.handler then .ok s
  else
    match s.grid? i.r.lsq with
    | none => .ok s
    | some g =>
      let mk := fun k : Nat × Nat × Nat =>
        ({ gngi := g.gngi, sector := k.1, tkt := i.blk.tkt, wrp := i.r.wrp, interval := i.blk.interval, kind := kind } : DetAcc)
      let hit := ss.filterMap (fun k => (g.detLog.find? (fun o => detConflict (mk k) o)).map (fun o => (k, o)))
      match hit with
      | h :: _ =>
        .error { cause := 8, mask := maskOf ((hit.filter (fun x => x.1.1 == h.1.1)).map (fun x => x.1.2.1))
                 addr := BitVec.ofNat 64 h.1.2.2, other := h.2.wrp, otherTkt := h.2.tkt, otherGngi := h.2.gngi }
      | [] => .ok (s.detNote i.r.lsq (ss.map mk))

/-- Judge accesses of several kinds of one word, all of them before any is recorded (10_ordering.md:R236). -/
def Iss.detectAll (i : Iss) (ks : List (Nat × List (Nat × Nat × Nat))) (s : State) : Except TrapV State :=
  match (ks.map (fun k => i.detect k.1 k.2 s)).find? (fun x => match x with | .error _ => true | .ok _ => false) with
  | some x => x
  | none => .ok (ks.foldl (fun s k => match i.detect k.1 k.2 s with | .ok t => t | .error _ => s) s)

end Sys2Proof.Machine
end

