-- ==== Sys2Proof/Machine/Matrix.lean ====
section
/-! DEFINITION. Accumulator tiles, operand maps and handles, scrum signing, and the matrix operations
(07_isa_matrix.md:R180 to R202). -/

namespace Sys2Proof.Machine

/-! ## Tiles -/

/-- The tiles a block takes of a core's 64: those bound, or in a deterministic grid all of `.acc`, bound in
advance (13_progress.md:R270). -/
def State.tilesTaken (s : State) (core : Nat) (b : Block) : Nat :=
  match b.coreAt core, s.grid? b.lsq with
  | some c, some g => if b.res = .saved then 0 else if g.rec_.det then g.rec_.acc else c.tiles.length
  | _, _ => 0

/-- The free tiles of a core (07_isa_matrix.md:R182). -/
def State.freeTiles (s : State) (core : Nat) : Nat :=
  64 - (s.blocks.map (s.tilesTaken core)).foldl (· + ·) 0

/-- Whether one block is older than another (13_progress.md:R271). -/
def Block.older (a b : Block) : Bool := decide (a.lsq < b.lsq ∨ (a.lsq = b.lsq ∧ a.tkt < b.tkt))

/-- The oldest resident block of a core (13_progress.md:R271). -/
def State.oldestBlock (s : State) (core : Nat) : Option Block :=
  (s.blocks.filter (fun b => b.res == .resident && (b.coreAt core).isSome)).foldl (fun o b =>
    match o with
    | none => some b
    | some x => if b.older x then some b else some x) none

/-- The tiles kept back for the oldest block of a core (13_progress.md:R271). -/
def State.tileReserve (s : State) (core : Nat) : Nat :=
  match s.oldestBlock core with
  | none => 0
  | some b => match s.grid? b.lsq with
    | some g => g.rec_.acc - s.tilesTaken core b
    | none => 0

/-- Whether a core can grant one tile to a block now (13_progress.md:R271). -/
def State.tileGrantable (s : State) (core : Nat) (b : Block) : Bool :=
  match s.grid? b.lsq with
  | none => false
  | some g =>
    g.rec_.det ||
      (match s.oldestBlock core with
       | some o => if o.lsq = b.lsq ∧ o.tkt = b.tkt then decide (1 ≤ s.freeTiles core)
           else decide (s.tileReserve core + 1 ≤ s.freeTiles core)
       | none => decide (1 ≤ s.freeTiles core))

/-- Bind a tile: it reads +0 and is not poisoned (07_isa_matrix.md:R183). -/
def BlockCore.bindTile (c : BlockCore) (a : Nat) : BlockCore :=
  { c with tiles := c.tiles.filter (fun t => t.1 != a) ++ [(a, { el := [], poison := false })] }

/-- A tile of a core, an empty one when unbound. -/
def BlockCore.tile (c : BlockCore) (a : Nat) : Tile :=
  ((c.tiles.find? (fun t => t.1 == a)).map Prod.snd).getD { el := [], poison := false }

/-- Update a bound tile. -/
def BlockCore.updTile (c : BlockCore) (a : Nat) (f : Tile → Tile) : BlockCore :=
  { c with tiles := updIf (fun t => t.1 == a) (fun t => (t.1, f t.2)) c.tiles }

/-- A path that waits to bind a name which another path has bound judges its word again. -/
def Path.rejudge (a : Nat) (p : Path) : Path :=
  match p.park with
  | .aget x _ => if x = a then { p with park := .run } else p
  | _ => p

/-- GRANT A TILE: a core of the block binds the name (07_isa_matrix.md:R183). -/
def Block.grantTile (b : Block) (core a : Nat) : Block :=
  let judge := fun w : Warp => { w with paths := w.paths.map (Path.rejudge a) }
  { b with cores := updIf (fun c => c.core == core) (fun c => c.bindTile a) b.cores
           warps := updIf (fun w => w.core == core) judge b.warps
           handler := b.handler.map (fun x => if x.warp.core = core then { x with warp := judge x.warp } else x) }

/-- The warps of a block and the scalar state of its user handler, which stands under the number of handlers. -/
def Block.issuers (b : Block) : List Warp :=
  b.warps ++ (b.handler.map (fun a => { a.warp with idx := handlerWrp })).toList

/-- The waiting `aget` requests of a core: block, warp or handler, lane, name and order. DESIGN CHOICE (log 24): the request of a stopped
warp keeps no place. -/
def State.tileWaiters (s : State) (core : Nat) : List (Block × Warp × Nat × Nat × Nat) :=
  s.blocks.flatMap (fun b => if b.res ≠ .resident then [] else
    b.issuers.flatMap (fun w => if w.core ≠ core ∨ w.stopped then [] else
      w.paths.filterMap (fun p => match p.park with
        | .aget a o => some (b, w, lowLane p.mask, a, o)
        | _ => none)))

/-- The order of waiting requests: launch sequence, logical warp index, order of issue (13_progress.md:R271); a handler comes
after the warps of its block (DESIGN CHOICE, log 12). -/
def earlier (x y : Block × Warp × Nat × Nat × Nat) : Bool :=
  let kx := (x.1.lsq, x.1.tkt * 129 + x.2.1.idx, x.2.2.2.2)
  let ky := (y.1.lsq, y.1.tkt * 129 + y.2.1.idx, y.2.2.2.2)
  decide (kx.1 < ky.1 ∨ (kx.1 = ky.1 ∧ (kx.2.1 < ky.2.1 ∨ (kx.2.1 = ky.2.1 ∧ kx.2.2 < ky.2.2))))

/-- The first of a list in the order of requests. -/
def oldestOf : List (Block × Warp × Nat × Nat × Nat) → Option (Block × Warp × Nat × Nat × Nat)
  | [] => none
  | x :: r => match oldestOf r with
    | none => some x
    | some y => if earlier y x then some y else some x

/-- The waiting request of a core that is granted next: the oldest that the free tiles cover (13_progress.md:R271). -/
def State.nextTile (s : State) (core : Nat) : Option (Block × Warp × Nat × Nat × Nat) :=
  oldestOf ((s.tileWaiters core).filter (fun x => s.tileGrantable core x.1))

/-- Whether the issuing warp may take a tile now: one can be granted to its block, and no older request that the free tiles
cover is passed (13_progress.md:R271). -/
def State.tileNow (s : State) (i : Iss) (a : Nat) : Bool :=
  s.tileGrantable i.warp.core i.blk &&
    (match s.nextTile i.warp.core with
     | some x => !earlier x (i.blk, { i.warp with idx := i.r.wrp }, i.r.lane, a, s.nextId)
     | none => true)

/-- `aget`: bind a name to a free tile, or wait for one (07_isa_matrix.md:R183). -/
def execAget (w : W) (s : State) : Out :=
  issueW .aget w (fun i s =>
    let a := w.d.resIx
    match i.core? with
    | none => i.illegal s
    | some c =>
      if bound c.tiles a then i.illegal s
      else if s.tileNow i a then .done (i.updBlk s (fun b => b.grantTile i.warp.core a))
      else
        let n := s.newId
        .stay (n.2.updRef i.r (fun wp => wp.parkAt i.r.lane (.aget a n.1)))) s

/-- The issued matrix operations on a tile of a core that have not retired (07_isa_matrix.md:R189). -/
def Block.mmasOn (b : Block) (core a : Nat) : List MmaOp :=
  b.mmas.filter (fun m => m.core == core && m.rec_.w.d.resIx == a)

/-- The places in the order of a tile that the stalled words of a core hold (07_isa_matrix.md:R189). -/
def Block.placesOn (b : Block) (core a : Nat) : List Nat :=
  (b.warps ++ (b.handler.map Activation.warp).toList).flatMap (fun w => if w.core ≠ core then [] else
    w.paths.filterMap (fun p => (p.park.placed.filter (fun x => x.1 == a)).map Prod.snd))

/-- Whether nothing comes before a place in the order of a tile; none stands for the next place
(07_isa_matrix.md:R189). -/
def Block.tileTurn (b : Block) (core a : Nat) (place : Option Nat) : Bool :=
  let after := fun n : Nat => match place with | some k => decide (k ≤ n) | none => false
  ((b.mmasOn core a).map MmaOp.op ++ b.placesOn core a).all after

/-- A tile operation takes a place in the order of its tile and waits there, parked by `park`, until every earlier one is over
(07_isa_matrix.md:R189). -/
def tilePlaced (park : Nat → Park) (a : Nat) (k : Iss → State → Res) (i : Iss) (s : State) : Res :=
  if i.blk.tileTurn i.warp.core a i.path.place? then k i s
  else match i.path.place? with
    | some n => .stay (s.updRef i.r (fun wp => wp.parkAt i.r.lane (park n)))
    | none =>
      let n := s.newId
      .stay (n.2.updRef i.r (fun wp => wp.parkAt i.r.lane (park n.1)))

/-- A tile operation that keeps the tile bound. -/
def tileOrdered (a : Nat) (k : Iss → State → Res) (i : Iss) (s : State) : Res := tilePlaced (fun n => .tile a n) a k i s

/-- `aput`; a pending `mma` that names the tile makes it illegal (07_isa_matrix.md:R184). -/
def execAput (w : W) (s : State) : Out :=
  issueW .aput w (fun i s =>
    let a := w.d.resIx
    match i.core? with
    | none => i.illegal s
    | some c =>
      if c.scrums.any (fun k => match k.pend with | some r => r.w.d.resIx == a | none => false) then i.illegal s
      else tilePlaced (.aput a) a (fun i s =>
        .done (i.updCore s (fun c => { c with tiles := c.tiles.filter (fun t => t.1 != a) }))) i s) s

/-- `azero` (07_isa_matrix.md:R200). -/
def execAzero (w : W) (s : State) : Out :=
  issueW .azero w (tileOrdered w.d.resIx (fun i s =>
    .done (i.updCore s (fun c => c.updTile w.d.resIx (fun _ => { el := [], poison := false }))))) s

/-- The elements moved by `ald` and `ast` for each lane (07_isa_matrix.md:R198). -/
def tileCount (w : W) : Nat := if w.mod = 0 then 1 else if w.mod = 1 then 2 else 4

/-- The lanes whose row or column breaks the limits (07_isa_matrix.md:R199). -/
def tileBad (w : W) (i : Iss) : Word :=
  maskBy i.act (fun l =>
    let col := i.src w 1 w.c l
    decide (63 < i.src w 1 w.b l ∨ 63 < col) || col % tileCount w != 0)

/-- `ald` for `ast` operands B and C as row and column. -/
def tileAt (w : W) (i : Iss) (l : Nat) : Nat := 64 * i.src w 1 w.b l + i.src w 1 w.c l

/-- `ald` (07_isa_matrix.md:R199). -/
def execAld (w : W) (s : State) : Out :=
  issueW .ald w (tileOrdered w.a.resIx (fun i s =>
    match i.core? with
    | none => i.illegal s
    | some c =>
      let t := c.tile w.a.resIx
      if tileBad w i ≠ 0 then .trap s { cause := 3, mask := tileBad w i }
      else if t.poison then .trap s { cause := 5, mask := i.act }
      else localOp (laneOut (tileCount w) w (plain (fun i l =>
        (List.range (tileCount w)).foldl (fun a k => a + (cget t.el (tileAt w i l + k)).toNat * 2 ^ (32 * k)) 0))) i s)) s

/-- `ast`: lanes ascending, so the highest lane's value remains (07_isa_matrix.md:R199). -/
def execAst (w : W) (s : State) : Out :=
  issueW .ast w (tileOrdered w.d.resIx (fun i s =>
    if tileBad w i ≠ 0 then .trap s { cause := 3, mask := tileBad w i }
    else .done (i.updCore s (fun c => c.updTile w.d.resIx (fun t =>
      { t with el := csetAll t.el (i.lanes.flatMap (fun l => (List.range (tileCount w)).map (fun k =>
        (tileAt w i l + k, BitVec.ofNat 32 (i.src w (tileCount w) w.a l / 2 ^ (32 * k)))))) }))))) s

/-- One line of a tile scaled (07_isa_matrix.md:R200). -/
def scaleLine (el : Cells 32) (col : Bool) (k : Nat) (f : Num) (mode : Mode) (sat : Bool) : Cells 32 :=
  csetAll el ((List.range 64).map (fun j =>
    let e := if col then 64 * j + k else 64 * k + j
    (e, BitVec.ofNat 32 (round fmt32 mode sat false ((decodeF fmt32 false (cget el e).toNat).mul f)).bits)))

/-- `ascl` (07_isa_matrix.md:R200). -/
def execAscl (w : W) (s : State) : Out :=
  issueW .ascl w (tileOrdered w.d.resIx (fun i s =>
    let bad := maskBy i.act (fun l => decide (63 < i.src w 1 w.b l))
    if bad ≠ 0 then .trap s { cause := 3, mask := bad }
    else .done (i.updCore s (fun c => c.updTile w.d.resIx (fun t =>
      { t with el := i.lanes.foldl (fun el l =>
          scaleLine el (w.mod.getLsbD 3) (i.src w 1 w.b l) (i.f32 w w.a l) (i.warp.modeOf w.mod l) w.sat) t.el }))))) s

/-- The bytes of one row that `aconv` writes (07_isa_matrix.md:R201). -/
def aconvRow (t : Tile) (raw : Bool) (elt : Nat) (mode : Mode) (sat : Bool) (r : Nat) : List Byte :=
  (List.range 64).flatMap (fun j =>
    let e := (cget t.el (64 * r + j)).toNat
    if raw then leBytes 4 e
    else match codeFmt elt with
      | some f => leBytes (eltBits elt / 8) (round f mode sat false (decodeF fmt32 false e)).bits
      | none => [])

/-- `aconv`: the 64 rows of a tile to memory (07_isa_matrix.md:R201, R202). -/
def execAconv (w : W) (s : State) : Out :=
  issueW .aconv w (withCounter w (tileOrdered w.a.resIx (fun i s =>
    match i.core? with
    | none => i.illegal s
    | some c =>
      let glob := w.mod.getLsbD 3
      let raw := w.mod.getLsbD 4
      let q := i.grid.slot w.e.resIx
      let elt := if raw then 1 else slotElt q
      let n := 64 * eltBits elt / 8
      let b := i.uni w (if glob then 2 else 1) w.b
      let st := i.uni w 1 w.c
      let t := c.tile w.a.resIx
      let rows := (List.range 64).map (fun r =>
        (b + r * st, aconvRow t raw elt (i.warp.modeOf w.mod i.lane0) (w.sat || (!raw && slotSat q)) r))
      if !raw && (elt = 0 ∨ 5 < elt ∨ slotBsz q ≠ 0) then i.illegal s
      else if b % 16 ≠ 0 ∨ st % 16 ≠ 0 ∨ st < n then i.illegal s
      else if glob then
        let rs := rows.map (fun r => (i.lane0, r.1, n))
        match s.laneFault i.ctx .store rs with
        | some t => .trap s { t with mask := i.act }
        | none => withRoom .store rs (fun i s =>
          match i.detect 1 (s.detSectors i.ctx .store rs) s with
          | .error t => .trap s { t with mask := i.act }
          | .ok s => .done (s.issueStores i w 2 rows t.poison)) i s
      else if !i.inScratch b (63 * st + n) then i.illegal s
      else if t.poison then .trap s { cause := 5, mask := i.act }
      else match i.detect 1 (i.detScratch (rows.map (fun r => (i.lane0, r.1, n)))) s with
        | .error t => .trap s { t with mask := i.act }
        | .ok s => .done (i.updBlk s (fun b => b.spStores i.scr rows))))) s

/-! ## Maps, handles and scrum registers -/

/-- Whether an operand map is well-formed (07_isa_matrix.md:R185, R187). -/
def mapOk (q : QWord) : Bool :=
  bits q 112 16 == 0 && bits q 85 11 == 0 && bits q 51 13 == 0 && bits q 21 11 == 0 &&
    bits q 32 16 != 0 && bits q 32 16 % 16 == 0 && bits q 0 21 % 16 == 0

/-- Whether a tile handle is well-formed (07_isa_matrix.md:R186, R187). -/
def handleOk (q : QWord) : Bool :=
  bits q 91 37 == 0 && bits q 64 24 != 0 && bits q 64 24 % 16 == 0 && bits q 0 64 % 16 == 0

/-- Replace the value bound to a name. -/
def rebind (l : List (Nat × QWord)) (n : Nat) (q : QWord) : List (Nat × QWord) :=
  l.filter (fun x => x.1 != n) ++ [(n, q)]

/-- The value bound to a name. -/
def boundTo (l : List (Nat × QWord)) (n : Nat) : QWord := ((l.find? (fun x => x.1 == n)).map Prod.snd).getD 0

/-- `omset` (07_isa_matrix.md:R185). -/
def execOmset (w : W) (s : State) : Out :=
  issueW .omset w (fun i s =>
    let q := BitVec.ofNat 128 (i.uni w 4 w.a)
    if mapOk q then .done (i.updCore s (fun c => { c with maps := rebind c.maps w.d.resIx q })) else i.illegal s) s

/-- `thset` (07_isa_matrix.md:R186). -/
def execThset (w : W) (s : State) : Out :=
  issueW .thset w (fun i s =>
    let q := BitVec.ofNat 128 (i.uni w 4 w.a)
    if handleOk q then .done (i.updCore s (fun c => { c with handles := rebind c.handles w.d.resIx q }))
    else i.illegal s) s

/-- A scrum register with nothing declared. -/
def Scrum.empty : Scrum := { declared := 0, signed := 0, pend := none, signers := [] }

/-- `kinit` (07_isa_matrix.md:R190). -/
def execKinit (w : W) (s : State) : Out :=
  issueW .kinit w (fun i s =>
    match i.core? with
    | none => i.illegal s
    | some c =>
      let n := i.uni w 1 w.b
      if n = 0 ∨ 3072 < n ∨ (nth c.scrums w.d.resIx Scrum.empty).signed ≠ 0 then i.illegal s
      else
        let f := fun k : Scrum => { k with declared := n, signed := 0, pend := none }
        .done (i.updCore s (fun c => { c with scrums := updAt c.scrums w.d.resIx f }))) s

/-! ## The operands of a matrix operation -/

/-- The block size in elements of a slot; 0 for none. -/
def blockSize (q : QWord) : Nat := if slotBsz q = 1 then 16 else if slotBsz q = 2 then 32 else 0

/-- The bytes that a map covers with a slot lie in the scratchpad: rows and scales (07_isa_matrix.md:R193). -/
def Iss.mapInside (i : Iss) (m fmt : QWord) (k : Nat) : Bool :=
  i.inScratch (bits m 0 21 + 63 * bits m 32 16) (k * eltBits (slotElt fmt) / 8) &&
    (slotBsz fmt == 0 || i.inScratch (bits m 64 21 + 63 * bits m 96 16) (k / blockSize fmt))

/-- The limits of R193 on a captured record. -/
def Iss.mmaOk (i : Iss) (m : MmaRec) : Bool :=
  let k := mmaK m.w
  let good := fun q : QWord => slotElt q != 0 && (slotBsz q == 0 || k % blockSize q == 0)
  k % 16 == 0 && decide (16 ≤ k ∧ k ≤ 4096) && good m.aFmt && good m.bFmt &&
    ((slotElt m.aFmt == 8) == (slotElt m.bFmt == 8)) &&
    i.mapInside m.bDesc m.bFmt k &&
    (if m.handle then slotBsz m.aFmt == 0 && decide (64 * k * eltBits (slotElt m.aFmt) / 8 ≤ i.grid.rec_.stg)
     else i.mapInside m.aDesc m.aFmt k)

/-- The record of a word, with the maps, handle and slots as they stand (07_isa_matrix.md:R191). -/
def Iss.capture (i : Iss) (op : Op) (w : W) (c : BlockCore) : MmaRec :=
  let h := w.mod.getLsbD 0
  let a := if h then boundTo c.handles w.a.resIx else boundTo c.maps w.a.resIx
  let b := boundTo c.maps w.b.resIx
  let sa := if h then bits a 88 3 else bits a 48 3
  let sb := bits b 48 3
  { op := op, w := w, aDesc := a, bDesc := b, aFmt := i.grid.slot sa, bFmt := i.grid.slot sb, aSlot := sa
    bSlot := sb, src := i.r, id := 0, rows := [] }

/-- Whether a later signing word matches the captured one (07_isa_matrix.md:R191). -/
def MmaRec.matches (m : MmaRec) (op : Op) (w : W) : Bool :=
  m.op == op && m.w.mod == w.mod && m.w.d == w.d && m.w.a == w.a && m.w.b == w.b && m.w.imm == w.imm && m.w.sat == w.sat

/-- The rows of a handle as ranges: they count as loads of the first signing warp (10_ordering.md:R234). -/
def MmaRec.handleRows (m : MmaRec) : List (Nat × Nat × Nat) :=
  if m.handle then
    (List.range 64).map (fun r =>
      (0, bits m.aDesc 0 64 + r * bits m.aDesc 64 24, mmaK m.w * eltBits (slotElt m.aFmt) / 8))
  else []

/-- The rows and scales of a map as scratchpad ranges. -/
def mapRows (q fmt : QWord) (k : Nat) : List (Nat × Nat × Nat) :=
  (List.range 64).flatMap (fun r =>
    (0, bits q 0 21 + r * bits q 32 16, k * eltBits (slotElt fmt) / 8) ::
      if slotBsz fmt = 0 then [] else [(0, bits q 64 21 + r * bits q 96 16, k / blockSize fmt)])

/-- The scratchpad ranges that the maps of a record read. -/
def MmaRec.mapRanges (m : MmaRec) : List (Nat × Nat × Nat) :=
  (if m.handle then [] else mapRows m.aDesc m.aFmt (mmaK m.w)) ++ mapRows m.bDesc m.bFmt (mmaK m.w)

/-- The detector's judgment of the operands at the first signature (10_ordering.md:R234): handle rows, and on a block of
several cores what the maps read, are loads of the first signing warp (DESIGN CHOICE for the maps, log 55). -/
def Iss.detectRows (i : Iss) (first : Bool) (m : MmaRec) (s : State) : Except TrapV State :=
  if first && i.grid.rec_.det then
    i.detect 0 (s.detSectors i.ctx .load m.handleRows ++ i.detScratch m.mapRanges) s
  else .ok s

/-! ## Fetching a handle -/

/-- The translation fault that stops the fetch of the next group, if any (07_isa_matrix.md:R196). -/
def State.fetchFault (s : State) (ctx : Nat) (m : MmaRec) : Option TrapV :=
  if m.missing = 0 then none
  else (s.laneFault ctx .load ((List.range 64).map (fun r => (0, m.groupRow m.rows.length r)))).map
    (fun t => { t with access := 4 })

/-- The fetcher brings in the next group, as loads of the first signing warp (07_isa_matrix.md:R195). -/
def State.fetchGroup (s : State) (core ctx : Nat) (m : MmaRec) : MmaRec × State :=
  let x := (List.range 64).foldl (fun (a : List (List Byte × Bool) × State) r =>
    let q := m.groupRow m.rows.length r
    let y := a.2.loadRange m.src core ctx q.1 q.2
    (a.1 ++ [(y.1, y.2.1)], y.2.2)) ([], s)
  ({ m with rows := m.rows ++ [x.1] }, x.2)

/-- The fetcher brings in groups, ascending, as far as their rows translate (07_isa_matrix.md:R195, R196). -/
def State.fetchGroups (s : State) (core ctx : Nat) : Nat → MmaRec → MmaRec × State
  | 0, m => (m, s)
  | n + 1, m =>
    if m.missing = 0 ∨ (s.fetchFault ctx m).isSome then (m, s)
    else
      let x := s.fetchGroup core ctx m
      x.2.fetchGroups core ctx n x.1

/-- The fetch of a record goes as far as it can. -/
def State.fetchHandle (s : State) (core ctx : Nat) (m : MmaRec) : MmaRec × State := s.fetchGroups core ctx m.missing m

/-- Sign a scrum: the word's active lanes are added, and at the declared count the operation issues
(07_isa_matrix.md:R191, R192). The first signature of the handle form starts the fetch (R195), and the last signer of one
whose fetch is not over stays at its word (R196). -/
def mmaSign (op : Op) (w : W) (i : Iss) (s : State) : Res :=
  match i.core? with
  | none => i.illegal s
  | some c =>
    let k := nth c.scrums w.c.resIx Scrum.empty
    let n := i.lanes.length
    let rec_ := (k.pend).getD (i.capture op w c)
    if !rec_.matches op w || decide (k.declared < k.signed + n) then i.illegal s
    else if k.pend.isNone && !i.mmaOk rec_ then i.illegal s
    else if k.pend.isNone && i.behind .load rec_.handleRows s then i.stall none s
    else match i.detectRows k.pend.isNone rec_ s with
    | .error t => .trap s { t with mask := i.act }
    | .ok s =>
      let id := s.newId
      let named := if k.pend.isNone then { rec_ with id := id.1 } else rec_
      let x := id.2.fetchHandle i.warp.core i.ctx named
      let rec_ := x.1
      let s := x.2
      let ctr := i.counter w
      let sg := k.signers ++ [{ wrp := i.r.wrp, ctr := ctr }]
      let s := s.updRef i.r (fun wp => wp.raise ctr)
      let set := fun (s : State) (k : Scrum) =>
        i.updCore s (fun c => { c with scrums := updAt c.scrums w.c.resIx (fun _ => k) })
      if k.signed + n < k.declared then
        .done (set s { k with signed := k.signed + n, pend := some rec_, signers := sg })
      else
        let id := s.newId
        let m : MmaOp := { op := id.1, core := i.warp.core, rec_ := rec_, prog := 0, signers := sg, last := i.r }
        let s := set id.2 { k with signed := 0, pend := none, signers := [] }
        let s := i.updBlk s (fun b => { b with mmas := b.mmas ++ [m] })
        if rec_.missing ≠ 0 then .stay (s.updRef i.r (fun wp => wp.parkAt i.r.lane (.mma id.1))) else .done s

/-- A signing word; the last signer of a handle form stays at its word until the fetch is over (07_isa_matrix.md:R196). -/
def signWord (op : Op) (w : W) (i : Iss) (s : State) : Res :=
  match i.path.park with
  | .released _ _ => .done s
  | .mma _ => .stay s
  | _ => withCounter w (mmaSign op w) i s

/-- `mma` (07_isa_matrix.md:R193). -/
def execMma (w : W) (s : State) : Out := issueW .mma w (signWord .mma w) s

/-- `mmaz` (07_isa_matrix.md:R193). -/
def execMmaz (w : W) (s : State) : Out := issueW .mmaz w (signWord .mmaz w) s

/-! ## Performing a matrix operation -/

/-- The 16 values of one group of a row, from its bytes and its scale byte (07_isa_matrix.md:R187). -/
def groupVals (g : Grid) (fmt : QWord) (slot : Nat) (data scale : List Byte) : List Num :=
  let elt := slotElt fmt
  let x := leNat data
  let sc := if slotBsz fmt = 0 then some (Num.fin false 1 0) else scaleValue (slotScf fmt == 1) (leNat scale)
  if elt = 7 then
    cbDecode (g.table slot) (fld x 0 16) sc ++ cbDecode (g.table slot) (fld x 16 16) sc
  else
    (List.range 16).map (fun t =>
      let v := readType elt (fld x (eltBits elt * t) (eltBits elt))
      if slotBsz fmt = 0 then v else (scaled v sc).1)

/-- Row r, group g of a mapped operand: its values and whether a byte was poisoned. -/
def Block.mapGroup (b : Block) (gr : Grid) (m fmt : QWord) (slot g r : Nat) : List Num × Bool :=
  let n := 2 * eltBits (slotElt fmt)
  let at_ := bits m 0 21 + r * bits m 32 16 + g * n
  let sa := bits m 64 21 + r * bits m 96 16 + 16 * g / (if blockSize fmt = 0 then 16 else blockSize fmt)
  let sz := gr.rec_.scr
  let sc := if slotBsz fmt = 0 then [] else b.spRead sz sa 1
  (groupVals gr fmt slot (b.spRead sz at_ n) sc,
   b.spPoisoned sz at_ n || (slotBsz fmt != 0 && b.spPoisoned sz sa 1))

/-- All 64 rows of group g of operand A: values and whether a byte was poisoned. -/
def Block.aGroup (b : Block) (gr : Grid) (m : MmaRec) (g : Nat) : List (List Num) × Bool :=
  let rows := if m.handle then (nth m.rows g []).map (fun x => (groupVals gr m.aFmt m.aSlot x.1 [], x.2))
    else (List.range 64).map (fun r => b.mapGroup gr m.aDesc m.aFmt m.aSlot g r)
  (rows.map Prod.fst, rows.any Prod.snd)

/-- One element after a group (05_numbers.md:R154, R155). -/
def groupElement (int sat : Bool) (acc : Word) (a b : List Num) : Word :=
  let ps := (a.zip b).map (fun x => x.1.mul x.2)
  if int then groupSumInt acc.toInt (ps.map (fun x => (x.toInt .rtz).1)) sat
  else BitVec.ofNat 32 (groupSum (decodeF fmt32 false acc.toNat) ps sat)

/-- The tile after one group. -/
def Tile.addGroup (t : Tile) (int sat : Bool) (as bs : List (List Num)) (poison : Bool) : Tile :=
  { el := csetAll t.el ((as.zip (List.range 64)).flatMap (fun a => (bs.zip (List.range 64)).map (fun b =>
      (64 * a.2 + b.2, groupElement int sat (cget t.el (64 * a.2 + b.2)) a.1 b.1))))
    poison := t.poison || poison }

/-- Accumulate `n` groups from the progress of an operation (07_isa_matrix.md:R193). -/
def Block.mmaGroups (b : Block) (gr : Grid) (m : MmaRec) : Nat → Nat → Tile → Tile
  | 0, _, t => t
  | n + 1, g, t =>
    let a := b.aGroup gr m g
    let bs := (List.range 64).map (fun r => b.mapGroup gr m.bDesc m.bFmt m.bSlot g r)
    let sat := m.w.sat || slotSat m.aFmt || slotSat m.bFmt
    b.mmaGroups gr m n (g + 1) (t.addGroup (slotElt m.aFmt == 8) sat a.1 (bs.map Prod.fst) (a.2 || bs.any Prod.snd))

/-- An issued operation by its name, with its block and grid. -/
def State.findMma (s : State) (op : Nat) : Option (Block × Grid × MmaOp) :=
  s.blocks.findSome? (fun b =>
    match b.mmas.find? (fun m => m.op == op), s.grid? b.lsq with
    | some m, some g => some (b, g, m)
    | _, _ => none)

/-- Whether an operation is the first in the order of its tile (07_isa_matrix.md:R189). -/
def Block.mmaFirst (b : Block) (m : MmaOp) : Bool := b.tileTurn m.core m.rec_.w.d.resIx (some m.op)

/-- Accumulate groups of an operation into its tile and record the progress. -/
def State.mmaAdvance (s : State) (b : Block) (gr : Grid) (m : MmaOp) (n : Nat) : State :=
  let a := m.rec_.w.d.resIx
  match b.coreAt m.core with
  | none => s
  | some c =>
    let t0 := if m.rec_.op = .mmaz ∧ m.prog = 0 then { el := [], poison := false } else c.tile a
    let t := b.mmaGroups gr m.rec_ n m.prog t0
    s.updBlock b.lsq b.tkt (fun b =>
      { b with
        cores := updIf (fun c => c.core == m.core) (fun c => c.updTile a (fun _ => t)) b.cores
        mmas := updIf (fun x => x.op == m.op) (fun x => { x with prog := m.prog + n }) b.mmas })

/-- MMA_RETIRE: an operation whose turn it is on its tile is performed to its end, and the counters its signers
raised fall (07_isa_matrix.md:R192, R193). Not enabled before its turn, while groups of its handle are missing, or before
all four matrix groups of the core run (01_device.md:R14). Those of a killed block complete too (18_recovery.md:R321). -/
def execMmaRetire (op : Nat) (s : State) : Out :=
  match s.findMma op with
  | none => .next s
  | some (b, g, m) =>
    if !b.mmaFirst m || m.rec_.missing != 0 || b.res = .saved || cget s.groupsDown m.core != 0 then .next s
    else
      let s := s.mmaAdvance b g m (mmaK m.rec_.w / 16 - m.prog)
      let s := s.updBlock b.lsq b.tkt (fun b => { b with mmas := b.mmas.filter (fun x => x.op != op) })
      .next (m.signers.foldl (fun s k => s.updRef (b.opRef k.wrp) (fun w => w.lower k.ctr)) s)

/-- The path of the last signer while it stays at its word (07_isa_matrix.md:R196). -/
def Warp.signing? (w : Warp) (m : MmaOp) : Option Path :=
  (w.path? m.last.lane).filter (fun p => p.park == .mma m.op)

/-- The fetch of an issued operation goes on; when it is over, the last signer's path goes on from its word
(07_isa_matrix.md:R195, R196). -/
def State.fetchOn (s : State) (b : Block) (g : Grid) (m : MmaOp) : State :=
  let x := s.fetchHandle m.core g.rec_.ctx m.rec_
  let s := x.2.updBlock b.lsq b.tkt (fun b => { b with mmas := updIf (fun y => y.op == m.op) (fun y => { y with rec_ := x.1 }) b.mmas })
  if x.1.missing ≠ 0 then s
  else s.updRef m.last (fun w => if (w.signing? m).isSome then w.parkAt m.last.lane (.released true 0) else w)

/-- The fetch of a pending record goes on (07_isa_matrix.md:R195). -/
def State.fetchPending (s : State) (b : Block) (c : BlockCore) (g : Grid) (m : MmaRec) : State :=
  let x := s.fetchHandle c.core g.rec_.ctx m
  let on := fun k : Scrum => if (k.pend.map MmaRec.id) = some m.id then { k with pend := some x.1 } else k
  x.2.updBlock b.lsq b.tkt (fun b => { b with cores := updIf (fun y => y.core == c.core) (fun y => { y with scrums := y.scrums.map on }) b.cores })

/-- A pending record by its name, with its block, core and grid. -/
def State.findPending (s : State) (id : Nat) : Option (Block × BlockCore × Grid × MmaRec) :=
  s.blocks.findSome? (fun b => b.cores.findSome? (fun c =>
    match (c.scrums.filterMap Scrum.pend).find? (fun m => m.id == id && m.missing != 0), s.grid? b.lsq with
    | some m, some g => if b.res = .resident then some (b, c, g, m) else none
    | _, _ => none))

/-- An operation whose tile goes with its block is over, and so are the later groups of its fetch (07_isa_matrix.md:R196). -/
def State.dropMma (s : State) (b : Block) (op : Nat) : State :=
  s.updBlock b.lsq b.tkt (fun b => { b with mmas := b.mmas.filter (fun x => x.op != op) })

/-- Whether the fault of an issued operation's fetch is taken now: it is first on its tile, and all four matrix groups of its core
run, by which the groups before are accumulated (07_isa_matrix.md:R196; 01_device.md:R14). -/
def State.faultDue (s : State) (b : Block) (m : MmaOp) : Bool := b.mmaFirst m && cget s.groupsDown m.core == 0

/-- HANDLE_FETCH_FAULT: the fetch of a pending record goes on as far as it can; that of an issued operation is tried at its
next group, unless the last signer's warp is stopped. Where the group does not translate and the operation is first on its tile, the
groups before it are accumulated, and the last signer's path takes the translation fault with the progress; where its block has been
killed, the tile is discarded with the block (07_isa_matrix.md:R196). -/
def execHandleFetchFault (op : Nat) (s : State) : Out :=
  match s.findMma op with
  | none =>
    match s.findPending op with
    | some (b, c, g, m) => .next (s.fetchPending b c g m)
    | none => .next s
  | some (b, g, m) =>
    if m.rec_.missing == 0 || b.res = .saved then .next s
    else if b.res = .killed then
      .next (if (s.fetchFault g.rec_.ctx m.rec_).isSome then s.dropMma b op else s.fetchOn b g m)
    else match b.refWarp? m.last with
    | none => .next s
    | some w =>
      if w.stopped then .next s
      else match s.fetchFault g.rec_.ctx m.rec_, w.signing? m with
        | none, _ => .next (s.fetchOn b g m)
        | some _, none => .next s
        | some t, some p =>
          if !s.faultDue b m then .next s
          else
            let k := m.rec_.rows.length
            let s := (s.mmaAdvance b g m (k - m.prog)).takeTrap m.last { t with mask := p.mask, prog := k }
            .next (s.updRef m.last (fun w => w.parkAt m.last.lane (.mma op)))

/-- Whether HANDLE_FETCH_FAULT of an issued operation does something now: the next group of its handle translates, or its fault is
to be taken, or its block has been killed (07_isa_matrix.md:R195, R196). -/
def State.fetchDue (s : State) (b : Block) (m : MmaOp) : Bool :=
  m.rec_.missing != 0 && (b.res == .killed || (match b.refWarp? m.last with
    | none => false
    | some w => !w.stopped && ((s.fetchFault (s.ctxOf b.lsq) m.rec_).isNone || ((w.signing? m).isSome && s.faultDue b m))))

/-- A pending record of a block whose next group translates. -/
def State.pendingDue (s : State) (b : Block) : Option MmaRec :=
  (b.cores.flatMap (fun c => c.scrums.filterMap Scrum.pend)).find? (fun m =>
    m.missing != 0 && (s.fetchFault (s.ctxOf b.lsq) m).isNone)

/-- TILE_GRANT: the oldest waiting request that the core can grant is granted, and its path goes on
(13_progress.md:R271). -/
def execTileGrant (core : Nat) (s : State) : Out :=
  match s.nextTile core with
  | none => .next s
  | some (b, w, lane, a, _) =>
    .next (s.updBlock b.lsq b.tkt (fun b => (b.grantTile core a).updRef (b.opRef w.idx) (fun w => w.advance lane)))

end Sys2Proof.Machine
end

