-- ==== Sys2Proof/Machine/SumTree.lean ====
section
/-! DEFINITION. The sum-tree instructions (07_isa_matrix.md:R203 to R208). A register is its leaves; every sum is
a function of them. -/

namespace Sys2Proof.Machine

/-- The number of leaves of a sum-tree register (13_progress.md:R265). -/
def Grid.leaves (g : Grid) : Nat := 64 * 2 ^ g.rec_.wtl
/-- The width of a leaf (05_numbers.md:R151). -/
def Grid.leafBits (g : Grid) : Nat := if g.rec_.wtm then 32 else 16

/-- An empty register. -/
def Tree.empty : Tree := { leaves := [], poison := false }
/-- Prefix(i): the sum of the leaves below i (07_isa_matrix.md:R203). -/
def Tree.prefix_ (t : Tree) (i : Nat) : Nat :=
  t.leaves.foldl (fun a x => if x.1 < i then a + x.2.toNat else a) 0
/-- Total: the sum of all leaves. -/
def Tree.total (t : Tree) : Nat := t.leaves.foldl (fun a x => a + x.2.toNat) 0
/-- The leaf in whose share of the total a value falls: walking the leaves in order. -/
def findLeaf (u : Nat) : Cells 32 → Nat → Option Nat
  | [], _ => none
  | (k, v) :: r, acc => if u < acc + v.toNat then some k else findLeaf u r (acc + v.toNat)
/-- The leaves from `lo` to below `hi` become 0. -/
def Tree.cut (t : Tree) (lo hi : Nat) : Tree :=
  { t with leaves := t.leaves.filter (fun x => !(decide (lo ≤ x.1 ∧ x.1 < hi))) }
/-- One leaf is written. -/
def Tree.setLeaf (t : Tree) (k x : Nat) : Tree := { t with leaves := cset t.leaves k (BitVec.ofNat 32 x) }

/-- A lane-operation: the tree after it, the value and predicate it returns, the flags it raises. -/
abbrev LaneOp := Nat → Tree → Tree × Nat × Bool × Flags

/-- Perform a lane-operation in each active lane, ascending (07_isa_matrix.md:R205). -/
def foldLanes (f : LaneOp) : List Nat → Tree → Tree × List (Nat × Nat × Bool × Flags)
  | [], t => (t, [])
  | l :: r, t =>
    let x := f l t
    let y := foldLanes f r x.1
    (y.1, (l, x.2) :: y.2)

/-- What a lane-operation returned in a lane. -/
def laneOf (rs : List (Nat × Nat × Bool × Flags)) (l : Nat) : Nat × Bool × Flags :=
  ((rs.find? (fun x => x.1 == l)).map Prod.snd).getD (0, false, 0)

/-- A sum-tree instruction: a lane over its limit makes it illegal, a poisoned register traps, otherwise its
lane-operations are performed and D, E and the flags follow (07_isa_matrix.md:R205, R206, R209). -/
def treeOp (w : W) (words : Nat) (bad : Iss → Nat → Bool) (f : Iss → LaneOp) (i : Iss) (s : State) : Res :=
  let wrong := maskBy i.act (bad i)
  let t := nth i.blk.trees w.a.resIx Tree.empty
  if wrong ≠ 0 then .trap s { cause := 3, mask := wrong }
  else if t.poison then .trap s { cause := 5, mask := i.act }
  else
    let r := foldLanes (f i) i.lanes t
    let s := i.updBlk s (fun b => { b with trees := updAt b.trees w.a.resIx (fun _ => r.1) })
    .done (s.updRef i.r (fun wp =>
      ((wp.put words w.d i.lanes (fun l => (laneOf r.2 l).1)).putP w.e i.lanes (fun l => (laneOf r.2 l).2.1)).raiseFlags
        i.lanes (fun l => unlessNF w.nf (laneOf r.2 l).2.2)))

/-- The index operand of a lane. -/
def Iss.ix (i : Iss) (w : W) (l : Nat) : Nat := i.src w 1 w.b l

/-- An index above the last leaf. -/
def overLeaf (w : W) (i : Iss) (l : Nat) : Bool := decide (i.grid.leaves ≤ i.ix w l)
/-- An index above N. -/
def overEnd (w : W) (i : Iss) (l : Nat) : Bool := decide (i.grid.leaves < i.ix w l)
/-- No limit. -/
def noLimit (_ : Iss) (_ : Nat) : Bool := false

/-- `stset` in a lane (07_isa_matrix.md:R205). DEDUCED (log 53): it raises SAT as R205 says, which 05_numbers.md:R138 does
not list. -/
def stsetOp (w : W) (i : Iss) : LaneOp := fun l t =>
  let x := i.src w 1 w.c l
  let top := 2 ^ i.grid.leafBits - 1
  (t.setLeaf (i.ix w l) (min x top), 0, false, if top < x then fSAT else 0)

/-- `stadd` in a lane; D receives the old leaf. -/
def staddOp (w : W) (i : Iss) : LaneOp := fun l t =>
  let old := (cget t.leaves (i.ix w l)).toNat
  let top : Int := 2 ^ i.grid.leafBits - 1
  let v : Int := old + readInt (w.mod == 1) 32 (i.src w 1 w.c l)
  let c := max 0 (min v top)
  (t.setLeaf (i.ix w l) c.toNat, old, false, if c = v then 0 else fSAT)

/-- `stfind` in a lane: the smallest i with Prefix(i + 1) > u. -/
def stfindOp (w : W) (cut : Bool) (i : Iss) : LaneOp := fun l t =>
  match findLeaf (i.src w 2 w.b l) t.leaves 0 with
  | none => (t, i.grid.leaves, false, 0)
  | some k => (if cut then t.cut (k + 1) i.grid.leaves else t, k, true, 0)

/-- The type of the weight of `stq`. -/
def stqFmt (w : W) : Fmt := if w.mod = 0 then fmt32 else if w.mod = 1 then fmt16 else fmtBf16

/-- The scale of `stq` in a lane. -/
def stqScale (w : W) (i : Iss) (l : Nat) : Int := readInt true 32 (i.src w 1 w.e l)

/-- `stq` in a lane (07_isa_matrix.md:R205). DEDUCED (log 53): an inexact mass raises NX as 05_numbers.md:R151 says, which
R138 does not list. -/
def stqOp (w : W) (i : Iss) : LaneOp := fun l t =>
  let f := stqFmt w
  let x := decodeF f false (i.warp.src w.imm 1 f.oneBits w.c l)
  let m := massFromFloat x (stqScale w i l) i.grid.leafBits
  (t.setLeaf (i.ix w l) m.1, 0, false, m.2 ||| (if x.isSig then fNV else 0))

/-- `stclr`: every leaf 0 and the poison bit clear, whatever the register held (07_isa_matrix.md:R206). -/
def execStclr (w : W) (s : State) : Out :=
  issueW .stclr w (fun i s =>
    .done (i.updBlk s (fun b => { b with trees := updAt b.trees w.a.resIx (fun _ => Tree.empty) }))) s

/-- `stset` (07_isa_matrix.md:R205). -/
def execStset (w : W) (s : State) : Out := issueW .stset w (treeOp w 1 (overLeaf w) (stsetOp w)) s

/-- `stadd` (07_isa_matrix.md:R205). -/
def execStadd (w : W) (s : State) : Out := issueW .stadd w (treeOp w 1 (overLeaf w) (staddOp w)) s

/-- `stget` (07_isa_matrix.md:R205). -/
def execStget (w : W) (s : State) : Out := issueW .stget w (treeOp w 1 (overLeaf w) (fun i l t => (t, (cget t.leaves (i.ix w l)).toNat, false, 0))) s

/-- `stpre` (07_isa_matrix.md:R205). -/
def execStpre (w : W) (s : State) : Out := issueW .stpre w (treeOp w 2 (overEnd w) (fun i l t => (t, t.prefix_ (i.ix w l), false, 0))) s

/-- `sttot` (07_isa_matrix.md:R205). -/
def execSttot (w : W) (s : State) : Out := issueW .sttot w (treeOp w 2 noLimit (fun _ _ t => (t, t.total, false, 0))) s

/-- `stfind` (07_isa_matrix.md:R205). -/
def execStfind (w : W) (s : State) : Out := issueW .stfind w (treeOp w 1 noLimit (stfindOp w false)) s

/-- `stcut` (07_isa_matrix.md:R205). -/
def execStcut (w : W) (s : State) : Out := issueW .stcut w (treeOp w 1 (overEnd w) (fun i l t => (t.cut (i.ix w l) i.grid.leaves, 0, false, 0))) s

/-- `stcutm` (07_isa_matrix.md:R205). -/
def execStcutm (w : W) (s : State) : Out := issueW .stcutm w (treeOp w 1 noLimit (stfindOp w true)) s

/-- `stq`; the scale lies in −256 to 255 (07_isa_matrix.md:R205). -/
def execStq (w : W) (s : State) : Out :=
  issueW .stq w (treeOp { w with e := .none } 1
    (fun i l => overLeaf w i l || decide (stqScale w i l < -256 ∨ 255 < stqScale w i l)) (stqOp w)) s

/-- The bytes of the leaves, little-endian and contiguous (07_isa_matrix.md:R206). -/
def treeBytes (g : Grid) (t : Tree) : List Byte :=
  (List.range g.leaves).flatMap (fun k => leBytes (g.leafBits / 8) (cget t.leaves k).toNat)

/-- The leaves that some bytes hold. -/
def treeOfBytes (n wd : Nat) (data : List Byte) : Cells 32 :=
  csetAll [] ((List.range n).map (fun k => (k, BitVec.ofNat 32 (leNat ((data.drop (wd * k)).take wd)))))

/-- The length in bytes of a register's leaves. -/
def Grid.treeLen (g : Grid) : Nat := g.leaves * (g.leafBits / 8)

/-- `stld`: the whole tree is replaced when its data has arrived; a poisoned sector sets the poison bit
(07_isa_matrix.md:R206). -/
def execStld (w : W) (s : State) : Out :=
  issueW .stld w (withCounter w (fun i s =>
    let glob := w.mod == 1
    let a := i.uni w (if glob then 2 else 1) w.b
    let n := i.grid.treeLen
    let set := fun (s : State) (d : List Byte) (p : Bool) =>
      i.updBlk s (fun b => { b with trees := updAt b.trees w.a.resIx (fun _ =>
        { leaves := treeOfBytes i.grid.leaves (i.grid.leafBits / 8) d, poison := p }) })
    if a % 16 ≠ 0 then i.illegal s
    else if glob then
      match s.laneFault i.ctx .load [(i.lane0, a, n)] with
      | some t => .trap s { t with mask := i.act }
      | none => withRoom .load [(i.lane0, a, n)] (fun i s =>
        match i.detect 0 (s.detSectors i.ctx .load [(i.lane0, a, n)]) s with
        | .error t => .trap s { t with mask := i.act }
        | .ok s =>
          let x := s.loadRange i.r i.warp.core i.ctx a n
          .done (set x.2.2 x.1 x.2.1)) i s
    else if !i.inScratch a n then i.illegal s
    else match i.detect 0 (i.detScratch [(i.lane0, a, n)]) s with
      | .error t => .trap s { t with mask := i.act }
      | .ok s => .done (set s (i.blk.spRead i.scr a n) (i.blk.spPoisoned i.scr a n)))) s

/-- `stst`: the leaves are written as stores; a poisoned register marks the sectors it writes
(07_isa_matrix.md:R206). -/
def execStst (w : W) (s : State) : Out :=
  issueW .stst w (withCounter w (fun i s =>
    let glob := w.mod == 1
    let a := i.uni w (if glob then 2 else 1) w.b
    let n := i.grid.treeLen
    let t := nth i.blk.trees w.a.resIx Tree.empty
    let d := treeBytes i.grid t
    if a % 16 ≠ 0 then i.illegal s
    else if glob then
      match s.laneFault i.ctx .store [(i.lane0, a, n)] with
      | some t => .trap s { t with mask := i.act }
      | none => withRoom .store [(i.lane0, a, n)] (fun i s =>
        match i.detect 1 (s.detSectors i.ctx .store [(i.lane0, a, n)]) s with
        | .error t => .trap s { t with mask := i.act }
        | .ok s => .done (s.issueStores i w 2 [(a, d)] t.poison)) i s
    else if !i.inScratch a n then i.illegal s
    else match i.detect 1 (i.detScratch [(i.lane0, a, n)]) s with
      | .error t => .trap s { t with mask := i.act }
      | .ok s => .done (i.updBlk s (fun b => b.spWrite i.scr a d t.poison)))) s

end Sys2Proof.Machine
end

