-- ==== Sys2Proof/Machine/LoadStore.lean ====
section
/-! DEFINITION. Loads and stores of registers and VF elements, atomics, fences and drains
(11_isa_memory.md:R241 to R245; 10_ordering.md:R221 to R224, R231). -/

namespace Sys2Proof.Machine

/-! ## Lane accesses -/

/-- The global address of a lane: A plus the signed offset (11_isa_memory.md:R241), of 64 bits. -/
def Iss.globAddr (i : Iss) (w : W) (l : Nat) : Nat :=
  (BitVec.ofNat 64 (i.src w 2 w.a l) + w.imm.signExtend 64).toNat

/-- The scratchpad offset of a lane: A plus the signed offset, of 32 bits. -/
def Iss.spAddr (i : Iss) (w : W) (l : Nat) : Nat := (BitVec.ofNat 32 (i.src w 1 w.a l) + w.imm).toNat

/-- The bytes of a lane in a list of lanes with bytes. -/
def laneBytes (l : List (Nat × List Byte)) (lane : Nat) : List Byte :=
  ((l.find? (fun x => x.1 == lane)).map Prod.snd).getD []

/-- The loads of some lanes, in ascending lane order: each lane's bytes, the lanes that met poison, and the state
(11_isa_memory.md:R239). -/
def State.loadLanes (s : State) (i : Iss) (rs : List (Nat × Nat × Nat)) : List (Nat × List Byte) × Word × State :=
  rs.foldl (fun a x =>
    let y := a.2.2.loadRange i.r i.warp.core i.ctx x.2.1 x.2.2
    (a.1 ++ [(x.1, y.1)], if y.2.1 then a.2.1 ||| maskOf [x.1] else a.2.1, y.2.2)) ([], 0, s)

/-- The address of the lowest lane of a mask among lanes with ranges. -/
def rangeAddr (rs : List (Nat × Nat × Nat)) (m : Word) : DWord :=
  BitVec.ofNat 64 (((rs.find? (fun x => x.1 == lowLane m)).map (fun x => x.2.1)).getD 0)

/-- A LOAD FROM GLOBAL MEMORY: every page is translated before any lane's access is performed; a poisoned sector
traps and nothing is written (11_isa_memory.md:R239, 18_recovery.md:R324). -/
def globalLoad (rs : List (Nat × Nat × Nat)) (land : (Nat → List Byte) → Warp → Warp) (i : Iss) (s : State) : Res :=
  match s.laneFault i.ctx .load rs with
  | some t => .trap s t
  | none => withRoom .load rs (fun i s =>
    match i.detect 0 (s.detSectors i.ctx .load rs) s with
    | .error t => .trap s t
    | .ok s =>
      let x := s.loadLanes i rs
      if x.2.1 ≠ 0 then .trap x.2.2 { cause := 5, mask := x.2.1, addr := rangeAddr rs x.2.1, access := Acc.code .load }
      else .done (x.2.2.updRef i.r (land (laneBytes x.1)))) i s

/-- A LOAD FROM SCRATCHPAD (11_isa_memory.md:R238, R239). -/
def scratchLoad (rs : List (Nat × Nat × Nat)) (land : (Nat → List Byte) → Warp → Warp) (i : Iss) (s : State) : Res :=
  if !rs.all (fun x => i.inScratch x.2.1 x.2.2) then i.illegal s
  else
    match i.detect 0 (i.detScratch rs) s with
    | .error t => .trap s t
    | .ok s =>
      let bad := maskOf ((rs.filter (fun x => i.blk.spPoisoned i.scr x.2.1 x.2.2)).map Prod.fst)
      if bad ≠ 0 then .trap s { cause := 5, mask := bad, addr := rangeAddr rs bad }
      else .done (s.updRef i.r (land (laneBytes (rs.map (fun x => (x.1, i.blk.spRead i.scr x.2.1 x.2.2))))))

/-- The ranges of lanes that store bytes. -/
def storeRanges (ls : List (Nat × Nat × List Byte)) : List (Nat × Nat × Nat) :=
  ls.map (fun x => (x.1, x.2.1, x.2.2.length))

/-- A STORE TO GLOBAL MEMORY: lanes with address and data (11_isa_memory.md:R239, R241). -/
def globalStore (w : W) (ls : List (Nat × Nat × List Byte)) (after : Warp → Warp) (i : Iss) (s : State) : Res :=
  match s.laneFault i.ctx .store (storeRanges ls) with
  | some t => .trap s t
  | none => withRoom .store (storeRanges ls) (fun i s =>
    match i.detect 1 (s.detSectors i.ctx .store (storeRanges ls)) s with
    | .error t => .trap s t
    | .ok s => .done ((s.issueStores i w 0 (ls.map Prod.snd) false).updRef i.r after)) i s

/-- A STORE TO SCRATCHPAD: performed at once, lanes ascending (10_ordering.md:R222; 11_isa_memory.md:R239). -/
def scratchStore (ls : List (Nat × Nat × List Byte)) (after : Warp → Warp) (i : Iss) (s : State) : Res :=
  if !ls.all (fun x => i.inScratch x.2.1 x.2.2.length) then i.illegal s
  else
    match i.detect 1 (i.detScratch (storeRanges ls)) s with
    | .error t => .trap s t
    | .ok s =>
      .done ((i.updBlk s (fun b => b.spStores i.scr (ls.map Prod.snd))).updRef i.r after)

/-! ## Loads and stores -/

/-- The size in bytes of a load's type and whether it is sign-extended (11_isa_memory.md:R241). -/
def ldType : Nat → Nat × Bool
  | 0 => (4, false) | 1 => (8, false) | 2 => (16, false) | 3 => (1, false) | 4 => (1, true)
  | 5 => (2, false) | _ => (2, true)

/-- The size in bytes of a store's type (11_isa_memory.md:R241). -/
def stSize : Nat → Nat
  | 0 => 4 | 1 => 8 | 2 => 16 | 3 => 1 | _ => 2

/-- The value a load writes: a narrow one is extended to 32 bits (04_isa_core.md:R102). -/
def loadValue (m : Nat) (d : List Byte) : Nat :=
  let t := ldType m
  if t.2 then extInt true (8 * t.1) 32 (readInt true (8 * t.1) (leNat d)) else leNat d

/-- A load lands in D. -/
def landLoad (w : W) (i : Iss) (d : Nat → List Byte) (wp : Warp) : Warp :=
  wp.put (ldWords w.mod.toNat) w.d i.lanes (fun l => loadValue w.mod.toNat (d l))

/-- The ranges that a load reads. -/
def loadRanges (w : W) (i : Iss) (addr : Nat → Nat) : List (Nat × Nat × Nat) :=
  i.lanes.map (fun l => (l, addr l, (ldType w.mod.toNat).1))

/-- The bytes that a store writes. -/
def storeData (w : W) (i : Iss) (addr : Nat → Nat) : List (Nat × Nat × List Byte) :=
  i.lanes.map (fun l => (l, addr l, leBytes (stSize w.mod.toNat) (i.src w (ldWords w.mod.toNat) w.b l)))

/-- `ldg` (11_isa_memory.md:R241). -/
def execLdg (w : W) (s : State) : Out :=
  issueW .ldg w (fun i s => globalLoad (loadRanges w i (i.globAddr w)) (landLoad w i) i s) s

/-- `ldsp` (11_isa_memory.md:R241). -/
def execLdsp (w : W) (s : State) : Out :=
  issueW .ldsp w (fun i s => scratchLoad (loadRanges w i (i.spAddr w)) (landLoad w i) i s) s

/-- `stg` (11_isa_memory.md:R241). -/
def execStg (w : W) (s : State) : Out :=
  issueW .stg w (withCounter w (fun i s => globalStore w (storeData w i (i.globAddr w)) id i s)) s

/-- `stsp` (11_isa_memory.md:R241). -/
def execStsp (w : W) (s : State) : Out :=
  issueW .stsp w (withCounter w (fun i s => scratchStore (storeData w i (i.spAddr w)) id i s)) s

/-! ## VF elements -/

/-- The bytes an element of length code c takes; an illegal code is read alone (05_numbers.md:R147, R148). -/
def vfElemLen (c : Nat) : Nat := if 1 ≤ c ∧ c ≤ 22 then 3 + c else 1

/-- The value of an element; none when its length code is illegal (05_numbers.md:R147, R148). -/
def vfElem (d : List Byte) : Option Num :=
  let c := leNat (d.take 1)
  if 1 ≤ c ∧ c ≤ 22 then
    some (decodeF (fmtVf (8 * c)) false (leNat ((d.drop 1).take 2) * 2 ^ (8 * c) + leNat (d.drop 3)))
  else none

/-- The bytes of an element of length code c from a window's bits of `fr` fraction bits, and whether a dropped bit
was 1 (05_numbers.md:R148, 11_isa_memory.md:R243). -/
def vfElemBytes (c fr b : Nat) : List Byte × Bool :=
  let f := b % 2 ^ fr
  let g := if fr ≤ 8 * c then f * 2 ^ (8 * c - fr) else f / 2 ^ (fr - 8 * c)
  (leBytes 1 c ++ leBytes 2 (b / 2 ^ fr) ++ leBytes c g, decide (8 * c < fr) && f % 2 ^ (fr - 8 * c) != 0)

/-- The start of a lane's element (11_isa_memory.md:R242). -/
def vfAddr (w : W) (ix : Opnd) (i : Iss) (l : Nat) : Nat :=
  let k := match ix with | .none => 0 | o => i.src w 1 o l * bits w.imm 0 24
  if w.mod = 1 then (i.src w 2 w.a l + k) % 2 ^ 64 else (i.src w 1 w.a l + k) % 2 ^ 32

/-- The rounding of an element for its lane (05_numbers.md:R148). -/
def ldvfRes (w : W) (i : Iss) (l : Nat) (d : List Byte) : FRes :=
  let p := i.warp.precOf l
  match vfElem d with
  | none => (fmtVf (precL p)).nan.nv true
  | some x => (round (fmtVf (precL p)) (Mode.ofCode (precRmd p)) w.sat false x).nv x.isSig

/-- Elements land in a window. -/
def landVf (w : W) (k : Nat) (i : Iss) (d : Nat → List Byte) (wp : Warp) : Warp :=
  (wp.putWindow w.d.vreg k i.lanes (fun l =>
    vfWindow k (precL (i.warp.precOf l)) (ldvfRes w i l (d l)).bits)).raiseFlags i.lanes
      (fun l => unlessNF w.nf (ldvfRes w i l (d l)).fl)

/-- `ldvf`: each lane's length code is read, then its element (11_isa_memory.md:R243). -/
def execLdvf (w : W) (s : State) : Out :=
  issueW .ldvf w (fun i s =>
    match i.warp.oneK i.lanes with
    | none => i.illegal s
    | some k =>
      if w.d.vreg % vfAlign k ≠ 0 then i.illegal s
      else
        let heads := i.lanes.map (fun l => (l, vfAddr w w.b i l, 1))
        if w.mod = 1 then
          match s.laneFault i.ctx .load heads with
          | some t => .trap s t
          | none => globalLoad (heads.map (fun x =>
              (x.1, x.2.1, vfElemLen (leNat (s.loadRange i.r i.warp.core i.ctx x.2.1 1).1)))) (landVf w k i) i s
        else if !heads.all (fun x => i.inScratch x.2.1 1) then i.illegal s
        else scratchLoad (heads.map (fun x => (x.1, x.2.1, vfElemLen (leNat (i.blk.spRead i.scr x.2.1 1)))))
          (landVf w k i) i s) s

/-- The element that `stvf` writes for a lane, and whether it raises NX (11_isa_memory.md:R243). -/
def stvfElem (w : W) (i : Iss) (l : Nat) : List Byte × Bool :=
  let c := cdiv (precL (i.warp.precOf l)) 8
  match w.b with
  | .v h =>
    let k := i.warp.tag h
    vfElemBytes c (vfFrac k) (i.warp.vfBits h k l)
  | o => vfElemBytes c 176 (round (fmtVf 176) .rne false false (i.vf w o l)).bits

/-- `stvf` (11_isa_memory.md:R243). -/
def execStvf (w : W) (s : State) : Out :=
  issueW .stvf w (withCounter w (fun i s =>
    if !i.warp.vfTagged w.b then i.illegal s
    else
      let ls := i.lanes.map (fun l => (l, vfAddr w w.c i l, (stvfElem w i l).1))
      let after := fun wp : Warp =>
        wp.raiseFlags i.lanes (fun l => unlessNF w.nf (if (stvfElem w i l).2 then fNX else 0))
      if w.mod = 1 then globalStore w ls after i s else scratchStore ls after i s)) s

/-! ## Atomics -/

/-- The new value of an atomic's location and the flags it raises (11_isa_memory.md:R244). -/
def atomNew (op ty : Nat) (sat : Bool) (old b c : Nat) : Nat × Flags :=
  let wd := 8 * atomBytes ty
  if ty = 1 ∧ op ≤ 2 then combine 2 op old b
  else
    let x := readInt (intSigned ty) wd old
    let y := readInt (intSigned ty) wd b
    match op with
    | 0 => intResult (intSigned ty) sat wd wd (x + y)
    | 1 => (extInt (intSigned ty) wd wd (min x y), 0)
    | 2 => (extInt (intSigned ty) wd wd (max x y), 0)
    | 3 => (old &&& b, 0)
    | 4 => (old ||| b, 0)
    | 5 => (old ^^^ b, 0)
    | 6 => (b % 2 ^ wd, 0)
    | _ => (if old = c then b % 2 ^ wd else old, 0)

/-- What the lanes of an atomic gave: each lane's old value and flags, and the lane that met poison. -/
structure AtomRun where
  got : List (Nat × Nat × Flags)
  bad : Option Nat
  deriving DecidableEq, Repr

/-- The operation of an atomic word, by MOD and IMM32. -/
def atomOp (w : W) : Nat := bits w.mod 0 4
/-- The type of an atomic word. -/
def atomTy (w : W) : Nat := bits w.imm 0 8
/-- Whether an atomic names a destination. -/
def atomRet (w : W) : Bool := w.d != .none

/-- The operands of a lane: B, and C for `.cas`. -/
def atomArgs (w : W) (i : Iss) (l : Nat) : Nat × Nat :=
  let n := atomBytes (atomTy w) / 4
  let one := if atomTy w = 1 then fmt32.oneBits else 1
  (i.warp.src w.imm n one w.b l, if atomOp w = 7 then i.warp.src w.imm n one w.c l else 0)

/-- PERFORM AN ATOMIC AT A HOME for one lane, unless a lane before met poison (10_ordering.md:R223;
11_isa_memory.md:R239). -/
def atomAtHome (w : W) (i : Iss) (g : Nat) (a : AtomRun × State) (l addr : Nat) : AtomRun × State :=
  match a.1.bad, a.2.translate i.ctx addr .store with
  | some _, _ | _, .error _ => a
  | none, .ok x =>
    let n := atomBytes (atomTy w)
    let s := (a.2.flushOwn i.r x n).noteSys x.sys x.pa
    if s.mem.poisoned x.sys x.pa then ({ a.1 with bad := some l }, s.consumeSector i.ctx x.sys (x.pa / 32))
    else
      let old := s.mem.nat x.sys x.pa n
      let r := atomNew (atomOp w) (atomTy w) w.sat old (atomArgs w i l).1 (atomArgs w i l).2
      ({ a.1 with got := a.1.got ++ [(l, old, r.2)] },
       (s.homeStore (some i.warp.core) x.sys x.pa (leBytes n r.1) false).pushReply g (s.mem.linked x.sys x.pa n) x.sys x.pa)

/-- Perform an atomic in scratchpad for one lane (10_ordering.md:R222). -/
def atomAtScratch (w : W) (i : Iss) (a : AtomRun × Block) (l off : Nat) : AtomRun × Block :=
  let n := atomBytes (atomTy w)
  if a.1.bad.isSome then a
  else if a.2.spPoisoned i.scr off n then ({ a.1 with bad := some l }, a.2)
  else
    let old := leNat (a.2.spRead i.scr off n)
    let r := atomNew (atomOp w) (atomTy w) w.sat old (atomArgs w i l).1 (atomArgs w i l).2
    ({ a.1 with got := a.1.got ++ [(l, old, r.2)] }, a.2.spWrite i.scr off (leBytes n r.1) false)

/-- The old values land in D and the flags are raised (11_isa_memory.md:R244). -/
def landAtom (w : W) (i : Iss) (a : AtomRun) (wp : Warp) : Warp :=
  let of := fun l => ((a.got.find? (fun x => x.1 == l)).map Prod.snd).getD (0, 0)
  (wp.put (atomBytes (atomTy w) / 4) w.d i.lanes (fun l => (of l).1)).raiseFlags i.lanes
    (fun l => unlessNF w.nf (of l).2)

/-- The end of an atomic: the data-poison trap of the lane that met poison, or its results. `acc` is the access type of a
global one. -/
def atomEnd (w : W) (i : Iss) (acc : Nat) (addr : Nat → Nat) (a : AtomRun) (s : State) : Res :=
  match a.bad with
  | some l => .trap s { cause := 5, mask := maskOf [l], addr := BitVec.ofNat 64 (addr l), access := acc }
  | none => .done (s.updRef i.r (landAtom w i a))

/-- An operation group whose remaining parts are not performed: it counts only the replies on their way
(11_isa_memory.md:R239). -/
def State.cutGroup (s : State) (op : Nat) : State :=
  let cut := fun g : OpGroup => { g with left := (s.replies.filter (fun r => r.op == op)).length }
  { s with groups := updIf (fun g => g.op == op) cut s.groups }.closeGroup op

/-- A lane's float atomic, or another remote operation behind one, as a deterministic grid holds it back. -/
def Iss.detAtom (i : Iss) (w : W) (grp l addr : Nat) (sys : Bool) (pa : Nat) (rop : Option RemoteOp) : DetAtom :=
  { grp := grp, tkt := i.blk.tkt, wrp := i.r.wrp, lane := l, path := i.path.mask, hdr := i.path.hdr
    word := if i.path.word = 0 then 1 else i.path.word, addr := BitVec.ofNat 64 addr, sys := sys, pa := pa
    op := atomOp w, b := BitVec.ofNat 32 (atomArgs w i l).1, sat := w.sat, nf := w.nf, rop := rop }

/-- A global float atomic of a deterministic grid is held back to the end of its barrier interval
(10_ordering.md:R224). -/
def deferAtom (w : W) (i : Iss) (addr : Nat → Nat) (s : State) : State :=
  let g := s.startGroup i w 0 true i.lanes.length
  g.2.updGrid i.r.lsq (fun gr => { gr with detAtoms := gr.detAtoms ++ i.lanes.filterMap (fun l =>
    match s.translate i.ctx (addr l) .store with
    | .ok x => some (i.detAtom w g.1 l (addr l) x.sys x.pa none)
    | .error _ => none) })

/-- The checks of an atomic that come before any access: alignment, and a float atomic of a deterministic grid
names no destination (11_isa_memory.md:R244, 10_ordering.md:R224). -/
def atomBad (w : W) (i : Iss) (addr : Nat → Nat) : Bool :=
  i.lanes.any (fun l => addr l % atomBytes (atomTy w) != 0) ||
    (i.grid.rec_.det && atomTy w == 1 && atomRet w)

/-- The detector's kind of an atomic word (10_ordering.md:R235). -/
def atomKind (w : W) : Nat := detAtomKind (atomOp w) w.sat (atomRet w) (atomTy w == 1)

/-- `atomg`, at the homes, lanes ascending (11_isa_memory.md:R244). -/
def execAtomg (w : W) (s : State) : Out :=
  issueW .atomg w (withCounter w (fun i s =>
    let addr := fun l => i.src w 2 w.a l
    let rs := i.lanes.map (fun l => (l, addr l, atomBytes (atomTy w)))
    if atomBad w i addr then i.illegal s
    else
      match s.laneFault i.ctx .store rs with
      | some t => .trap s t
      | none => withRoom .store rs (fun i s =>
        match i.detect (atomKind w) (s.detSectors i.ctx .store rs) s with
        | .error t => .trap s t
        | .ok s =>
          let s := rs.foldl (fun s x => s.fillRange i.ctx x.2.1 x.2.2) s
          if i.grid.rec_.det && atomTy w == 1 then .done (deferAtom w i addr s)
          else
            let g := s.startGroup i w 0 true i.lanes.length
            let r := i.lanes.foldl (fun a l => atomAtHome w i g.1 a l (addr l)) ({ got := [], bad := none }, g.2)
            atomEnd w i (Acc.code .store) addr r.1 (if r.1.bad.isSome then r.2.cutGroup g.1 else r.2)) i s)) s

/-- `atomsp`, performed at its issue (10_ordering.md:R222); R156 defers the float atomics "at a home" only
(11_isa_memory.md:R244; DEDUCED, log 14). -/
def execAtomsp (w : W) (s : State) : Out :=
  issueW .atomsp w (withCounter w (fun i s =>
    let addr := fun l => i.src w 1 w.a l
    let rs := i.lanes.map (fun l => (l, addr l, atomBytes (atomTy w)))
    if atomBad w i addr || !rs.all (fun x => i.inScratch x.2.1 x.2.2) then i.illegal s
    else
      match i.detect (atomKind w) (i.detScratch rs) s with
      | .error t => .trap s t
      | .ok s =>
        let r := i.lanes.foldl (fun a l => atomAtScratch w i a l (addr l)) ({ got := [], bad := none }, i.blk)
        atomEnd w i 0 addr r.1 (i.updBlk s (fun b => { b with cores := r.2.cores })))) s

/-! ## Sending a remote operation -/

/-- Whether a remote operation is an `rflag`, which follows every earlier operation of its warp to its module
(10_ordering.md:R232). -/
def RemoteOp.isFlag (o : RemoteOp) : Bool :=
  match o.kind with
  | .flag _ => true
  | _ => false

/-- Whether two operations touch a byte in common at one target. -/
def RemoteOp.overlaps (o x : RemoteOp) : Bool :=
  x.target == o.target && decide (x.off.toNat < o.off.toNat + remoteSize o.kind ∧ o.off.toNat < x.off.toNat + remoteSize x.kind)

/-- Whether an operation is performed at its target after an earlier one of its warp: any, for an `rflag`, an ordered one, for an
ordered operation (10_ordering.md:R232), and one that writes to a location of it (R213). -/
def RemoteOp.follows (o x : RemoteOp) : Bool :=
  x.target == o.target && (o.isFlag || (o.ordered && x.ordered) || (!remoteReads x.kind && o.overlaps x))

/-- Whether two operations are float atomics of one block that a deterministic grid held back (10_ordering.md:R224). -/
def RemoteOp.sameInterval (o x : RemoteOp) : Bool :=
  o.late && x.late && x.src.lsq == o.src.lsq && x.src.tkt == o.src.tkt

/-- An endpoint context of this module. -/
def State.endpoint? (s : State) (ctx peer : Nat) : Option Endpoint :=
  s.endpoints.find? (fun e => e.ctx == ctx && e.peer == peer)

/-- An endpoint context that nothing has used. -/
def Endpoint.fresh (ctx peer : Nat) : Endpoint :=
  { ctx := ctx, peer := peer, cached := false, fetching := false, seen := [], next := 0 }

/-- Update an endpoint context, made where there is none (18_recovery.md:R331). -/
def State.updEndpoint (s : State) (ctx peer : Nat) (f : Endpoint → Endpoint) : State :=
  match s.endpoint? ctx peer with
  | some _ => { s with endpoints := updIf (fun e : Endpoint => e.ctx == ctx && e.peer == peer) f s.endpoints }
  | none => { s with endpoints := s.endpoints ++ [f (Endpoint.fresh ctx peer)] }

/-- SEND A REMOTE OPERATION: it takes the next sequence number of its endpoint context, and the operations of its warp to the
same module that it follows, and the lower lanes of its own word (10_ordering.md:R232; 11_isa_memory.md:R239;
18_recovery.md:R331). The float atomics that leave at the end of a barrier interval are performed in the order in which they leave
(05_numbers.md:R156). -/
def State.sendRemote (s : State) (o : RemoteOp) : State :=
  let first := s.rops.filter (fun x => x.target == o.target &&
    ((x.src.sameWarp o.src && (o.follows x || x.grp == o.grp)) || o.sameInterval x))
  let mates := first.filter (fun x => x.grp == o.grp)
  let n := s.newId
  let seq := ((s.endpoint? o.ctx o.target).map Endpoint.next).getD 0
  let o := { o with op := n.1, after := first.map RemoteOp.seq, mates := mates.map RemoteOp.seq, seq := seq, sent := s.time }
  { n.2.updEndpoint o.ctx o.target (fun e => { e with next := e.next + 1 }) with rops := s.rops ++ [o] }

/-! ## Fences and drains -/

/-- The outstanding operations of the warp of a reference, those that a fence of a scope waits for
(10_ordering.md:R221): scope 1 chip, 2 pod, 3 sys; the fetch of a handle that its first signature started is a set of its
loads (07_isa_matrix.md:R195). -/
def State.fenceOps (s : State) (r : Ref) (scope : Nat) : List Nat :=
  (s.groups.filter (fun g => g.lsq == r.lsq && g.tkt == r.tkt && g.wrp == r.wrp && (scope != 1 || g.chip))).map OpGroup.op ++
    (s.fetches.filter (fun m => m.src.lsq == r.lsq && m.src.tkt == r.tkt && m.src.wrp == r.wrp)).map MmaRec.id

/-- The confidential copies of a warp whose status word is not yet stored: a scratchpad store of the warp
(17_prog_copyin.md:R318). -/
def State.statusOps (s : State) (r : Ref) : List Nat :=
  (s.copies.filter (fun o => o.gcm.isSome && o.data.isNone && o.src.sameWarp r)).map CopyOp.op

/-- Whether the engine has stored the status words of confidential copies. -/
def State.statusDone (s : State) (ops : List Nat) : Bool :=
  ops.all (fun k => !s.copies.any (fun o => o.op == k && o.gcm.isSome && o.data.isNone))

/-- Whether operations, and the fetches of handles among them, have all completed. -/
def State.opsDone (s : State) (ops : List Nat) : Bool :=
  ops.all (fun o => !s.groups.any (fun g => g.op == o) && !s.fetches.any (fun m => m.id == o))

/-- The completion time that a scope waits for (10_ordering.md:R221); from the pod on it covers the barriers whose phase `tbtest`
has found changed (R230). -/
def Warp.wctOf (w : Warp) (scope : Nat) : DWord :=
  if scope = 1 then w.wctc else if scope = 2 then tmax w.wctp w.lct else tmax w.wcts w.lct

/-- Whether a waiting fence or drain may go on now (10_ordering.md:R221, R231). -/
def State.fencePassed (s : State) (w : Warp) : Park → Bool
  | .fence 0 ops => s.statusDone ops
  | .fence scope ops => s.opsDone ops && decide ((w.wctOf scope).toNat < s.time.toNat)
  | .drain kind ops c => s.opsDone ops && (kind == 1 || decide ((tmax c (w.wctOf 2)).toNat < s.time.toNat))
  | _ => false

/-- A waiting word: it completes when its condition holds or its wait was released, otherwise it parks. -/
def parkUntil (k : Park) (i : Iss) (s : State) : Res :=
  match i.path.park with
  | .released _ _ => .done s
  | .run | .stall _ => if s.fencePassed i.warp k then .done s else .stay (s.updRef i.r (fun wp => wp.parkAt i.r.lane k))
  | _ => .stay s

/-- `fence`: every scratchpad access of a warp is performed at its issue but for the status word of a confidential copy, for
which `.core` waits (10_ordering.md:R221, R222; 17_prog_copyin.md:R318). -/
def execFence (w : W) (s : State) : Out :=
  issueW .fence w (fun i s =>
    parkUntil (.fence w.mod.toNat (if w.mod = 0 then s.statusOps i.r else s.fenceOps i.r w.mod.toNat)) i s) s

/-- `drain`: the operations of the core on a path, and for an outgoing path the effect of a `fence.pod`
(10_ordering.md:R231). -/
def execDrain (w : W) (s : State) : Out :=
  issueW .drain w (fun i s =>
    let kind := w.mod.toNat + 1
    let core := (s.groups.filter (fun g => g.core == i.warp.core && g.kind == kind)).map OpGroup.op
    if kind = 1 then parkUntil (.drain 1 core 0) i s
    else
      parkUntil (.drain kind (core ++ s.fenceOps i.r 2) (cget s.pathCpod (2 * i.warp.core + (kind - 2)))) i s) s

end Sys2Proof.Machine
end

