-- ==== Sys2Proof/Machine/Copy.lean ====
section
/-! DEFINITION. Transaction barriers (10_ordering.md:R227 to R230; 11_isa_memory.md:R253), asynchronous copies
and multicasts (11_isa_memory.md:R246 to R252), cache control (R255, R256), and the events of the copy engines. -/

namespace Sys2Proof.Machine

/-! ## Transaction barriers -/

/-- A transaction barrier (10_ordering.md:R227). -/
structure TBar where
  lct : DWord
  psec : Int
  arld : Nat
  parr : Nat
  arm : Bool
  gmm : Bool
  psn : Bool
  err : Bool
  ph : Nat
  deriving DecidableEq, Repr

/-- The barrier that 128 bits hold (10_ordering.md:R227). -/
def TBar.ofNat (x : Nat) : TBar :=
  { lct := BitVec.ofNat 64 (fld x 64 64), psec := readInt true 30 (fld x 34 30), arld := fld x 21 13
    parr := fld x 8 13, arm := fld x 7 1 == 1, gmm := fld x 6 1 == 1, psn := fld x 5 1 == 1
    err := fld x 4 1 == 1, ph := fld x 0 4 }

/-- The 128 bits of a barrier (10_ordering.md:R227). -/
def TBar.toNat (b : TBar) : Nat :=
  b.lct.toNat * 2 ^ 64 + extInt false 30 30 b.psec * 2 ^ 34 + b.arld % 2 ^ 13 * 2 ^ 21 + b.parr % 2 ^ 13 * 2 ^ 8 +
    (if b.arm then 128 else 0) + (if b.gmm then 64 else 0) + (if b.psn then 32 else 0) +
    (if b.err then 16 else 0) + b.ph % 16

/-- The phase completes when nothing is pending (10_ordering.md:R228). -/
def TBar.settle (b : TBar) : TBar :=
  if b.parr = 0 ∧ b.psec = 0 then { b with ph := (b.ph + 1) % 16, parr := b.arld } else b

/-- ONE CHANGE OF A BARRIER: pending arrivals and sectors fall; a count that would leave its range sets ERR and
stays (10_ordering.md:R228). -/
def TBar.change (b : TBar) (arr : Nat) (sec : Int) : TBar :=
  if b.parr < arr ∨ b.psec - sec < -(2 ^ 29) ∨ 2 ^ 29 ≤ b.psec - sec then { b with err := true }.settle
  else { b with parr := b.parr - arr, psec := b.psec - sec }.settle

/-- What the countdown of a sector tells (10_ordering.md:R229). -/
inductive SecFate where
  | landed | poisoned | failed | dropped
  deriving DecidableEq, Repr

/-- A sector counts down with its fate; LCT rises to its completion time when it has one (10_ordering.md:R228,
R229). -/
def TBar.sector (b : TBar) (f : SecFate) (cpod : Option DWord) : TBar :=
  { b with lct := match cpod with | some c => tmax b.lct c | none => b.lct
           psn := b.psn || f == SecFate.poisoned, err := b.err || f == SecFate.failed, gmm := b.gmm || f == SecFate.dropped }.change 0 1

/-- The barrier at a scratchpad offset of a block. DESIGN CHOICE (log 63): one that lies in a poisoned sector is read by its bits, and
the sector keeps its poison; 18_recovery.md:R324 names neither a barrier instruction nor an engine's report as a consumer. -/
def Block.tbar (b : Block) (scr t : Nat) : TBar := TBar.ofNat (leNat (b.spRead scr t 16))

/-- A path waiting for a barrier observes its phase (10_ordering.md:R230). -/
def Path.observe (t : Nat) (b : TBar) (p : Path) : Path :=
  match p.park with
  | .tbwait off ph none => if off = t ∧ b.ph ≠ ph then { p with park := .tbwait off ph (some b.lct) } else p
  | _ => p

/-- Update every path of a block. -/
def Block.mapPaths (b : Block) (f : Path → Path) : Block :=
  let fw := fun w : Warp => { w with paths := w.paths.map f }
  { b with warps := b.warps.map fw, handler := b.handler.map (fun a => { a with warp := fw a.warp }) }

/-- Replace a barrier; waiting paths observe it. -/
def Block.setTbar (b : Block) (scr t : Nat) (x : TBar) : Block :=
  (b.spWrite scr t (leBytes 16 x.toNat) false).mapPaths (Path.observe t x)

/-- Whether an operand names a barrier: aligned, inside the allocation, and armed where it must be
(11_isa_memory.md:R253). -/
def Iss.tbOk (i : Iss) (t : Nat) (armed : Bool) : Bool :=
  t % 16 == 0 && i.inScratch t 16 && (!armed || (i.blk.tbar i.scr t).arm)

/-- Whether an optional barrier operand is absent or names an armed barrier. -/
def Iss.optTbOk (i : Iss) (w : W) : Bool := w.c == .none || i.tbOk (i.uni w 1 w.c) true

/-- The optional barrier operand C. -/
def Iss.optTb (i : Iss) (w : W) : Option Nat := if w.c = .none then none else some (i.uni w 1 w.c)

/-- The fields `tbinit` writes (10_ordering.md:R228). -/
def TBar.start (n : Nat) : TBar :=
  { lct := 0, psec := 0, arld := n, parr := n, arm := true, gmm := false, psn := false, err := false, ph := 0 }

/-- `tbinit` (11_isa_memory.md:R253, R254). -/
def execTbinit (w : W) (s : State) : Out :=
  issueW .tbinit w (fun i s =>
    let t := i.uni w 1 w.a
    let n := i.uni w 1 w.b
    if !i.tbOk t false ∨ n = 0 ∨ 4096 < n then i.illegal s
    else .done (i.updBlk s (fun b => b.setTbar i.scr t (TBar.start n)))) s

/-- `tbexp` (11_isa_memory.md:R253). -/
def execTbexp (w : W) (s : State) : Out :=
  issueW .tbexp w (fun i s =>
    let t := i.uni w 1 w.a
    let n := i.uni w 1 w.b
    if !i.tbOk t true ∨ 2 ^ 29 ≤ n then i.illegal s
    else .done (i.updBlk s (fun b => b.setTbar i.scr t ((b.tbar i.scr t).change 0 (-n))))) s

/-- `tbarr`: every active lane arrives (11_isa_memory.md:R253). -/
def execTbarr (w : W) (s : State) : Out :=
  issueW .tbarr w (fun i s =>
    let t := i.uni w 1 w.a
    if !i.tbOk t true then i.illegal s
    else .done (i.updBlk s (fun b => b.setTbar i.scr t ((b.tbar i.scr t).change i.lanes.length 0)))) s

/-- `tbwait` parks until the phase has left, then until TIME exceeds LCT; D receives the bits as the path
continues (10_ordering.md:R230, 11_isa_memory.md:R253). -/
def execTbwait (w : W) (s : State) : Out :=
  issueW .tbwait w (fun i s =>
    let t := i.uni w 1 w.a
    let ph := i.uni w 1 w.b
    let b := i.blk.tbar i.scr t
    let go := Res.done (s.updRef i.r (fun wp => wp.put 1 w.d i.lanes (fun _ => b.toNat % 2 ^ 32)))
    if !i.tbOk t true ∨ 15 < ph then i.illegal s
    else
      match i.path.park with
      | .released _ _ => go
      | _ =>
        if b.ph = ph then .stay (s.updRef i.r (fun wp => wp.parkAt i.r.lane (.tbwait t ph none)))
        else if b.lct.toNat < s.time.toNat then go
        else .stay (s.updRef i.r (fun wp => wp.parkAt i.r.lane (.tbwait t ph (some b.lct))))) s

/-- `tbtest`: where it finds the phase changed, the barrier's LCT is kept for the warp's next `fence.pod` (11_isa_memory.md:R253;
10_ordering.md:R230). -/
def execTbtest (w : W) (s : State) : Out :=
  issueW .tbtest w (fun i s =>
    let t := i.uni w 1 w.a
    let ph := i.uni w 1 w.b
    let b := i.blk.tbar i.scr t
    if !i.tbOk t true ∨ 15 < ph then i.illegal s
    else .done (s.updRef i.r (fun wp =>
      let wp := (wp.putP w.d i.lanes (fun _ => b.ph != ph)).put 1 w.e i.lanes (fun _ => b.toNat % 2 ^ 32)
      if b.ph = ph then wp else { wp with lct := tmax wp.lct b.lct }))) s

/-- Whether a waiting barrier path may go on (10_ordering.md:R230). -/
def State.tbPassed (s : State) (b : Block) (scr : Nat) : Park → Bool
  | .tbwait _ _ (some l) => decide (l.toNat < s.time.toNat)
  | .tbwait t ph none =>
    let x := b.tbar scr t
    x.ph != ph && decide (x.lct.toNat < s.time.toNat)
  | _ => false

/-- WAIT_TIME_PASSED: a fence, drain or barrier wait whose time has passed is released (10_ordering.md:R221, R230,
R231). -/
def execWaitTimePassed (r : Ref) (s : State) : Out :=
  match s.block? r.lsq r.tkt, s.grid? r.lsq with
  | some b, some g =>
    match b.refWarp? r with
    | some w =>
      match w.path? r.lane with
      | some p =>
        if !w.stopped && (s.fencePassed w p.park || s.tbPassed b g.rec_.scr p.park) then
          .next (s.updRef r (fun w => w.parkAt r.lane (.released true 0)))
        else .next s
      | none => .next s
    | none => .next s
  | _, _ => .next s

/-- AN ENGINE REPORTS `n` SECTORS TO A BARRIER of the block of a reference; a report to an unarmed one changes
nothing and is posted as an event (10_ordering.md:R228, R229; 18_recovery.md:R330 type 6). -/
def State.report (s : State) (lsq tkt : Nat) (bar : Option Nat) (n : Nat) (f : SecFate) (cpod : Option DWord) : State :=
  match bar, s.block? lsq tkt, s.grid? lsq with
  | some t, some b, some g =>
    if (b.tbar g.rec_.scr t).arm then
      s.updBlock lsq tkt (fun b => (List.range n).foldl (fun b _ =>
        b.setTbar g.rec_.scr t ((b.tbar g.rec_.scr t).sector f cpod)) b)
    else s.postEvent g.rec_.ctx 6 0 (BitVec.ofNat 64 t) 0 lsq tkt 0 s.modn
  | _, _, _ => s

/-! ## Places an engine reads and writes -/

/-- The core of the warp that a reference names, 0 where there is none. -/
def State.coreOf (s : State) (r : Ref) : Nat :=
  (((s.block? r.lsq r.tkt).bind (fun b => b.refWarp? r)).map Warp.core).getD 0

/-- Read bytes of a place as an engine does, at the home (10_ordering.md:R226): the bytes, whether a sector was
poisoned, and the state in which the warp's own earlier stores to them are performed. Fewer bytes than asked
when the place no longer translates. The core's own copies of the lines go, since no later load of the warp returns an older
value (10_ordering.md:R213). -/
def State.engineRead (s : State) (r : Ref) (ctx : Nat) (p : Place) (off len : Nat) : List Byte × Bool × State :=
  match p with
  | .sp o =>
    match s.block? r.lsq r.tkt, s.grid? r.lsq with
    | some b, some g => (b.spRead g.rec_.scr (o + off) len, b.spPoisoned g.rec_.scr (o + off) len, s)
    | _, _ => ([], false, s)
  | .glob va =>
    let a := va.toNat + off
    let ps := s.linePieces ctx a len .load
    let t := ps.foldl (fun s x =>
      ((s.flushOwn r x.1 x.2).noteSys x.1.sys x.1.pa).forgetLines (s.coreOf r) x.1.sys x.1.pa x.2) (s.consumeWalks ctx a len)
    let x := t.homeRead ctx a len
    (x.1, x.2, if x.2 then t.consume ctx ps else t)

/-- The outcome of writing a sector: its fate, its completion time for a barrier, the times it returns, and whether the host
link has still to report its Csys (10_ordering.md:R218). -/
structure SecDone where
  fate : SecFate
  cpod : Option DWord
  times : Option (Bool × DWord × DWord × DWord)
  link : Bool := false

/-- Write the bytes of one sector at a global address, at its home, after the warp's own earlier stores there
(10_ordering.md:R213, R218, R226). -/
def State.engineStore (s : State) (r : Ref) (ctx core va : Nat) (data : List Byte) (mark : Bool) : SecDone × State :=
  match s.translate ctx va .store with
  | .error _ => ({ fate := .failed, cpod := some s.time, times := none }, s.consumeWalk ctx va)
  | .ok x =>
    let s := s.flushOwn r x data.length
    let c := s.completion x.sys x.pa
    ({ fate := if mark then .poisoned else .landed, cpod := some c.2.1, times := some (!x.sys, c.1, c.2.1, c.2.2)
       link := s.mem.linked x.sys x.pa data.length },
     s.homeStore (some core) x.sys x.pa data mark)

/-- Whether an allocation admits a sector that carries a generation: its own, or, once a save has advanced it, the one before,
whose sectors the save waits for (11_isa_memory.md:R252; 18_recovery.md:R327). -/
def BlockCore.admits (c : BlockCore) (gen : Nat) : Bool := c.old.getD c.gen == gen

/-- Write the bytes of one sector in scratchpad, when the allocation still has its generation (11_isa_memory.md:R252,
13_progress.md:R278). DESIGN CHOICE (log 7): a sector performed in scratchpad raises LCT to the `TIME` of its performance; R228 speaks
of a sector's Cpod, which R218 gives for homes only. -/
def State.engineScratch (s : State) (lsq tkt : Nat) (gens : List Nat) (off : Nat) (data : List Byte) (mark : Bool) :
    SecDone × State :=
  match s.block? lsq tkt, s.grid? lsq with
  | some b, some g =>
    let k := off / g.rec_.scr
    if b.res = .resident ∧ (b.cores[k]?).any (fun c => (gens[k]?).any c.admits) then
      ({ fate := if mark then .poisoned else .landed, cpod := some s.time, times := none },
       s.updBlock lsq tkt (fun b => b.spWrite g.rec_.scr off data mark))
    else ({ fate := .dropped, cpod := none, times := none }, s)
  | _, _ => ({ fate := .dropped, cpod := none, times := none }, s)

/-- A sector that has been dealt with counts down at the barrier and in its operation group; one whose Csys the host link reports
counts down in the group when the report comes (10_ordering.md:R218). -/
def State.sectorDone (s : State) (src : Ref) (bar : Option Nat) (op : Nat) (d : SecDone) : State :=
  let s := s.report src.lsq src.tkt bar 1 d.fate d.cpod
  match d.times with
  | some t =>
    if d.link then s.queueReply op true t.1 t.2.1 t.2.2.1 t.2.2.2 else s.groupReply op t.1 t.2.1 t.2.2.1 t.2.2.2
  | none => s.groupDone op

/-! ## Copies -/

/-- Sectors(D, len) (11_isa_memory.md:R248). -/
def sectorCount (d len : Nat) : Nat := cdiv (d + len) 32 - d / 32

/-- Sector j of a destination range: offset in the range and length. -/
def sectorPiece (d len j : Nat) : Nat × Nat :=
  let lo := max d (32 * (d / 32 + j))
  let hi := min (d + len) (32 * (d / 32 + j + 1))
  (lo - d, hi - lo)

/-- The limits of a shape (11_isa_memory.md:R249). -/
def shapeOk (q : QWord) : Bool :=
  bits q 98 30 == 0 && decide (1 ≤ shNc q ∧ shNc q ≤ 4096 ∧ 1 ≤ shNr q ∧ shNr q ≤ 4096) &&
    shNr q * shEsz q % 128 == 0 && shNc q * shEsz q % 128 == 0 && shSrs q % 16 == 0 && shDrs q % 16 == 0 &&
    decide (shSrow q ≤ shSrs q ∧ shDrow q ≤ shDrs q)

/-- The numbers of the sectors of a copy. -/
def CopyOp.sectors (o : CopyOp) : List Nat :=
  (o.rows.zip (List.range o.rows.length)).flatMap (fun r =>
    (List.range (sectorCount (o.to_.base + r.1.1) r.1.2)).map (fun j => 2 ^ 20 * r.2 + j))

/-- Byte p of destination row c of a transposed copy: a byte of an element of column c, or of two 4-bit elements
(11_isa_memory.md:R249). No byte where the source no longer translates. -/
def shapeByte (s : State) (o : CopyOp) (q : QWord) (c p : Nat) : List Byte × Bool × State :=
  let e := shEsz q / 8
  if shEsz q = 4 then
    let x := s.engineRead o.src o.ctx o.from_ (2 * p * shSrs q + c / 2) 1
    let y := x.2.2.engineRead o.src o.ctx o.from_ ((2 * p + 1) * shSrs q + c / 2) 1
    let half := fun b : Byte => fld b.toNat (4 * (c % 2)) 4
    ((x.1.zip y.1).map (fun b => BitVec.ofNat 8 (half b.1 + 16 * half b.2)), x.2.1 || y.2.1, y.2.2)
  else s.engineRead o.src o.ctx o.from_ (p / e * shSrs q + c * e + p % e) 1

/-- The bytes of one sector of a transposed copy: destination row c from byte `at_`. -/
def shapeBytes (s : State) (o : CopyOp) (q : QWord) (c at_ len : Nat) : List Byte × Bool × State :=
  (List.range len).foldl (fun (a : List Byte × Bool × State) k =>
    let x := shapeByte a.2.2 o q c (at_ + k)
    (a.1 ++ x.1, a.2.1 || x.2.1, x.2.2)) ([], false, s)

/-- Perform one sector of a copy: its source is read, its destination written (10_ordering.md:R226, R229). -/
def State.copySector (s : State) (o : CopyOp) (k : Nat) : SecDone × State :=
  let row := k / 2 ^ 20
  let rg := nth o.rows row (0, 0)
  let p := sectorPiece (o.to_.base + rg.1) rg.2 (k % 2 ^ 20)
  let x := match o.shape, o.data with
    | some q, _ => shapeBytes s o q row p.1 p.2
    | none, some d => ((d.drop p.1).take p.2, false, s)
    | none, none => s.engineRead o.src o.ctx o.from_ p.1 p.2
  if x.1.length < p.2 then ({ fate := .failed, cpod := some s.time, times := none }, x.2.2)
  else
    match o.to_ with
    | .sp t => x.2.2.engineScratch o.src.lsq o.src.tkt o.gens (t + rg.1 + p.1) x.1 x.2.1
    | .glob va => x.2.2.engineStore o.src o.ctx o.core (va.toNat + rg.1 + p.1) x.1 x.2.1

/-- A copy with nothing left is over. -/
def State.trimCopies (s : State) : State := { s with copies := s.copies.filter (fun o => o.todo != []) }

/-- Whether a copy waits for an older asynchronous operation of its warp that writes to its lines, or that R225 puts before it
(10_ordering.md:R213). -/
def State.copyWaits (s : State) (o : CopyOp) : Bool :=
  s.olderAsync o.src o.op &&
    (s.behind o.src o.op .load (s.placePieces o.ctx .load o.from_ o.srcRows) ||
      s.behind o.src o.op .store (s.placePieces o.ctx .store o.to_ o.rows))

/-- A sector of a copy counts down with its outcome. -/
def State.copyDone (s : State) (o : CopyOp) (sector : Nat) (d : SecDone) : State :=
  let drop := fun o : CopyOp => { o with todo := o.todo.filter (· != sector) }
  { s with copies := updIf (fun x => x.op == o.op) drop s.copies }.trimCopies.sectorDone o.src o.bar o.op d

/-- ENGINE_SECTOR_REPORT: one sector of a copy is performed and counted down (10_ordering.md:R228, R229). A
confidential copy waits for the engine's judgment. -/
def execEngineSectorReport (op sector : Nat) (s : State) : Out :=
  match s.copies.find? (fun o => o.op == op) with
  | none => .next s
  | some o =>
    if !o.todo.contains sector || (o.gcm.isSome && o.data.isNone) || s.copyWaits o then .next s
    else
      let r := s.copySector o sector
      .next (r.2.copyDone o sector r.1)

/-- The faults of the ranges of a place, lowest first; none for scratchpad. -/
def placeFault (i : Iss) (s : State) (acc : Acc) (p : Place) (rows : List (Nat × Nat)) : Option TrapV :=
  match p with
  | .sp _ => none
  | .glob va =>
    (s.laneFault i.ctx acc (rows.map (fun r => (i.lane0, va.toNat + r.1, r.2)))).map (fun t => { t with access := 4 })

/-- The global ranges of a place, on behalf of the issuing path. -/
def placeRanges (i : Iss) (p : Place) (rows : List (Nat × Nat)) : List (Nat × Nat × Nat) :=
  match p with
  | .sp _ => []
  | .glob va => rows.map (fun r => (i.lane0, va.toNat + r.1, r.2))

/-- A word waits, with its warp stalled, while the ranges of a place come behind the warp's asynchronous operations
(10_ordering.md:R213, R225). -/
def inOrder (acc : Acc) (p : Place) (rows : List (Nat × Nat)) (k : Iss → State → Res) (i : Iss) (s : State) : Res :=
  if i.behind acc (placeRanges i p rows) s then i.stall none s else k i s

/-- Whether the ranges of a scratchpad place lie inside the allocation. -/
def placeInside (i : Iss) (p : Place) (rows : List (Nat × Nat)) : Bool :=
  match p with
  | .sp o => rows.all (fun r => i.inScratch (o + r.1) r.2)
  | .glob _ => true

/-- The sectors of the ranges of a place for the detector (10_ordering.md:R234). -/
def placeSectors (i : Iss) (s : State) (acc : Acc) (p : Place) (rows : List (Nat × Nat)) : List (Nat × Nat × Nat) :=
  let rs := rows.map (fun r => (i.lane0, p.base + r.1, r.2))
  match p with
  | .sp _ => i.detScratch rs
  | .glob _ => s.detSectors i.ctx acc rs

/-- Install the translations of a place and whether it has a home on this module. -/
def placeFill (i : Iss) (s : State) (acc : Acc) (p : Place) (rows : List (Nat × Nat)) : Bool × State :=
  match p with
  | .sp _ => (false, s)
  | .glob va => (rows.any (fun r => (s.linePieces i.ctx (va.toNat + r.1) r.2 acc).any (fun x => !x.1.sys)),
      rows.foldl (fun s r => s.fillRange i.ctx (va.toNat + r.1) r.2) s)

/-- Whether a scratchpad destination lies on the issuing core (10_ordering.md:R231). -/
def onOwnCore (i : Iss) (p : Place) (rows : List (Nat × Nat)) : Bool :=
  match p with
  | .glob _ => false
  | .sp o => rows.any (fun r => (spPieces i.scr (i.blk.cores.length + 1) (o + r.1) r.2).any (fun x =>
      (i.blk.cores[x.1]?).map BlockCore.core == some i.warp.core))

/-- The sector of a confidential copy's status word, a store of the issuing warp (17_prog_copyin.md:R318). -/
def statusSectors (i : Iss) (o : CopyOp) : List (Nat × Nat × Nat) :=
  match o.gcm with
  | some p => i.detScratch [(i.lane0, 16 * p.sto, 4)]
  | none => []

/-- START A COPY: its ranges are checked and translated, and its engine carries it (11_isa_memory.md:R247). -/
def startCopy (w : W) (o : CopyOp) (i : Iss) (s : State) : Res :=
  if !placeInside i o.to_ o.rows || !placeInside i o.from_ o.srcRows then i.illegal s
  else
    match placeFault i s .load o.from_ o.srcRows, placeFault i s .store o.to_ o.rows with
    | some t, none | none, some t => .trap s { t with mask := i.act }
    | some t, some u => .trap s { (if u.sub < t.sub then u else t) with mask := i.act }
    | none, none =>
      match i.detectAll [(0, placeSectors i s .load o.from_ o.srcRows),
          (1, placeSectors i s .store o.to_ o.rows ++ statusSectors i o)] s with
      | .error t => .trap s { t with mask := i.act }
      | .ok s =>
        let f := placeFill i s .load o.from_ o.srcRows
        let d := placeFill i f.2 .store o.to_ o.rows
        let kind := match o.to_ with | .glob _ => 2 | .sp _ => if onOwnCore i o.to_ o.rows then 1 else 0
        let g := d.2.startGroup i w kind (f.1 || d.1) o.sectors.length
        .done { g.2 with copies := g.2.copies ++ [{ o with op := g.1, todo := o.sectors }] }

/-- A place of a uniform operand: global or scratchpad. -/
def Iss.place (i : Iss) (w : W) (sp : Bool) (o : Opnd) : Place :=
  if sp then .sp (i.uni w 1 o) else .glob (BitVec.ofNat 64 (i.uni w 2 o))

/-- The copy that a `tcopy` word describes (11_isa_memory.md:R246, R250). -/
def tcopyOf (w : W) (i : Iss) : CopyOp :=
  let dir := bits w.mod 0 2
  let e := i.uni w 4 w.e
  { op := 0, src := i.r, ctx := i.ctx, core := i.warp.core
    from_ := i.place w (dir == 1 || dir == 3) w.a, to_ := i.place w (dir == 0 || dir == 3) w.d
    len := if w.mod.getLsbD 2 then 0 else i.uni w 1 w.b
    shape := if w.mod.getLsbD 2 then some (BitVec.ofNat 128 (i.uni w 4 w.b)) else none
    gcm := if w.mod.getLsbD 3 then some { ctr := BitVec.ofNat 64 (fld e 64 64), fix := BitVec.ofNat 32 (fld e 32 32)
                                          sto := fld e 16 16, ksl := fld e 0 4 } else none
    bar := i.optTb w, todo := [], gens := i.blk.cores.map BlockCore.gen, data := none, path := i.path.mask }

/-- The limits of a plain or confidential copy (11_isa_memory.md:R247; 17_prog_copyin.md:R317). -/
def copyOk (w : W) (i : Iss) (o : CopyOp) : Bool :=
  match o.shape, o.gcm with
  | some q, _ => shapeOk q
  | none, g =>
    decide (16 ≤ o.len ∧ o.len ≤ (if g.isSome then 2 ^ 20 else 2 ^ 24)) && o.len % 16 == 0 &&
      o.from_.base % 16 == 0 && o.to_.base % 16 == 0 &&
      (match g with
       | none => true
       | some p => i.inScratch (16 * p.sto) 4 && fld (i.uni w 4 w.e) 4 12 == 0)

/-- `tcopy` (11_isa_memory.md:R246 to R250). -/
def execTcopy (w : W) (s : State) : Out :=
  issueW .tcopy w (withCounter w (fun i s =>
    let o := tcopyOf w i
    if !copyOk w i o || !i.optTbOk w then i.illegal s else startCopy w o i s)) s

/-! ## Multicast -/

/-- The fields of a multicast quad are legal (11_isa_memory.md:R251). -/
def castOk (q : QWord) : Bool :=
  let len := bits q 64 32
  bits q 96 16 == 0 && bits q 16 16 == 0 && len % 16 == 0 && decide (16 ≤ len ∧ len ≤ 2 ^ 19) && bits q 32 32 % 16 == 0

/-- Whether the target rectangle lies inside the grid's rectangle on this module (11_isa_memory.md:R251). -/
def castInside (g : Grid) (q : QWord) : Bool :=
  decide (g.rx ≤ bits q 0 4 ∧ g.ry ≤ bits q 4 4 ∧ bits q 0 4 + bits q 8 4 ≤ g.rx + g.rec_.gngw ∧
    bits q 4 4 + bits q 12 4 ≤ g.ry + g.rec_.gngh)

/-- The cores of a rectangle, lowest row and then lowest column first. -/
def rectCores (x y wd ht : Nat) : List Nat :=
  (List.range ht).flatMap (fun j => (List.range wd).map (fun k => 12 * (y + j) + x + k))

/-- The allocation of a grid on a core that a multicast names: the sender's block where it lies on the core, otherwise
the grid's block of the lowest ticket there (DESIGN CHOICE, log 10). One whose generation a save has advanced is going away:
it is no target, and no sector carries its next generation (13_progress.md:R279; 18_recovery.md:R327). -/
def castTargetOf (i : Iss) (s : State) (q : QWord) (core : Nat) : CastTarget :=
  let here := s.blocks.filter (fun b => b.lsq == i.r.lsq && b.res == .resident && (b.coreAt core).any (fun c => c.old.isNone))
  let b := if (i.blk.coreAt core).isSome then some i.blk
    else here.foldl (fun o b => match o with
      | none => some b
      | some x => if b.tkt < x.tkt then some b else some x) none
  { core := core, alloc := b.map (fun b => (b.lsq, b.tkt))
    gen := match b with | some b => ((b.coreAt core).map BlockCore.gen).getD 0 | none => 0
    todo := List.range (sectorCount (bits q 32 32) (bits q 64 32)) }

/-- The sectors that a multicast writes on blocks of several cores, as the detector names them (10_ordering.md:R234). -/
def castSectors (i : Iss) (s : State) (q : QWord) (ts : List CastTarget) : List (Nat × Nat × Nat) :=
  ts.flatMap (fun t =>
    match t.alloc.bind (fun a => s.block? a.1 a.2) with
    | none => []
    | some b =>
      let k := (b.cores.takeWhile (fun c => c.core != t.core)).length
      { i with blk := b }.detScratch [(i.lane0, k * i.scr + bits q 32 32, bits q 64 32)])

/-- `mcast` (11_isa_memory.md:R251). -/
def execMcast (w : W) (s : State) : Out :=
  issueW .mcast w (withCounter w (fun i s =>
    let q := BitVec.ofNat 128 (i.uni w 4 w.a)
    let src := i.place w (w.mod == 0) w.b
    let rows := [(0, bits q 64 32)]
    if !castOk q || !castInside i.grid q || !i.optTbOk w || !placeInside i src rows then i.illegal s
    else
      match placeFault i s .load src rows with
      | some t => .trap s { t with mask := i.act }
      | none => inOrder .load src rows (fun i s =>
        let ts := (rectCores (bits q 0 4) (bits q 4 4) (bits q 8 4 + 1) (bits q 12 4 + 1)).map (castTargetOf i s q)
        match i.detectAll [(0, placeSectors i s .load src rows), (1, castSectors i s q ts)] s with
        | .error t => .trap s { t with mask := i.act }
        | .ok s =>
          let f := placeFill i s .load src rows
          let own := ts.any (fun t => t.core == i.warp.core)
          let g := f.2.startGroup i w (if own then 1 else 0) f.1 (ts.foldl (fun n t => n + t.todo.length) 0)
          .done { g.2 with casts := g.2.casts ++
            [{ op := g.1, src := i.r, ctx := i.ctx, from_ := src, dst := bits q 32 32, len := bits q 64 32
               bar := i.optTb w, rbar := if q.getLsbD 127 then some (16 * bits q 112 15) else none, targets := ts }] }) i s)) s

/-- The block and core position that a multicast target still names: same allocation, same generation, and the
range inside it (11_isa_memory.md:R252). -/
def State.castHit (s : State) (o : CastOp) (t : CastTarget) : Option (Block × Grid × Nat) :=
  match t.alloc with
  | none => none
  | some a =>
    match s.block? a.1 a.2, s.grid? a.1 with
    | some b, some g =>
      let k := (b.cores.takeWhile (fun c => c.core != t.core)).length
      if b.res = .resident ∧ (b.coreAt t.core).any (fun c => c.admits t.gen) ∧ o.dst + o.len ≤ g.rec_.scr then
        some (b, g, k)
      else none
    | _, _ => none

/-- A sector of a multicast is dealt with at a target: written, dropped, or, without data, failed; it counts down at the
sender's barrier, and at the receiver's where the target takes it (10_ordering.md:R229; 11_isa_memory.md:R251, R252). DESIGN CHOICE
(log 10): the receiver's barrier offset counts from the allocation of the target core, as the destination's does; one at or beyond the
end of that allocation names what the block has there, on its next core or nothing, which is then no armed barrier. -/
def State.castArrive (s : State) (o : CastOp) (t : CastTarget) (sector : Nat) (data : Option (List Byte × Bool)) : State :=
  let cut := fun t : CastTarget => { t with todo := t.todo.filter (· != sector) }
  let drop := fun o : CastOp => { o with targets := updIf (fun x => x.core == t.core) cut o.targets }
  let s := { s with casts := (updIf (fun x : CastOp => x.op == o.op) drop s.casts).filter (fun o : CastOp =>
    o.targets.any (fun t => t.todo != [])) }
  match s.castHit o t with
  | none => s.sectorDone o.src o.bar o.op { fate := .dropped, cpod := none, times := none }
  | some (b, g, k) =>
    let fate : SecFate := match data with | none => .failed | some d => if d.2 then .poisoned else .landed
    let s := match data with
      | none => s
      | some d => s.updBlock b.lsq b.tkt (fun b =>
          b.spWrite g.rec_.scr (k * g.rec_.scr + o.dst + (sectorPiece o.dst o.len sector).1) d.1 d.2)
    let s := s.report b.lsq b.tkt (o.rbar.map (· + k * g.rec_.scr)) 1 fate (some s.time)
    s.sectorDone o.src o.bar o.op { fate := fate, cpod := some s.time, times := none }

/-- MCAST_SECTOR_ARRIVAL: a sector reaches a target and is written or dropped (11_isa_memory.md:R252). -/
def execMcastSectorArrival (op core sector : Nat) (s : State) : Out :=
  match s.casts.find? (fun o => o.op == op) with
  | none => .next s
  | some o =>
    match o.targets.find? (fun t => t.core == core) with
    | none => .next s
    | some t =>
      if !t.todo.contains sector then .next s
      else
        let p := sectorPiece o.dst o.len sector
        let x := s.engineRead o.src o.ctx o.from_ p.1 p.2
        let data := if x.1.length < p.2 then none else some (x.1, x.2.1)
        .next (x.2.2.castArrive o t sector data)

/-- AN UNCORRECTABLE ERROR MEETS A SECTOR of a copy or a multicast: it is not written, and counts down with `ERR` set
(10_ordering.md:R229). -/
def State.sectorError (s : State) (op core sector : Nat) : State :=
  match s.copies.find? (fun o => o.op == op), s.casts.find? (fun o => o.op == op) with
  | some o, _ =>
    if !o.todo.contains sector || (o.gcm.isSome && o.data.isNone) then s
    else s.copyDone o sector { fate := .failed, cpod := some s.time, times := none }
  | none, some o => match o.targets.find? (fun t => t.core == core) with
    | some t => if t.todo.contains sector then s.castArrive o t sector none else s
    | none => s
  | none, none => s

/-! ## Cache control -/

/-- The line of a lane's address. -/
def Iss.lineOf (i : Iss) (w : W) (s : State) (l : Nat) : Option (Xlat × Nat) :=
  match s.translate i.ctx (i.src w 2 w.a l) .load with
  | .ok x => some (x, x.pa / 128)
  | .error _ => none

/-- Lock one line for a context; the answer (11_isa_memory.md:R256). A line of a host page has no home slice and is
not locked. -/
def State.lockLine (s : State) (ctx : Nat) (x : Xlat) : Bool × State :=
  let line := x.pa / 128
  let ls := s.mem.locks
  if x.sys then (false, s)
  else if ls.any (fun k => k.2 == line) then (true, s)
  else if 12 ≤ (ls.filter (fun k => setOf k.2 == setOf line)).length ∨
      bits (s.ctxDesc ctx) 96 32 ≤ (ls.filter (fun k => k.1 == ctx)).length then (false, s)
  else (true, { s with mem := { s.mem with locks := ls ++ [(ctx, line)] } })

/-- The address ranges that cache control translates. -/
def ctlRanges (w : W) (i : Iss) : List (Nat × Nat × Nat) := i.lanes.map (fun l => (l, i.src w 2 w.a l, 1))

/-- `lkl`: lanes in ascending order (11_isa_memory.md:R256). -/
def execLkl (w : W) (s : State) : Out :=
  issueW .lkl w (fun i s =>
    match s.laneFault i.ctx .load (ctlRanges w i) with
    | some t => .trap s t
    | none =>
      let r := i.lanes.foldl (fun (a : List Nat × State) l =>
        match i.lineOf w a.2 l with
        | some x => let k := a.2.lockLine i.ctx x.1; (if k.1 then a.1 ++ [l] else a.1, k.2)
        | none => a) ([], s)
      .done (r.2.updRef i.r (fun wp => wp.putP w.d i.lanes (fun l => r.1.contains l)))) s

/-- `ulk` (11_isa_memory.md:R256). -/
def execUlk (w : W) (s : State) : Out :=
  issueW .ulk w (fun i s =>
    match s.laneFault i.ctx .load (ctlRanges w i) with
    | some t => .trap s t
    | none =>
      let ls := i.lanes.filterMap (fun l => match i.lineOf w s l with
        | some x => if x.1.sys then none else some x.2
        | none => none)
      .done { s with mem := { s.mem with locks := s.mem.locks.filter (fun k => !(k.1 == i.ctx && ls.contains k.2)) } }) s

/-- `pref`: `.l1` fills the core's copy of a line that translates and is not poisoned; `.l2` changes nothing the
model keeps (11_isa_memory.md:R255). -/
def execPref (w : W) (s : State) : Out :=
  issueW .pref w (fun i s =>
    if w.mod = 0 then .done s
    else .done (i.lanes.foldl (fun s l =>
      match i.lineOf w s l with
      | some x =>
        if !x.1.cached || (sectorsOf (128 * x.2) 128).any (fun k => s.mem.poisoned false (32 * k)) ||
            s.mem.l1.any (fun c => c.core == i.warp.core && c.line == x.2 && c.usable s.time) then s
        else (s.fillTlb i.ctx (i.src w 2 w.a l)).fillLine i.warp.core i.ctx x.1
      | none => s) s)) s

end Sys2Proof.Machine
end

