-- ==== Sys2Proof/Machine/Crypto.lean ====
section
/-! DEFINITION. The two published functions that the device computes: SHA3-256 of FIPS 202 for the replica's digest
(19_quadrille.md:R348), and AES-256-GCM of NIST SP 800-38D for confidential copies (17_prog_copyin.md:R316). -/

namespace Sys2Proof.Machine

/-! ## SHA3-256 -/

/-- The rotation of lane (x, y), at index 5 × y + x. -/
def keccakRot : List Nat :=
  [0, 1, 62, 28, 27, 36, 44, 6, 55, 20, 3, 10, 43, 25, 39, 41, 45, 15, 21, 8, 18, 2, 61, 56, 14]

/-- The round constants. -/
def keccakRC : List (BitVec 64) :=
  [0x0000000000000001, 0x0000000000008082, 0x800000000000808A, 0x8000000080008000, 0x000000000000808B,
   0x0000000080000001, 0x8000000080008081, 0x8000000000008009, 0x000000000000008A, 0x0000000000000088,
   0x0000000080008009, 0x000000008000000A] ++
  [0x000000008000808B, 0x800000000000008B, 0x8000000000008089, 0x8000000000008003, 0x8000000000008002,
   0x8000000000000080, 0x000000000000800A, 0x800000008000000A, 0x8000000080008081, 0x8000000000008080,
   0x0000000080000001, 0x8000000080008008]

/-- Lane (x, y) of a state of 25 lanes, both coordinates modulo 5. -/
def keccakLane (a : List (BitVec 64)) (x y : Nat) : BitVec 64 := nth a (5 * (y % 5) + x % 5) 0

/-- A state from its lanes. -/
def keccakOf (f : Nat → Nat → BitVec 64) : List (BitVec 64) := (List.range 25).map (fun i => f (i % 5) (i / 5))

/-- One round of Keccak-f[1600]. -/
def keccakRound (a : List (BitVec 64)) (rc : BitVec 64) : List (BitVec 64) :=
  let c := (List.range 5).map (fun x => (List.range 5).foldl (fun v y => v ^^^ keccakLane a x y) 0)
  let d := (List.range 5).map (fun x => nth c ((x + 4) % 5) 0 ^^^ (nth c ((x + 1) % 5) 0).rotateLeft 1)
  let t := keccakOf (fun x y => keccakLane a x y ^^^ nth d x 0)
  let b := keccakOf (fun x y => (keccakLane t (x + 3 * y) x).rotateLeft (nth keccakRot (5 * x + (x + 3 * y) % 5) 0))
  keccakOf (fun x y =>
    let v := keccakLane b x y ^^^ (~~~(keccakLane b (x + 1) y) &&& keccakLane b (x + 2) y)
    if x = 0 ∧ y = 0 then v ^^^ rc else v)

/-- Keccak-f[1600]. -/
def keccakF (a : List (BitVec 64)) : List (BitVec 64) := keccakRC.foldl keccakRound a

/-- Absorb blocks of 136 bytes. -/
def keccakAbsorb : Nat → List (BitVec 64) → List Byte → List (BitVec 64)
  | 0, a, _ => a
  | f + 1, a, l =>
    if l.length = 0 then a
    else
      let a := (List.range 25).map (fun i =>
        nth a i 0 ^^^ (if i < 17 then BitVec.ofNat 64 (leNat ((l.drop (8 * i)).take 8)) else 0))
      keccakAbsorb f (keccakF a) (l.drop 136)

/-- The padding of SHA-3 to whole blocks of 136 bytes. -/
def sha3Pad (l : List Byte) : List Byte :=
  let q := 136 - l.length % 136
  if q = 1 then l ++ [0x86] else l ++ [0x06] ++ List.replicate (q - 2) 0 ++ [0x80]

/-- SHA3-256: 32 bytes, byte 0 in the low bits. -/
def sha3 (l : List Byte) : BitVec 256 :=
  let p := sha3Pad l
  let a := keccakAbsorb (p.length / 136 + 1) (List.replicate 25 0) p
  (List.range 4).foldl (fun v i => v ||| ((nth a i 0).zeroExtend 256 <<< (64 * i))) 0

/-! ## AES-256 -/

/-- Multiply by x in the field of AES. -/
def aesX (a : Byte) : Byte := (a <<< 1) ^^^ (if a.getLsbD 7 then 0x1B else 0)

/-- Multiply in the field of AES. -/
def aesMul (a b : Byte) : Byte :=
  ((List.range 8).foldl (fun (r : Byte × Byte) i => (if b.getLsbD i then r.1 ^^^ r.2 else r.1, aesX r.2)) (0, a)).1

/-- The inverse in the field of AES, 0 for 0: the 254th power. -/
def aesInv (a : Byte) : Byte :=
  ((List.range 7).foldl (fun (r : Byte × Byte) _ => let q := aesMul r.2 r.2; (aesMul r.1 q, q)) (1, a)).1

/-- The S-box. -/
def aesSub (a : Byte) : Byte :=
  let b := aesInv a
  b ^^^ b.rotateLeft 1 ^^^ b.rotateLeft 2 ^^^ b.rotateLeft 3 ^^^ b.rotateLeft 4 ^^^ 0x63

/-- Exclusive-or of byte lists. -/
def xorBytes (a b : List Byte) : List Byte := List.zipWith (· ^^^ ·) a b

/-- The words of the key schedule, each of four bytes, newest first. -/
def aesSchedule : Nat → List (List Byte) → List (List Byte)
  | 0, ws => ws
  | n + 1, ws =>
    let i := ws.length
    let t := nth ws 0 []
    let rcon := (List.range (i / 8 - 1)).foldl (fun r _ => aesX r) (1 : Byte)
    let t := if i % 8 = 0 then xorBytes ((t.drop 1 ++ t.take 1).map aesSub) [rcon, 0, 0, 0]
      else if i % 8 = 4 then t.map aesSub else t
    aesSchedule n (xorBytes (nth ws 7 []) t :: ws)

/-- The 15 round keys of a 256-bit key, byte 0 first. -/
def aesKeys (key : List Byte) : List (List Byte) :=
  let ws := (aesSchedule 52 ((List.range 8).map (fun i => (key.drop (4 * i)).take 4)).reverse).reverse
  (List.range 15).map (fun r => ((ws.drop (4 * r)).take 4).flatten)

/-- Substitute and shift rows: byte i of column i / 4 comes from the column to the right by its row. -/
def aesSubShift (st : List Byte) : List Byte :=
  (List.range 16).map (fun i => aesSub (nth st ((i + 4 * (i % 4)) % 16) 0))

/-- Mix the columns. -/
def aesMix (st : List Byte) : List Byte :=
  (List.range 16).map (fun i =>
    let at_ := fun k => nth st (4 * (i / 4) + (i + k) % 4) 0
    aesX (at_ 0) ^^^ (aesX (at_ 1) ^^^ at_ 1) ^^^ at_ 2 ^^^ at_ 3)

/-- Encrypt a block under round keys. -/
def aesBlock (ks : List (List Byte)) (st : List Byte) : List Byte :=
  let st := xorBytes st (nth ks 0 [])
  let st := (List.range 13).foldl (fun st r => xorBytes (aesMix (aesSubShift st)) (nth ks (r + 1) [])) st
  xorBytes (aesSubShift st) (nth ks 14 [])

/-! ## GCM -/

/-- A number from bytes, most significant first. -/
def beNat (l : List Byte) : Nat := l.foldl (fun n b => 256 * n + b.toNat) 0

/-- The bytes of a number, most significant first. -/
def beBytes (n v : Nat) : List Byte := (leBytes n v).reverse

/-- Multiply in the field of GCM. -/
def gcmMul (x y : BitVec 128) : BitVec 128 :=
  ((List.range 128).foldl (fun (r : BitVec 128 × BitVec 128) i =>
    (if x.getLsbD (127 - i) then r.1 ^^^ r.2 else r.1,
     (r.2 >>> 1) ^^^ (if r.2.getLsbD 0 then (0xE1 : BitVec 128) <<< 120 else 0))) (0, y)).1

/-- GHASH of whole blocks. -/
def ghash (h : BitVec 128) : Nat → BitVec 128 → List Byte → BitVec 128
  | 0, y, _ => y
  | n + 1, y, l => ghash h n (gcmMul (y ^^^ BitVec.ofNat 128 (beNat (l.take 16))) h) (l.drop 16)

/-- The key stream of `n` blocks from counter `c`. -/
def gcmStream (ks : List (List Byte)) (iv : List Byte) (n c : Nat) : List Byte :=
  (List.range n).flatMap (fun i => aesBlock ks (iv ++ beBytes 4 ((c + i) % 2 ^ 32)))

/-- Open a sealed message with no additional data: the plaintext when the tag verifies. The length of the ciphertext is
a multiple of 16 (17_prog_copyin.md:R316, R317). -/
def gcmOpen (key iv ct tag : List Byte) : Option (List Byte) :=
  let ks := aesKeys key
  let h := BitVec.ofNat 128 (beNat (aesBlock ks (List.replicate 16 0)))
  let n := ct.length / 16
  let g := ghash h (n + 1) 0 (ct ++ beBytes 8 0 ++ beBytes 8 (8 * ct.length))
  let t := xorBytes (beBytes 16 g.toNat) (aesBlock ks (iv ++ [0, 0, 0, 1]))
  if t = tag then some (xorBytes ct (gcmStream ks iv n 2)) else none

end Sys2Proof.Machine
end

