-- ==== Sys2Proof/Machine/Engine.lean ====
section
/-! DEFINITION. The judgment of confidential copies by the security engine (11_isa_memory.md:R250; 16_isolation.md:R313,
R314; 17_prog_copyin.md:R316, R318). -/

namespace Sys2Proof.Machine

/-- The row of 11_isa_memory.md:R250 that a copy meets: its status, the slot's mark afterwards, the plaintext. -/
def gcmRow (k : KeySlot) (ctx : Nat) (p : GcmPar) (len : Nat) (src : List Byte) (poison : Bool) :
    Nat × DWord × Option (List Byte) :=
  if !k.bound || k.ctx != ctx || !k.holds then (3, k.mark, none)
  else if p.ctr.toNat ≤ k.mark.toNat then (2, k.mark, none)
  else
    match (if poison || decide (src.length < len + 16) then none
      else gcmOpen (leBytes 32 k.key.toNat) (beBytes 4 p.fix.toNat ++ beBytes 8 p.ctr.toNat) (src.take len)
        (src.drop len)) with
    | none => (1, p.ctr, none)
    | some d => (0, p.ctr, some d)

/-- Whether a confidential copy is the first of its path that the engine has not judged: none that the warp issued before it, from a
path with a lane in common, is still to be judged (11_isa_memory.md:R250). -/
def State.gcmFirst (s : State) (o : CopyOp) : Bool :=
  !s.copies.any (fun x => x.gcm.isSome && x.data.isNone && x.src.sameWarp o.src && (x.path &&& o.path) != 0 && decide (x.op < o.op))

/-- GCM_ENGINE_JUDGE: a confidential copy reaches the engine, which compares and raises the mark in one step and writes
the status word. A refused copy counts every sector down with ERR, and `LCT` stays (11_isa_memory.md:R250,
17_prog_copyin.md:R318); an accepted one commits its sectors afterwards. A poisoned source is status 1
(18_recovery.md:R324). -/
def execGcmEngineJudge (op : Nat) (s : State) : Out :=
  match s.copies.find? (fun o => o.op == op) with
  | none => .next s
  | some o =>
    match o.gcm with
    | none => .next s
    | some p =>
      if o.data.isSome || !s.gcmFirst o then .next s
      else
        let k := nth s.sec.slots p.ksl { key := 0, holds := false, bound := false, ctx := 0, mark := 0 }
        let x := s.engineRead o.src o.ctx o.from_ 0 (o.len + 16)
        let row := gcmRow k o.ctx p o.len x.1 x.2.1
        let t := x.2.2
        let t := { t with sec := { t.sec with slots := updAt t.sec.slots p.ksl (fun k => { k with mark := row.2.1 }) } }
        let t := (t.engineScratch o.src.lsq o.src.tkt o.gens (16 * p.sto) (leBytes 4 row.1) false).2
        match row.2.2 with
        | some d =>
          let f := fun o : CopyOp => { o with data := some d }
          .next { t with copies := updIf (fun o : CopyOp => o.op == op) f t.copies }
        | none =>
          let t := { t with copies := t.copies.filter (fun o => o.op != op) }
          .next (o.todo.foldl (fun t _ => t.sectorDone o.src o.bar op { fate := .failed, cpod := none, times := none }) t)

end Sys2Proof.Machine
end

