-- ==== Sys2Proof/Machine/Remote.lean ====
section
/-! DEFINITION. Remote operations (10_ordering.md:R232, R233; 11_isa_memory.md:R257, R258; 16_isolation.md:R306,
R307; 18_recovery.md:R331), `waitw` (11_isa_memory.md:R259), and the events by which accesses are performed,
replied to and translated. -/

namespace Sys2Proof.Machine

/-! ## Issuing remote operations -/

/-- The module and the offset of a pod-global address; none for any other address (11_isa_memory.md:R237). -/
def podAddr (a : Nat) : Option (Nat × Nat) :=
  if a / 2 ^ 56 = 1 then some (fld a 50 6, fld a 0 50) else none

/-- A pod-global address. -/
def podGlobal (target off : Nat) : DWord := BitVec.ofNat 64 (2 ^ 56 + target * 2 ^ 50 + off)

/-- What the detector keeps of a remote operation of a deterministic grid, by the kind of its access
(10_ordering.md:R234, R235). -/
def Iss.detTag (i : Iss) (kind : Nat) : Option DetTag :=
  if i.grid.rec_.det && !i.r.handler then
    some { qix := i.grid.qix, dps := i.grid.dps, lsq := i.r.lsq
           acc := { gngi := i.grid.gngi, sector := 0, tkt := i.blk.tkt, wrp := i.r.wrp, interval := i.blk.interval, kind := kind } }
  else none

/-- A remote operation of the issuing path; `det` is the kind of its access. -/
def Iss.remote (i : Iss) (target off : Nat) (kind : RemoteKind) (ordered : Bool) (det : Nat) : RemoteOp :=
  { op := 0, grp := 0, src := i.r, ctx := i.ctx, target := target, off := BitVec.ofNat 64 off, kind := kind
    ordered := ordered, after := [], seq := 0, sent := 0, resends := 0, answer := none, det := i.detTag det
    path := i.path.mask, act := i.act, hdr := i.path.hdr, word := i.path.word, lane := i.lane0, dst := none, to_ := none
    len := 0, bar := none, nf := false, gens := i.blk.cores.map BlockCore.gen, result := none }

/-- Send remote operations as one operation group (11_isa_memory.md:R258). `kind` is the `drain` path, `chip` whether
a home of this module is concerned (10_ordering.md:R221). -/
def State.issueRemote (s : State) (i : Iss) (w : W) (kind : Nat) (chip : Bool) (left : Nat) (os : List RemoteOp) :
    Nat × State :=
  let g := s.startGroup i w kind (chip || os.any (fun o => o.target == s.modn)) left
  (g.1, os.foldl (fun s o => s.sendRemote { o with grp := g.1 }) g.2)

/-- The path stays at its word until the replies of its remote operation have come, and its warp's younger words wait
(03_encoding.md:R86). -/
def Iss.awaitRemote (i : Iss) (x : Nat × State) : Res :=
  .stay (x.2.updRef i.r (fun wp =>
    let wp := wp.parkAt i.r.lane (.remote x.1)
    { wp with busy := wp.busy ++ [x.1] }))

/-- A remote operation has been sent: in a deterministic grid it may still trap, until the target's detector accepts it
(10_ordering.md:R236). -/
def Iss.sent (i : Iss) (x : Nat × State) : Res := if i.grid.rec_.det then i.awaitRemote x else .done x.2

/-- The limits of the bytes that `rput` and `rget` move (11_isa_memory.md:R257). -/
def remoteLenOk (n base : Nat) : Bool := decide (16 ≤ n ∧ n ≤ 2 ^ 24) && n % 16 == 0 && base % 16 == 0

/-- Whether an operation is an atomic. -/
def RemoteOp.isAtom (o : RemoteOp) : Bool :=
  match o.kind with
  | .atom _ _ _ _ _ => true
  | _ => false

/-- Whether an operation is a float atomic. -/
def RemoteOp.isFloat (o : RemoteOp) : Bool :=
  match o.kind with
  | .atom _ ty _ _ _ => ty == 1
  | _ => false

/-- Whether a remote operation comes behind one of its warp that a deterministic grid holds back, and is held back with it
(10_ordering.md:R224, R232). A float atomic applies at the end of the interval whatever else touches its location. -/
def Iss.behindHeld (i : Iss) (o : RemoteOp) : Bool :=
  i.grid.detAtoms.any (fun a => a.tkt == i.blk.tkt && a.wrp == i.r.wrp && a.rop.any (fun x =>
    o.follows (if x.isFloat then { x with kind := .get 0 } else x)))

/-- Remote operations of a word are held back to the end of the barrier interval (10_ordering.md:R224). -/
def State.holdBack (s : State) (i : Iss) (w : W) (kind : Nat) (chip : Bool) (left : Nat) (os : List RemoteOp) : Nat × State :=
  let g := s.startGroup i w kind (chip || os.any (fun o => o.target == s.modn)) left
  (g.1, g.2.updGrid i.r.lsq (fun gr => { gr with detAtoms := gr.detAtoms ++ os.map (fun o =>
    { i.detAtom w g.1 o.lane (podGlobal o.target o.off.toNat).toNat false 0 (some { o with grp := g.1 }) with
      nf := o.nf || !o.isAtom }) }))

/-- The targets' detectors are asked about a word's accesses, each a target, a lane, an offset and a length: one probe for each target
(10_ordering.md:R236). -/
def State.askDetectors (s : State) (i : Iss) (kind : Nat) (rs : List (Nat × Nat × Nat × Nat)) : Nat × State :=
  let n := s.newId
  (n.1, (rs.map Prod.fst).eraseDups.foldl (fun s m =>
    s.sendRemote { i.remote m 0 (.probe ((rs.filter (fun x => x.1 == m)).map Prod.snd)) false kind with grp := n.1 }) n.2)

/-- Whether the targets' detectors have still to accept a word of a deterministic grid (10_ordering.md:R236). -/
def Iss.unasked (i : Iss) : Bool :=
  (i.detTag 0).isSome && (match i.path.park with | .released _ _ => false | _ => true)

/-- THE REMOTE OPERATION OF A WORD GOES: it is sent, or, behind one that a deterministic grid holds back, held back too once its
target's detector has accepted it (10_ordering.md:R224, R232, R236). `det` is the kind of its access. -/
def Iss.goRemote (i : Iss) (w : W) (kind : Nat) (chip : Bool) (left det : Nat) (o : RemoteOp) (s : State) : Res :=
  if !i.behindHeld o then i.sent (s.issueRemote i w kind chip left [o])
  else if i.unasked then i.awaitRemote (s.askDetectors i det (i.lanes.map (fun l => (o.target, l, o.off.toNat, remoteSize o.kind))))
  else .done (s.holdBack i w kind chip left [{ o with det := none }]).2

/-- `rput`: the source is read as the operation issues (11_isa_memory.md:R257, R258; 10_ordering.md:R226). -/
def execRput (w : W) (s : State) : Out :=
  issueW .rput w (withCounter w (fun i s =>
    let n := i.uni w 1 w.b
    let src := i.place w (!w.mod.getLsbD 1) w.a
    match podAddr (i.uni w 2 w.d) with
    | none => i.illegal s
    | some (m, off) =>
      if !remoteLenOk n src.base || !i.optTbOk w || !placeInside i src [(0, n)] then i.illegal s
      else
        match placeFault i s .load src [(0, n)] with
        | some t => .trap s { t with mask := i.act }
        | none => inOrder .load src [(0, n)] (fun i s =>
          match i.detect 0 (placeSectors i s .load src [(0, n)]) s with
          | .error t => .trap s { t with mask := i.act }
          | .ok s =>
            let f := placeFill i s .load src [(0, n)]
            let x := f.2.engineRead i.r i.ctx src 0 n
            let bad := (List.range (sectorCount off n)).filter (fun k =>
              let p := sectorPiece off n k
              (f.2.engineRead i.r i.ctx src p.1 p.2).2.1)
            let o := { i.remote m off (.put x.1 bad) (!w.mod.getLsbD 0) 1 with len := n, bar := i.optTb w }
            i.goRemote w 3 f.1 1 1 o x.2.2) i s)) s

/-- `rget` (11_isa_memory.md:R257, R258). -/
def execRget (w : W) (s : State) : Out :=
  issueW .rget w (withCounter w (fun i s =>
    let n := i.uni w 1 w.b
    let dst := i.place w (!w.mod.getLsbD 1) w.d
    match podAddr (i.uni w 2 w.a) with
    | none => i.illegal s
    | some (m, off) =>
      if !remoteLenOk n dst.base || !i.optTbOk w || !placeInside i dst [(0, n)] then i.illegal s
      else
        match placeFault i s .store dst [(0, n)] with
        | some t => .trap s { t with mask := i.act }
        | none => inOrder .store dst [(0, n)] (fun i s =>
          match i.detect 1 (placeSectors i s .store dst [(0, n)]) s with
          | .error t => .trap s { t with mask := i.act }
          | .ok s =>
            let f := placeFill i s .store dst [(0, n)]
            let kind := match dst with | .glob _ => 2 | .sp _ => if onOwnCore i dst [(0, n)] then 1 else 0
            let o := { i.remote m off (.get n) (!w.mod.getLsbD 0) 0 with len := n, bar := i.optTb w, to_ := some dst }
            i.goRemote w kind f.1 (sectorCount dst.base n) 0 o f.2) i s)) s

/-- A float `ratom` of a deterministic grid is held back to the end of its barrier interval (10_ordering.md:R224). -/
def deferRatom (w : W) (i : Iss) (os : List RemoteOp) (s : State) : State :=
  (s.holdBack i w 3 false os.length (os.map (fun o => { o with dst := none }))).2

/-- `ratom`: one operation for each lane; the path stays at the word until its results land, since a poisoned sector
traps there (11_isa_memory.md:R239, R258; 03_encoding.md:R86). In a deterministic grid the targets' detectors accept all its lanes
before any is performed (10_ordering.md:R236); one behind an operation that is held back is held back too, and stays at its word
where it returns a value (R224, R232). -/
def execRatom (w : W) (s : State) : Out :=
  issueW .ratom w (withCounter w (fun i s =>
    let n := atomBytes (atomTy w)
    let at_ := fun l => podAddr (i.src w 2 w.a l)
    if i.lanes.any (fun l => match at_ l with | some x => x.2 % n != 0 | none => true) ||
        (i.grid.rec_.det && atomTy w == 1 && atomRet w) then i.illegal s
    else
      let os := i.lanes.filterMap (fun l => (at_ l).map (fun x =>
        { i.remote x.1 x.2 (.atom (atomOp w) (atomTy w) w.sat (BitVec.ofNat 64 (atomArgs w i l).1)
            (BitVec.ofNat 64 (atomArgs w i l).2)) (!w.mod.getLsbD 4) (atomKind w) with
          lane := l, dst := some w.d, nf := w.nf, det := none }))
      if i.unasked then i.awaitRemote (s.askDetectors i (atomKind w) (os.map (fun o => (o.target, o.lane, o.off.toNat, n))))
      else if i.grid.rec_.det && (atomTy w == 1 || (!atomRet w && os.any i.behindHeld)) then .done (deferRatom w i os s)
      else if os.any i.behindHeld then i.awaitRemote (s.holdBack i w 3 false os.length os)
      else i.awaitRemote (s.issueRemote i w 3 false os.length os))) s

/-- `rflag` and `rwake` (11_isa_memory.md:R257, R258). -/
def remoteWord (kind : Iss → RemoteKind) (ordered : Bool) (det : Nat) (w : W) : Iss → State → Res :=
  withCounter w (fun i s =>
    match podAddr (i.uni w 2 w.a) with
    | none => i.illegal s
    | some (m, off) =>
      if off % 8 ≠ 0 then i.illegal s
      else i.goRemote w 3 false 1 det (i.remote m off (kind i) ordered det) s)

/-- `rflag` (11_isa_memory.md:R258). -/
def execRflag (w : W) (s : State) : Out :=
  issueW .rflag w (remoteWord (fun i => .flag (BitVec.ofNat 64 (i.uni w 2 w.b))) true 1 w) s

/-- `rwake`: to the detector its add is a non-returning integer atomic (11_isa_memory.md:R258; DESIGN CHOICE, log 55). -/
def execRwake (w : W) (s : State) : Out :=
  issueW .rwake w (remoteWord (fun i => .wake (BitVec.ofNat 64 (i.uni w 1 w.b))) false 2 w) s

/-! ## `waitw` -/

/-- A word of memory has been observed at its home: the core's own copy of its line goes, since no later load of the warp returns
an older value (10_ordering.md:R213). -/
def State.observed (s : State) (i : Iss) (a : Nat) : State :=
  match s.translate i.ctx a .load with
  | .error _ => s
  | .ok x => s.forgetLines i.warp.core x.sys x.pa 8

/-- `waitw`: the condition is evaluated at the word's home; a deadline already passed gives one evaluation
(11_isa_memory.md:R259). DESIGN CHOICE (log 60): an address that is no multiple of 8 raises the illegal-operand trap, and a word in
a poisoned sector is evaluated by its bytes. -/
def execWaitw (w : W) (s : State) : Out :=
  issueW .waitw w (fun i s =>
    let a := i.uni w 2 w.a
    let cmp := BitVec.ofNat 64 (i.uni w 2 w.b)
    let dl : Option DWord := if w.c = .none then none else some (BitVec.ofNat 64 (i.uni w 2 w.c))
    let go := fun (s : State) (b : Bool) => Res.done ((s.observed i a).updRef i.r (fun wp => wp.putP w.d i.lanes (fun _ => b)))
    match i.path.park with
    | .released ok _ => go s ok
    | _ =>
      if a % 8 ≠ 0 then i.illegal s
      else
        match s.laneFault i.ctx .load [(i.lane0, a, 8)], s.translate i.ctx a .load with
        | some t, _ => .trap s { t with mask := i.act }
        | none, .error _ => .stay s
        | none, .ok x =>
          if i.behind .load [(i.lane0, a, 8)] s then i.stall none s
          else match i.detect 0 (s.detSectors i.ctx .load [(i.lane0, a, 8)]) s with
          | .error t => .trap s { t with mask := i.act }
          | .ok s =>
          let s := ((s.fillTlb i.ctx a).flushOwn i.r x 8).noteSys x.sys x.pa
          if waitwHolds (bits w.mod 0 2) (BitVec.ofNat 64 (s.mem.nat x.sys x.pa 8)) cmp then go s true
          else if (match dl with | some d => decide (d.toNat < s.time.toNat) | none => false) then go s false
          else .stay (s.updRef i.r (fun wp =>
            wp.parkAt i.r.lane (.waitw x.sys x.pa (bits w.mod 0 2) cmp dl)))) s

/-- The path that a reference names, unless its warp is held or has trapped: a condition is judged afresh when the warp resumes
(20_isa_system.md:R361). -/
def State.awakeAt (s : State) (r : Ref) : Option Path :=
  match (s.block? r.lsq r.tkt).bind (fun b => b.refWarp? r) with
  | some w => if w.stopped then none else w.path? r.lane
  | none => none

/-- WAITW_DEADLINE: TIME has passed the deadline of a parked `waitw`, which evaluates and goes on
(11_isa_memory.md:R259). -/
def execWaitwDeadline (r : Ref) (s : State) : Out :=
  match (s.awakeAt r).map Path.park with
  | some (.waitw sys pa cond cmp (some d)) =>
    if d.toNat < s.time.toNat then
      let ok := waitwHolds cond (BitVec.ofNat 64 (s.mem.nat sys pa 8)) cmp
      .next ((s.noteSys sys pa).updRef r (fun w => w.parkAt r.lane (.released ok 0)))
    else .next s
  | _ => .next s

/-! ## Homes and replies -/

/-- HOME_PERFORMS_ACCESS: a pending store is performed at its home, which replies. The stores of one word are
performed in ascending lane order (10_ordering.md:R213, R218; 11_isa_memory.md:R239). -/
def execHomePerformsAccess (op : Nat) (s : State) : Out :=
  match s.homeOps.find? (fun h => h.id == op) with
  | none => .next s
  | some h =>
    match s.homeOps.find? (fun k => k.op == h.op) with
    | some k => if k.id = h.id then .next (s.performHome h) else .next s
    | none => .next s

/-- A remote operation has failed: the failure is posted on the sender's event ring (18_recovery.md:R330 type 4). -/
def State.remoteFailed (s : State) (o : RemoteOp) (code : Nat) : State :=
  s.postEvent o.ctx 4 code (podGlobal o.target o.off.toNat) 0 o.src.lsq o.src.tkt o.src.wrp o.target

/-- What is left of the word of a remote operation that traps is dropped: its counter falls, and its warp goes on to the
trap. -/
def State.dropRemote (s : State) (o : RemoteOp) : State :=
  let free := fun w : Warp => { w with busy := w.busy.filter (· != o.grp) }
  ({ s with rops := s.rops.filter (fun x => x.grp != o.grp) }.cutGroup o.grp).updRef o.src free

/-- A remote operation traps at the place of its word. -/
def State.trapRemote (s : State) (o : RemoteOp) (t : TrapV) : State :=
  let run := fun p : Path => if p.park = .remote o.grp then { p with park := .run } else p
  ((s.dropRemote o).trapLate o.src t o.path o.hdr o.word).updRef o.src (fun w => { w with paths := w.paths.map run })

/-- The determinism-conflict trap that the target's detector asks for: the sector's address as the warp names it, and the
other access (10_ordering.md:R234). -/
def RemoteOp.conflict (o : RemoteOp) (h : Nat × DetAcc) : TrapV :=
  { cause := 8
    mask := match o.kind with
      | .atom _ _ _ _ _ => maskOf [o.lane]
      | .probe rs => maskOf ((rs.filter (fun x => decide (x.2.1 < h.1 + 32 ∧ h.1 < x.2.1 + x.2.2))).map Prod.fst)
      | _ => o.act
    addr := podGlobal o.target h.1, other := h.2.wrp, otherTkt := h.2.tkt, otherGngi := h.2.gngi }

/-- A word that stayed for its replies is over when the last of them has come (10_ordering.md:R236). -/
def State.freeRemote (s : State) (o : RemoteOp) : State :=
  if s.rops.any (fun x => x.grp == o.grp) then s
  else s.updRef o.src (fun w =>
    if (w.path? o.src.lane).any (fun p => p.park == .remote o.grp) then
      { w with busy := w.busy.filter (· != o.grp) }.advance o.src.lane
    else w)

/-- The last probe of an atomic word has been accepted: its path issues the word (10_ordering.md:R236). -/
def State.passProbe (s : State) (o : RemoteOp) : State :=
  let s := { s with rops := s.rops.filter (fun x => x.op != o.op) }
  if s.rops.any (fun x => x.grp == o.grp) then s
  else s.updRef o.src (fun w =>
    if (w.path? o.src.lane).any (fun p => p.park == .remote o.grp) then
      { w with busy := w.busy.filter (· != o.grp) }.parkAt o.src.lane (.released true 0)
    else w)

/-- The payload of an `rget` brings a marked sector (22_attach.md:R381); one that goes to scratchpad has no physical address, and
the log holds a free value (DESIGN CHOICE, log 59). -/
def State.logGet (s : State) (ctx : Nat) (to_ : Place) (off : Nat) : State :=
  match to_ with
  | .sp _ => { s with fresh := s.fresh + 1 }.logFabric (Config.scratchSector s.fresh)
  | .glob va => match s.translate ctx (va.toNat + off) .store with
    | .error _ => s
    | .ok x => s.logFabric x.pa

/-- One destination sector of an `rget` lands (11_isa_memory.md:R258), poisoned when a sector it was read from is
(18_recovery.md:R323). -/
def State.getSector (s : State) (o : RemoteOp) (to_ : Place) (r : RemoteReply) (k : Nat) : State :=
  let p := sectorPiece to_.base o.len k
  let d := (r.data.drop p.1).take p.2
  let mark := (sectorsOf (o.off.toNat + p.1) p.2).any (fun q => r.poison.contains (q - o.off.toNat / 32))
  let s := if mark then s.logGet o.ctx to_ p.1 else s
  let x := match to_ with
    | .sp t => s.engineScratch o.src.lsq o.src.tkt o.gens (t + p.1) d mark
    | .glob va => s.engineStore o.src o.ctx ((s.groupCore o.grp).getD 0) (va.toNat + p.1) d mark
  x.2.sectorDone o.src o.bar o.grp x.1

/-- The flags a lane of a remote atomic raises when its reply arrives (11_isa_memory.md:R244). -/
def remoteFlags (o : RemoteOp) (old : Nat) : Flags :=
  match o.kind with
  | .atom op ty sat b c => unlessNF o.nf (atomNew op ty sat old b.toNat c.toNat).2
  | _ => 0

/-- Whether an operation asks a detector (10_ordering.md:R236). -/
def RemoteOp.isProbe (o : RemoteOp) : Bool :=
  match o.kind with
  | .probe _ => true
  | _ => false

/-- A remote operation that was performed or has failed: its completion times are folded in, its sectors count down, and its
group's counter falls; a failure completes at the time of its report (10_ordering.md:R232, R233; 11_isa_memory.md:R258). A store or
atomic at a home of this module returns Cchip, which is the Cpod less its 40 ns (R218). A
deferred atomic that met poison traps, and one that was not performed behind such a lane returns nothing (R239). A probe that its
target cannot judge is accepted, and the operation itself then fails (DESIGN CHOICE, log 55). -/
def State.remoteOutcome (s : State) (o : RemoteOp) (r : RemoteReply) : State :=
  let gone := fun s : State => { s with rops := s.rops.filter (fun x => x.op != o.op) }
  let hold := fun (s : State) (v : DWord) (p : Bool) =>
    let f := fun x : RemoteOp => { x with result := some (v, p) }
    { s with rops := updIf (fun x : RemoteOp => x.op == o.op) f s.rops }
  let hold := fun (s : State) (v : DWord) (p : Bool) => if o.dst.isSome then hold s v p else gone s
  let here := o.target == s.modn
  if o.isProbe then s.passProbe o
  else if !r.ok then
    let s := s.remoteFailed o r.code
    match o.kind, o.to_ with
    | .put _ _, _ =>
      let s := (gone s).report o.src.lsq o.src.tkt o.bar (sectorCount o.off.toNat o.len) .failed (some s.time)
      (s.groupReply o.grp false 0 s.time s.time).freeRemote o
    | .get _, some t =>
      let n := sectorCount t.base o.len
      let s := (gone s).report o.src.lsq o.src.tkt o.bar n .failed (some s.time)
      ((List.range n).foldl (fun s _ => s.groupReply o.grp false 0 s.time s.time) s).freeRemote o
    | .atom _ _ _ _ _, _ => (hold s 0 false).groupReply o.grp false 0 s.time s.time
    | _, _ => ((gone s).groupReply o.grp false 0 s.time s.time).freeRemote o
  else
    match o.kind, o.to_ with
    | .put _ bad, _ =>
      let s := (List.range (sectorCount o.off.toNat o.len)).foldl (fun s k =>
        s.report o.src.lsq o.src.tkt o.bar 1 (if bad.contains k then .poisoned else .landed) (some r.cpod)) (gone s)
      (s.groupReply o.grp here (r.cpod - 40) r.cpod r.csys).freeRemote o
    | .get _, some t =>
      let s := s.updRef o.src (fun w => w.complete false 0 r.cpod r.csys)
      ((List.range (sectorCount t.base o.len)).foldl (fun s k => s.getSector o t r k) (gone s)).freeRemote o
    | .atom _ ty _ _ _, _ =>
      let old := leNat (r.data.take (atomBytes ty))
      let bad := r.poison != []
      let poison : TrapV := { cause := 5, mask := maskOf [o.lane], addr := podGlobal o.target o.off.toNat }
      if bad && o.dst.isNone then s.trapRemote o poison
      else
      let s := hold s (BitVec.ofNat 64 old) bad
      if bad || r.skipped then s.groupDone o.grp
      else (s.updRef o.src (fun w => w.raiseFlags [o.lane] (fun _ => remoteFlags o old))).groupReply o.grp here
        (r.cpod - 40) r.cpod r.csys
    | _, _ => ((gone s).groupReply o.grp here (r.cpod - 40) r.cpod r.csys).freeRemote o

/-- THE REPLY TO A REMOTE OPERATION: an operation that the target's detector refuses traps (10_ordering.md:R234). -/
def State.remoteReply (s : State) (o : RemoteOp) (r : RemoteReply) : State :=
  match r.hit with
  | some h => s.trapRemote o (o.conflict h)
  | none => s.remoteOutcome o r

/-- COMPLETION_REPLY_ARRIVES: the reply of a home of this module, or of another module to a remote operation
(10_ordering.md:R219; 03_encoding.md:R62). Where the host link reports the Csys of a reply, `remote` carries the time that it
reports; without one the report comes now (10_ordering.md:R218). -/
def execCompletionReplyArrives (op : Nat) (remote : Option RemoteReply) (s : State) : Out :=
  match s.replies.find? (fun r => r.id == op), remote with
  | some r, _ =>
    let s := { s with replies := s.replies.filter (fun x => x.id != op) }
    let told := match remote with | some x => tmax r.csys x.csys | none => tmax r.csys s.time
    .next (s.groupReply r.op r.chip r.cchip r.cpod (if r.link then told else r.csys))
  | none, none => .next s
  | none, some r =>
    match s.rops.find? (fun o => o.op == op && o.result.isNone) with
    | none => .next s
    | some o => .next (s.remoteReply o r)

/-- A packet is resent for want of an acknowledgement (18_recovery.md:R331). -/
def State.resend (s : State) (op : Nat) : State :=
  let f := fun o : RemoteOp => { o with resends := o.resends + 1 }
  { s with rops := updIf (fun o : RemoteOp => o.op == op && o.result.isNone) f s.rops }

/-- Whether the transport may give up on an operation: after 64 resends, or after 100 µs (18_recovery.md:R331). -/
def State.mayGiveUp (s : State) (o : RemoteOp) : Bool :=
  o.result.isNone && decide (64 ≤ o.resends ∨ o.sent.toNat + 100000 ≤ s.time.toNat)

/-- TRANSPORT_GIVE_UP: the transport reports a remote failure (18_recovery.md:R331). -/
def execTransportGiveUp (op : Nat) (s : State) : Out :=
  match s.rops.find? (fun o => o.op == op && s.mayGiveUp o) with
  | none => .next s
  | some o => .next (s.remoteReply o { ok := false, code := 7, cpod := 0, csys := 0, data := [], poison := [], hit := none })

/-- REGISTER_WRITE_LANDS: when every lane's reply of a remote atomic has arrived, the old values land in D and the
path goes on; a poisoned lane raises the data-poison trap at the word (03_encoding.md:R83; 11_isa_memory.md:R239,
R258). -/
def execRegisterWriteLands (op : Nat) (s : State) : Out :=
  let os := s.rops.filter (fun o => o.grp == op)
  match os with
  | [] => .next s
  | o :: _ =>
    match o.dst with
    | none => .next s
    | some d =>
      if os.any (fun x => x.result.isNone) then .next s
      else
        let free := fun w : Warp => { w with busy := w.busy.filter (· != op) }
        let s := { s with rops := s.rops.filter (fun x => x.grp != op) }.updRef o.src free
        let bad := os.filter (fun x => match x.result with | some v => v.2 | none => false)
        match bad with
        | x :: _ =>
          .next (s.takeTrap o.src { cause := 5, mask := maskOf (bad.map RemoteOp.lane)
                                    addr := podGlobal x.target x.off.toNat })
        | [] =>
          let n := match o.kind with | .atom _ ty _ _ _ => atomBytes ty / 4 | _ => 1
          let val := fun l => match (os.find? (fun x => x.lane == l)).bind RemoteOp.result with
            | some v => v.1.toNat | none => 0
          .next (s.updRef o.src (fun w => (w.put n d (os.map RemoteOp.lane) val).advance o.src.lane))

/-! ## Arrivals from other modules -/

/-- Whether this module is a MEMBER. -/
def State.isMember (s : State) (m : Nat) : Bool := nth s.quad.rep.members m .absent == .member

/-- The failure code of an arriving operation, 0 when it is accepted (16_isolation.md:R307, R308, R310). A source that
is no longer a MEMBER is not admitted, and a context that does not exist has no open window. -/
def State.remoteRefusal (s : State) (k : Packet) : Nat :=
  let e := s.exportEntry k.ctx
  let va := fld e 64 64 + k.off.toNat
  if s.sec.confidential && !(s.sec.fabricKey.isSome && k.sealOk) then 8
  else if !s.isMember s.modn then 6
  else if fld e 0 1 = 0 || !(s.ctxDesc k.ctx).getLsbD 64 then 1
  else if fld e (128 + k.src) 1 = 0 || !s.isMember k.src then 2
  else if fld e 28 34 * 65536 < k.off.toNat + remoteSize k.kind then 3
  else if fld e 1 1 = 1 && !remoteReads k.kind then 4
  else match s.translateRange k.ctx va (remoteSize k.kind) (if remoteReads k.kind then .load else .store) with
    | .error _ => 5
    | .ok _ => 0

/-- PERFORM AN ACCEPTED REMOTE OPERATION at the homes of this module (10_ordering.md:R232; 11_isa_memory.md:R258). An
atomic that finds its sector poisoned is not performed (R239). DESIGN CHOICE (log 63): an `rwake` on a word of a poisoned sector adds to
its bytes, and the sector keeps its poison. -/
def State.performRemote (s : State) (ctx va : Nat) (kind : RemoteKind) : State :=
  let s := s.fillRange ctx va (remoteSize kind)
  let rmw := fun (n : Nat) (f : Nat → Nat) =>
    match s.translate ctx va .store with
    | .error _ => s
    | .ok x => s.homeStore none x.sys x.pa (leBytes n (f (s.mem.nat x.sys x.pa n))) false
  match kind with
  | .probe _ => s
  | .get n => (s.linePieces ctx va n .load).foldl (fun s x => s.noteSys x.1.sys x.1.pa) s
  | .put d bad =>
    (List.range (sectorCount va d.length)).foldl (fun s k =>
      let p := sectorPiece va d.length k
      match s.translate ctx (va + p.1) .store with
      | .error _ => s
      | .ok x => s.homeStore none x.sys x.pa ((d.drop p.1).take p.2) (bad.contains k)) s
  | .flag v => rmw 8 (fun _ => v.toNat)
  | .wake v => rmw 8 (fun o => (o + v.toNat) % 2 ^ 64)
  | .atom op ty sat b c =>
    match s.translate ctx va .store with
    | .error _ => s
    | .ok x =>
      if s.mem.poisoned x.sys x.pa then s.noteSys x.sys x.pa
      else rmw (atomBytes ty) (fun o => (atomNew op ty sat o b.toNat c.toNat).1)

/-- What a module reads at its homes for a remote operation: the bytes and the indices of the poisoned sectors. -/
def State.remoteRead (s : State) (ctx va len : Nat) : List Byte × List Nat :=
  let ps := (List.range (sectorCount va len)).map (fun k =>
    let p := sectorPiece va len k
    match s.translate ctx (va + p.1) .load with
    | .error _ => (List.replicate p.2 0, false)
    | .ok x => (s.mem.bytes x.sys x.pa p.2, s.mem.poisoned x.sys x.pa))
  (ps.flatMap Prod.fst, (List.range ps.length).filter (fun k => (nth ps k ([], false)).2))

/-- Whether the Csys of a remote operation is a time that the host link of this module reports (10_ordering.md:R218). -/
def State.remoteLinked (s : State) (ctx va : Nat) (kind : RemoteKind) : Bool :=
  !remoteReads kind && (s.linePieces ctx va (remoteSize kind) .store).any (fun x => s.mem.linked x.1.sys x.1.pa x.2)

/-- THE REPLY TO AN ACCEPTED REMOTE OPERATION: an `rget` returns what it reads, an atomic the old value, and every reply
the completion times; `link` is the least Csys (10_ordering.md:R218, R232; 11_isa_memory.md:R258). -/
def State.remoteAnswer (s : State) (ctx va : Nat) (kind : RemoteKind) (link : DWord) : RemoteReply :=
  let rd := if remoteReads kind then s.remoteRead ctx va (remoteSize kind) else match kind with
    | .atom _ _ _ _ _ => s.remoteRead ctx va (remoteSize kind)
    | _ => ([], [])
  let ts := (List.range (sectorCount va (remoteSize kind))).map (fun k =>
    match s.translate ctx (va + (sectorPiece va (remoteSize kind) k).1) .load with
    | .error _ => (0, 0)
    | .ok x => (s.completion x.sys x.pa).2)
  { ok := true, code := 0, cpod := (ts.map Prod.fst).foldl tmax 0, csys := (ts.map Prod.snd).foldl tmax link
    data := rd.1, poison := rd.2, hit := none }

/-- The part on this module of the grid that an operation's tag names. -/
def State.taggedGrid (s : State) (src : Nat) (d : DetTag) : Option Grid :=
  s.grids.find? (fun g => match d.qix with
    | some q => g.qix == some q && g.dps == d.dps
    | none => src == s.modn && g.lsq == d.lsq)

/-- The log of a grid that has no part here, as an operation's tag names the grid (10_ordering.md:R234). -/
def DetLog.ofTag (src : Nat) (d : DetTag) : DetLog :=
  match d.qix with
  | some q => { qix := some q, num := d.dps, src := 0, log := [] }
  | none => { qix := none, num := d.lsq, src := src, log := [] }

/-- Whether two logs are of one grid. -/
def DetLog.same (a b : DetLog) : Bool := a.qix == b.qix && a.num == b.num && a.src == b.src

/-- The accesses that the detector of this module holds of the grid that a tag names. -/
def State.detHeld (s : State) (src : Nat) (d : DetTag) : List DetAcc :=
  match s.taggedGrid src d with
  | some g => g.detLog
  | none => ((s.quad.detAway.find? (DetLog.same (DetLog.ofTag src d))).map DetLog.log).getD []

/-- The log of the grid that a tag names takes accesses, each once. -/
def State.detTake (s : State) (src : Nat) (d : DetTag) (l : List DetAcc) : State :=
  match s.taggedGrid src d with
  | some g => s.detNote g.lsq l
  | none =>
    let old := s.detHeld src d
    let e := { DetLog.ofTag src d with log := old ++ (l.filter (fun a => !old.contains a)).eraseDups }
    { s with quad := { s.quad with detAway := s.quad.detAway.filter (fun x => !x.same e) ++ [e] } }

/-- The ranges of an operation at its target that the detector judges: lane, offset and bytes. -/
def packetRanges (k : Packet) : List (Nat × Nat × Nat) :=
  match k.kind with
  | .probe rs => rs
  | kind => [(0, k.off.toNat, remoteSize kind)]

/-- THE DETECTOR JUDGES A REMOTE OPERATION at its homes (10_ordering.md:R234 to R236): the offset of a sector in conflict with
the access that the log holds, or the state whose log has the operation. `base` is the address of offset 0. -/
def State.remoteDetect (s : State) (k : Packet) (base : Nat) : Except (Nat × DetAcc) State :=
  match k.det with
  | none => .ok s
  | some d =>
    let ss := s.detSectors k.ctx (if remoteReads k.kind then .load else .store) ((packetRanges k).map (fun x => (x.1, base + x.2.1, x.2.2)))
    let mk := fun x : Nat × Nat × Nat => { d.acc with sector := x.1 }
    match ss.findSome? (fun x => ((s.detHeld k.src d).find? (fun o => detConflict (mk x) o)).map (fun o => (x.2.2 - base, o))) with
    | some h => .error h
    | none => .ok (s.detTake k.src d (ss.map mk))

/-- What the error log notes of a performed remote operation: the marked sectors of its payload, and the poisoned ones that it
consumes (22_attach.md:R381). -/
def State.remotePoison (s : State) (ctx va : Nat) (kind : RemoteKind) : State :=
  match kind with
  | .put d bad => bad.foldl (fun s k =>
      match s.translate ctx (va + (sectorPiece va d.length k).1) .store with
      | .error _ => s
      | .ok x => s.logFabric x.pa) s
  | .get len => s.consume ctx (s.linePieces ctx va len .load)
  | .atom _ ty _ _ _ => s.consume ctx (s.linePieces ctx va (atomBytes ty) .load)
  | _ => s

/-- The packet of an operation of this module; the host link reports at `link`. -/
def RemoteOp.packet (o : RemoteOp) (src : Nat) (link : DWord) : Packet :=
  { src := src, ctx := o.ctx, seq := o.seq, off := o.off, kind := o.kind, after := o.after, det := o.det, sealOk := true
    mates := o.mates, link := link }

/-- The module replies to a packet; an operation of its own keeps the answer until it arrives. -/
def State.reply (s : State) (k : Packet) (r : RemoteReply) : State :=
  let mine := fun o : RemoteOp => k.src == s.modn && o.target == s.modn && o.ctx == k.ctx && o.seq == k.seq
  let f := fun o : RemoteOp => { o with answer := some r }
  { s with lastReply := some r, rops := updIf mine f s.rops }

/-- Whether an atomic is not performed, because a lower lane of its word has found poison here (11_isa_memory.md:R239). -/
def State.cutOff (s : State) (k : Packet) : Bool :=
  k.mates.any (fun n => (s.endpoint? k.ctx k.src).any (fun e => e.cut.contains n))

/-- Whether an operation is an atomic that finds its sector poisoned (11_isa_memory.md:R239). -/
def State.findsPoison (s : State) (k : Packet) (va : Nat) : Bool :=
  match k.kind, s.translate k.ctx va .store with
  | .atom _ _ _ _ _, .ok x => s.mem.poisoned x.sys x.pa
  | _, _ => false

/-- The atomics of a word behind this one are not performed. -/
def State.noteCut (s : State) (k : Packet) : State :=
  s.updEndpoint k.ctx k.src (fun e => { e with cut := insertNat k.seq e.cut })

/-- The operation of this module that a packet carries, where it is aimed at the module itself. -/
def State.ownOf (s : State) (k : Packet) : Option RemoteOp :=
  s.rops.find? (fun o => k.src == s.modn && o.target == s.modn && o.ctx == k.ctx && o.seq == k.seq)

/-- The core of a warp of this module that performs an operation here keeps no copy of its lines, since no later load of the warp
returns an older value (10_ordering.md:R213, R216). -/
def State.forgetOwn (s : State) (k : Packet) (va : Nat) : State :=
  match (s.ownOf k).bind (fun o => s.groupCore o.grp) with
  | none => s
  | some core => (s.linePieces k.ctx va (remoteSize k.kind) .load).foldl (fun s x => s.forgetLines core x.1.sys x.1.pa x.2) s

/-- The pending stores of a warp of this module are performed before its operation here accesses their lines
(10_ordering.md:R213, R225, R226). -/
def State.flushTarget (s : State) (k : Packet) : State :=
  match s.ownOf k with
  | none => s
  | some o => (s.targetPieces o).foldl (fun s x => s.flushOwn o.src x.1 x.2) s

/-- AN ACCEPTED OPERATION IS PERFORMED, and the module replies. -/
def State.doRemote (s : State) (k : Packet) (va : Nat) : State :=
  let s := s.flushTarget k
  let link := if s.remoteLinked k.ctx va k.kind then k.link else 0
  let t := ((s.performRemote k.ctx va k.kind).remotePoison k.ctx va k.kind).forgetOwn k va
  let t := if s.findsPoison k va then t.noteCut k else t
  t.reply k (s.remoteAnswer k.ctx va k.kind link)

/-- THE JUDGMENT OF AN ARRIVING OPERATION (16_isolation.md:R307; 10_ordering.md:R236; 11_isa_memory.md:R239): it is passed over,
fails, is refused by the detector, or is performed. -/
def State.judgeRemote (s : State) (k : Packet) : State :=
  let code := s.remoteRefusal k
  let no : RemoteReply := { ok := false, code := code, cpod := s.time, csys := s.time, data := [], poison := [], hit := none }
  if s.cutOff k then (s.noteCut k).reply k { no with ok := true, code := 0, skipped := true }
  else if code ≠ 0 then
    let base := fld (s.exportEntry k.ctx) 64 64
    (if code = 5 then s.consumeWalks k.ctx (base + k.off.toNat) (remoteSize k.kind) else s).reply k no
  else
    let base := fld (s.exportEntry k.ctx) 64 64
    match s.remoteDetect k base with
    | .error h => s.reply k { no with hit := some h }
    | .ok s => s.doRemote k (base + k.off.toNat)

/-- A sequence number is accepted, and the operation is judged (18_recovery.md:R331). -/
def State.acceptRemote (s : State) (k : Packet) : State :=
  (s.updEndpoint k.ctx k.src (fun e => { e with seen := insertNat k.seq e.seen })).judgeRemote k

/-- REMOTE_OP_ARRIVAL: a packet for a spilled endpoint context is answered NOT READY, and the context is fetched; a sequence
number is accepted once, after the operations that come before it, and one of this module after its warp's asynchronous operations
where the order asks for it; the operation is judged, and the module replies
(10_ordering.md:R213, R225, R232; 16_isolation.md:R307; 18_recovery.md:R331). -/
def execRemoteOpArrival (k : Packet) (s : State) : Out :=
  if s.sealed then .next s
  else if !(s.endpoint? k.ctx k.src).any Endpoint.cached then
    .next { s.updEndpoint k.ctx k.src (fun e => { e with fetching := true }) with lastReply := none }
  else
    let seen := ((s.endpoint? k.ctx k.src).map Endpoint.seen).getD []
    if seen.contains k.seq || !k.after.all seen.contains || (s.ownOf k).any s.ownWaits then .next s
    else .next (s.acceptRemote k)

/-- ENDPOINT_CONTEXT_FETCH: a spilled endpoint context that is being fetched arrives in the cache, which holds 512; the one
fetched longest ago makes room (18_recovery.md:R331; DESIGN CHOICE, log 11). -/
def execEndpointContextFetch (ctx peer : Nat) (s : State) : Out :=
  match s.endpoint? ctx peer with
  | none => .next s
  | some e =>
    if !e.fetching then .next s
    else
      let rest := s.endpoints.filter (fun x => !(x.ctx == ctx && x.peer == peer))
      let full := decide (512 ≤ (rest.filter Endpoint.cached).length)
      let rest := if full then
          match rest.find? Endpoint.cached with
          | some v => updIf (fun x : Endpoint => x.ctx == v.ctx && x.peer == v.peer) (fun x => { x with cached := false }) rest
          | none => rest
        else rest
      .next { s with endpoints := rest ++ [{ e with cached := true, fetching := false }] }

/-! ## Deferred float atomics -/

/-- The warp of a deferred atomic. -/
def DetAtom.ref (a : DetAtom) (lsq : Nat) : Ref :=
  { lsq := lsq, tkt := a.tkt, wrp := a.wrp, lane := a.lane, handler := a.wrp == handlerWrp }

/-- A deferred atomic finds poison: it and the rest of its word are not performed, and its warp traps at the place where the
word stood (11_isa_memory.md:R239; 18_recovery.md:R324). -/
def State.poisonAtom (s : State) (g : Grid) (a : DetAtom) : State :=
  ((s.consumeSector g.rec_.ctx a.sys (a.pa / 32)).cutGroup a.grp).trapLate (a.ref g.lsq)
    { cause := 5, mask := maskOf [a.lane], addr := a.addr, access := Acc.code .store } a.path a.hdr a.word

/-- A remote float atomic leaves at the end of its barrier interval. One aimed at this module is performed at once, in its place
among the block's other atomics (05_numbers.md:R156). -/
def State.sendLate (s : State) (o : RemoteOp) : State :=
  let t := s.sendRemote { o with late := true }
  match t.rops.getLast? with
  | none => t
  | some x =>
    let seen := ((t.endpoint? x.ctx s.modn).map Endpoint.seen).getD []
    if x.target = s.modn ∧ x.after.all seen.contains ∧ !t.ownWaits x then t.acceptRemote (x.packet s.modn s.time) else t

/-- Apply one deferred float atomic, unless its word met poison before; a remote operation leaves now (10_ordering.md:R224, R232). The
list names the words that met poison. -/
def State.applyDetAtom (g : Grid) (x : State × List Nat) (a : DetAtom) : State × List Nat :=
  let s := x.1
  match s.block? g.lsq a.tkt, a.rop with
  | none, _ => x
  | some _, some o => (if o.isFloat then s.sendLate o else s.sendRemote o, x.2)
  | some b, none =>
    if x.2.contains a.grp then x
    else if s.mem.poisoned a.sys a.pa then ((s.noteSys a.sys a.pa).poisonAtom g a, a.grp :: x.2)
    else
      let r := atomNew a.op 1 a.sat (s.mem.nat a.sys a.pa 4) a.b.toNat 0
      let t := s.homeStore ((b.refWarp? (a.ref g.lsq)).map Warp.core) a.sys a.pa (leBytes 4 r.1) false
      let t := t.updRef (a.ref g.lsq) (fun w => w.raiseFlags [a.lane] (fun _ => unlessNF a.nf r.2))
      (t.pushReply a.grp (s.mem.linked a.sys a.pa 4) a.sys a.pa, x.2)

/-- The deferred atomics of a block, in logical-warp order, those of its handlers last (05_numbers.md:R156). -/
def Grid.dueAtoms (g : Grid) (tkt : Nat) : List DetAtom :=
  let mine := g.detAtoms.filter (fun a => a.tkt == tkt)
  (List.range handlerWrp).flatMap (fun w => mine.filter (fun a => a.wrp == w)) ++ mine.filter (fun a => decide (handlerWrp < a.wrp)) ++
    mine.filter (fun a => a.wrp == handlerWrp)

/-- A BARRIER INTERVAL OF A BLOCK ENDS: its deferred float atomics are applied, and the next interval begins
(10_ordering.md:R224, R234). -/
def State.endInterval (s : State) (lsq tkt : Nat) : State :=
  match s.grid? lsq with
  | none => s
  | some g =>
    let drop := fun g : Grid => { g with detAtoms := g.detAtoms.filter (fun a => a.tkt != tkt) }
    let x := (g.dueAtoms tkt).foldl (State.applyDetAtom g) (s.updGrid lsq drop, [])
    x.1.updBlock lsq tkt (fun b => { b with interval := b.interval + 1 })

/-! ## Translations -/

/-- PAGE_WALK_COMPLETE: a walk fills the TLB (16_isolation.md:R304). -/
def execPageWalkComplete (ctx : Nat) (va : BitVec 64) (s : State) : Out :=
  if va.toNat < 2 ^ 56 ∧ (s.ctxDesc ctx).getLsbD 64 then .next (s.fillTlb ctx va.toNat) else .next s

/-- Whether a TLB entry lies in a range of a context. -/
def TlbEnt.inRange (t : TlbEnt) (ctx va units : Nat) : Bool :=
  t.ctx == ctx && decide (va < (t.page + 1) * 2 ^ t.bits ∧ t.page * 2 ^ t.bits < va + 65536 * units)

/-- Drop the translations of a range and the L1 copies of their lines; the parked `waitw` words of the context translate
again (16_isolation.md:R305). -/
def State.dropRange (s : State) (ctx va units : Nat) : State :=
  let out := s.mem.tlb.filter (fun t => t.inRange ctx va units)
  let hit := fun c : L1Copy => out.any (fun t => !t.sys && decide (t.pa ≤ 128 * c.line ∧ 128 * c.line < t.pa + 2 ^ t.bits))
  let s := { s with mem := { s.mem with
      tlb := s.mem.tlb.filter (fun t => !t.inRange ctx va units)
      l1 := s.mem.l1.filter (fun c => !hit c) } }
  { s with blocks := updIf (fun b : Block => s.ctxOf b.lsq == ctx) (fun b => b.mapPaths Path.rewait) s.blocks }

/-- The operations of a context that are outstanding (16_isolation.md:R305). -/
def State.ctxOps (s : State) (ctx : Nat) : List Nat :=
  (s.groups.filter (fun g => s.ctxOf g.lsq == ctx && (s.grid? g.lsq).isSome)).map OpGroup.op

/-- Start an invalidation: it waits for the operations of the context under way (16_isolation.md:R305). -/
def State.startInval (s : State) (group : Option Nat) (ctx va units : Nat) (waits : List Nat) : State :=
  let n := s.newId
  { n.2 with invals := s.invals ++ [{ op := n.1, group := group, ctx := ctx, va := BitVec.ofNat 64 va, units := units
                                      waits := waits }] }

end Sys2Proof.Machine
end

