-- ==== Sys2Proof/Machine/Place.lean ====
section
/-! DEFINITION. What a core can take: partition slots and granules, scratchpad, sum-tree store, tiles and
save frames; the reserve of the oldest block; and the seats of a block's warps (02_state.md:R44 to R49;
13_progress.md:R269 to R271; 18_recovery.md:R326). Physical placement is lowest-fit (DESIGN CHOICE, log 9). -/

namespace Sys2Proof.Machine

/-- The shape of a block rectangle (13_progress.md:R265, `BRC`). -/
def brcShape : Nat → Nat × Nat
  | 0 => (1, 1) | 1 => (2, 1) | _ => (2, 2)

/-- The number of cores of a block. -/
def LaunchRec.cores (r : LaunchRec) : Nat := (brcShape r.brc).1 * (brcShape r.brc).2

/-- The sum-tree store a block takes on its first core, in bytes (13_progress.md:R265). -/
def LaunchRec.treeStore (r : LaunchRec) : Nat := r.wtc * (5 * (64 * 2 ^ r.wtl) * (if r.wtm then 32 else 16) / 16)

/-- The aligned sub-rectangles of a grid, counted by row and then column (13_progress.md:R269). -/
def Grid.subRects (g : Grid) : List (Nat × Nat) :=
  let sh := brcShape g.rec_.brc
  (List.range ((g.rec_.gngh + 1) / sh.2)).flatMap (fun j =>
    (List.range ((g.rec_.gngw + 1) / sh.1)).map (fun k => (g.rx + sh.1 * k, g.ry + sh.2 * j)))

/-- The cores of a block at an origin, in the order of 11_isa_memory.md:R238. -/
def Grid.coresAt (g : Grid) (o : Nat × Nat) : List Nat :=
  rectCores o.1 o.2 (brcShape g.rec_.brc).1 (brcShape g.rec_.brc).2

/-- The place that a warp takes: its core, partition, base granules and the granules of its extended block. -/
structure Seat where
  idx : Nat
  core : Nat
  part : Nat
  baseAt : Nat
  baseLen : Nat
  extAt : Nat
  extLen : Nat
  deriving DecidableEq, Repr

/-- The granules of a warp's extended block; in a deterministic grid X is bound in advance
(13_progress.md:R270). -/
def extGranules (g : Grid) (ext : Nat) : Nat := if g.rec_.det then g.rec_.ext / 8 else ext / 8

/-- The seats that the warps of a core hold on a partition, each from its block's admission to its own exit
(02_state.md:R44; 04_isa_core.md:R124). -/
def State.seats (s : State) (core part : Nat) : List Seat :=
  s.blocks.flatMap (fun b =>
    match s.grid? b.lsq with
    | none => []
    | some g =>
      if b.res = .saved then []
      else (b.warps.filter (fun w => w.core == core && w.part == part && !w.released)).map (fun w =>
        { idx := w.idx, core := core, part := part, baseAt := w.baseAt, baseLen := g.rec_.base
          extAt := w.extAt, extLen := extGranules g w.ext }))

/-- The granules that seats occupy: start and length. -/
def seatSpans (l : List Seat) : List (Nat × Nat) :=
  l.flatMap (fun x => [(x.baseAt, x.baseLen), (x.extAt, x.extLen)])

/-- The free granules of a partition with some seats. -/
def freeGranules (l : List Seat) : Nat := 128 - (l.map (fun x => x.baseLen + x.extLen)).foldl (· + ·) 0

/-- The lowest aligned place of some granules that no span overlaps. -/
def findSpot (used : List (Nat × Nat)) (len align : Nat) : Option Nat :=
  ((List.range (128 / align)).map (· * align)).find? (fun a =>
    decide (a + len ≤ 128) && used.all (fun u => decide (a + len ≤ u.1 ∨ u.1 + u.2 ≤ a ∨ u.2 = 0)))

/-- The granules kept back on a partition for the oldest block of the core, unless the request is its own
(13_progress.md:R271). -/
def State.regReserve (s : State) (core part : Nat) (who : Nat × Nat) : Nat :=
  match s.oldestBlock core with
  | none => 0
  | some b =>
    match s.grid? b.lsq with
    | none => 0
    | some g =>
      if (b.lsq, b.tkt) = who || g.rec_.det then 0
      else g.rec_.ext / 8 * (b.warps.filter (fun w =>
        w.core == core && w.part == part && w.ext == 0 && !w.released)).length

/-- Sum-tree bytes that the blocks with this first core hold. -/
def State.treeUsed (s : State) (core : Nat) : Nat :=
  ((s.blocks.filter (fun b => b.res != .saved && (b.cores.head?).map BlockCore.core == some core)).map (fun b =>
    match s.grid? b.lsq with | some g => g.rec_.treeStore | none => 0)).foldl (· + ·) 0

/-- The places of a base block and of an extended block beside some seats. -/
def fitSpots (l : List Seat) (base ext : Nat) : Option (Nat × Nat) :=
  match findSpot (seatSpans l) base 1 with
  | none => none
  | some a => if ext = 0 then some (a, 0) else (findSpot ((a, base) :: seatSpans l) ext ext).map (fun e => (a, e))

/-- Seat one warp on a core: the partition with the fewest resident warps that has room, the lower number winning a
tie (13_progress.md:R269, R270). With `loose`, the free granules need only be enough, wherever they lie. -/
def State.seatWarp (s : State) (loose : Bool) (g : Grid) (who : Nat × Nat) (taken : List Seat) (idx core ext : Nat) :
    Option Seat :=
  let eLen := extGranules g ext
  let try_ := fun part : Nat =>
    let l := s.seats core part ++ taken.filter (fun x => x.core == core && x.part == part)
    if 8 ≤ l.length ∨ freeGranules l < g.rec_.base + eLen + s.regReserve core part who then none
    else
      (if loose then some (0, 0) else fitSpots l g.rec_.base eLen).map (fun a =>
        (l.length, { idx := idx, core := core, part := part, baseAt := a.1, baseLen := g.rec_.base
                     extAt := a.2, extLen := eLen : Seat }))
  (((List.range 12).filterMap try_).foldl (fun o c =>
    match o with
    | none => some c
    | some x => if c.1 < x.1 then some c else some x) none).map Prod.snd

/-- Seat the warps of a block: warp w on core w mod n (13_progress.md:R269). -/
def State.seatAll (s : State) (loose : Bool) (g : Grid) (who : Nat × Nat) (cores : List Nat) (ws : List (Nat × Nat)) :
    Option (List Seat) :=
  ws.foldl (fun o w =>
    match o with
    | none => none
    | some l =>
      match s.seatWarp loose g who l w.1 (nth cores (w.1 % cores.length) 0) w.2 with
      | none => none
      | some x => some (l ++ [x])) (some [])

/-- Whether a core that a block would take is awake (01_device.md:R14). -/
def State.awake (s : State) (core : Nat) : Bool := cget s.gated core == 0

/-- Whether a core can give a block its tiles, scratchpad and sum-tree store, the reserve of the oldest block kept
back (13_progress.md:R270, R271). -/
def State.coreRoom (s : State) (g : Grid) (who : Nat × Nat) (first : Bool) (core tiles : Nat) : Bool :=
  let reserve := match s.oldestBlock core with
    | some b => if (b.lsq, b.tkt) = who then 0 else s.tileReserve core
    | none => 0
  s.awake core && decide (s.scratchUsed core + g.rec_.scr + g.rec_.stg ≤ 2 ^ 19) &&
    (!first || decide (s.treeUsed core + g.rec_.treeStore ≤ 320 * 1024)) &&
    (tiles == 0 || decide (tiles + reserve ≤ s.freeTiles core))

/-- ADMISSION: the seats of a block's warps at an origin, when every core admits the block (13_progress.md:R270).
`tiles` are the tiles a restored block brings for each core. -/
def State.admitBlock (s : State) (loose : Bool) (g : Grid) (tkt : Nat) (o : Nat × Nat) (ws : List (Nat × Nat)) (tiles : List Nat) :
    Option (List Seat) :=
  let cores := g.coresAt o
  let need := fun q : Nat => if g.rec_.det then g.rec_.acc else nth tiles q 0
  if (List.range cores.length).all (fun q => s.coreRoom g (g.lsq, tkt) (q == 0) (nth cores q 0) (need q)) then
    s.seatAll loose g (g.lsq, tkt) cores ws
  else none

/-- The lowest free save frame of a context (18_recovery.md:R326). -/
def State.freeFrame (s : State) (ctx : Nat) : Option Nat :=
  (List.range 1024).find? (fun f => !s.blocks.any (fun b => b.frame == f && s.ctxOf b.lsq == ctx))

/-- Whether an origin is a sub-rectangle that a block of a grid may use: aligned and inside, and in a deterministic
grid the one of its ticket (13_progress.md:R269, 18_recovery.md:R328). -/
def Grid.mayUse (g : Grid) (tkt : Nat) (o : Nat × Nat) : Bool :=
  if g.rec_.det then
    let l := g.subRects
    l.length != 0 && (l[tkt % l.length]?) == some o
  else g.subRects.contains o

/-- The blocks of a grid's parts: GRDW × GRDH. -/
def Grid.tickets (g : Grid) : Nat := g.rec_.grdw * g.rec_.grdh

/-- The warps that a new block starts: index and extended size. -/
def Grid.newWarps (g : Grid) : List (Nat × Nat) := (List.range g.rec_.wpb).map (fun k => (k, 0))

/-- The warps that a saved block brings: index and extended size. A warp that has given up its registers and its slot needs no
seat (04_isa_core.md:R124). -/
def Block.savedWarps (b : Block) : List (Nat × Nat) := (b.warps.filter (fun w => !w.released)).map (fun w => (w.idx, w.ext))

/-- The activation that runs on a core, with its block. -/
def State.activeOn (s : State) (core : Nat) : Option (Block × Activation) :=
  s.blocks.findSome? (fun b => match b.handler with
    | some a => if a.warp.core = core ∧ b.res = .resident then some (b, a) else none
    | none => none)

/-- The core that a saved block's activation would have among new cores. -/
def Block.newCore (b : Block) (cores : List Nat) (core : Nat) : Nat :=
  nth cores (b.cores.takeWhile (fun k => k.core != core)).length core

/-- Whether two grids' rectangles meet. -/
def Grid.meets (a b : Grid) : Bool :=
  decide (a.rx ≤ b.rx + b.rec_.gngw ∧ b.rx ≤ a.rx + a.rec_.gngw ∧ a.ry ≤ b.ry + b.rec_.gngh ∧
    b.ry ≤ a.ry + a.rec_.gngh)

/-- Insert a block by ticket. -/
def insertTicket (b : Block) : List Block → List Block
  | [] => [b]
  | x :: r => if b.tkt < x.tkt then b :: x :: r else x :: insertTicket b r

/-- The saved blocks of a grid, in ticket order (13_progress.md:R269). -/
def State.savedOf (s : State) (g : Grid) : List Block :=
  (s.blocks.filter (fun b => b.lsq == g.lsq && b.res == .saved)).foldl (fun l b => insertTicket b l) []

/-- Whether a core is still being saved or killed for another grid (19_quadrille.md:R345). -/
def State.coreBusy (s : State) (g : Grid) (core : Nat) : Bool :=
  s.blocks.any (fun b => b.lsq != g.lsq && (b.coreAt core).isSome && (b.saving || b.res == .killed))

/-- A grid that may have blocks started or restored now: not pre-empted, not ending. -/
def Grid.open_ (g : Grid) : Bool := !g.held && !g.closing && g.killCode == 0

/-- The seats with which a saved block could be restored at an origin: its grid may use it there, the core of its activation
runs no other (18_recovery.md:R322), and every core admits it. -/
def State.savedSeats (s : State) (loose : Bool) (g : Grid) (o : Nat × Nat) (b : Block) : Option (List Seat) :=
  let clash := b.handler.any (fun a => (s.activeOn (b.newCore (g.coresAt o) a.warp.core)).isSome)
  if !g.mayUse b.tkt o || clash then none
  else s.admitBlock loose g b.tkt o b.savedWarps (b.cores.map (fun c => c.tiles.length))

/-- The saved block that is restored at an origin, with its seats: the lowest ticket that the origin can admit
(13_progress.md:R269). -/
def State.savedAt (s : State) (loose : Bool) (g : Grid) (o : Nat × Nat) : Option (Block × List Seat) :=
  (s.savedOf g).findSome? (fun b => (s.savedSeats loose g o b).map (fun l => (b, l)))

/-- Whether a grid's blocks may take an origin now; none may during pod formation (22_attach.md:R386). -/
def State.mayTake (s : State) (g : Grid) (o : Nat × Nat) : Bool :=
  s.att.form.isNone && g.open_ && !(g.coresAt o).any (s.coreBusy g)

/-- Whether a grid has a block to place: a saved one, or a ticket that is not claimed. -/
def State.hasWork (s : State) (g : Grid) : Bool := g.open_ && (decide (g.nextTkt < g.tickets) || s.savedOf g != [])

/-- The seats of what a grid places next at an origin: a saved block, with the block, otherwise the next ticket. -/
def State.placing (s : State) (loose : Bool) (g : Grid) (o : Nat × Nat) : Option (Option Block × List Seat) :=
  if !s.mayTake g o then none
  else if s.savedOf g != [] then (s.savedAt loose g o).map (fun x => (some x.1, x.2))
  else if g.nextTkt < g.tickets ∧ g.mayUse g.nextTkt o ∧ (s.freeFrame g.rec_.ctx).isSome then
    (s.admitBlock loose g g.nextTkt o g.newWarps []).map (fun l => (none, l))
  else none

/-- The seats with which a grid's next block is placed at an origin. -/
def State.placeAt (s : State) (g : Grid) (o : Nat × Nat) : Option (Option Block × List Seat) := s.placing false g o

/-- The origins where a grid's next block could be placed, in order. -/
def State.placesOf (s : State) (g : Grid) : List (Nat × Nat) := g.subRects.filter (fun o => (s.placeAt g o).isSome)

/-- Whether a grid comes before another in dispatch: higher priority, then lower launch sequence
(13_progress.md:R269). -/
def Grid.before (a b : Grid) : Bool := decide (b.rec_.pri < a.rec_.pri ∨ (a.rec_.pri = b.rec_.pri ∧ a.lsq < b.lsq))

/-- Whether a grid's next block is the one that the referees take next in its rectangle (13_progress.md:R269). DESIGN CHOICE (log 65): a
grid whose next block fits nowhere now holds no grid of lower priority back. -/
def State.myTurn (s : State) (g : Grid) : Bool :=
  !s.grids.any (fun h => h.before g && h.meets g && s.placesOf h != [])

/-- An origin from its coordinates: x0 in [3:0], y0 in [7:4] (20_isa_system.md:R364). -/
def originOf (org : Nat) : Nat × Nat := (fld org 0 4, fld org 4 4)

/-- A warp at its start (02_state.md:R35), with one path of all lanes at an entry. -/
def Warp.start (idx core part : Nat) (par entry : DWord) : Warp :=
  { idx := idx, core := core, part := part, baseAt := 0, extAt := 0, v := []
    s := cset (cset [] 0 (par.extractLsb' 0 32)) 1 (par.extractLsb' 32 32), p := [], tags := []
    paths := [Path.at 0xFFFFFFFF entry], live := 0xFFFFFFFF, sqd := 5
    prec := List.replicate 32 52, fenv := List.replicate 32 0, ckpt := List.replicate 32 entry
    latchT := 0, latchC := 0, latchP := 0, latchS := 0, wctc := 0, wctp := 0, wcts := 0, lct := 0
    cnt := List.replicate 12 0, ext := 0, trap := none, holder := .free, stopped := false, svc := .none
    reply := 0, pass := false, age := 0, colls := [], busy := [], released := false, hold := false }

/-- What one core of a block holds at its start (02_state.md:R33, R35; 13_progress.md:R278). -/
def BlockCore.start (core gen : Nat) : BlockCore :=
  { core := core, sp := [], spPoison := [], gen := gen, old := none
    scrums := List.replicate 16 { declared := 0, signed := 0, pend := none, signers := [] }
    maps := [], handles := [], tiles := [], running := none }

/-- A block at its start (02_state.md:R35). -/
def Block.start (lsq tkt frame wtc : Nat) (cores : List BlockCore) (warps : List Warp) : Block :=
  { lsq := lsq, tkt := tkt, frame := frame, res := .resident, cores := cores, warps := warps
    bars := List.replicate 16 { phb := false, arc := 0, exc := 0, warps := [] }
    trees := List.replicate wtc { leaves := [], poison := false }, mmas := [], huddle := []
    hudCont := none, round := 0, handler := none, interval := 0, killCode := 0, saving := false, frameTag := 0 }

end Sys2Proof.Machine
end

