-- ==== Sys2Proof/Machine/Block.lean ====
section
/-! DEFINITION. The life of a block: kill (18_recovery.md:R321), start (13_progress.md:R269), end (R278), the rounds of
the huddle (14_isa_sync.md:R291 to R293), save and restore (18_recovery.md:R326 to R328), grants of extended registers
(14_isa_sync.md:R288) and compaction (02_state.md:R48), and the completion of a grid (13_progress.md:R268). -/

namespace Sys2Proof.Machine

/-! ## Completion stores -/

/-- A COMPLETION STORE of a context, where a completion word is named (13_progress.md:R268): none for a context that does not
exist; an event of type 8 where it cannot be made. `aux` is the launch sequence or the `OSQ`. -/
def State.completionStore (s : State) (ctx : Nat) (cwa : Option DWord) (v : DWord) (lsq aux : Nat) : State :=
  match cwa with
  | none => s
  | some a =>
    if !(s.ctxDesc ctx).getLsbD 64 then s
    else
      match s.translate ctx a.toNat .store with
      | .error k => (s.consumeWalk ctx a.toNat).postEvent ctx 8 k a (BitVec.ofNat 64 aux) lsq 0 0 s.modn
      | .ok x => (s.fillTlb ctx a.toNat).homeStore none x.sys x.pa (leBytes 8 v.toNat) false

/-- A completion word where 0 stands for none (13_progress.md:R261; 22_attach.md:R379). -/
def wordOrNone (n : Nat) : Option DWord := if n = 0 then none else some (BitVec.ofNat 64 n)

/-- The value stored for a failure: 0x8000_0000_0000_0000 plus a code. -/
def failValue (n : Nat) : DWord := BitVec.ofNat 64 (2 ^ 63 + n)

/-! ## Killing -/

/-- A killed warp issues nothing more (18_recovery.md:R321). -/
def Warp.kill (w : Warp) : Warp :=
  { w with paths := [], live := 0, trap := none, stopped := true, holder := .free, colls := [], svc := .none }

/-- A killed block: every warp stops, its user handler ends, partial signatures and register results are discarded. Its
memory stays as the source of operations under way, until the block ends, and so do the matrix operations that have issued; those of a
saved block go with its frame. -/
def Block.kill (b : Block) (code : Nat) : Block :=
  { b with res := .killed, killCode := code, saving := false, handler := b.handler.filter Activation.firmware, huddle := []
           mmas := if b.res = .saved then [] else b.mmas
           warps := b.warps.map Warp.kill
           cores := b.cores.map (fun c => { c with scrums := c.scrums.map (fun _ => Scrum.empty) }) }

/-- Kill every block of a grid on the module; unclaimed tickets are abandoned (18_recovery.md:R321). -/
def State.killGrid (s : State) (lsq code : Nat) : State :=
  let ctx := s.ctxOf lsq
  let hit := s.blocks.filter (fun b => b.lsq == lsq && b.res != Residence.killed)
  let out := fun e : Escalation => e.ctx == ctx && hit.any (fun b => b.frame == e.frame)
  let kill := fun b : Block => b.kill code
  let note := fun g : Grid => { g with killed := g.killed + hit.length, killCode := if g.killCode = 0 then code else g.killCode }
  let s := { s with blocks := updIf (fun b => b.lsq == lsq && b.res != Residence.killed) kill s.blocks
                    att := { s.att with escal := s.att.escal.filter (fun e => !out e) } }
  s.updGrid lsq note

/-- KILL A BLOCK (18_recovery.md:R321): an event of type 1 with words 1:0 and 7:6 of the record of a warp, none without
one, then every block of its grid on the module. A block already killed is left as it is. -/
def State.killBlockFor (s : State) (lsq tkt wrp code : Nat) (wp : Option Warp) : State :=
  match s.block? lsq tkt with
  | none => s
  | some b =>
    if b.res = .killed then s
    else
      let word := fun i => match wp with | some w => w.trapWord i | none => 0
      let s := s.postEvent (s.ctxOf lsq) 1 code (BitVec.ofNat 64 (word 7 * 2 ^ 32 + word 6))
        (BitVec.ofNat 64 (word 1 * 2 ^ 32 + word 0)) lsq tkt wrp s.modn
      s.killGrid lsq code

/-- Kill a block with the record of one of its warps. -/
def State.killBlock (s : State) (lsq tkt wrp code : Nat) : State :=
  s.killBlockFor lsq tkt wrp code ((s.block? lsq tkt).bind (fun b => b.warp? wrp))

/-- The failure value of a killed grid (18_recovery.md:R321). -/
def killValue (code : Nat) : DWord := failValue (0x100 + code)

/-! ## Starting blocks -/

/-- The seat of a warp on a warp. -/
def Warp.sit (w : Warp) (x : Seat) : Warp :=
  { w with core := x.core, part := x.part, baseAt := x.baseAt, extAt := x.extAt }

/-- The generation of the next allocation on a core (13_progress.md:R278). -/
def State.genOf (s : State) (core : Nat) : Nat := (cget s.gens core).toNat

/-- The generation of the allocations of some cores rises by 1, modulo 64 (13_progress.md:R278). -/
def State.bumpGens (s : State) (cores : List Nat) : State :=
  { s with gens := cores.foldl (fun g c => cset g c (cget g c + 1)) s.gens }

/-- Cores take a new allocation: L1 copies give way where there is no room (13_progress.md:R280). -/
def State.trimCores (s : State) (cores : List Nat) : State := cores.foldl State.trimL1 s

/-- BLOCK_DISPATCH: the referees claim a grid's next ticket at an origin (13_progress.md:R269 to R271). The tiles and
extended registers of a deterministic grid are set aside for the block; its names stay unbound until `aget` and `xget`
(DEDUCED, log 12: R270 says both instructions then never wait). -/
def execBlockDispatch (lsq org : Nat) (s : State) : Out :=
  match s.grid? lsq with
  | none => .next s
  | some g =>
    if !s.myTurn g then .next s
    else
      match s.placeAt g (originOf org), s.freeFrame g.rec_.ctx with
      | some (none, seats), some f =>
        let cores := (g.coresAt (originOf org)).map (fun c => BlockCore.start c (s.genOf c))
        let warps := seats.map (fun x => (Warp.start x.idx x.core x.part g.rec_.par g.rec_.ent).sit x)
        let b := Block.start lsq g.nextTkt f g.rec_.wtc cores warps
        .next (({ s with blocks := s.blocks ++ [b] }.updGrid lsq (fun g => { g with nextTkt := g.nextTkt + 1 })).trimCores
          (g.coresAt (originOf org)))
      | _, _ => .next s

/-! ## Ending warps and blocks -/

/-- Whether every lane of a warp has ended (04_isa_core.md:R124). -/
def Warp.ended (w : Warp) : Bool := w.live == 0 && w.paths == []

/-- Whether every counter of a warp reads zero and no register result of it is outstanding. -/
def Warp.quiet (w : Warp) : Bool := w.cnt.all (· == 0) && w.busy == []

/-- A warp gives up its extended block: the registers lose contents and tags (02_state.md:R49). -/
def Warp.dropExt (w : Warp) (base : Nat) : Warp :=
  { w with ext := 0, v := w.v.filter (fun e => decide (e.1 < 256 * base)), tags := w.tags.filter (fun e => decide (e.1 < 8 * base)) }

/-- Whether a block keeps the seats of its ended warps: its huddle has a deposit, and the warps of the next round take them
(14_isa_sync.md:R291). -/
def Block.keepsSeats (b : Block) : Bool := b.huddle != []

/-- An ended warp gives up its extended block, and, unless the next round takes its seat, its base block and its partition
slot (04_isa_core.md:R124; 14_isa_sync.md:R291). -/
def Warp.giveUp (w : Warp) (base : Nat) (keep : Bool) : Warp :=
  if keep then w.dropExt base else { w with ext := 0, v := [], tags := [], released := true }

/-- Whether an ended warp has something to give up: its counters read zero. -/
def Block.mayGive (b : Block) (w : Warp) : Bool :=
  b.res == .resident && w.ended && w.quiet && !w.released && (!b.keepsSeats || w.ext != 0)

/-- WARP_RELEASE: an ended warp with all counters at zero gives up its registers and its slot (04_isa_core.md:R124). -/
def execWarpRelease (r : Ref) (s : State) : Out :=
  match s.block? r.lsq r.tkt, s.grid? r.lsq with
  | some b, some g =>
    match b.warp? r.wrp with
    | some w =>
      if b.mayGive w then
        .next (s.updWarp r.lsq r.tkt r.wrp (fun w => w.giveUp g.rec_.base b.keepsSeats))
      else .next s
    | none => .next s
  | _, _ => .next s

/-- The deferred float atomics that a block still owes (10_ordering.md:R224). -/
def State.owedAtoms (s : State) (b : Block) : List DetAtom := match s.grid? b.lsq with | some g => g.dueAtoms b.tkt | none => []

/-- Whether operations that a block started are under way, deferred float atomics apart. -/
def State.blockOps (s : State) (b : Block) : Bool :=
  let owed := (s.owedAtoms b).map DetAtom.grp
  s.groups.any (fun g => g.lsq == b.lsq && g.tkt == b.tkt && !owed.contains g.op)

/-- Whether the end of a block, or of a round of it, is at hand and its deferred float atomics are to be applied: every warp has
ended, or the block is killed (10_ordering.md:R224; 18_recovery.md:R321). -/
def State.atomsDue (s : State) (b : Block) : Bool :=
  s.owedAtoms b != [] && (b.res == .killed || (b.res == .resident && b.warps.all Warp.ended))

/-- Whether a sector that carries the generation of a block's allocation is in flight to it (13_progress.md:R278): the current
one, or, once a save has advanced it, the one before (18_recovery.md:R327). -/
def State.inbound (s : State) (b : Block) : Bool :=
  let own := fun r : Ref => r.lsq == b.lsq && r.tkt == b.tkt
  let sp := fun p : Place => match p with | .sp _ => true | .glob _ => false
  let carries := fun gens : List Nat => (b.cores.zip gens).any (fun x => x.1.admits x.2)
  s.copies.any (fun o => own o.src && sp o.to_ && carries o.gens && o.todo != []) ||
  s.rops.any (fun o => own o.src && o.to_.any sp && carries o.gens) ||
  s.casts.any (fun o => o.targets.any (fun t => t.alloc == some (b.lsq, b.tkt) && t.todo != [] &&
    (b.coreAt t.core).any (fun c => c.admits t.gen)))

/-- Whether the round of a block is over: every lane of every warp has ended, the counters read zero, and `TIME`
exceeds the largest `WCTP` (14_isa_sync.md:R291). -/
def State.roundOver (s : State) (b : Block) : Bool :=
  b.res == .resident && b.warps.all Warp.ended && b.warps.all Warp.quiet &&
    decide ((maxT (b.warps.map Warp.wctp)).toNat < s.time.toNat)

/-- The largest `WCTP` of a block's warps. -/
def Block.wctp (b : Block) : DWord := maxT (b.warps.map Warp.wctp)

/-- A block leaves the module: its resources are free and its generations have advanced (13_progress.md:R278). -/
def State.removeBlock (s : State) (b : Block) : State :=
  let s := if b.res = .saved then s
    else s.bumpGens ((b.cores.filter (fun c => c.old.isNone)).map BlockCore.core)
  let s := { s with blocks := s.blocks.filter (fun x => !(x.lsq == b.lsq && x.tkt == b.tkt)) }
  s.updGrid b.lsq (fun g => { g with ended := g.ended + 1, wctp := tmax g.wctp b.wctp })

/-- Whether something holds the end of a block back: an operation of its warps, a sector in flight to it, or a matrix operation that
has not retired, by whose tile the unbinding waits (07_isa_matrix.md:R184; 13_progress.md:R278). -/
def State.blockBusy (s : State) (b : Block) : Bool := s.blockOps b || s.inbound b || b.mmas != []

/-- BLOCK_END: a block whose round ended without a deposit ends (14_isa_sync.md:R291), and so does a killed block whose
operations have landed (18_recovery.md:R321); in both cases once no current sector is in flight to it
(13_progress.md:R278). The end of a block ends its barrier interval, whose deferred float atomics are applied before
(10_ordering.md:R224). -/
def execBlockEnd (r : Ref) (s : State) : Out :=
  match s.block? r.lsq r.tkt with
  | none => .next s
  | some b =>
    if s.atomsDue b then .next (s.endInterval r.lsq r.tkt)
    else if s.blockBusy b then .next s
    else if b.res = .killed then .next (s.removeBlock b)
    else if s.roundOver b && b.huddle == [] then .next ((s.endInterval r.lsq r.tkt).removeBlock b)
    else .next s

/-! ## Rounds of the huddle -/

/-- The order of deposits: key, depositor, lane (14_isa_sync.md:R291). -/
def HudEntry.before (a b : HudEntry) : Bool :=
  decide (a.key < b.key ∨ (a.key = b.key ∧ (a.wrp < b.wrp ∨ (a.wrp = b.wrp ∧ a.lane < b.lane))))

/-- Insert a deposit in order. -/
def HudEntry.insert (a : HudEntry) : List HudEntry → List HudEntry
  | [] => [a]
  | b :: r => if a.before b then a :: b :: r else b :: HudEntry.insert a r

/-- The deposits in order. -/
def sortHuddle (l : List HudEntry) : List HudEntry := l.foldl (fun r a => a.insert r) []

/-- A warp of a new round: entry j in lane j, lanes beyond the last entry exited (14_isa_sync.md:R291, R292). -/
def Warp.ofRun (x : Seat) (par cont : DWord) (es : List HudEntry) : Warp :=
  let w := (Warp.start x.idx x.core x.part par cont).sit x
  let m := maskOf (List.range es.length)
  let col := fun (k : Nat) (f : HudEntry → Word) => (es.zip (List.range es.length)).map (fun e => (32 * k + e.2, f e.1))
  { w with live := m, paths := [Path.at m cont]
           v := csetAll [] (col 0 (fun e => e.payload.extractLsb' 0 32) ++ col 1 (fun e => e.payload.extractLsb' 32 32) ++
             col 2 (fun e => BitVec.ofNat 32 e.key)) }

/-- The runs of 32 of a list. -/
def runs32 {α : Type} : Nat → List α → List (List α)
  | 0, _ => []
  | f + 1, l => if l.length = 0 then [] else l.take 32 :: runs32 f (l.drop 32)

/-- The seat that new warp k takes among those that the block has kept on the core of warp k (13_progress.md:R269). -/
def Block.keptSeat (b : Block) (g : Grid) (k : Nat) : Option Seat :=
  let n := b.cores.length
  let mine := b.warps.filter (fun w => !w.released && (b.cores[k % n]?).map BlockCore.core == some w.core)
  (mine[k / n]?).map (fun w =>
    { idx := k, core := w.core, part := w.part, baseAt := w.baseAt, baseLen := g.rec_.base, extAt := w.extAt, extLen := 0 })

/-- The seats of the warps of a new round: placed afresh in the block's own slots and granules where they fit, otherwise each
takes a seat that the block has kept on its core (14_isa_sync.md:R291). None while a core has no seat for a warp of the round,
because a warp ended and gave up its slot (04_isa_core.md:R124) before the round's first deposit: the round then waits. -/
def State.roundSeats (s : State) (b : Block) (g : Grid) (n : Nat) : Option (List Seat) :=
  let clear := fun b : Block => { b with warps := [] }
  let s' := s.updBlock b.lsq b.tkt clear
  s'.seatAll false g (b.lsq, b.tkt) (b.cores.map BlockCore.core) ((List.range n).map (fun k => (k, 0))) <|>
    allSome ((List.range n).map (b.keptSeat g))

/-- The runs of a block's next round with the seats of its warps, when the round may start: it has deposits, the last round is over
and every operation of its warps has completed, the matrix operations and the fetches of handles among them: a fetch that waits for a
translation is over for the round (14_isa_sync.md:R291, R293). -/
def State.nextRound (s : State) (b : Block) (g : Grid) : Option (List (List HudEntry) × List Seat) :=
  if b.huddle == [] || !s.roundOver b || s.blockOps b || b.mmas != [] || (s.pendingDue b).isSome then none
  else
    let es := runs32 128 (sortHuddle b.huddle)
    (s.roundSeats b g es.length).map (fun l => (es, l))

/-- HUDDLE_ROUND_END: a round with deposits is over, and its entries start again as fresh warps, sorted by key
(14_isa_sync.md:R291 to R293). -/
def execHuddleRoundEnd (r : Ref) (s : State) : Out :=
  match s.block? r.lsq r.tkt, s.grid? r.lsq with
  | some b, some g =>
    if s.atomsDue b && b.huddle != [] then .next (s.endInterval r.lsq r.tkt)
    else match s.nextRound b g with
      | none => .next s
      | some (es, seats) =>
        let warps := (seats.zip es).map (fun x => Warp.ofRun x.1 g.rec_.par (b.hudCont.getD 0) x.2)
        let s := s.endInterval r.lsq r.tkt
        let s := s.updGrid r.lsq (fun g => { g with wctp := tmax g.wctp b.wctp })
        .next (s.updBlock r.lsq r.tkt (fun b =>
          { b with warps := warps, huddle := [], hudCont := none, round := b.round + 1 }))
  | _, _ => .next s

/-! ## Save and restore -/

/-- Write the completion of the command that the service cores have taken, and end it (22_attach.md:R376, R377): in the
command ring, or as a secured message. -/
def State.complete (s : State) (status result : Nat) : State :=
  match s.att.cmd with
  | none => s
  | some c =>
    let v := BitVec.ofNat 128 (result % 2 ^ 64 * 2 ^ 64 + bits c.entry 32 16 * 2 ^ 32 + status)
    let sz := s.att.crs
    let i := s.att.cci.toNat % 2 ^ sz
    let s := if c.ring then s.homeStore none true (s.att.crb.toNat + 64 * 2 ^ sz + 16 * i) (leBytes 16 v.toNat) false else s
    { s with att := { s.att with cmd := none, last := v, cci := if c.ring then s.att.cci + 1 else s.att.cci } }

/-- A PREEMPT of a block completes when the block has been saved (22_attach.md:R377, R379). -/
def State.endPreempt (s : State) (ctx frame : Nat) : State :=
  match s.att.cmd with
  | some c =>
    if bits c.entry 0 16 = 0x0C ∧ bits c.entry 64 6 = ctx ∧ bits c.entry 128 10 = frame then s.complete 0 0 else s
  | none => s

/-- The address of a block's save frame (18_recovery.md:R326). -/
def State.frameBase (s : State) (ctx frame : Nat) : Nat := bits (s.ctxDesc ctx) 320 64 + frame * 2 ^ 24

/-- The areas of a frame whose layout the firmware fixes and that a block uses: offset and length
(18_recovery.md:R326). -/
def Block.firmAreas (b : Block) : List (Nat × Nat) :=
  [(0, 0x1000), (0x90000, 0x10000)] ++ b.warps.map (fun w => (0x10000 + 0x1000 * w.idx, 0x1000)) ++
    (if b.huddle = [] then [] else [(0xA0000, 0x10000)])

/-- The areas of the leaf arrays of a block's sum-tree registers, one after another (18_recovery.md:R326; DESIGN CHOICE, log
13). -/
def treeAreas (g : Grid) (n : Nat) : List (Nat × Nat) := (List.range n).map (fun r => (0x100000 + g.treeLen * r, g.treeLen))

/-- The bytes of an area under a tag. -/
def areaBytes (tag : Nat) (a : Nat × Nat) : List Byte := (List.range a.2).map (fun k => Config.frameByte tag (a.1 + k))

/-- The 32-bit words of bytes. -/
def wordsOf : Nat → List Byte → List Word
  | 0, _ => []
  | n + 1, l => BitVec.ofNat 32 (leNat (l.take 4)) :: wordsOf n (l.drop 4)

/-- The bytes of 32-bit words. -/
def bytesOf (l : List Word) : List Byte := l.flatMap (fun w => leBytes 4 w.toNat)

/-- The registers per thread of a warp's current allocation (02_state.md:R46). -/
def Warp.regs (w : Warp) (base : Nat) : Nat := if w.released then 0 else 8 * base + w.ext

/-- The frame offset of the scratchpad of core q (18_recovery.md:R326). -/
def frameSp (q : Nat) : Nat := 0x200000 + 0x80000 * q
/-- The frame offset of tile i of core q. -/
def frameTile (q i : Nat) : Nat := 0x400000 + 0x100000 * q + 0x4000 * i
/-- The frame offset of the vector registers of warp w. -/
def frameVec (w : Nat) : Nat := 0x800000 + 0xC000 * w
/-- The frame offset of the reply slot of warp w (13_progress.md:R277). -/
def frameReply (w : Nat) : Nat := 0x1000 + 32 * w

/-- What a save writes into the frame: offset, bytes, and the mark of poison (18_recovery.md:R326). -/
def Block.frameImage (b : Block) (g : Grid) (tag : Nat) : List (Nat × List Byte × Bool) :=
  let cores := b.cores.zip (List.range b.cores.length)
  (b.firmAreas.map (fun a => (a.1, areaBytes tag a, false))) ++
  ((treeAreas g b.trees.length).zip b.trees).map (fun a => (a.1.1, areaBytes tag a.1, a.2.poison)) ++
  b.warps.map (fun w => (frameReply w.idx, leBytes 32 w.reply.toNat, false)) ++
  cores.flatMap (fun c =>
    (frameSp c.2, cgetMany c.1.sp 0 g.rec_.scr, false) ::
      c.1.spPoison.map (fun k => (frameSp c.2 + 32 * k.1, cgetMany c.1.sp (32 * k.1) 32, true))) ++
  cores.flatMap (fun c => c.1.tiles.map (fun t => (frameTile c.2 t.1, bytesOf (cgetMany t.2.el 0 4096), t.2.poison))) ++
  b.warps.map (fun w => (frameVec w.idx, bytesOf (cgetMany w.v 0 (32 * w.regs g.rec_.base)), false))

/-- The counters of a warp that signatures still hold: of an `mma` that has not issued, or that waits on the trap of its
last signer (18_recovery.md:R327, R328). -/
def Block.heldBy (b : Block) (wrp n : Nat) : Nat :=
  let stuck := b.mmas.filter (fun m => match b.warp? m.last.wrp with | some w => w.trap.isSome | none => false)
  let all := b.cores.flatMap (fun c => c.scrums.flatMap Scrum.signers) ++ stuck.flatMap MmaOp.signers
  (all.filter (fun x => x.wrp == wrp && x.ctr == some n)).length

/-- Whether a path is parked within its clause (18_recovery.md:R327, step 1): it waits for a condition, not for its own warp's stall
to end, nor for its word to issue again. -/
def Path.parked (p : Path) : Bool :=
  match p.park with
  | .run | .released _ _ | .stall _ | .tile _ _ (some _) | .remote _ => false
  | _ => true

/-- Whether a warp has come to rest: at clause boundaries, parked, or stopped (18_recovery.md:R327, step 1). -/
def Warp.atRest (w : Warp) : Bool := w.stopped || w.paths.all (fun p => p.word == 0 || p.parked)

/-- Whether a number stands for the firmware's own sequence, whose counters a save does not wait for. -/
def Block.handsFree (b : Block) (wrp : Nat) : Bool := wrp == handlerWrp && b.firmware

/-- Steps 2 and 3 of a save: every register write has landed, every counter reads zero but for signatures not issued,
and every tile operation has retired (18_recovery.md:R327). -/
def Block.drained (b : Block) : Bool :=
  let ws := b.warps ++ (b.handler.map (fun a => [a.warp])).getD []
  ws.all (fun w => w.busy == []) &&
  b.issuers.all (fun w => b.handsFree w.idx || (List.range 12).all (fun n => nth w.cnt n 0 == b.heldBy w.idx n)) &&
  b.mmas.all (fun m => match b.refWarp? m.last with | some w => w.trap.isSome | none => false)

/-- A save advances the generations of a block's allocations, which from then on admit only the sectors that carry the
generation before (18_recovery.md:R327, step 4). -/
def State.advanceGens (s : State) (b : Block) : State :=
  let up := fun c : BlockCore => { c with old := some c.gen, gen := (c.gen + 1) % 64 }
  (s.bumpGens (b.cores.map BlockCore.core)).updBlock b.lsq b.tkt (fun b => { b with cores := b.cores.map up })


/-- The sectors of a frame that its last save marked. -/
def State.markedIn (s : State) (ctx frame : Nat) : List Nat :=
  ((nth s.ctxs ctx CtxEnt.absent).marked.filter (fun x => x.1 == frame)).map Prod.snd

/-- A save of a frame marks some sectors of it. -/
def CtxEnt.mark (c : CtxEnt) (frame : Nat) (ks : List Nat) : CtxEnt :=
  { c with marked := c.marked.filter (fun x => x.1 != frame) ++ ks.map (fun k => (frame, k)) }

/-- Whether a store of a frame image meets a translation fault, or poison that no save has left there
(20_isa_system.md:R363; DESIGN CHOICE, log 13: what a save marks is no fault of the next). -/
def State.frameFault (s : State) (b : Block) (ctx base : Nat) (image : List (Nat × List Byte × Bool)) : Bool :=
  image.any (fun x =>
    (match s.translateRange ctx (base + x.1) x.2.1.length .store with | .error _ => true | .ok _ => false) ||
    (sectorsOf x.1 x.2.1.length).any (fun k =>
      !(s.markedIn ctx b.frame).contains k && (s.homeRead ctx (base + 32 * k) 32).2))

/-- The pieces of memory that a frame of a block occupies, where it translates. -/
def State.framePieces (s : State) (b : Block) (g : Grid) (acc : Acc) : List (Xlat × Nat) :=
  (b.frameImage g s.fresh).flatMap (fun x =>
    s.linePieces g.rec_.ctx (s.frameBase g.rec_.ctx b.frame + x.1) x.2.1.length acc)

/-- What a frame that cannot be used leaves in the error log: the context consumes the poison that no save has left in the frame,
and the poisoned table entries on its walks (22_attach.md:R381). -/
def State.consumeFrame (s : State) (b : Block) (g : Grid) (acc : Acc) : State :=
  let ctx := g.rec_.ctx
  let base := s.frameBase ctx b.frame
  let meets := fun k : Nat => (s.homeRead ctx (base + 32 * k) 32).2 ||
    (match s.lookup ctx (base + 32 * k) with | .error 7 => true | _ => false)
  let ks := ((b.frameImage g s.fresh).flatMap (fun x => sectorsOf x.1 x.2.1.length)).filter (fun k =>
    !(s.markedIn ctx b.frame).contains k && meets k)
  ks.foldl (fun s k => (s.consumeWalk ctx (base + 32 * k)).consume ctx (s.linePieces ctx (base + 32 * k) 32 acc)) s

/-- The sectors of a frame image that are marked. -/
def imagePoison (image : List (Nat × List Byte × Bool)) : List Nat :=
  (image.filter (fun x => x.2.2)).flatMap (fun x => sectorsOf x.1 x.2.1.length)

/-- SAVE A BLOCK (18_recovery.md:R327, step 5): the frame is written at its home, and the block's resources are free. A frame
that cannot be written kills the block with code 11. -/
def State.saveBlock (s : State) (b : Block) (g : Grid) : State :=
  let base := s.frameBase g.rec_.ctx b.frame
  let image := b.frameImage g s.fresh
  if s.frameFault b g.rec_.ctx base image then (s.consumeFrame b g .store).killBlock b.lsq b.tkt 0 11
  else
    let tag := s.fresh
    let s := image.foldl (fun s x => s.homeStoreVa none g.rec_.ctx (base + x.1) x.2.1 x.2.2)
      { s with fresh := s.fresh + 1 }
    let s := { s with ctxs := updAt s.ctxs g.rec_.ctx (fun c => c.mark b.frame (imagePoison image)) }
    s.updBlock b.lsq b.tkt (fun b => { (b.mapPaths Path.saved) with res := .saved, saving := false, frameTag := tag })

/-- Whether a block that is pre-empted has come to rest and its operations are over (18_recovery.md:R327, steps 1 to 3). -/
def Block.saveReady (b : Block) : Bool :=
  b.res == .resident && b.saving && b.warps.all Warp.atRest && (b.handler.map (fun a => a.warp.atRest)).getD true && b.drained

/-- BLOCK_SAVE: a block that is pre-empted has come to rest. Its generations advance, and once every sector that carries the old
ones has landed or been dropped it is saved (18_recovery.md:R327). -/
def execBlockSave (r : Ref) (s : State) : Out :=
  match s.block? r.lsq r.tkt, s.grid? r.lsq with
  | some b, some g =>
    if !b.saveReady then .next s
    else if !b.advanced then .next (s.advanceGens b)
    else if s.inbound b then .next s
    else .next ((s.saveBlock b g).endPreempt g.rec_.ctx b.frame)
  | _, _ => .next s

/-- Read a range of a frame at its home; none when it does not translate. -/
def State.frameRead (s : State) (ctx va len : Nat) : Option (List Byte × Bool) :=
  match s.translateRange ctx va len .load with
  | .error _ => none
  | .ok _ => some (s.homeRead ctx va len)

/-- Whether the areas that the firmware lays out stand in the frame as the save left them. DESIGN CHOICE (log 13): a
frame that something else has written into is refused. -/
def State.frameOk (s : State) (b : Block) (ctx base : Nat) : Bool :=
  b.firmAreas.all (fun a => s.frameRead ctx (base + a.1) a.2 == some (areaBytes b.frameTag a, false))

/-- The sum-tree registers of a block as its frame gives them back; a poisoned sector of a register's leaves sets its poison
bit. None where something else has written into them (DESIGN CHOICE, log 13). -/
def State.frameTrees (s : State) (b : Block) (g : Grid) (base : Nat) : List (Option Tree) :=
  ((treeAreas g b.trees.length).zip b.trees).map (fun a =>
    match s.frameRead g.rec_.ctx (base + a.1.1) a.1.2 with
    | none => none
    | some x => if x.1 = areaBytes b.frameTag a.1 then some { a.2 with poison := x.2 } else none)

/-- The scratchpad of core q as its frame holds it. -/
def State.frameCore (s : State) (c : BlockCore) (ctx base q scr : Nat) : Option BlockCore :=
  match s.frameRead ctx (base + frameSp q) scr with
  | none => none
  | some x =>
    let bad := (List.range (scr / 32)).filter (fun k => (s.homeRead ctx (base + frameSp q + 32 * k) 32).2)
    let tiles := c.tiles.filterMap (fun t => (s.frameRead ctx (base + frameTile q t.1) 0x4000).map (fun y =>
      (t.1, { el := cells 0 (wordsOf 4096 y.1), poison := y.2 : Tile })))
    if tiles.length < c.tiles.length then none
    else some { c with sp := cells 0 x.1, spPoison := csetAll [] (bad.map (fun k => (k, 1))), tiles := tiles }

/-- The registers of a warp as its frame holds them; none where a sector of them is poisoned, which no register can hold
(DESIGN CHOICE, log 13). -/
def State.frameWarp (s : State) (w : Warp) (g : Grid) (ctx base : Nat) : Option Warp :=
  match s.frameRead ctx (base + frameVec w.idx) (128 * w.regs g.rec_.base) with
  | some (d, false) => some { w with v := cells 0 (wordsOf (32 * w.regs g.rec_.base) d) }
  | _ => none

/-- A warp that a sequence of the firmware held when its block was saved goes on, or rejoins the referee's order when it has
trapped; a pending escalation keeps it (18_recovery.md:R328; 20_isa_system.md:R364). -/
def Warp.unheld (w : Warp) (escalated : Bool) : Warp :=
  match w.holder with
  | .firmware _ _ => if escalated then w else { w with holder := .free, stopped := w.trap.isSome }
  | _ => w

/-- Whether an escalation of a warp of a block is pending (22_attach.md:R388). -/
def State.escalated (s : State) (b : Block) (wrp : Nat) : Bool :=
  s.att.escal.any (fun e => e.ctx == s.ctxOf b.lsq && e.frame == b.frame && e.wrp == wrp)

/-- A saved block as its frame gives it back, seated on new cores (18_recovery.md:R328); none when the frame is refused.
Work that names a core moves with the core's place in the block. -/
def State.unfreeze (s : State) (b : Block) (g : Grid) (cores : List Nat) (seats : List Seat) : Option Block :=
  let ctx := g.rec_.ctx
  let base := s.frameBase ctx b.frame
  let move := b.newCore cores
  if !s.frameOk b ctx base then none
  else
    match allSome ((b.cores.zip (List.range b.cores.length)).map (fun c => s.frameCore c.1 ctx base c.2 g.rec_.scr)),
        allSome (b.warps.map (fun w => s.frameWarp w g ctx base)), allSome (s.frameTrees b g base) with
    | some cs, some ws, some ts =>
      let place := fun w : Warp => match seats.find? (fun x => x.idx == w.idx) with
        | some x => w.sit x
        | none => { w with core := move w.core }
      some { b.mapPaths (Path.barDone b.bars) with
        res := .resident
        cores := (cs.zip cores).map (fun x => { x.1 with core := x.2, gen := s.genOf x.2, old := none })
        trees := ts
        warps := ws.map (fun w => place { w.unheld (s.escalated b w.idx) with paths := w.paths.map (Path.barDone b.bars) })
        handler := (b.mapPaths (Path.barDone b.bars)).handler.map (fun a => { a with warp := { a.warp with core := move a.warp.core } })
        mmas := b.mmas.map (fun m => { m with core := move m.core }) }
    | _, _, _ => none

/-- ACT ON A FAULT-REPLY for a warp: resume it as `refres.retry`, or kill its block with code 4 (22_attach.md:R388). -/
def State.actReply (s : State) (b : Block) (wrp : Nat) (decline : Bool) : State :=
  let drop := fun e : Escalation => e.ctx == s.ctxOf b.lsq && e.frame == b.frame && e.wrp == wrp
  let s := { s with att := { s.att with escal := s.att.escal.filter (fun e => !drop e) } }
  if decline then s.killBlock b.lsq b.tkt wrp 4
  else s.updWarp b.lsq b.tkt wrp (fun w => match w.trap with
    | some t => w.returnFrom t .retry
    | none => w)

/-- Cores drop their L1 copies: warps that come from other cores must not read older bytes than they have written
(10_ordering.md:R213). -/
def State.dropCopies (s : State) (cores : List Nat) : State :=
  { s with mem := { s.mem with l1 := s.mem.l1.filter (fun c => !cores.contains c.core) } }

/-- RESTORE A BLOCK at an origin with its seats (18_recovery.md:R328; 16_isolation.md:R310); a frame that is refused kills it with
code 11. Replies recorded while it was saved are acted on. -/
def State.restoreBlock (s : State) (b : Block) (g : Grid) (o : Nat × Nat) (seats : List Seat) : State :=
  let s := (s.framePieces b g .load).foldl (fun s x => s.noteSys x.1.sys x.1.pa) s
  match s.unfreeze b g (g.coresAt o) seats with
  | none => (s.consumeFrame b g .load).killBlock b.lsq b.tkt 0 11
  | some b' =>
    let s := (((s.updBlock b.lsq b.tkt (fun _ => b')).dropCopies (g.coresAt o))).trimCores (g.coresAt o)
    (s.att.escal.filter (fun e => e.ctx == g.rec_.ctx && e.frame == b.frame)).foldl (fun s e =>
      match e.reply with
      | some d => s.actReply b' e.wrp d
      | none => s) s

/-- BLOCK_RESTORE: the referees restore the saved block of a grid that comes next, at an origin that can take it
(13_progress.md:R269, 18_recovery.md:R328). -/
def execBlockRestore (r : Ref) (org : Nat) (s : State) : Out :=
  match s.grid? r.lsq with
  | none => .next s
  | some g =>
    match s.placeAt g (originOf org) with
    | some (some b, seats) =>
      if b.tkt = r.tkt ∧ s.myTurn g then .next (s.restoreBlock b g (originOf org) seats) else .next s
    | _ => .next s

/-! ## Extended registers -/

/-- The waiting `xget` requests of a partition: block, warp, lane, size and order. DESIGN CHOICE (log 24): the request of a stopped warp
keeps no place, and younger ones are granted before it; the warp requests again when it resumes. -/
def State.extWaiters (s : State) (core part : Nat) : List (Block × Warp × Nat × Nat × Nat) :=
  s.blocks.flatMap (fun b => if b.res ≠ .resident then [] else
    b.warps.flatMap (fun w => if w.core ≠ core ∨ w.part ≠ part ∨ w.stopped then [] else
      w.paths.filterMap (fun p => match p.park with
        | .xget n o => some (b, w, lowLane p.mask, n, o)
        | _ => none)))

/-- Whether the free pool of a partition covers an extended block for a block of a core, the reserve kept back
(13_progress.md:R271). -/
def State.extCovered (s : State) (core part : Nat) (b : Block) (n : Nat) : Bool :=
  decide (n / 8 + s.regReserve core part (b.lsq, b.tkt) ≤ freeGranules (s.seats core part))

/-- The place of an extended block (02_state.md:R47): aligned to its own size. -/
def State.extSpot (s : State) (core part n : Nat) : Option Nat := findSpot (seatSpans (s.seats core part)) (n / 8) (n / 8)

/-- GRANT AN EXTENDED BLOCK: its registers read 0 and have tag 0 (02_state.md:R49). -/
def Warp.grantExt (w : Warp) (base n spot : Nat) : Warp := { w.dropExt base with ext := n, extAt := spot }

/-- The request of a partition that is granted next: the oldest that the free pool covers (13_progress.md:R271). -/
def State.nextExt (s : State) (core part : Nat) : Option (Block × Warp × Nat × Nat × Nat) :=
  oldestOf ((s.extWaiters core part).filter (fun x => s.extCovered core part x.1 x.2.2.2.1))

/-- A warp takes an extended block; a path of it that waits for one judges its word again (14_isa_sync.md:R288). -/
def Warp.takeExt (w : Warp) (base n spot : Nat) : Warp :=
  let again := fun p : Path => match p.park with | .xget _ _ => { p with park := .run } | _ => p
  { w.grantExt base n spot with paths := w.paths.map again }

/-- EXTREG_GRANT: the oldest waiting request is granted and its path goes on (14_isa_sync.md:R288). -/
def execExtregGrant (core part : Nat) (s : State) : Out :=
  match s.nextExt core part with
  | none => .next s
  | some (b, w, lane, n, _) =>
    match s.extSpot core part n, s.grid? b.lsq with
    | some spot, some g =>
      .next (s.updWarp b.lsq b.tkt w.idx (fun w => (w.takeExt g.rec_.base n spot).advance lane))
    | _, _ => .next s

/-! ## Compaction -/

/-- The seats that a block waits for because of fragmentation alone: of the first grid in dispatch order that no origin admits,
though an origin has the free granules (02_state.md:R48). -/
def State.wantedSeats (s : State) : List Seat :=
  (s.grids.findSome? (fun g =>
    if !s.hasWork g || !s.myTurn g || s.placesOf g != [] then none
    else g.subRects.findSome? (fun o => (s.placing true g o).map Prod.snd))).getD []

/-- Whether seats fit on a partition one after another. -/
def fitAll (l : List Seat) : List Seat → Bool
  | [] => true
  | x :: r => match fitSpots l x.baseLen x.extLen with
    | none => false
    | some a => fitAll (l ++ [{ x with baseAt := a.1, extAt := a.2 }]) r

/-- The extended blocks for which fragmentation alone leaves no place on a partition, in granules: that of the oldest waiting
`xget`, or those that wanted seats bring; none where nothing is stopped (02_state.md:R48). -/
def State.stopped (s : State) (wanted : List Seat) (core part : Nat) : Option (List Nat) :=
  let mine := wanted.filter (fun x => x.core == core && x.part == part)
  match s.nextExt core part with
  | some (_, _, _, n, _) => if (s.extSpot core part n).isNone then some [n / 8] else
      if fitAll (s.seats core part) mine then none else some (mine.map Seat.extLen)
  | none => if fitAll (s.seats core part) mine then none else some (mine.map Seat.extLen)

/-- The places of extended blocks packed from the top of the pool, largest first: keys with their start. -/
def packDown : Nat → List (Nat × Nat) → List (Nat × Nat)
  | _, [] => []
  | top, (k, len) :: r => (k, top - len) :: packDown (top - len) r

/-- Insert by size, largest first. -/
def insertSize (x : Nat × Nat) : List (Nat × Nat) → List (Nat × Nat)
  | [] => [x]
  | y :: r => if y.2 < x.2 then x :: y :: r else y :: insertSize x r

/-- The places of base blocks packed from the bottom of the pool. -/
def packUp : Nat → List (Nat × Nat) → List (Nat × Nat)
  | _, [] => []
  | at_, (k, len) :: r => (k, at_) :: packUp (at_ + len) r

/-- The number that names a warp of a partition. -/
def seatKey (b : Block) (w : Warp) : Nat := (b.lsq * 2 ^ 32 + b.tkt) * 128 + w.idx

/-- The warps that hold storage on a partition, with their blocks. -/
def State.warpsOn (s : State) (core part : Nat) : List (Block × Warp) :=
  s.blocks.flatMap (fun b => if b.res = .saved then [] else
    (b.warps.filter (fun w => w.core == core && w.part == part && !w.released)).map (fun w => (b, w)))

/-- The storage of a partition repacked, with room for some extended blocks; no name, value or tag changes
(02_state.md:R48). -/
def State.repack (s : State) (core part : Nat) (room : List Nat) : State :=
  let on := fun w : Warp => w.core == core && w.part == part && !w.released
  let ws := s.warpsOn core part
  let bases := ws.map (fun x => (seatKey x.1 x.2, match s.grid? x.1.lsq with | some g => g.rec_.base | none => 0))
  let exts := ws.filterMap (fun x => match s.grid? x.1.lsq with
    | some g =>
      let n := extGranules g x.2.ext
      if n = 0 then none else some (seatKey x.1 x.2, n)
    | none => none)
  let hole := (room.filter (fun n => n != 0)).map (fun n => (2 ^ 64, n))
  let down := packDown 128 ((exts ++ hole).foldl (fun l x => insertSize x l) [])
  let up := packUp 0 bases
  let at_ := fun (l : List (Nat × Nat)) (k d : Nat) => ((l.find? (fun x => x.1 == k)).map Prod.snd).getD d
  let move := fun b : Block => { b with warps := updIf on (fun w : Warp =>
    { w with baseAt := at_ up (seatKey b w) w.baseAt, extAt := at_ down (seatKey b w) w.extAt, hold := false }) b.warps }
  { s with blocks := updIf (fun b => b.res != Residence.saved) move s.blocks }

/-- The keys of the warps of a partition whose storage a repacking would move. -/
def State.movers (s : State) (core part : Nat) (room : List Nat) : List Nat :=
  let after := (s.repack core part room).warpsOn core part
  ((s.warpsOn core part).filter (fun x => after.any (fun y => seatKey y.1 y.2 == seatKey x.1 x.2 &&
    (y.2.baseAt != x.2.baseAt || y.2.extAt != x.2.extAt)))).map (fun x => seatKey x.1 x.2)

/-- Hold the warps of a partition whose storage is to move, and no others (02_state.md:R48). -/
def State.holdWarps (s : State) (core part : Nat) (ks : List Nat) : State :=
  let on := fun w : Warp => w.core == core && w.part == part && !w.released
  let hold := fun b : Block => { b with warps := updIf on (fun w : Warp => { w with hold := ks.contains (seatKey b w) }) b.warps }
  { s with blocks := updIf (fun b => b.res != Residence.saved) hold s.blocks }

/-- A STEP OF COMPACTION on a partition, none where there is nothing to do: the warps that are to move are held at their next
clause boundary; when all of them are at rest with no register write in flight, their storage moves; and a hold that nothing
needs any more ends (02_state.md:R48; DESIGN CHOICE, log 9). -/
def State.compact (s : State) (wanted : List Seat) (core part : Nat) : Option State :=
  let ws := s.warpsOn core part
  let held := (ws.filter (fun x => x.2.hold)).map (fun x => seatKey x.1 x.2)
  let ks := match s.stopped wanted core part with | some room => s.movers core part room | none => []
  if ks != held then some (s.holdWarps core part ks)
  else if ks = [] ∨ ws.any (fun x => x.2.hold && (!x.2.atRest || x.2.busy != [])) then none
  else (s.stopped wanted core part).map (s.repack core part)

/-- COMPACTION (02_state.md:R48). -/
def execCompaction (core part : Nat) (s : State) : Out := .next ((s.compact s.wantedSeats core part).getD s)

/-! ## Phases and grids -/

/-- PHASE_COUNTER_EXCHANGE: a core receives the phase counters of its mesh neighbours inside each grid's rectangle
(13_progress.md:R275). -/
def execPhaseCounterExchange (core : Nat) (s : State) : Out :=
  let f := fun g : Grid => { g with seen := (g.neighbours core).foldl (fun c n =>
    cset c (144 * core + n) (cget g.phase n)) g.seen }
  .next { s with grids := s.grids.map f }

/-- Whether a grid's part has ended: every block has ended, no operation of its warps is outstanding, every grid that it
launched is over, and `TIME` exceeds the largest `WCTP` (13_progress.md:R268; 14_isa_sync.md:R297). -/
def State.partEnded (s : State) (g : Grid) : Bool :=
  !s.blocks.any (fun b => b.lsq == g.lsq) && (decide (g.tickets ≤ g.nextTkt) || g.killCode != 0) &&
    !s.grids.any (fun h => h.parent == some g.lsq) && !s.groups.any (fun x => x.lsq == g.lsq) &&
    decide (g.wctp.toNat < s.time.toNat)

/-- The log of a part that ended by itself stays, since the grid may run on elsewhere (10_ordering.md:R234, R235). -/
def State.keepLog (s : State) (g : Grid) : State :=
  match g.qix with
  | none => s
  | some q =>
    if g.detLog = [] ∨ g.killCode ≠ 0 then s
    else { s with quad := { s.quad with detAway := s.quad.detAway ++ [{ qix := some q, num := g.dps, src := 0, log := g.detLog }] } }

/-- A grid leaves the module. -/
def State.removeGrid (s : State) (lsq : Nat) : State := { s with grids := s.grids.filter (fun g => g.lsq != lsq) }

/-- Whether this module may raise events (19_quadrille.md:R337, R349). -/
def State.mayRaise (s : State) : Bool := s.isMember s.modn && !s.quad.halted

/-- Whether this module raises FINISH for a part that has ended: it may raise events, and the part is not one that a loss has
cut off from its grid (19_quadrille.md:R337, R350; DEDUCED, log 56). -/
def State.finishes (s : State) (g : Grid) : Bool := s.mayRaise && !g.silent

/-- GRID_COMPLETION: a grid launched inside another completes with its completion store (13_progress.md:R268,
18_recovery.md:R321); the part of a grid of the Quadrille whose row is gone, and for which no FINISH is raised, leaves without
one. -/
def execGridCompletion (lsq : Nat) (s : State) : Out :=
  match s.grid? lsq with
  | none => .next s
  | some g =>
    if !s.partEnded g then .next s
    else if g.qix.isNone then
      let v := if g.killCode = 0 then g.cwv else killValue g.killCode
      .next ((s.removeGrid lsq).completionStore g.rec_.ctx g.cwa v lsq lsq)
    else if g.closing && !s.finishes g then .next ((s.keepLog g).removeGrid lsq)
    else .next s

end Sys2Proof.Machine
end

