-- ==== Sys2Proof/Machine/Quad.lean ====
section
/-! DEFINITION. The Quadrille: its events (19_quadrille.md:R336), the Caller that orders them (R338 to R341, R351), what a
delivery does (R342, R343, R350), the placement pass (R344, R346), digests and fencing (R347 to R349), suspicion and
the join procedure (R350 to R353). -/

namespace Sys2Proof

open Sys2Proof.Machine

/-! ## The replica -/

/-- The number of MEMBERs. -/
def Replica.memberCount (r : Replica) : Nat := (r.members.filter (· == .member)).length

/-- The quorum against a module (19_quadrille.md:R350). -/
def Replica.quorum (r : Replica) : Nat := (r.memberCount - 1) / 2 + 1

/-- The MEMBERs, ascending. -/
def Replica.memberList (r : Replica) : List Nat := (List.range 64).filter (fun m => nth r.members m .absent == .member)

/-- Whether a grid has a row on a module, or the module in a gang list that has HSV set (19_quadrille.md:R350). -/
def Replica.touches (r : Replica) (gix : Nat) (g : GridEntry) (m : Nat) : Bool :=
  r.rows.any (fun x => x.2.grx == gix && x.2.mdn == m) || (g.hsv && g.gng.contains m)

/-- The entry that a SUBMIT takes: the lowest EMPTY one, otherwise the DONE or FAULTED one delivered first
(19_quadrille.md:R342). -/
def Replica.freeGrid (r : Replica) : Option Nat :=
  match (List.range 1024).find? (fun k => !r.grids.any (fun g => g.1 == k)) with
  | some k => some k
  | none =>
    ((r.grids.filter (fun g => g.2.gst == .done || g.2.gst == .faulted)).foldl (fun (o : Option (Nat × GridEntry)) g =>
      match o with
      | none => some g
      | some x => if g.2.dps < x.2.dps then some g else some x) none).map Prod.fst

/-- The cores that a row holds. -/
def Replica.rowCores (r : Replica) (x : RowEntry) : List Nat :=
  match r.grids.find? (fun g => g.1 == x.grx) with
  | some g => rectCores x.x0 x.y0 (g.2.gw + 1) (g.2.gh + 1)
  | none => []

/-- The occupied cores of a module (19_quadrille.md:R333). -/
def Replica.occupied (r : Replica) (m : Nat) : List Nat :=
  (r.rows.filter (fun x => x.2.mdn == m)).flatMap (fun x => r.rowCores x.2)

/-- The first free aligned position of a module for a shape, by row and then column (19_quadrille.md:R344). -/
def Replica.position (r : Replica) (m w h : Nat) : Option (Nat × Nat) :=
  let occ := r.occupied m
  ((List.range (12 / h)).flatMap (fun j => (List.range (12 / w)).map (fun k => (w * k, h * j)))).find? (fun p =>
    (rectCores p.1 p.2 w h).all (fun c => !occ.contains c))

/-- Insert a candidate: more free cores first, then the lower module. -/
def insertCand (x : Nat × Nat) : List (Nat × Nat) → List (Nat × Nat)
  | [] => [x]
  | y :: r => if y.1 < x.1 ∨ (x.1 = y.1 ∧ x.2 < y.2) then x :: y :: r else y :: insertCand x r

/-- The candidates of a grid in order (19_quadrille.md:R344). -/
def Replica.candidates (r : Replica) (g : GridEntry) (need : List Nat) : List Nat :=
  let ms := (List.range 64).filter (fun m => nth r.members m .absent == .member && (!g.hsv || need.contains m) &&
    (r.position m (g.gw + 1) (g.gh + 1)).isSome)
  ((ms.map (fun m => (144 - (r.occupied m).length, m))).foldl (fun l x => insertCand x l) []).map Prod.snd

/-- The 64 bits of a valid row entry (19_quadrille.md:R335). -/
def RowEntry.toBits (r : RowEntry) : Nat := 2 ^ 63 + r.grx * 2 ^ 53 + r.mdn * 2 ^ 47 + r.x0 * 2 ^ 43 + r.y0 * 2 ^ 39

/-- Clear the suspicions of a module that an event of it outdates (19_quadrille.md:R350). -/
def Replica.clearSuspects (r : Replica) (orm : Nat) (stt : DWord) : Replica :=
  if (r.suspects.filter (fun x => x.subject == orm)).all (fun x => decide (x.val.toNat < stt.toNat)) then
    { r with suspects := r.suspects.filter (fun x => x.subject != orm) }
  else r

end Sys2Proof

namespace Sys2Proof.Machine

/-! ## Events -/

/-- The fields of an event (19_quadrille.md:R336). -/
structure QEvent where
  stt : DWord
  osq : Nat := 0
  orm : Nat := 0
  typ : Nat
  grx : Nat := 0
  sbj : Nat := 0
  ctx : Nat := 0
  flg : Bool := false
  lra : DWord := 0
  pri : Nat := 0
  rst : Bool := false
  gc : Nat := 0
  gw : Nat := 0
  gh : Nat := 0
  val : DWord := 0
  sgw : Nat := 0
  sgh : Nat := 0
  deriving DecidableEq, Repr

/-- A bit as a number. -/
def bitNat (b : Bool) : Nat := if b then 1 else 0

/-- The 64 bytes of an event as a number (19_quadrille.md:R336). -/
def QEvent.toBits (e : QEvent) : BitVec 512 := BitVec.ofNat 512
  (e.stt.toNat * 2 ^ 448 + e.osq % 2 ^ 32 * 2 ^ 416 + e.orm % 64 * 2 ^ 410 + e.typ % 256 * 2 ^ 400 + e.grx % 1024 * 2 ^ 390 +
   e.sbj % 64 * 2 ^ 384 + e.ctx % 64 * 2 ^ 378 + bitNat e.flg * 2 ^ 377 + e.lra.toNat * 2 ^ 304 + e.pri % 8 * 2 ^ 301 +
   bitNat e.rst * 2 ^ 300 + e.gc % 128 * 2 ^ 293 + e.gw % 16 * 2 ^ 289 + e.gh % 16 * 2 ^ 285 + e.val.toNat * 2 ^ 192 +
   e.sgw % 2 ^ 16 * 2 ^ 176 + e.sgh % 2 ^ 16 * 2 ^ 160)

/-- The fields of 64 bytes. -/
def QEvent.ofBits (x : BitVec 512) : QEvent :=
  { stt := BitVec.ofNat 64 (bits x 448 64), osq := bits x 416 32, orm := bits x 410 6, typ := bits x 400 8, grx := bits x 390 10
    sbj := bits x 384 6, ctx := bits x 378 6, flg := x.getLsbD 377, lra := BitVec.ofNat 64 (bits x 304 64), pri := bits x 301 3
    rst := x.getLsbD 300, gc := bits x 293 7, gw := bits x 289 4, gh := bits x 285 4, val := BitVec.ofNat 64 (bits x 192 64)
    sgw := bits x 176 16, sgh := bits x 160 16 }

/-- Whether a reserved field of an event is nonzero (19_quadrille.md:R336). -/
def eventReserved (x : BitVec 512) : Bool := bits x 408 2 != 0 || bits x 368 9 != 0 || bits x 256 29 != 0 || bits x 0 160 != 0

/-- The order of delivery: stamp, origin, origin sequence (19_quadrille.md:R341). -/
def QEvent.before (a b : QEvent) : Bool :=
  decide (a.stt.toNat < b.stt.toNat ∨ (a.stt = b.stt ∧ (a.orm < b.orm ∨ (a.orm = b.orm ∧ a.osq < b.osq))))

/-- The first event of a list in the order of delivery. -/
def firstEvent : List (BitVec 512) → Option (BitVec 512)
  | [] => none
  | x :: r => match firstEvent r with
    | none => some x
    | some y => if (QEvent.ofBits y).before (QEvent.ofBits x) then some y else some x

/-! ## The module's part -/

/-- Update the Quadrille of the module. -/
def State.setQuad (s : State) (f : Quad → Quad) : State := { s with quad := f s.quad }

/-- Update the replica. -/
def State.setRep (s : State) (f : Replica → Replica) : State := s.setQuad (fun q => { q with rep := f q.rep })

/-- RAISE AN EVENT: it takes the module's T as its stamp and the next `OSQ`, and the module holds it at once
(19_quadrille.md:R336, R340). -/
def State.raise (s : State) (e : QEvent) : State :=
  let n := s.quad.osq + 1
  let e := { e with stt := s.time, osq := n, orm := s.modn }
  s.setQuad (fun q => { q with osq := n, recvOsq := updAt q.recvOsq s.modn (fun _ => n), received := q.received ++ [e.toBits] })

/-- The detector's log of a grid without a part here goes: a part of the grid takes it over, or the grid is over
(10_ordering.md:R234, R235). -/
def State.dropAway (s : State) (gix dps : Nat) : State :=
  s.setQuad (fun q => { q with detAway := q.detAway.filter (fun x => !(x.qix == some gix && x.num == dps)) })

/-- A grid entry of the replica. -/
def State.qgrid? (s : State) (gix : Nat) : Option GridEntry :=
  (s.quad.rep.grids.find? (fun g => g.1 == gix)).map Prod.snd

/-- Put an entry at an index of an ascending list. -/
def putAt {α : Type} (k : Nat) (v : α) : List (Nat × α) → List (Nat × α)
  | [] => [(k, v)]
  | (j, x) :: r => if k < j then (k, v) :: (j, x) :: r else if k = j then (k, v) :: r else (j, x) :: putAt k v r

/-- Write a grid entry; EMPTY entries are not listed. -/
def State.setGrid (s : State) (gix : Nat) (g : GridEntry) : State :=
  s.setRep (fun r => { r with grids := if g.gst = .empty then r.grids.filter (fun x => x.1 != gix) else putAt gix g r.grids })

/-- Post a Quadrille notice (18_recovery.md:R330, type 7). -/
def State.notice (s : State) (ctx code aux mdl : Nat) : State := s.postEvent ctx 7 code 0 (BitVec.ofNat 64 aux) 0 0 0 mdl

/-- Post a notice to every enabled context. -/
def State.noticeAll (s : State) (code mdl : Nat) : State := (List.range 64).foldl (fun s c => s.notice c code 0 mdl) s

/-- Row changes that name this module wait for their enactment; a halted module enacts none (19_quadrille.md:R345, R349). -/
def State.pend (s : State) (cs : List RowChange) : State :=
  if s.quad.halted then s else s.setQuad (fun q => { q with pendRows := q.pendRows ++ cs })

/-- Remove rows of a grid, of one module or of all; what names this module is enacted later (19_quadrille.md:R345). -/
def State.dropRows (s : State) (gix : Nat) (g : GridEntry) (kind : RowKind) (only : Option Nat) : State :=
  let hit := fun r : Nat × RowEntry => r.2.grx == gix && only.all (· == r.2.mdn)
  let mine := s.quad.rep.rows.filter (fun r => hit r && r.2.mdn == s.modn)
  let news := mine.map (fun r => { row := r.1, kind := kind, gix := gix, entry := r.2, grid := g : RowChange })
  let s := (s.setRep (fun r => { r with rows := r.rows.filter (fun r => !hit r) })).pend news
  if kind = .preempt then mine.foldl (fun s _ => s.notice g.ctx 2 gix s.modn) s else s

/-- Saved blocks of a grid on this module are to be discarded (19_quadrille.md:R343). -/
def State.discardSaved (s : State) (gix : Nat) (g : GridEntry) (kind : RowKind) : State :=
  if g.hsv && g.gng.contains s.modn then
    s.pend [{ row := 4096, kind := kind, gix := gix, entry := { grx := gix, mdn := s.modn, x0 := 0, y0 := 0 }, grid := g }]
  else s

/-- Whether a submission of this module is the one delivered at a position, or one not delivered yet with an `OSQ`. -/
def Submission.is (x : Submission) (osq : Nat) (dps : Option Nat) : Bool := x.osq == osq && x.dps == dps

/-- The completion of a grid that this module submitted, named by its delivery position: the word is stored, unless the module is no
longer a MEMBER (19_quadrille.md:R343; 20_isa_system.md:R370). -/
def State.endSubmission (s : State) (osq : Nat) (dps : Option Nat) (fail : Option DWord) : State :=
  match s.quad.subs.find? (fun x => x.is osq dps) with
  | none => s
  | some x =>
    let s := s.setQuad (fun q => { q with subs := q.subs.filter (fun x => !x.is osq dps) })
    if s.isMember s.modn then s.completionStore x.ctx x.cwa (fail.getD x.cwv) 0 osq else s

/-- A SUBMIT of this module has been delivered: its submission is known by its position from now on. -/
def State.noteSubmit (s : State) (osq n : Nat) : State :=
  let f := fun x : Submission => { x with dps := some n }
  s.setQuad (fun q => { q with subs := updIf (fun x => x.is osq none) f q.subs })

/-- FAULT A GRID (19_quadrille.md:R343). -/
def State.faultGrid (s : State) (gix : Nat) (g : GridEntry) (value : DWord) : State :=
  let s := (s.dropRows gix g .kill none).setGrid gix { g with gst := .faulted }
  let s := (s.discardSaved gix g .discard).dropAway gix g.dps
  if g.orm = s.modn then (s.notice g.ctx 3 gix s.modn).endSubmission g.osq (some g.dps) (some value) else s

/-! ## Loss -/

/-- A grid loses a module (19_quadrille.md:R350): it is queued again when restartable, otherwise faulted. -/
def State.loseGrid (s : State) (m reason gix : Nat) (g : GridEntry) : State :=
  if !s.quad.rep.touches gix g m then s
  else if g.rst then
    (((s.dropRows gix g .lost none).discardSaved gix g .lost).dropAway gix g.dps).setGrid gix
      { g with gst := .queued, skp := 0, fin := 0, hsv := false }
  else s.faultGrid gix g (failValue (0x300 + reason))

/-- The events of a lost module stamped above its cut are discarded (19_quadrille.md:R350); what befell the module's
own events is kept for `qwait` (20_isa_system.md:R372). -/
def State.discardAbove (s : State) (m : Nat) (cut : DWord) : State :=
  let out := fun x : BitVec 512 => let e := QEvent.ofBits x; e.orm == m && decide (cut.toNat < e.stt.toNat)
  let own := if m = s.modn then (s.quad.received.filter out).map (fun x => ((QEvent.ofBits x).osq, OwnFate.discarded)) else []
  s.setQuad (fun q => { q with received := q.received.filter (fun x => !out x), fates := (own.reverse ++ q.fates).take 65536 })

/-- A MODULE IS LOST OR FENCED (19_quadrille.md:R350): its state, the grids that touch it, its events above the cut, and
the notice of this module, if it is a MEMBER still. -/
def State.lose (s : State) (m reason : Nat) (st : MemberState) (cut : DWord) : State :=
  let s := s.setRep (fun r => { r with members := updAt r.members m (fun _ => st)
                                       suspects := r.suspects.filter (fun x => x.subject != m) })
  let s := s.quad.rep.grids.foldl (fun s g => s.loseGrid m reason g.1 g.2) s
  let s := s.setQuad (fun q => { q with cut := (m, cut) :: q.cut.filter (fun x => x.1 != m)
                                        detAway := q.detAway.filter (fun x => x.src != m || x.qix.isSome) })
  let s := s.discardAbove m cut
  if s.isMember s.modn then s.noticeAll (if reason = 1 then 5 else 4) m else s

/-- A delivered SUSPECT (19_quadrille.md:R350). -/
def State.suspected (s : State) (e : QEvent) : State :=
  let old := s.quad.rep.suspects
  if old.any (fun x => x.subject == e.sbj && x.by_ == e.orm) then s
  else
    let all := old ++ [{ by_ := e.orm, subject := e.sbj, val := e.val }]
    let s := s.setRep (fun r => { r with suspects := all })
    let mine := all.filter (fun x => x.subject == e.sbj)
    if s.quad.rep.quorum ≤ mine.length then s.lose e.sbj 1 .absent (maxT (mine.map Suspicion.val)) else s

/-! ## What each event does -/

/-- The entry of a SUBMIT delivered as number `n`. -/
def QEvent.entry (e : QEvent) (n : Nat) : GridEntry :=
  { gst := .queued, dps := n, pri := e.pri, gc := e.gc, gw := e.gw, gh := e.gh, skp := 0, rst := e.rst, ctx := e.ctx
    orm := e.orm, lra := e.lra, par := e.val, sgw := e.sgw, sgh := e.sgh, gng := [], hsv := false, fin := 0, osq := e.osq }

/-- A module becomes a MEMBER (19_quadrille.md:R352, step 5), and the host's RELEASE for it is used up; this module then numbers its
events from 1. What it still keeps of grids that it submitted before is known by their delivery positions. -/
def State.joined (s : State) (m : Nat) : State :=
  let s := s.setQuad (fun q =>
    { q with rep := { q.rep with members := updAt q.rep.members m (fun _ => .member) }
             known := insertNat m q.known, cut := q.cut.filter (fun x => x.1 != m)
             lastRecv := updAt q.lastRecv m (fun _ => s.time) })
  let s := { s with att := { s.att with releases := s.att.releases.filter (· != m) } }
  if m = s.modn then
    s.setQuad (fun q => { q with osq := 0, fates := [], lone := false, halted := false, stepped := false, raisedSuspect := []
                                 recvOsq := updAt q.recvOsq m (fun _ => 0), lastRecv := q.lastRecv.map (fun _ => s.time) })
  else s

/-- A module becomes JOINING: its events and heartbeats are numbered afresh (19_quadrille.md:R352, step 2). -/
def State.joining (s : State) (m : Nat) : State :=
  s.setQuad (fun q =>
    { q with rep := { q.rep with members := updAt q.rep.members m (fun _ => .joining) }
             recvOsq := updAt q.recvOsq m (fun _ => 0), beats := q.beats.filter (fun b => b.src != m)
             cut := q.cut.filter (fun x => x.1 != m), heard := updAt q.heard m (fun _ => 0) })

/-- Whether a FINISH concerns a grid: it is PLACED or BLOCKED, and its origin has a row or is in the gang. -/
def State.finishOk (s : State) (e : QEvent) (g : GridEntry) : Bool :=
  (g.gst == .placed || g.gst == .blocked) &&
    (s.quad.rep.rows.any (fun r => r.2.grx == e.grx && r.2.mdn == e.orm) || g.gng.contains e.orm)

/-- A FINISH of a part that ended by itself (19_quadrille.md:R342). -/
def State.finished (s : State) (e : QEvent) (g : GridEntry) : State :=
  let fin := g.fin ||| ((1 : DWord) <<< e.orm)
  let s := s.dropRows e.grx g .finished (some e.orm)
  if g.gng.all (fun m => fin.getLsbD m) then
    let s := (s.setGrid e.grx { g with fin := fin, gst := .done }).dropAway e.grx g.dps
    if g.orm = s.modn then s.endSubmission g.osq (some g.dps) none else s
  else s.setGrid e.grx { g with fin := fin }

/-- THE EFFECT OF A DELIVERED EVENT, as number `n` (19_quadrille.md:R342). -/
def State.applyEvent (s : State) (e : QEvent) (n : Nat) : State :=
  let onGrid := fun (k : GridEntry → State) => match s.qgrid? e.grx with
    | some g => if g.ctx = e.ctx then k g else s
    | none => s
  let mem := nth s.quad.rep.members e.sbj .absent
  match e.typ with
  | 1 =>
    match s.quad.rep.freeGrid with
    | some k =>
      let s := s.setGrid k (e.entry n)
      if e.orm = s.modn then s.noteSubmit e.osq n else s
    | none =>
      if e.orm = s.modn then (s.notice e.ctx 6 e.osq s.modn).endSubmission e.osq none (some (failValue 0x304)) else s
  | 2 => onGrid (fun g =>
      if !s.finishOk e g then s
      else if e.flg then s.faultGrid e.grx g (killValue (bits e.val 0 8)) else s.finished e g)
  | 3 => onGrid (fun g =>
      if g.gst == .queued || g.gst == .placed then
        (s.dropRows e.grx g .preempt none).setGrid e.grx { g with gst := .blocked, hsv := g.hsv || g.gst == .placed }
      else s)
  | 4 => onGrid (fun g => if g.gst == .blocked then s.setGrid e.grx { g with gst := .queued } else s)
  | 5 => onGrid (fun g =>
      if g.gst == .done || g.gst == .faulted then s.setGrid e.grx { g with gst := .empty }
      else s.faultGrid e.grx g (failValue 0x303))
  | 6 => if mem == .member && e.sbj != e.orm then s.suspected e else s
  | 7 =>
    if !e.flg then (if mem == .absent || (mem == .fenced && e.val == 1) then s.joining e.sbj else s)
    else if mem == .joining then s.joined e.sbj else s
  | 8 => if mem == .member then s.lose e.sbj 2 .fenced e.stt else s
  | _ => s

/-! ## The placement pass -/

/-- Write a row of a grid in the lowest invalid entry (19_quadrille.md:R335, R344); what names this module is enacted
later. -/
def State.addRow (s : State) (gix : Nat) (g : GridEntry) (m : Nat) : State :=
  let r := s.quad.rep
  match r.position m (g.gw + 1) (g.gh + 1), (List.range 4096).find? (fun k => !r.rows.any (fun x => x.1 == k)) with
  | some p, some k =>
    let e : RowEntry := { grx := gix, mdn := m, x0 := p.1, y0 := p.2 }
    let s := s.setRep (fun r => { r with rows := putAt k e r.rows })
    if m = s.modn then
      (s.pend [{ row := k, kind := if g.hsv then .restore else .start, gix := gix, entry := e, grid := g }]).notice g.ctx 1 gix s.modn
    else s
  | _, _ => s

/-- The placement pass over grids in order (19_quadrille.md:R344). -/
def State.passOver (s : State) : List Nat → State
  | [] => s
  | gix :: rest =>
    match s.qgrid? gix with
    | none => s.passOver rest
    | some g =>
      let need := if g.hsv then g.gng.filter (fun m => !g.fin.getLsbD m) else []
      let n := if g.hsv then need.length else g.gc
      let cand := s.quad.rep.candidates g need
      if cand.length < n ∨ 4096 - s.quad.rep.rows.length < n then
        if g.skp = 64 then s else (s.setGrid gix { g with skp := g.skp + 1 }).passOver rest
      else
        let g := { g with gng := if g.hsv then g.gng else cand.take n, gst := .placed, skp := 0 }
        let need := if g.hsv then need else g.gng
        (need.foldl (fun s m => s.addRow gix g m) (s.setGrid gix g)).passOver rest

/-- Insert a grid in the order of the pass: higher priority, then earlier delivery. -/
def insertGrid (x : Nat × GridEntry) : List (Nat × GridEntry) → List (Nat × GridEntry)
  | [] => [x]
  | y :: r => if y.2.pri < x.2.pri ∨ (x.2.pri = y.2.pri ∧ x.2.dps < y.2.dps) then x :: y :: r else y :: insertGrid x r

/-- THE PLACEMENT PASS (19_quadrille.md:R344). -/
def State.placementPass (s : State) : State :=
  s.passOver (((s.quad.rep.grids.filter (fun g => g.2.gst == .queued)).foldl (fun l g => insertGrid g l) []).map Prod.fst)

/-! ## Digests -/

/-- The bits of row entry i; zero for an invalid one. -/
def rowBits (l : List (Nat × RowEntry)) (i : Nat) : Nat :=
  match l.find? (fun x => x.1 == i) with | some x => x.2.toBits | none => 0

/-- The rows that changed: index and new entry, ascending (19_quadrille.md:R348). -/
def rowsChanged (old new : List (Nat × RowEntry)) : List Byte :=
  let ks := (old ++ new).foldl (fun l x => insertNat x.1 l) []
  (ks.filter (fun k => rowBits old k != rowBits new k)).flatMap (fun k => leBytes 2 k ++ leBytes 8 (rowBits new k))

/-- The digest after an event (19_quadrille.md:R348). -/
def digestAfter (d : BitVec 256) (e : BitVec 512) (rows : List Byte) : BitVec 256 :=
  sha3 (leBytes 32 d.toNat ++ leBytes 64 e.toNat ++ rows)

/-- The report of a module for a sequence. -/
def Quad.reportOf (q : Quad) (m n : Nat) : Option (BitVec 256) :=
  (q.reports.find? (fun x => x.1 == m && x.2.1 == n)).map (fun x => x.2.2)

/-- The majority value of the reports for a sequence, when every MEMBER has reported (19_quadrille.md:R349): the value of
the largest group, and of equal ones the group with the lowest MEMBER. -/
def Quad.majority (q : Quad) (n : Nat) : Option (BitVec 256) :=
  let vs := q.rep.memberList.map (fun m => q.reportOf m n)
  if vs.any Option.isNone then none
  else
    (vs.foldl (fun (o : Option (Nat × Option (BitVec 256))) v =>
      let k := (vs.filter (· == v)).length
      match o with
      | none => some (k, v)
      | some x => if x.1 < k then some (k, v) else some x) none).bind Prod.snd

/-- This module stops raising events and enacting, and kills every block of its rows, those of the grids launched inside their
rectangles among them (19_quadrille.md:R349; 01_device.md:R26). -/
def State.halt (s : State) : State :=
  let s := s.grids.foldl (fun s g => s.killGrid g.lsq 12) s
  let f := fun g : Grid => { g with closing := true, silent := true }
  let s := { s with grids := updIf (fun g : Grid => g.qix.isSome) f s.grids }
  s.setQuad (fun q => { q with halted := true, pendRows := [] })

/-- Compare the reports for a sequence that every MEMBER has reported on (19_quadrille.md:R349). -/
def State.compareAt (s : State) (n : Nat) : State :=
  match s.quad.majority n with
  | none => s
  | some v =>
    let old := fun x : Nat × Nat × BitVec 256 => decide (x.2.1 < n) && s.isMember x.1
    let s := s.setQuad (fun q => { q with compared := n, majors := ((n, v) :: q.majors).take 4096
                                          reports := q.reports.filter (fun x => !old x) })
    if s.quad.halted || !s.isMember s.modn then s
    else if s.quad.reportOf s.modn n != some v then s.halt
    else (s.quad.rep.memberList.filter (fun m => s.quad.reportOf m n != some v)).foldl (fun s m =>
      s.raise { stt := 0, typ := 8, sbj := m, val := BitVec.ofNat 64 n }) s

/-- Compare every sequence that can be compared. -/
def State.compareReports (s : State) : State :=
  let ns := (s.quad.reports.filter (fun x => x.1 == s.modn && decide (s.quad.compared < x.2.1))).foldl (fun l x => insertNat x.2.1 l) []
  ns.foldl State.compareAt s

/-! ## The Caller -/

/-- HeardT of a module (19_quadrille.md:R339). -/
def State.heardT (s : State) (m : Nat) : DWord := if m = s.modn then s.time else nth s.quad.heard m 0

/-- The least HeardT of some modules; none for no module. -/
def State.leastHeard (s : State) (ms : List Nat) : Option DWord :=
  ms.foldl (fun (o : Option DWord) m => match o with
    | none => some (s.heardT m)
    | some t => if (s.heardT m).toNat < t.toNat then some (s.heardT m) else some t) none

/-- The horizon: the least HeardT over the MEMBERs that are not cut (19_quadrille.md:R339). -/
def State.horizon (s : State) : Option DWord :=
  s.leastHeard (s.quad.rep.memberList.filter (fun m => !s.quad.cut.any (fun x => x.1 == m)))

/-- The event delivered next: the first in order, when its stamp lies below the horizon (19_quadrille.md:R341); none during pod
formation, which replaces the replica (22_attach.md:R386). -/
def State.nextEvent (s : State) : Option (BitVec 512) :=
  let self := nth s.quad.rep.members s.modn .absent
  if !(self == .member || self == .joining) || s.att.form.isSome then none
  else
    match firstEvent s.quad.received, s.horizon with
    | some x, some h => if (QEvent.ofBits x).stt.toNat < h.toNat then some x else none
    | _, _ => none

/-- DELIVER AN EVENT (19_quadrille.md:R341, R348): the sequence rises, the event is applied, the placement pass runs, and
the result is folded into the digest; at a multiple of the interval the digest is reported (R347). -/
def State.deliver (s : State) (x : BitVec 512) : State :=
  let e := QEvent.ofBits x
  let old := s.quad.rep.rows
  let n := s.quad.rep.seq + 1
  let fate := if e.orm = s.modn then [(e.osq, OwnFate.delivered n)] else []
  let rep := Replica.clearSuspects { s.quad.rep with seq := n } e.orm e.stt
  let s := s.setQuad (fun q => { q with rep := rep, received := q.received.filter (· != x), log := (x :: q.log).take 65536
                                        fates := (fate ++ q.fates).take 65536 })
  let s := if eventReserved x then s else s.applyEvent e n
  let s := s.placementPass
  let d := digestAfter s.quad.rep.digest x (rowsChanged old s.quad.rep.rows)
  let s := s.setRep (fun r => { r with digest := d })
  if n % s.quad.interval = 0 then
    (s.setQuad (fun q => { q with ownReport := (n, d), reports := (s.modn, n, d) :: q.reports })).compareReports
  else s

/-- Deliver the next event when it is of a type; an event of a reserved type counts as one of every type. -/
def deliverType (typ : Nat) (s : State) : Out :=
  match s.nextEvent with
  | none => .next s
  | some x =>
    let t := (QEvent.ofBits x).typ
    if t = typ ∨ t = 0 ∨ 8 < t then .next (s.deliver x) else .next s

/-- DELIVER_SUBMIT (19_quadrille.md:R342). -/
def execDeliverSubmit (s : State) : Out := deliverType 1 s
/-- DELIVER_FINISH (19_quadrille.md:R342). -/
def execDeliverFinish (s : State) : Out := deliverType 2 s
/-- DELIVER_BLOCK (19_quadrille.md:R342). -/
def execDeliverBlock (s : State) : Out := deliverType 3 s
/-- DELIVER_UNBLOCK (19_quadrille.md:R342). -/
def execDeliverUnblock (s : State) : Out := deliverType 4 s
/-- DELIVER_CANCEL (19_quadrille.md:R342). -/
def execDeliverCancel (s : State) : Out := deliverType 5 s
/-- DELIVER_SUSPECT (19_quadrille.md:R350). -/
def execDeliverSuspect (s : State) : Out := deliverType 6 s
/-- DELIVER_JOIN (19_quadrille.md:R342). -/
def execDeliverJoin (s : State) : Out := deliverType 7 s
/-- DELIVER_FENCE (19_quadrille.md:R342). -/
def execDeliverFence (s : State) : Out := deliverType 8 s

/-- Heartbeats whose events are all held raise the heard times (19_quadrille.md:R339). -/
def State.settleBeats (s : State) : State :=
  let ok := fun (q : Quad) (b : Heartbeat) => decide (b.osq ≤ nth q.recvOsq b.src 0)
  s.setQuad (fun q =>
    { q with heard := (q.beats.filter (ok q)).foldl (fun h b => updAt h b.src (fun t => tmax t b.sent)) q.heard
             beats := q.beats.filter (fun b => !ok q b) })

/-- Something was heard of a module. -/
def State.hear (s : State) (m : Nat) : State :=
  s.setQuad (fun q => { q with lastRecv := updAt q.lastRecv m (fun _ => s.time)
                               raisedSuspect := q.raisedSuspect.filter (· != m) })

/-- Whether the module takes part in the Caller: it is a MEMBER or JOINING. -/
def State.inPod (s : State) (m : Nat) : Bool :=
  let st := nth s.quad.rep.members m .absent
  st == .member || st == .joining

/-- The module is no longer in the pod: its replica takes part in nothing more. Its blocks run until the join kills them, and what
they read stays the state after the last delivery (19_quadrille.md:R351, R352; 20_isa_system.md:R371, R372). -/
def State.dropReplica (s : State) : State :=
  s.setQuad (fun q =>
    { q with rep := { q.rep with members := (Replica.formed 0).members, suspects := [] }
             received := [], beats := [], reports := [], compared := 0, majors := [], cut := [], fetch := [], pendRows := []
             raisedSuspect := [] })

/-- Whether a heartbeat tells this module that it was lost: the two modules of a pod have each lost the other, and the sender has
the lower number (19_quadrille.md:R351). -/
def State.tellsLoss (s : State) (src : Nat) : Bool :=
  !s.quad.lone && s.isMember s.modn && s.quad.rep.memberCount == 1 && s.quad.known.contains src && !s.inPod src &&
    decide (src < s.modn)

/-- QUADRILLE_HEARTBEAT_RECEIVE (19_quadrille.md:R339, R349, R351). A heartbeat of a module that is being cut comes with its
missing events from another module, and is no sign of life; the reports of a JOINING module are kept for its sponsor
(R352). -/
def execQuadrilleHeartbeatReceive (h : Heartbeat) (s : State) : Out :=
  if h.src = s.modn ∨ 64 ≤ h.src ∨ !s.inPod s.modn ∨ s.sealed then .next s
  else if s.tellsLoss h.src then .next s.dropReplica
  else if !s.inPod h.src then .next s
  else
    let late := s.isMember h.src && decide (h.digestSeq ≤ s.quad.compared)
    let s := if s.quad.fetch.any (fun x => x.1 == h.src) then s else s.hear h.src
    let s := s.setQuad (fun q =>
      { q with beats := q.beats ++ [h]
               reports := if h.digestSeq = 0 ∨ late then q.reports
                 else (h.src, h.digestSeq, h.digest) :: q.reports.filter (fun x => !(x.1 == h.src && x.2.1 == h.digestSeq)) })
    .next s.settleBeats.compareReports

/-- QUADRILLE_HEARTBEAT_SEND: a MEMBER or JOINING module sends a heartbeat every 500 ns (19_quadrille.md:R338); in a scrub nothing
leaves it (16_isolation.md:R315). -/
def execQuadrilleHeartbeatSend (s : State) : Out :=
  let due := match s.quad.lastBeat with
    | none => true
    | some b => decide (b.sent.toNat + 500 ≤ s.time.toNat)
  if s.inPod s.modn && due && !s.sealed then
    let b : Heartbeat :=
      { src := s.modn, sent := s.time, osq := s.quad.osq, digestSeq := s.quad.ownReport.1, digest := s.quad.ownReport.2 }
    .next (s.setQuad (fun q => { q with lastBeat := some b }))
  else .next s

/-- EVENT_RECEIVE: the transport hands over the next event of an origin (19_quadrille.md:R338); one stamped above the cut of
its origin is discarded (R350). -/
def execEventReceive (x : BitVec 512) (s : State) : Out :=
  let e := QEvent.ofBits x
  if e.orm = s.modn ∨ !s.inPod s.modn ∨ s.sealed ∨ e.osq ≠ nth s.quad.recvOsq e.orm 0 + 1 then .next s
  else
    let keep := match s.quad.cut.find? (fun c => c.1 == e.orm) with
      | some c => decide (e.stt.toNat ≤ c.2.toNat)
      | none => true
    let s := if s.quad.fetch.any (fun x => x.1 == e.orm) then s else s.hear e.orm
    let s := s.setQuad (fun q =>
      { q with
        recvOsq := updAt q.recvOsq e.orm (fun _ => e.osq)
        received := if keep then q.received ++ [x] else q.received })
    .next s.settleBeats

/-! ## Suspicion and the cut -/

/-- SUSPECT_RAISE: a MEMBER that has heard nothing of another for 20 µs raises SUSPECT once (19_quadrille.md:R350). -/
def execSuspectRaise (m : Nat) (s : State) : Out :=
  if s.mayRaise && s.isMember m && m != s.modn && !s.quad.raisedSuspect.contains m &&
      decide ((nth s.quad.lastRecv m 0).toNat + 20000 ≤ s.time.toNat) then
    .next ((s.raise { stt := 0, typ := 6, sbj := m, val := s.heardT m }).setQuad (fun q =>
      { q with raisedSuspect := q.raisedSuspect ++ [m] }))
  else .next s

/-- The suspicions of a module by distinct modules: those counted, then those stamped below a time, in order of delivery
(19_quadrille.md:R351). -/
def State.suspicionsBelow (s : State) (m : Nat) (h : DWord) : List Suspicion :=
  let evs := (s.quad.received.map QEvent.ofBits).filter (fun e =>
    e.typ == 6 && e.sbj == m && e.orm != m && decide (e.stt.toNat < h.toNat))
  let sorted := evs.foldl (fun l e => (l.filter (fun x => x.before e)) ++ [e] ++ l.filter (fun x => !x.before e)) []
  sorted.foldl (fun l e => if l.any (fun x => x.by_ == e.orm) then l else l ++ [{ by_ := e.orm, subject := m, val := e.val }])
    (s.quad.rep.suspects.filter (fun x => x.subject == m))

/-- Whether another module has fallen silent: nothing was heard of it for 20 µs (19_quadrille.md:R350, R351). -/
def State.silent (s : State) (m : Nat) : Bool :=
  m != s.modn && (s.quad.raisedSuspect.contains m || decide ((nth s.quad.lastRecv m 0).toNat + 20000 ≤ s.time.toNat))

/-- The cut of a module, when the suspicions of a quorum are stamped below H′, taken over the members that have not fallen silent, and
the module still counts for the horizon (19_quadrille.md:R350, R351). -/
def State.cutOf (s : State) (m : Nat) : Option DWord :=
  let others := s.quad.rep.memberList.filter (fun k => k != m && !s.silent k)
  match s.leastHeard others with
  | none => none
  | some h =>
    let q := s.quad.rep.quorum
    let l := s.suspicionsBelow m h
    if s.isMember m && m != s.modn && !s.quad.cut.any (fun x => x.1 == m) && decide (q ≤ l.length) then
      some (maxT ((l.take q).map Suspicion.val))
    else none

/-- MEMBER_CUT: the replica fetches the events of the module at or below its cut that it lacks, with the heartbeat that counts
them; once it holds them all, the module leaves the horizon, and its events above the cut are discarded (19_quadrille.md:R350,
R351). -/
def execMemberCut (m : Nat) (s : State) : Out :=
  match s.cutOf m with
  | none => .next s
  | some cut =>
    let rest := s.quad.fetch.filter (fun x => x.1 != m)
    if (s.heardT m).toNat < cut.toNat then .next (s.setQuad (fun q => { q with fetch := (m, cut) :: rest }))
    else .next ((s.setQuad (fun q => { q with cut := (m, cut) :: q.cut, fetch := rest })).discardAbove m cut)

/-- Whether MEMBER_CUT of a module does something now. -/
def State.cutDue (s : State) (m : Nat) : Bool :=
  match s.cutOf m with
  | none => false
  | some cut => decide (cut.toNat ≤ (s.heardT m).toNat) || !s.quad.fetch.any (fun x => x.1 == m)

/-! ## Joining -/

/-- Kill every block on the module without an event (19_quadrille.md:R352, step 1). -/
def State.killAll (s : State) : State :=
  let s := s.grids.foldl (fun s g => s.killGrid g.lsq 12) s
  let f := fun g : Grid => { g with closing := true, silent := true, cwa := none }
  { s with grids := s.grids.map f }

/-- Whether the module may join: it is ABSENT or FENCED, or halted, or a lone module with no grid QUEUED, PLACED or BLOCKED
(19_quadrille.md:R349, R352). -/
def State.mayJoin (s : State) : Bool :=
  if s.quad.lone then
    s.quad.rep.grids.all (fun g => g.2.gst == .done || g.2.gst == .faulted)
  else s.quad.halted || !s.inPod s.modn

/-- What a module keeps of its submissions when it loads a snapshot: those whose grids have not ended there. One not yet delivered here
is the latest grid of the snapshot with its `OSQ` (19_quadrille.md:R343, R352). -/
def State.keepSubs (s : State) (r : Replica) : List Submission :=
  let open_ := (r.grids.map Prod.snd).filter (fun g => g.orm == s.modn && !(g.gst == .done || g.gst == .faulted))
  let taken := fun g : GridEntry => s.quad.subs.any (fun x => x.dps == some g.dps)
  let latest := fun k : Nat => ((open_.filter (fun g => g.osq == k && !taken g)).map GridEntry.dps).foldl max 0
  s.quad.subs.filterMap (fun x => match x.dps with
    | some n => if open_.any (fun g => g.dps == n) then some x else none
    | none => if latest x.osq = 0 then none else some { x with dps := some (latest x.osq) })

/-- Whether JOIN phase 0 may be raised for a module: one that is ABSENT or FENCED, or a JOINING one that starts again at step 2
(19_quadrille.md:R342, R352). -/
def State.mayAdmit (s : State) (m : Nat) : Bool :=
  let st := nth s.quad.rep.members m .absent
  let rel := s.att.releases.contains m
  (st == .absent && (rel || s.quad.known.contains m)) || (st == .fenced && rel) || st == .joining

/-- JOIN_PROCEDURE: one step of the join as this module takes part in it (19_quadrille.md:R352, R353). `TIME` is set once for a
join; a JOINING module whose digest differs, or whose tail the sponsor no longer has, starts again with another snapshot. A step of
`TIME` leaves the session its time (16_isolation.md:R315). -/
def execJoinProcedure (j : JoinStep) (s : State) : Out :=
  if s.sealed then .next s
  else match j with
  | .lost => if s.quad.lone || !s.isMember s.modn then .next s else .next s.dropReplica
  | .noSponsor =>
    if s.isMember s.modn && !s.quad.halted then .next s else .next (s.setQuad (fun q => { q with stranded := true }))
  | .begin_ t num =>
    if !s.mayJoin then .next s
    else
      let s := s.killAll
      let t := if s.quad.stepped then s.time else t
      let n := if s.quad.lone then num else s.modn
      .next (((({ s.stepTime t with modn := n }).dropReplica).setAtt (fun a => { a with exch := t, slewed := t })).setQuad (fun q =>
        { q with halted := false, lone := false, stepped := true, stranded := false, lastBeat := none
                 known := if s.quad.lone then [] else q.known
                 lastRecv := List.replicate 64 t }))
  | .snapshot r osqs iv ever =>
    if s.isMember s.modn || s.quad.lone || !s.quad.stepped then .next s
    else .next (s.setQuad (fun q =>
      { q with rep := r, recvOsq := osqs, interval := iv, received := [], heard := List.replicate 64 0, beats := []
               ownReport := (0, 0), compared := r.seq, reports := [], majors := [], cut := [], fetch := [], subs := s.keepSubs r
               known := (List.range 64).filter (fun m =>
                 nth r.members m .absent != .absent || ever.contains m || q.known.contains m) }))
  | .sponsor0 m skew =>
    if s.mayRaise && s.mayAdmit m && decide (skew ≤ 10) then
      .next (s.raise { stt := 0, typ := 7, sbj := m, val := if s.att.releases.contains m then 1 else 0 })
    else .next s
  | .sponsor1 m n =>
    let d := s.quad.reportOf m n
    let major := (s.quad.majors.find? (fun x => x.1 == n)).map Prod.snd
    if s.mayRaise && nth s.quad.rep.members m .absent == .joining && d.isSome && d == major then
      .next (s.raise { stt := 0, typ := 7, sbj := m, flg := true, val := BitVec.ofNat 64 n })
    else .next s

end Sys2Proof.Machine
end

