-- ==== Sys2Proof/Machine/Front.lean ====
section
/-! DEFINITION. The front end: launch records and their checks (13_progress.md:R265, R266), the prologue (R267), launches
and submissions (R268; 14_isa_sync.md:R295, R296; 20_isa_system.md:R369, R370), the queues (R260 to R264), and the
enactment of rows (19_quadrille.md:R345). -/

namespace Sys2Proof.Machine

/-! ## Launch records -/

/-- Bytes of a context read at their homes; none on a translation fault or poison (13_progress.md:R266, codes 12 and
5). -/
def State.readHome (s : State) (ctx va len : Nat) : Option (List Byte) :=
  match s.translateRange ctx va len .load with
  | .error _ => none
  | .ok _ => let x := s.homeRead ctx va len; if x.2 then none else some x.1

/-- The fields of a launch record (13_progress.md:R265): `x` is the number in its first 128 bytes. -/
def LaunchRec.ofNat (x : Nat) (fmt : List QWord) : LaunchRec :=
  { hnd := BitVec.ofNat 64 (fld x 960 64), prl := BitVec.ofNat 64 (fld x 896 64), par := BitVec.ofNat 64 (fld x 832 64)
    ent := BitVec.ofNat 64 (fld x 768 64), scr := fld x 736 32, stg := fld x 704 32, grdw := fld x 688 16, grdh := fld x 672 16
    wpb := fld x 664 8, ftv := fld x 656 8, gngc := fld x 648 8, gngh := fld x 644 4, gngw := fld x 640 4, ext := fld x 624 16
    base := fld x 616 8, acc := fld x 608 8, wtc := fld x 604 4, wtl := fld x 601 3, wtm := fld x 600 1 == 1, alw := fld x 596 4
    pri := fld x 593 3, det := fld x 592 1 == 1, brc := fld x 590 2, ctx := fld x 576 6
    reserved := fld x 582 8 != 0 || fld x 0 576 != 0, fmt := fmt }

/-- The launch record in 256 bytes. -/
def LaunchRec.ofBytes (l : List Byte) : LaunchRec :=
  LaunchRec.ofNat (leNat (l.take 128)) ((List.range 8).map (fun k => BitVec.ofNat 128 (leNat ((l.drop (128 + 16 * k)).take 16))))

/-- Whether a format slot is valid (05_numbers.md:R142). -/
def slotValid (q : QWord) : Bool :=
  let e := slotElt q
  let b := slotBsz q
  let c := slotScf q
  let ta := bits q 64 64
  q == 0 || (bits q 17 47 == 0 &&
    ((decide (e = 1 ∨ e = 2 ∨ e = 3 ∨ e = 8) && b == 0 && c == 0) ||
     (decide (e = 4 ∨ e = 5) && ((b == 0 && c == 0) || decide (1 ≤ b ∧ b ≤ 2 ∧ 1 ≤ c ∧ c ≤ 2))) ||
     (e == 6 && decide (1 ≤ b ∧ b ≤ 2 ∧ 1 ≤ c ∧ c ≤ 2)) || (e == 7 && b == 2 && c == 1)) &&
    (if e = 7 then ta != 0 && ta % 1024 == 0 else ta == 0))

/-- Whether the fields of a record keep the limits of 03_encoding.md:R98 and 13_progress.md:R265 that no later row of R266 names; the
12 cores of a gang's side are among them but where code 13 judges them (DEDUCED, log 23). The limit of `FTV` is that of code 4. -/
def LaunchRec.inLimits (r : LaunchRec) (pod : Bool) : Bool :=
  !r.reserved && decide (1 ≤ r.base ∧ r.base ≤ 48 ∧ r.acc ≤ 64 ∧ r.wtc ≤ 8 ∧ r.wtl ≤ 6 ∧ 1 ≤ r.alw ∧ r.brc < 3) &&
    decide (1 ≤ r.grdw ∧ r.grdw < 65536 ∧ 1 ≤ r.grdh ∧ r.grdh < 65536 ∧ 1 ≤ r.wpb ∧ r.wpb ≤ 128 ∧ 1 ≤ r.gngc ∧ r.gngc ≤ 64) &&
    (pod || decide (r.gngw ≤ 11 ∧ r.gngh ≤ 11)) &&
    r.scr % 128 == 0 && r.stg % 4096 == 0

/-- Whether `BASE` and `EXT` keep 02_state.md:R45. -/
def LaunchRec.extOk (r : LaunchRec) : Bool :=
  ([0, 8, 16, 32, 64, 128, 256] : List Nat).contains r.ext && decide (8 * r.base + r.ext ≤ 384)

/-- Whether some core could take a block (13_progress.md:R266, code 9). -/
def LaunchRec.fits (r : LaunchRec) : Bool :=
  let sh := brcShape r.brc
  let per := cdiv r.wpb r.cores
  (r.gngw + 1) % sh.1 == 0 && (r.gngh + 1) % sh.2 == 0 && decide (r.wpb ≤ 96 * r.cores ∧ 8 * r.base * cdiv per 12 ≤ 1024) &&
    decide (r.scr + r.stg ≤ 2 ^ 19 ∧ r.treeStore ≤ 320 * 1024)

/-- Where a launch goes: to the Quadrille, into the rectangle of a grid of this module at offsets, or to a row that is
enacted (13_progress.md:R268; 19_quadrille.md:R345). -/
inductive Target where
  | pod
  | inside (lsq : Option Nat) (ofx ofy : Nat)
  | row
  deriving DecidableEq, Repr

/-- Whether a grid of this module stands PLACED: its rows have not been removed, it is not pre-empted, and where the Quadrille has
placed it, it still does (13_progress.md:R266; 19_quadrille.md:R334). -/
def State.standsPlaced (s : State) (g : Grid) : Bool :=
  !g.closing && !g.held && (match g.qix with
    | none => true
    | some k => (s.qgrid? k).any (fun e => e.gst == .placed))

/-- Whether a launched rectangle lies in the rectangle of its target (13_progress.md:R266, code 10). -/
def State.insideOk (s : State) (r : LaunchRec) (lsq : Option Nat) (ofx ofy : Nat) : Bool :=
  match lsq.bind s.grid? with
  | none => false
  | some g =>
    s.standsPlaced g && r.gngc == 1 && ofx % (r.gngw + 1) == 0 && ofy % (r.gngh + 1) == 0 &&
      decide (ofx + r.gngw ≤ g.rec_.gngw ∧ ofy + r.gngh ≤ g.rec_.gngh)

/-- The codebook tables of a record by slot (05_numbers.md:R143); none when a read faults or is poisoned. -/
def State.readTables (s : State) (ctx : Nat) (fmt : List QWord) : Option (List (Nat × Cells 32)) :=
  allSome (((List.range 8).filter (fun k => slotElt (nth fmt k 0) == 7)).map (fun k =>
    (s.readHome ctx (bits (nth fmt k 0) 64 64) 1024).map (fun d => (k, cells 0 (wordsOf 256 d)))))

/-- The version that a record's `FTV` resolves to (02_state.md:R43). -/
def State.ftvOf (s : State) (ctx : Nat) (r : LaunchRec) : Nat := if r.ftv ≠ 0 then r.ftv else bits (s.ctxDesc ctx) 72 8

/-- Whether a record names the context of the grid into whose rectangle it is launched; any, where that grid is not on the module
(13_progress.md:R266, code 6; 01_device.md:R26; DEDUCED, log 62: for a queue with `TGT` = 1 that is its grid `GID`). -/
def State.sameOwner (s : State) (t : Target) (r : LaunchRec) : Bool :=
  match t with
  | .inside lsq _ _ => (lsq.bind s.grid?).all (fun g => g.rec_.ctx == r.ctx)
  | _ => true

/-- THE CHECKS OF A RECORD in the order of 13_progress.md:R266, but for 12 and 8: the first refusal code, 0 for none, of those before
the prologue and of those that come behind its run. -/
def State.checkRec (s : State) (ctx : Nat) (t : Target) (r : LaunchRec) : Nat × Nat :=
  let ftv := s.ftvOf ctx r
  let early :=
    if !r.inLimits (t == .pod) then 1
    else if !r.extOk then 2
    else if !r.fmt.all slotValid then 3
    else if ftv = 0 ∨ 3 < ftv then 4
    else if (s.readTables ctx r.fmt).isNone then 5
    else if r.ctx ≠ ctx ∨ !s.sameOwner t r then 6
    else if r.det ∧ 0 < r.wtc ∧ r.brc ≠ 0 then 7 else 0
  let late :=
    if !r.fits then 9
    else match t with
      | .inside g x y => if s.insideOk r g x y then 0 else 10
      | .pod => if !s.mayRaise ∨ s.quad.rep.memberCount < r.gngc ∨ 11 < r.gngw ∨ 11 < r.gngh then 13 else 0
      | .row => 0
  (early, late)

/-- The first refusal code of both parts. -/
def firstCode (x : Nat × Nat) : Nat := if x.1 ≠ 0 then x.1 else x.2

/-! ## The prologue -/

/-- The words a prologue may hold besides `exit` and `ldg` (13_progress.md:R267), by their meaning. -/
def prologueOp (op : Op) (w : W) (s : State) : Option Out :=
  match op with
  | .add => some (execAdd w s) | .sub => some (execSub w s) | .addc => some (execAddc w s) | .subb => some (execSubb w s)
  | .mul => some (execMul w s) | .mulh => some (execMulh w s) | .mulw => some (execMulw w s) | .mad => some (execMad w s)
  | .idiv => some (execIdiv w s) | .irem => some (execIrem w s) | .min => some (execMin w s) | .max => some (execMax w s)
  | .abs => some (execAbs w s) | .neg => some (execNeg w s) | .cmp => some (execCmp w s) | .lea => some (execLea w s)
  | .add64 => some (execAdd64 w s) | .sub64 => some (execSub64 w s) | .shl64 => some (execShl64 w s)
  | .and => some (execAnd w s) | .or => some (execOr w s) | .xor => some (execXor w s) | .andn => some (execAndn w s)
  | .orn => some (execOrn w s) | .not => some (execNot w s) | .shl => some (execShl w s) | .shr => some (execShr w s)
  | .sar => some (execSar w s) | .rol => some (execRol w s) | .ror => some (execRor w s) | .perm => some (execPerm w s)
  | .bfx => some (execBfx w s) | .bfi => some (execBfi w s) | .bfr => some (execBfr w s) | .popc => some (execPopc w s)
  | .clz => some (execClz w s) | .ctz => some (execCtz w s)
  | .mov => some (execMov w s) | .ldi => some (execLdi w s) | .ldih => some (execLdih w s) | .sel => some (execSel w s)
  | .pand => some (execPand w s) | .por => some (execPor w s) | .pxor => some (execPxor w s) | .pnot => some (execPnot w s)
  | .bra => some (execBra w s) | .nop => some (execNop w s)
  | _ => none

/-- The unit that runs a prologue: a scalar state of one lane, as the handler of a block of its own. -/
def proRef : Ref := { lsq := 0, tkt := 0, wrp := 0, lane := 0, handler := true }

/-- The state in which a prologue starts (13_progress.md:R267): iteration `k` of a record. -/
def State.proStart (s : State) (ctx k : Nat) (r : LaunchRec) : State :=
  let w := Warp.start 0 0 0 r.par r.prl
  let sr := [(2, r.grdw), (3, r.grdh), (5, k)].foldl (fun c (x : Nat × Nat) => cset c x.1 (BitVec.ofNat 32 x.2)) w.s
  let w := { w with s := sr, paths := [Path.at 1 r.prl], live := 1 }
  let b := Block.start 0 0 0 0 [] []
  let g : Grid :=
    { lsq := 0, rec_ := { r with ctx := ctx, det := false }, ftv := 1, tables := [], qix := none, dps := 0, gngi := 0, rx := 0, ry := 0
      parent := none, nextTkt := 0, ended := 0, killed := 0, killCode := 0, cwa := none, cwv := 0, wctp := 0, phase := []
      seen := [], detLog := [], detAtoms := [], held := false, closing := false, silent := false }
  { s with grids := [g], blocks := [{ b with handler := some { warp := w, trapped := 0, firmware := false } }]
           groups := [], cur := none, traps := 0 }

/-- What the next word of a prologue leads to. -/
inductive ProStep where
  | fault (s : State)
  | next (s : State)
  | ended (w : Warp) (s : State)

/-- A context reads bytes at their homes: what the accesses to host memory leave, and in the error log the consumption of poisoned
sectors and table entries (16_isolation.md:R310; 22_attach.md:R381). -/
def State.noteRead (s : State) (ctx va len : Nat) : State :=
  let ps := s.linePieces ctx va len .load
  ((ps.foldl (fun s x => s.noteSys x.1.sys x.1.pa) s).consume ctx ps).consumeWalks ctx va len

/-- Read a load of the prologue at its home (13_progress.md:R267). -/
def proLoad (w : W) (i : Iss) (s : State) : ProStep :=
  let n := (ldType w.mod.toNat).1
  let d := s.readHome i.ctx (i.globAddr w 0) n
  let s := s.noteRead i.ctx (i.globAddr w 0) n
  match d with
  | none => .fault s
  | some d => .next (finish i (.done (s.updRef i.r (landLoad w i (fun _ => d)))))

/-- The fetched word of a prologue. -/
def proWord (op : Op) (w : W) (i : Iss) (s : State) : ProStep :=
  let act := maskBy i.path.mask (fun l => i.warp.guard w.g l)
  let i := { i with act := act }
  if (i.precheck op w).isSome || spansOf op w i.warp i.path.mask != [] then .fault s
  else
    match op with
    | .exit => if act = 0 then .next (finish i (.done s)) else .ended i.warp s
    | .ldg => if act = 0 then .next (finish i (.done s)) else proLoad w i s
    | _ =>
      match prologueOp op w s with
      | some (.next t) => if t.traps ≠ 0 then .fault t else .next t
      | _ => .fault s

/-- One word of a prologue, its clause started where it must be; counters are ignored (13_progress.md:R267). DESIGN CHOICE (log 18): a
P-form word is a fault whatever its halves are, since the rule lists instructions and not halves of a word. -/
def proStep (ctx : Nat) (s : State) : ProStep :=
  match (s.block? 0 0).bind (fun b => b.refWarp? proRef) with
  | none => .fault s
  | some w =>
    match w.path? 0 with
    | none => .fault s
    | some p =>
      let s := if p.word ≠ 0 then s else s.noteFetch ctx p.hdr
      let start : Option State :=
        if p.word ≠ 0 then some s
        else match s.fetch ctx p.hdr with
          | .error _ => none
          | .ok h =>
            if p.hdr.toNat % 16 ≠ 0 || !headerOk h then none
            else some (s.updRef proRef (fun w => w.updPath 0 (fun p => { p with word := 1, held := h })))
      match start with
      | none => .fault s
      | some s =>
        let va := p.hdr + BitVec.ofNat 64 (16 * max 1 p.word)
        let s := s.noteFetch ctx va
        match s.fetch ctx va with
        | .error _ => .fault s
        | .ok q =>
          match decode q with
          | .error _ => .fault s
          | .ok j =>
            let s := { s with cur := some proRef }
            match j.form, s.issuing with
            | .w op w, some i => proWord op w i s
            | _, _ => .fault s

/-- Run a prologue for at most `n` words: the scalar state at its `exit`, or none for a fault; and the unit's last state. -/
def proRun (ctx : Nat) : Nat → State → Option Warp × State
  | 0, s => (none, s)
  | n + 1, s => match proStep ctx s with
    | .fault t => (none, t)
    | .ended w t => (some w, t)
    | .next t => proRun ctx n t

/-- What a prologue asks for: the record with its fields rewritten, `s4` and `s6`; none for a fault (13_progress.md:R267).
DESIGN CHOICE (log 18): an `s6` above 255 at iteration 0, for which R267 names no outcome, is a fault. -/
def State.prologue (s : State) (ctx k : Nat) (r : LaunchRec) : Option (LaunchRec × Nat × Nat) :=
  if r.prl = 0 then some (r, 0, 0)
  else
    match (proRun ctx 4096 (s.proStart ctx k r)).1 with
    | none => none
    | some w =>
      let v := fun n => (cget w.s n).toNat
      if 1 < v 4 ∨ (k = 0 ∧ 255 < v 6) then none
      else some ({ r with par := BitVec.ofNat 64 (v 1 * 2 ^ 32 + v 0), grdw := v 2, grdh := v 3 }, v 4, if k = 0 then v 6 else 0)

/-! ## Launches -/

/-- What comes of one launch. -/
inductive Verdict where
  | refused (code : Nat)
  | cancelled (repeats : Nat)
  | accepted (r : LaunchRec) (tables : List (Nat × Cells 32)) (repeats : Nat)

/-- JUDGE A LAUNCH, iteration `k` (13_progress.md:R266, R267): the record is read and checked, its prologue runs, and it
is checked again. A context that does not exist is refused with code 6 (16_isolation.md:R300). -/
def State.judge (s : State) (ctx : Nat) (lra : DWord) (t : Target) (k : Nat) : Verdict :=
  if !(s.ctxDesc ctx).getLsbD 64 then .refused 6
  else
    match s.readHome ctx lra.toNat 256 with
    | none => .refused 12
    | some d =>
      let r := LaunchRec.ofBytes d
      let c := s.checkRec ctx t r
      if c.1 ≠ 0 then .refused c.1
      else
        match s.prologue ctx k r with
        | none => .refused 8
        | some (r', stop, n) =>
          if c.2 ≠ 0 then .refused c.2
          else if stop = 1 then .cancelled n
          else
            let c' := firstCode (s.checkRec ctx t r')
            if c' ≠ 0 then .refused c' else .accepted r' ((s.readTables ctx r'.fmt).getD []) n

/-- A grid of a launch record that starts on this module. -/
def Grid.start (lsq ftv : Nat) (r : LaunchRec) (tables : List (Nat × Cells 32)) : Grid :=
  { lsq := lsq, rec_ := r, ftv := ftv, tables := tables, qix := none, dps := 0, gngi := 0, rx := 0, ry := 0, parent := none
    nextTkt := 0, ended := 0, killed := 0, killCode := 0, cwa := none, cwv := 0, wctp := 0, phase := [], seen := []
    detLog := [], detAtoms := [], held := false, closing := false, silent := false }

/-- Put a grid on the module with the next launch sequence (13_progress.md:R268). -/
def State.addGrid (s : State) (g : Grid) : State :=
  { s with grids := s.grids ++ [{ g with lsq := s.front.nextLsq }]
           front := { s.front with nextLsq := s.front.nextLsq + 1 } }

/-- What a submission or launch brings with it: its context, record, target, completion word, where it names one, and value, and
whether it is restartable. -/
structure Launch where
  ctx : Nat
  lra : DWord
  target : Target
  cwa : Option DWord
  cwv : DWord
  rst : Bool
  deriving DecidableEq, Repr

/-- The SUBMIT of an accepted launch (19_quadrille.md:R336). -/
def Launch.submit (l : Launch) (r : LaunchRec) : QEvent :=
  { stt := 0, typ := 1, ctx := l.ctx, lra := l.lra, pri := r.pri, rst := l.rst, gc := r.gngc, gw := r.gngw, gh := r.gngh
    val := r.par, sgw := r.grdw, sgh := r.grdh }

/-- An accepted launch goes to its target (13_progress.md:R268). -/
def State.accept (s : State) (l : Launch) (r : LaunchRec) (tables : List (Nat × Cells 32)) : State :=
  match l.target with
  | .pod =>
    let s := s.raise (l.submit r)
    let sub : Submission := { osq := s.quad.osq, dps := none, ctx := l.ctx, cwa := l.cwa, cwv := l.cwv }
    s.setQuad (fun q => { q with subs := q.subs ++ [sub] })
  | .inside lsq x y =>
    match lsq.bind s.grid? with
    | none => s
    | some p => s.addGrid { Grid.start 0 (s.ftvOf l.ctx r) r tables with
        rx := p.rx + x, ry := p.ry + y, parent := lsq, cwa := l.cwa, cwv := l.cwv, held := p.held }
  | .row => s

/-- The code of a refusal, 0 for none. -/
def Verdict.code : Verdict → Nat
  | .refused c => c
  | _ => 0

/-- The repeats that a launch asks for. -/
def Verdict.repeats : Verdict → Nat
  | .refused _ => 0
  | .cancelled n => n
  | .accepted _ _ n => n

/-- What the front end reads of a launch: its record and the record's codebook tables, address and length. -/
def State.launchReads (s : State) (ctx : Nat) (lra : DWord) : List (Nat × Nat) :=
  let fmt := match s.readHome ctx lra.toNat 256 with
    | none => []
    | some d => (LaunchRec.ofBytes d).fmt.filter (fun q => slotElt q == 7)
  (lra.toNat, 256) :: fmt.map (fun q => (bits q 64 64, 1024))

/-- What the reading of a record leaves behind: its tables are read only where the checks before them let it pass
(13_progress.md:R266). -/
def State.noteRecord (s : State) (ctx : Nat) (lra : DWord) (code : Nat) : State :=
  let rs := s.launchReads ctx lra
  (if 1 ≤ code ∧ code ≤ 4 then rs.take 1 else rs).foldl (fun s x => s.noteRead ctx x.1 x.2) s

/-- What one iteration of a launch reads, whatever comes of it: the record and its tables, and what its prologue fetches and loads
(13_progress.md:R266, R267). -/
def State.launchSeen (s : State) (l : Launch) (k : Nat) : State :=
  if !(s.ctxDesc l.ctx).getLsbD 64 then s
  else
    match s.readHome l.ctx l.lra.toNat 256 with
    | none => s.noteRecord l.ctx l.lra 12
    | some d =>
      let r := LaunchRec.ofBytes d
      let c := (s.checkRec l.ctx l.target r).1
      let t := s.noteRecord l.ctx l.lra c
      if c ≠ 0 ∨ r.prl = 0 then t
      else
        let p := (proRun l.ctx 4096 (t.proStart l.ctx k r)).2
        { t with sec := p.sec, att := p.att }

/-- CARRY OUT A VERDICT (13_progress.md:R266 to R268). A cancelled launch makes its completion store at once. -/
def State.carryOut (s : State) (l : Launch) : Verdict → State
  | .refused _ => s
  | .cancelled _ => s.completionStore l.ctx l.cwa l.cwv 0 0
  | .accepted r t _ => s.accept l r t

/-- One iteration of a launch: the code of its refusal, 0 for none, the repeats that it asks for, and the state. -/
def State.oneLaunch (s : State) (l : Launch) (k : Nat) : Nat × Nat × State :=
  let v := s.judge l.ctx l.lra l.target k
  (v.code, v.repeats, (s.launchSeen l k).carryOut l v)

/-- The repeats of a launch, from iteration `k`; a refused one ends the sequence. -/
def State.repeats (s : State) (l : Launch) : Nat → Nat → Nat × State
  | 0, _ => (0, s)
  | n + 1, k =>
    let x := s.oneLaunch l k
    if x.1 ≠ 0 then (x.1, x.2.2) else x.2.2.repeats l n (k + 1)

/-- LAUNCH A RECORD 1 + r times (13_progress.md:R267): the refusal code, 0 for none, and the state. DESIGN CHOICE (log 18): where
iteration 0 is cancelled (`s4` = 1) the repeats that its `s6` asks for are still launched. -/
def State.launchAll (s : State) (l : Launch) : Nat × State :=
  let x := s.oneLaunch l 0
  if x.1 ≠ 0 then (x.1, x.2.2) else x.2.2.repeats l x.2.1 1

/-- A refusal reported on the event ring and in the completion word (13_progress.md:R266). -/
def State.reportRefusal (s : State) (l : Launch) (code queue : Nat) : State :=
  (s.postEvent l.ctx 2 code l.lra (BitVec.ofNat 64 queue) 0 0 0 s.modn).completionStore l.ctx l.cwa (failValue code) 0 0

/-- The verdicts on every launch that a record asks for. -/
def State.judgeAll (s : State) (l : Launch) : List Verdict :=
  let v := s.judge l.ctx l.lra l.target 0
  v :: (List.range v.repeats).map (fun k => s.judge l.ctx l.lra l.target (k + 1))

/-- What the judgment of a record's launches reads, up to the first that is refused. -/
def State.seenAll (s : State) (l : Launch) (vs : List Verdict) : State :=
  (List.range ((vs.takeWhile (fun v => v.code == 0)).length + 1)).foldl (fun t k => if k < vs.length then t.launchSeen l k else t) s

/-- The verdict that refuses a record, if one does: the first of its launches that is refused. -/
def refusing (vs : List Verdict) : Option Verdict := vs.find? (fun v => v.code != 0)

/-- SUBMIT A RECORD to the Quadrille as `qsub` and the SUBMIT command do (20_isa_system.md:R369): the code, the `OSQ` of the
first SUBMIT formed or 0, and the state. A record one of whose launches is refused raises nothing. -/
def State.submit (s : State) (l : Launch) : Nat × Nat × State :=
  let vs := s.judgeAll l
  match refusing vs with
  | some v => (v.code, 0, ((s.seenAll l vs).carryOut l v).reportRefusal l v.code 0)
  | none =>
    let t := vs.foldl (fun s v => s.carryOut l v) (s.seenAll l vs)
    (0, if s.quad.osq < t.quad.osq then s.quad.osq + 1 else 0, t)

/-! ## Queues -/

/-- The address of a queue's descriptor (13_progress.md:R260). -/
def queueAddr (table q : Nat) : Nat := table + 64 * q

/-- A queue's descriptor. -/
def Memory.queueDesc (m : Memory) (table q : Nat) : BitVec 512 := BitVec.ofNat 512 (m.nat false (queueAddr table q) 64)

/-- Clear the pending bit of a queue. -/
def State.unpend (s : State) (q : Nat) : State :=
  { s with front := { s.front with pending := s.front.pending.filter (· != q) } }

/-- Write bytes of a descriptor. -/
def State.writeDesc (s : State) (table q off : Nat) (d : List Byte) : State :=
  s.homeStore none false (queueAddr table q + off) d false

/-- The level that a fetch of a round is offered to: level 7 eight times, level 6 seven times, and so on
(13_progress.md:R264). -/
def offeredLevel (k : Nat) : Nat :=
  nth ((List.range 8).flatMap (fun i => List.replicate (8 - i) (7 - i))) k 0

/-- The enabled queues with a pending bit at a level. -/
def State.pendingAt (s : State) (table p : Nat) : List Nat :=
  s.front.pending.filter (fun q =>
    let d := s.mem.queueDesc table q
    d.getLsbD 161 && bits d 168 3 == p)

/-- The queue that a level's rotation takes: the first at or after its position, wrapping (13_progress.md:R264). -/
def rotate (rot : Nat) (qs : List Nat) : Option Nat :=
  match qs.find? (fun q => decide (rot ≤ q)) with
  | some q => some q
  | none => qs.head?

/-- The next fetch: its level and queue (13_progress.md:R264). -/
def State.nextFetch (s : State) (table : Nat) : Option (Nat × Nat) :=
  let p := offeredLevel s.front.round
  let levels := (if s.pendingAt table p = [] then [] else [p]) ++
    ((List.range 8).reverse.filter (fun p => s.pendingAt table p != []))
  match levels with
  | [] => none
  | p :: _ => (rotate (nth s.front.rot p 0) (s.pendingAt table p)).map (fun q => (p, q))

/-- The launch of a queue entry (13_progress.md:R261): its target is a grid of the Quadrille that stands PLACED on this
module, or the Quadrille. DESIGN CHOICE (log 19): a `GID` above 1,023, which R260 does not allow and for which it names no outcome, is
taken by its low 10 bits. -/
def State.queueLaunch (s : State) (d : BitVec 512) (e : Nat) : Launch :=
  let gid := bits d 176 10
  let placed := (s.qgrid? gid).any (fun g => g.gst == .placed)
  let target := (s.grids.find? (fun g => g.qix == some gid && !g.closing && placed)).map Grid.lsq
  { ctx := bits d 162 6, lra := BitVec.ofNat 64 (fld e 0 64)
    target := if d.getLsbD 171 then .inside target (fld e 64 4) (fld e 68 4) else .pod
    cwa := wordOrNone (fld e 128 64), cwv := BitVec.ofNat 64 (fld e 192 64), rst := false }

/-- Whether the fields of a queue entry are legal (13_progress.md:R261; code 1). -/
def entryOk (d : BitVec 512) (e : Nat) : Bool :=
  fld e 72 56 == 0 && fld e 0 64 % 256 == 0 && fld e 128 64 % 8 == 0 && (d.getLsbD 171 || fld e 64 8 == 0)

/-- A refusal of a queue's entry also sets the queue's `LRC` (13_progress.md:R266). -/
def State.refuseQueue (s : State) (table q : Nat) (l : Launch) (code : Nat) : State :=
  (s.writeDesc table q 16 [BitVec.ofNat 8 code]).reportRefusal l code q

/-- FETCH OF A QUEUE (13_progress.md:R263): an overrun queue is disabled; otherwise the entry at `HEAD` is read, `HEAD`
rises, the pending bit follows, and the entry is launched or refused. An entry whose fields are illegal is refused with code 1, or
with 12 when its record cannot be read (R266). DESIGN CHOICE (log 19): a ring has 2^`RSZ` entries for an `RSZ` outside 7 to 16
too. -/
def State.fetchQueue (s : State) (table q : Nat) : State :=
  let d := s.mem.queueDesc table q
  let ntf := bits d 0 32
  let head := bits d 32 32
  let ahead := (ntf + 2 ^ 32 - head) % 2 ^ 32
  let size := 2 ^ bits d 172 4
  let ctx := bits d 162 6
  if size < ahead then
    let off := BitVec.ofNat 8 (fld (bits d 160 8) 0 8 - 2)
    let s := ((s.unpend q).writeDesc table q 20 [off]).writeDesc table q 16 [11]
    s.postEvent ctx 3 11 (BitVec.ofNat 64 (queueAddr table q)) (BitVec.ofNat 64 q) 0 0 0 s.modn
  else if ahead = 0 then s.unpend q
  else
    let at_ := bits d 192 64 + 32 * (head % size)
    let entry := if (s.ctxDesc ctx).getLsbD 64 then s.readHome ctx at_ 32 else none
    let s := s.writeDesc table q 4 (leBytes 4 ((head + 1) % 2 ^ 32))
    let s := if ahead = 1 then s.unpend q else s
    match entry with
    | none =>
      if (s.ctxDesc ctx).getLsbD 64 then
        (s.noteRead ctx at_ 32).refuseQueue table q (s.queueLaunch d 0) 12
      else s.refuseQueue table q (s.queueLaunch d 0) 6
    | some l =>
      let e := leNat l
      let x := s.queueLaunch d e
      if !entryOk d e then
        let code := if (s.readHome ctx x.lra.toNat 256).isNone then 12 else 1
        ((s.noteRead ctx at_ 32).noteRecord ctx x.lra code).refuseQueue table q { x with cwa := x.cwa.filter (fun a => a.toNat % 8 == 0) } code
      else
        let y := (s.noteRead ctx at_ 32).launchAll x
        if y.1 = 0 then y.2 else y.2.refuseQueue table q x y.1

/-- QUEUE_FETCH: the front end's next fetch (13_progress.md:R263, R264); none during pod formation (22_attach.md:R386). -/
def execQueueFetch (s : State) : Out :=
  match s.front.table.bind s.nextFetch, s.front.table with
  | some (p, q), some table =>
    if s.att.form.isSome then .next s
    else
      let s := { s with front := { s.front with rot := updAt s.front.rot p (fun _ => (q + 1) % 4096)
                                                round := (s.front.round + 1) % 36 } }
      .next (s.fetchQueue table q)
  | _, _ => .next s

/-! ## Rows -/

/-- The parts on this module of a grid of the replica. -/
def State.partsOf (s : State) (gix : Nat) : List Grid := s.grids.filter (fun g => g.qix == some gix && !g.closing)

/-- Change the parts on this module of a grid of the replica. -/
def State.updParts (s : State) (gix : Nat) (f : Grid → Grid) : State :=
  { s with grids := updIf (fun g : Grid => g.qix == some gix && !g.closing) f s.grids }

/-- Some grids and those launched inside them, at any depth: a grid follows the one it was launched in
(13_progress.md:R268). -/
def State.family (s : State) (roots : List Nat) : List Nat :=
  s.grids.foldl (fun l g => if l.contains g.lsq || !g.parent.any l.contains then l else l ++ [g.lsq]) roots

/-- The parts on this module of a grid of the replica, and what was launched inside their rectangles. -/
def State.partFamily (s : State) (gix : Nat) : List Nat := s.family ((s.partsOf gix).map Grid.lsq)

/-- Kill the parts of a grid without an event, with every grid launched inside them (01_device.md:R26; 19_quadrille.md:R343);
`silent` parts raise no FINISH when they have ended (DEDUCED, log 56). -/
def State.killParts (s : State) (gix : Nat) (silent : Bool) : State :=
  ((s.partFamily gix).foldl (fun s k => s.killGrid k 12) s).updParts gix (fun g => { g with closing := true, silent := silent })

/-- What the detector holds of a grid of the replica that has no part here yet (10_ordering.md:R234). -/
def State.awayLog (s : State) (gix dps : Nat) : List DetAcc :=
  ((s.quad.detAway.find? (fun x => x.qix == some gix && x.num == dps)).map DetLog.log).getD []

/-- LAUNCH A PART at its row (19_quadrille.md:R345): the record is judged again, with `PAR`, `SGW` and `SGH` of the grid
entry; a failure posts an event of type 2 and raises FINISH with cause 0x80 plus the code. -/
def State.startPart (s : State) (c : RowChange) : State :=
  let g := c.grid
  let fail := fun (s : State) (code : Nat) =>
    let s := (s.noteRecord g.ctx g.lra code).postEvent g.ctx 2 code g.lra 0 0 0 0 s.modn
    if s.mayRaise then
      s.raise { stt := 0, typ := 2, grx := c.gix, ctx := g.ctx, flg := true, val := BitVec.ofNat 64 (0x80 + code) }
    else s
  if !(s.ctxDesc g.ctx).getLsbD 64 then fail s 6
  else
    match s.readHome g.ctx g.lra.toNat 256 with
    | none => fail s 12
    | some d =>
      let r := { LaunchRec.ofBytes d with par := g.par, grdw := g.sgw, grdh := g.sgh }
      let code := firstCode (s.checkRec g.ctx .row r)
      if code ≠ 0 then fail s code
      else
        let r := { r with gngc := g.gc, gngw := g.gw, gngh := g.gh, pri := g.pri }
        ((s.noteRecord g.ctx g.lra 0).dropAway c.gix g.dps).addGrid
          { Grid.start 0 (s.ftvOf g.ctx r) r ((s.readTables g.ctx r.fmt).getD []) with
          qix := some c.gix, dps := g.dps, detLog := s.awayLog c.gix g.dps, gngi := (g.gng.takeWhile (· != s.modn)).length, rx := c.entry.x0, ry := c.entry.y0 }

/-- Pre-empt the blocks of a grid's parts, and of the grids launched inside them (01_device.md:R26; 18_recovery.md:R327;
19_quadrille.md:R345). -/
def State.preemptParts (s : State) (gix : Nat) : State :=
  let lsqs := s.partFamily gix
  let stop := fun b : Block => { b with saving := true }
  let hold := fun g : Grid => { g with held := true }
  { s with blocks := updIf (fun b : Block => lsqs.contains b.lsq && b.res == Residence.resident) stop s.blocks
           grids := updIf (fun g : Grid => lsqs.contains g.lsq) hold s.grids }

/-- Place the parts of a grid again with their corner at a core, and what was launched inside them along with them: saved blocks
may be restored there, and every phase starts at 0 (13_progress.md:R275; 19_quadrille.md:R345). -/
def State.placeParts (s : State) (gix x y : Nat) : State :=
  match s.partsOf gix with
  | [] => s
  | p :: _ =>
    let lsqs := s.partFamily gix
    let put := fun g : Grid =>
      { g with held := false, rx := x + (g.rx - p.rx), ry := y + (g.ry - p.ry), phase := [], seen := [] }
    { s with grids := updIf (fun g : Grid => lsqs.contains g.lsq) put s.grids }

/-- Whether the row change that comes next may be enacted: during pod formation only what ends blocks (22_attach.md:R386). -/
def State.mayEnact (s : State) (k : RowKind) : Bool := s.att.form.isNone || k == .kill || k == .discard || k == .lost

/-- ROW_ENACT: the oldest row change that names this module is enacted (19_quadrille.md:R345); a halted module enacts none
(R349). -/
def execRowEnact (row : Nat) (s : State) : Out :=
  match s.quad.pendRows with
  | [] => .next s
  | c :: rest =>
    if c.row ≠ row ∨ !s.mayEnact c.kind then .next s
    else
      let s := s.setQuad (fun q => { q with pendRows := rest })
      if s.quad.halted then .next s
      else
        match c.kind with
        | .start => .next (s.startPart c)
        | .restore => .next (s.placeParts c.gix c.entry.x0 c.entry.y0)
        | .preempt => .next (s.preemptParts c.gix)
        | .kill => .next (s.killParts c.gix false)
        | .discard => .next (s.killParts c.gix false)
        | .lost => .next (s.killParts c.gix true)
        | .finished => .next s

/-- FINISH_RAISE: the part of a grid has ended, and its module raises FINISH, with `FLG` and the cause when it was killed, be it
because its row was removed (19_quadrille.md:R337). -/
def execFinishRaise (lsq : Nat) (s : State) : Out :=
  match s.grid? lsq with
  | none => .next s
  | some g =>
    match g.qix with
    | none => .next s
    | some k =>
      if !s.partEnded g || !s.finishes g then .next s
      else
        let s := s.raise { stt := 0, typ := 2, grx := k, ctx := g.rec_.ctx, flg := g.killCode != 0
                           val := BitVec.ofNat 64 g.killCode }
        .next ((s.keepLog g).removeGrid lsq)

end Sys2Proof.Machine
end

