-- ==== Sys2Proof/Machine/Sync.lean ====
section
/-! DEFINITION. Synchronisation and scheduling (14_isa_sync.md:R281 to R297): named barriers, `yield`, `phase`, the extended
registers, the huddle's deposits, `qpost` and `launch`. -/

namespace Sys2Proof.Machine

/-- Order the earlier accesses of the path as a fence of a scope would, then go on (10_ordering.md:R221). -/
def afterFence (scope : Nat) (k : Iss → State → Res) (i : Iss) (s : State) : Res :=
  match i.path.park with
  | .released _ _ => k i s
  | .run | .stall _ =>
    let f : Park := .fence scope (s.fenceOps i.r scope)
    if s.fencePassed i.warp f then k i s else .stay (s.updRef i.r (fun wp => wp.parkAt i.r.lane f))
  | _ => .stay s

/-! ## Named barriers -/

/-- A barrier after its phase completes (14_isa_sync.md:R282). -/
def Barrier.flip (b : Barrier) : Barrier := { phb := !b.phb, arc := 0, exc := 0, warps := [] }

/-- AN ARRIVAL of `m` lanes of a warp with expected count `n` (14_isa_sync.md:R283). -/
def Barrier.arrive (b : Barrier) (n m : Nat) (wrp : Nat) : Barrier :=
  let b := { b with exc := if b.exc = 0 then n else b.exc, arc := b.arc + m, warps := insertNat wrp b.warps }
  if b.arc = b.exc then b.flip else b

/-- Whether an arrival is legal (14_isa_sync.md:R283). -/
def Barrier.mayArrive (b : Barrier) (n m : Nat) : Bool :=
  decide (1 ≤ n ∧ n ≤ 4096 ∧ (b.exc = 0 ∨ b.exc = n) ∧ b.arc + m ≤ n)

/-- The barrier that a word names. -/
def Iss.barrier (i : Iss) (w : W) : Barrier := nth i.blk.bars w.a.resIx { phb := false, arc := 0, exc := 0, warps := [] }

/-- Whether a completed phase ends a barrier interval: every warp of the block that has not exited has arrived in it
(10_ordering.md:R224). -/
def Block.allArrived (b : Block) (ws : List Nat) : Bool := b.warps.all (fun w => w.live == 0 || ws.contains w.idx)

/-- Release the paths that wait for a phase of a barrier (14_isa_sync.md:R284). -/
def Path.barRelease (n : Nat) (parity : Bool) (p : Path) : Path :=
  match p.park with
  | .bar k q => if k = n ∧ q = parity then { p with park := .released true 0 } else p
  | _ => p

/-- Put a barrier; when its phase has completed, the waiting paths go on, and a barrier interval may end. -/
def State.setBarrier (s : State) (i : Iss) (w : W) (old new : Barrier) : State :=
  let s := i.updBlk s (fun b => { b with bars := updAt b.bars w.a.resIx (fun _ => new) })
  if old.phb = new.phb then s
  else
    let s := i.updBlk s (fun b => b.mapPaths (Path.barRelease w.a.resIx old.phb))
    if i.blk.allArrived (insertNat i.r.wrp old.warps) then s.endInterval i.r.lsq i.r.tkt else s

/-- An arriving `bar` (14_isa_sync.md:R283 to R285): every scratchpad access of the path has been performed by then but for the
status words of its confidential copies, for which it is held at the word (17_prog_copyin.md:R318). -/
def barArrive (wait : Bool) (w : W) (i : Iss) (s : State) : Res :=
  let b := i.barrier w
  let n := i.uni w 1 w.b
  let m := i.lanes.length
  let ops := s.statusOps i.r
  if !b.mayArrive n m then i.illegal s
  else if !s.statusDone ops then .stay s
  else
    let b' := b.arrive n m i.r.wrp
    let s := (s.updRef i.r (fun wp => wp.putP w.d i.lanes (fun _ => b.phb))).setBarrier i w b b'
    if wait && b'.phb == b.phb then .stay (s.updRef i.r (fun wp => wp.parkAt i.r.lane (.bar w.a.resIx b.phb)))
    else .done s

/-- A waiting `bar` (14_isa_sync.md:R284). -/
def barWait (w : W) (i : Iss) (s : State) : Res :=
  let b := i.barrier w
  let n := i.uni w 1 w.b
  let parity := if w.c = .none then b.phb else i.warp.pred w.c i.lane0
  if 4096 < n ∨ (n ≠ 0 ∧ b.exc ≠ 0 ∧ n ≠ b.exc) then i.illegal s
  else if b.phb = parity then .stay (s.updRef i.r (fun wp => wp.parkAt i.r.lane (.bar w.a.resIx parity)))
  else .done s

/-- `bar` (14_isa_sync.md:R283 to R285). -/
def execBar (w : W) (s : State) : Out :=
  issueW .bar w (fun i s =>
    match i.path.park with
    | .released _ _ => .done s
    | .bar _ _ => .stay s
    | _ => if w.mod = 2 then barWait w i s else barArrive (w.mod == 0) w i s) s

/-! ## Yield and phase -/

/-- The core of the issuing warp chooses its running warp afresh (13_progress.md:R274). -/
def Iss.switch (i : Iss) (s : State) : State := i.updCore s (fun c => { c with running := none })

/-- `yield`: the partition passes over the warp once; in a deterministic grid it is a switch point
(14_isa_sync.md:R286). -/
def execYield (w : W) (s : State) : Out :=
  issueW .yield w (fun i s =>
    if i.grid.rec_.det then .done (i.switch s)
    else .done (s.updRef i.r (fun wp => { wp with pass := true }))) s

/-- `phase` (14_isa_sync.md:R287). -/
def execPhase (w : W) (s : State) : Out :=
  issueW .phase w (fun i s =>
    let n := i.uni w 1 w.a
    if n = 0 ∨ 255 < n then i.illegal s
    else
      let v := cget i.grid.phase i.warp.core + BitVec.ofNat 32 n
      let s := s.updGrid i.r.lsq (fun g => { g with phase := cset g.phase i.warp.core v })
      .done (s.updRef i.r (fun wp => wp.put 1 w.d i.lanes (fun _ => v.toNat)))) s

/-! ## Extended registers -/

/-- Whether a size may be requested (02_state.md:R45; 14_isa_sync.md:R288). -/
def Iss.extOk (i : Iss) (n : Nat) : Bool :=
  ([8, 16, 32, 64, 128, 256] : List Nat).contains n && decide (n ≤ i.grid.rec_.ext) && i.warp.ext == 0 && !i.r.handler

/-- Whether a request of the issuing warp may be granted now: the free pool covers it, no older waiting request that the
pool covers is passed, and there is a place; the place (13_progress.md:R271). -/
def State.extNow (s : State) (i : Iss) (n : Nat) : Option Nat :=
  if i.grid.rec_.det then some i.warp.extAt
  else if !s.extCovered i.warp.core i.warp.part i.blk n then none
  else
    let me := (i.blk, i.warp, i.r.lane, n, s.nextId)
    if (s.extWaiters i.warp.core i.warp.part).any (fun x => earlier x me && s.extCovered i.warp.core i.warp.part x.1 x.2.2.2.1) then
      none
    else s.extSpot i.warp.core i.warp.part n

/-- `xget` (14_isa_sync.md:R288). -/
def execXget (w : W) (s : State) : Out :=
  issueW .xget w (fun i s =>
    let n := i.uni w 1 w.a
    if !i.extOk n then i.illegal s
    else
      let note := fun (s : State) (b : Bool) => s.updRef i.r (fun wp => wp.putP w.d i.lanes (fun _ => b))
      match s.extNow i n with
      | some spot => .done ((note s true).updRef i.r (fun wp => wp.takeExt i.grid.rec_.base n spot))
      | none =>
        if w.mod = 1 then .done (note s false)
        else
          let k := s.newId
          .stay (k.2.updRef i.r (fun wp => wp.parkAt i.r.lane (.xget n k.1)))) s

/-- `xput`: it waits for the results of the collectives that either path of the warp has issued; those of other words have landed
(14_isa_sync.md:R289). -/
def execXput (w : W) (s : State) : Out :=
  issueW .xput w (fun i s =>
    if i.warp.ext = 0 then i.illegal s
    else if i.warp.extOwed i.grid.rec_.base then .stay s
    else .done (s.updRef i.r (fun wp => wp.dropExt i.grid.rec_.base))) s

/-! ## The huddle -/

/-- `hud`: each active lane deposits its entry and ends (14_isa_sync.md:R290). A handler's word and one whose continuation
differs meet the illegal-operand trap, which comes after an illegal encoding of the target and before its fetch faults
(02_state.md:R56). -/
def execHud (w : W) (s : State) : Out :=
  issueW .hud w (fun i s =>
    let c := relTarget w i 0
    let barred := i.r.handler || i.blk.hudCont.any (· != c)
    match firstTrap (badTargets s i.ctx i.lanes (fun _ => c)) with
    | some t => if barred ∧ t.cause ≠ 1 then i.illegal s else .trap s t
    | none =>
      if barred then i.illegal s
      else
        let es := i.lanes.map (fun l =>
          { key := i.src w 1 w.a l % 2 ^ 16, payload := BitVec.ofNat 64 (i.src w 2 w.b l), wrp := i.r.wrp, lane := l : HudEntry })
        let s := i.updBlk s (fun b => { b with huddle := b.huddle ++ es, hudCont := some c })
        .moved (s.updRef i.r (fun wp => wp.exitLanes i.path i.lanes))) s

/-! ## Creating work -/

/-- The add to a notify word at its home (14_isa_sync.md:R294): the old count and the state. -/
def State.postQueue (s : State) (i : Iss) (w : W) (table q n : Nat) : Nat × State :=
  let pa := queueAddr table q
  let old := s.mem.nat false pa 4
  let link := s.mem.linked false pa 4
  let s := s.homeStore (some i.warp.core) false pa (leBytes 4 ((old + n) % 2 ^ 32)) false
  let g := s.startGroup i w 2 true 1
  (old, g.2.pushReply g.1 link false pa)

/-- `qpost` (14_isa_sync.md:R294). With no queue table set there is no descriptor of the context. -/
def execQpost (w : W) (s : State) : Out :=
  issueW .qpost w (withCounter w (afterFence 2 (fun i s =>
    let q := i.uni w 1 w.a
    let n := i.uni w 1 w.b
    match s.front.table with
    | none => i.illegal s
    | some t =>
      if 4095 < q ∨ n = 0 ∨ 65535 < n ∨ bits (s.mem.queueDesc t q) 162 6 ≠ i.ctx then i.illegal s
      else
        let x := s.postQueue i w t q n
        .done (x.2.updRef i.r (fun wp => wp.put 1 w.d i.lanes (fun _ => x.1)))))) s

/-- An optional completion word of a launching word, and its value, 1 when omitted (14_isa_sync.md:R296). -/
def Iss.completionOf (i : Iss) (w : W) : Option DWord × DWord :=
  (if w.b = .none then none else some (BitVec.ofNat 64 (i.uni w 2 w.b)),
   if w.c = .none then 1 else BitVec.ofNat 64 (i.uni w 2 w.c))

/-- Whether a completion word is misaligned (14_isa_sync.md:R296; 20_isa_system.md:R370). -/
def oddWord (a : Option DWord) : Bool := a.any (fun x => x.toNat % 8 != 0)

/-- `launch`: the record is handed to the front end, which reports in D (14_isa_sync.md:R295, R296). Its counter would
rise and fall with the word. -/
def execLaunch (w : W) (s : State) : Out :=
  issueW .launch w (withCounter w (afterFence 1 (fun i s =>
    let lra := BitVec.ofNat 64 (i.uni w 2 w.a)
    let cw := i.completionOf w
    if lra.toNat % 256 ≠ 0 ∨ oddWord cw.1 then i.illegal s
    else
      let l : Launch := { ctx := i.ctx, lra := lra, target := .inside (some i.r.lsq) (bits w.imm 0 4) (bits w.imm 4 4)
                          cwa := cw.1, cwv := cw.2, rst := false }
      let x := s.launchAll l
      let s := if x.1 = 0 then x.2 else x.2.completionStore i.ctx cw.1 (failValue x.1) 0 0
      .done (s.updRef i.r (fun wp => wp.put 1 w.d i.lanes (fun _ => x.1)))))) s

end Sys2Proof.Machine
end

