-- ==== Sys2Proof/Machine/System.lean ====
section
/-! DEFINITION. The system instructions: service calls and their replies (20_isa_system.md:R365, R366; 13_progress.md:R277;
22_attach.md:R382), the event ring (R367), invalidation (R368; 16_isolation.md:R305), and the Quadrille instructions (R369
to R372). -/

namespace Sys2Proof.Machine

/-! ## Service calls -/

/-- `svc`: the message is sent with a name of its own, after the order of a `fence.sys` (20_isa_system.md:R365). -/
def execSvc (w : W) (s : State) : Out :=
  issueW .svc w (fun i s =>
    if i.warp.svc ≠ .none then i.illegal s
    else afterFence 3 (fun i s =>
      let n := s.newId
      let call : SvcCall := .waiting n.1 (w.imm.toNat % 2 ^ 16) (BitVec.ofNat 128 (i.uni w 4 w.a))
      .done (n.2.updRef i.r (fun wp => { wp with svc := call }))) i s) s

/-- `svcw` (20_isa_system.md:R366). -/
def execSvcw (w : W) (s : State) : Out :=
  issueW .svcw w (fun i s =>
    match i.warp.svc with
    | .none => i.illegal s
    | .waiting _ _ _ => .stay (s.updRef i.r (fun wp => wp.parkAt i.r.lane .svcw))
    | .replied =>
      .done (s.updRef i.r (fun wp => { wp.put 4 w.d i.lanes (fun _ => i.warp.reply.toNat % 2 ^ 128) with svc := .none }))) s

/-- A path that waits for a reply goes on when the reply stands in the slot. -/
def Path.svcWake (p : Path) : Path := if p.park = .svcw then { p with park := .run } else p

/-- THE REPLY OF A SERVICE CORE lands in the warp's reply slot: in its state, and in the slot of the save frame
(13_progress.md:R277, 18_recovery.md:R326). -/
def State.svcAnswer (s : State) (r : Ref) (v : Nat) : State :=
  let land := fun wp : Warp =>
    { wp with svc := .replied, reply := BitVec.ofNat 256 v, paths := wp.paths.map Path.svcWake }
  let s := s.updRef r land
  match s.block? r.lsq r.tkt with
  | none => s
  | some b =>
    let ctx := s.ctxOf r.lsq
    let va := s.frameBase ctx b.frame + frameReply r.wrp
    if r.handler then s
    else match s.translateRange ctx va 32 .store with
      | .error _ => s
      | .ok _ => s.homeStoreVa none ctx va (leBytes 32 v) false

/-- The count of entries that the host has not consumed (22_attach.md:R382). -/
def Attach.unread (a : Attach) : Nat := (a.posts + 2 ^ 32 - a.ncn.toNat) % 2 ^ 32

/-- Whether the host has consumed entry n. -/
def Attach.passed (a : Attach) (n : Nat) : Bool := decide (n + a.unread < a.posts)

/-- The 64 bytes of an entry of the notification ring (22_attach.md:R382). -/
def Post.toNat (p : Post) (t : DWord) (n : Nat) : Nat :=
  t.toNat * 2 ^ 448 + p.msg.toNat * 2 ^ 320 + p.ctx % 64 * 2 ^ 314 + p.frame % 1024 * 2 ^ 304 + p.wrp % 128 * 2 ^ 297 +
    p.kind % 256 * 2 ^ 288 + n % 2 ^ 32 * 2 ^ 32

/-- Write the next entry of the ring; in confidential mode it travels as a secured message (22_attach.md:R382). -/
def State.writePost (s : State) (base sz : Nat) (p : Post) : State :=
  let n := s.att.posts
  let e := leBytes 64 (p.toNat s.time n)
  let s := if s.sec.confidential then s else s.homeStore none true (base + 64 * (n % 2 ^ sz)) e false
  { s with att := { s.att with
      posts := n + 1
      awaiting := match p.src with | some k => s.att.awaiting ++ [(n, k)] | none => s.att.awaiting } }

/-- Write waiting posts while the ring has room (22_attach.md:R382). -/
def State.flushPosts (s : State) : State :=
  match s.att.ring with
  | none => s
  | some (base, sz) =>
    s.att.outbox.foldl (fun s p =>
      if s.att.unread < 2 ^ sz then
        { s with att := { s.att with outbox := s.att.outbox.drop 1 } }.writePost base sz p
      else s) s

/-- Post an entry, at once when the ring has room. -/
def State.post (s : State) (p : Post) : State :=
  { s with att := { s.att with outbox := s.att.outbox ++ [p] } }.flushPosts

/-- The reply of ECHO, ERRCOUNT and the unknown services (20_isa_system.md:R365): status in the low word, reply words
above it. -/
def State.svcResult (s : State) (num : Nat) (msg : QWord) : Nat :=
  let m := msg.toNat
  let sat := fun n : Nat => min n (2 ^ 32 - 1)
  let k := m % 2 ^ 32
  match num with
  | 1 => m % 2 ^ 96 * 2 ^ 32
  | 2 =>
    if k < 8 then
      sat (nth s.att.corrected k 0) * 2 ^ 32 + sat (nth s.att.uncorrected k 0) * 2 ^ 64 + sat (nth s.att.detected k 0) * 2 ^ 96
    else 3
  | _ => 1

/-- HOST-POST (20_isa_system.md:R365): the message is posted once; the call ends when the host has acknowledged its entry
(22_attach.md:R382). -/
def State.hostPost (s : State) (r : Ref) (id : Nat) (msg : QWord) : State :=
  if s.att.outbox.any (fun p => p.src == some id) then s
  else
    match s.att.awaiting.find? (fun x => x.2 == id) with
    | some x =>
      if s.att.passed x.1 then
        { s with att := { s.att with awaiting := s.att.awaiting.filter (fun y => y.2 != id) } }.svcAnswer r 0
      else s
    | none =>
      if s.att.ring.isNone then s.svcAnswer r 2
      else
        let b := s.block? r.lsq r.tkt
        let frame := match b with | some b => b.frame | none => 0
        let wrp := match b.bind (fun b => b.refWarp? r) with | some w => w.idx | none => 0
        s.post { msg := msg, ctx := s.ctxOf r.lsq, frame := frame, wrp := wrp, kind := 0, src := some id }

/-- SVC_REPLY: a service core answers the outstanding call of a warp, resident or saved (13_progress.md:R277). -/
def execSvcReply (r : Ref) (s : State) : Out :=
  match ((s.block? r.lsq r.tkt).bind (fun b => b.refWarp? r)).map Warp.svc with
  | some (.waiting id num msg) =>
    if num = 3 then .next (s.hostPost r id msg) else .next (s.svcAnswer r (s.svcResult num msg))
  | _ => .next s

/-! ## The event ring -/

/-- `evtpop`: the entry is copied as memory holds it, poison with it (20_isa_system.md:R367). -/
def execEvtpop (w : W) (s : State) : Out :=
  issueW .evtpop w (fun i s =>
    let off := i.uni w 1 w.a
    let c := nth s.ctxs i.ctx CtxEnt.absent
    let note := fun (s : State) (b : Bool) => s.updRef i.r (fun wp => wp.putP w.d i.lanes (fun _ => b))
    if off % 64 ≠ 0 ∨ !i.inScratch off 64 then i.illegal s
    else if c.written ≤ c.taken then .done (note s false)
    else
      let va := s.eventAddr i.ctx c.taken
      match s.translate i.ctx va .load with
      | .error k => .trap s { cause := 4, sub := k, mask := i.act, addr := BitVec.ofNat 64 va, access := Acc.load.code }
      | .ok x =>
        match i.detect 1 (i.detScratch [(i.lane0, off, 64)]) (s.noteSys x.sys x.pa) with
        | .error t => .trap s { t with mask := i.act }
        | .ok s =>
          let x := s.homeRead i.ctx va 32
          let y := s.homeRead i.ctx (va + 32) 32
          let s := if x.2 || y.2 then s.consume i.ctx (s.linePieces i.ctx va 64 .load) else s
          let s := i.updBlk (s.fillTlb i.ctx va) (fun b => (b.spWrite i.scr off x.1 x.2).spWrite i.scr (off + 32) y.1 y.2)
          let s := { s with ctxs := updAt s.ctxs i.ctx (fun c => { c with taken := c.taken + 1 }) }
          .done (note s true)) s

/-! ## Invalidation -/

/-- Whether the path that issues is a sequence of the firmware. -/
def Iss.firmware (i : Iss) : Bool := i.r.handler && i.blk.firmware

/-- Whether a range may be invalidated: aligned, below 2^56, and at 0 for a whole context (20_isa_system.md:R368). -/
def invalOk (va units : Nat) : Bool := va % 65536 == 0 && decide (va < 2 ^ 56) && (units != 0 || va == 0)

/-- Drop what TLBs and L1s hold for an invalidation: for a whole context every translation and copy of it
(16_isolation.md:R305). -/
def State.dropFor (s : State) (ctx va units : Nat) : State :=
  if units = 0 then
    let s := s.dropRange ctx 0 (2 ^ 40)
    { s with mem := { s.mem with l1 := s.mem.l1.filter (fun c => c.ctx != ctx) } }
  else s.dropRange ctx va units

/-- `tlbinv` (20_isa_system.md:R368). -/
def execTlbinv (w : W) (s : State) : Out :=
  issueW .tlbinv w (withCounter w (fun i s =>
    let va := i.uni w 2 w.a
    let units := i.uni w 1 w.b
    let other := w.mod.getLsbD 0
    let ctx := if other then i.uni w 1 w.c else i.ctx
    if !invalOk va units || (other && (!i.firmware || decide (63 < ctx))) then i.illegal s
    else
      let waits := s.ctxOps ctx
      let g := (s.dropFor ctx va units).startGroup i w 0 true 1
      .done (g.2.startInval (some g.1) ctx va units waits))) s

/-- Whether an invalidation may complete: the operations it waits for have been performed (16_isolation.md:R305). -/
def State.invalDone (s : State) (v : InvalOp) : Bool := s.opsDone v.waits

/-- What the device keeps of a context that is gone: the numbers of its events written and lost, which do not fall without a reset,
so that a context created again under its number goes on with them; no event of the old one is left to take (18_recovery.md:R329,
R332; DEDUCED, log 57). -/
def CtxEnt.gone (c : CtxEnt) : CtxEnt := { c with desc := 0, taken := c.written, marked := [] }

/-- INVALIDATION_COMPLETE: the counter of a `tlbinv` falls; a command's invalidation completes the command, and the context
that the command destroys is gone (16_isolation.md:R300, R305). -/
def execInvalidationComplete (op : Nat) (s : State) : Out :=
  match s.invals.find? (fun v => v.op == op) with
  | none => .next s
  | some v =>
    if !s.invalDone v then .next s
    else
      let s := { s with invals := s.invals.filter (fun x => x.op != op) }.dropFor v.ctx v.va.toNat v.units
      match v.group with
      | some g => .next (s.groupDone g)
      | none =>
        let s := if (s.ctxDesc v.ctx).getLsbD 64 then s
          else s.updCtx v.ctx CtxEnt.gone
        .next (s.complete 0 0)

/-! ## Raising pod events -/

/-- `qsub` (20_isa_system.md:R369, R370). Its counter would rise and fall with the word. A misaligned completion word traps in any
case; the record's address is judged only where the module is a MEMBER (R369, step 3). -/
def execQsub (w : W) (s : State) : Out :=
  issueW .qsub w (withCounter w (afterFence 2 (fun i s =>
    let lra := BitVec.ofNat 64 (i.uni w 2 w.a)
    let cw := i.completionOf w
    if oddWord cw.1 ∨ (s.mayRaise ∧ lra.toNat % 256 ≠ 0) then i.illegal s
    else
      let l : Launch := { ctx := i.ctx, lra := lra, target := .pod, cwa := cw.1, cwv := cw.2, rst := w.mod.getLsbD 0 }
      let x := if s.mayRaise then s.submit l else (13, 0, s.reportRefusal l 13 0)
      .done (x.2.2.updRef i.r (fun wp =>
        (wp.put 1 w.d i.lanes (fun _ => x.1)).put 1 w.e i.lanes (fun _ => x.2.1)))))) s

/-- The event that `qblk`, `qunb`, `qcan` and the commands of their names form (20_isa_system.md:R369, 19_quadrille.md:R336). -/
def gridEvent (typ ctx gix : Nat) : QEvent := { stt := 0, typ := typ, grx := gix, ctx := ctx }

/-- An event about a grid index, raised at once; D receives its `OSQ`, or 0 (20_isa_system.md:R369). -/
def raiseWord (typ : Nat) (w : W) : Iss → State → Res :=
  afterFence 2 (fun i s =>
    let g := i.uni w 1 w.a
    if 1023 < g then i.illegal s
    else
      let t := if s.mayRaise then s.raise (gridEvent typ i.ctx g) else s
      .done (t.updRef i.r (fun wp => wp.put 1 w.d i.lanes (fun _ => if s.mayRaise then t.quad.osq else 0))))

/-- `qblk` (20_isa_system.md:R369). -/
def execQblk (w : W) (s : State) : Out := issueW .qblk w (raiseWord 3 w) s
/-- `qunb` (20_isa_system.md:R369). -/
def execQunb (w : W) (s : State) : Out := issueW .qunb w (raiseWord 4 w) s
/-- `qcan` (20_isa_system.md:R369). -/
def execQcan (w : W) (s : State) : Out := issueW .qcan w (raiseWord 5 w) s

/-! ## Reading the replica -/

/-- `qrow` (20_isa_system.md:R371). -/
def execQrow (w : W) (s : State) : Out :=
  issueW .qrow w (fun i s =>
    let k := i.uni w 1 w.a
    if 4095 < k then i.illegal s
    else .done (s.updRef i.r (fun wp => wp.put 2 w.d i.lanes (fun _ => rowBits s.quad.rep.rows k)))) s

/-- `qdig` (20_isa_system.md:R371). -/
def execQdig (w : W) (s : State) : Out :=
  issueW .qdig w (fun i s =>
    let v := bits s.quad.rep.digest (if w.mod.getLsbD 0 then 128 else 0) 128
    .done (s.updRef i.r (fun wp =>
      (wp.put 4 w.d i.lanes (fun _ => v)).put 1 w.e i.lanes (fun _ => s.quad.rep.seq % 2 ^ 32)))) s

/-- `qseq` (20_isa_system.md:R371). -/
def execQseq (w : W) (s : State) : Out :=
  issueW .qseq w (fun i s => .done (s.updRef i.r (fun wp => wp.put 2 w.d i.lanes (fun _ => s.quad.rep.seq)))) s

/-- WHAT A `qwait` RETURNS NOW, D and E; none while it waits (20_isa_system.md:R372). -/
def State.qwaitNow (s : State) (osq : Bool) (a : Nat) : Option (Nat × Bool) :=
  if !osq then (if a ≤ s.quad.rep.seq then some (s.quad.rep.seq, true) else none)
  else if a + 65536 ≤ s.quad.osq then some (2 ^ 64 - 1, true)
  else
    match s.quad.fates.find? (fun f => f.1 == a) with
    | some (_, .delivered n) => some (n, true)
    | some (_, .discarded) => some (0, false)
    | none => if s.isMember s.modn then none else some (0, false)

/-- Whether a deadline has passed. -/
def State.past (s : State) (d : Option DWord) : Bool := d.any (fun d => decide (d.toNat < s.time.toNat))

/-- What a `qwait` returns now with its deadline (20_isa_system.md:R372). -/
def State.qwaitEnd (s : State) (osq : Bool) (a : Nat) (d : Option DWord) : Option (Nat × Bool) :=
  match s.qwaitNow osq a with
  | some x => some x
  | none => if s.past d then some (s.quad.rep.seq, false) else none

/-- `qwait` (20_isa_system.md:R372). -/
def execQwait (w : W) (s : State) : Out :=
  issueW .qwait w (fun i s =>
    let osq := w.mod.getLsbD 0
    let a := i.uni w (if osq then 1 else 2) w.a
    let d : Option DWord := if w.c = .none then none else some (BitVec.ofNat 64 (i.uni w 2 w.c))
    let go := fun x : Nat × Bool => Res.done (s.updRef i.r (fun wp =>
      (wp.put 2 w.d i.lanes (fun _ => x.1)).putP w.e i.lanes (fun _ => x.2)))
    match i.path.park with
    | .released ok v => go (v.toNat, ok)
    | .qwait o b e => match s.qwaitEnd o b.toNat e with
      | some x => go x
      | none => .stay s
    | _ =>
      if osq ∧ (a = 0 ∨ s.quad.osq < a) then i.illegal s
      else
        match s.qwaitEnd osq a d with
        | some x => go x
        | none => .stay (s.updRef i.r (fun wp => wp.parkAt i.r.lane (.qwait osq (BitVec.ofNat 64 a) d)))) s

/-- QWAIT_DEADLINE: `TIME` has passed the deadline of a parked `qwait`, which evaluates and goes on (20_isa_system.md:R372). -/
def execQwaitDeadline (r : Ref) (s : State) : Out :=
  match (s.awakeAt r).map Path.park with
  | some (.qwait osq a d) =>
    if !s.past d then .next s
    else match s.qwaitEnd osq a.toNat d with
      | some x => .next (s.updRef r (fun w => w.parkAt r.lane (.released x.2 (BitVec.ofNat 64 x.1))))
      | none => .next s
  | _ => .next s

end Sys2Proof.Machine
end

