-- ==== Sys2Proof/Machine/Referee.lean ====
section
/-! DEFINITION. The referee: its instructions (20_isa_system.md:R355 to R364), and what it does with a trapped warp
(18_recovery.md:R319 to R322; 16_isolation.md:R303; 22_attach.md:R388). -/

namespace Sys2Proof.Machine

/-! ## Naming a warp -/

/-- The holder that an issuing path is: its sequence of the firmware, or the activation of its block (20_isa_system.md:R357). -/
def Iss.holder (i : Iss) : Holder := if i.firmware then .firmware i.r.lsq i.r.tkt else .handler

/-- The block of a context and a save frame. -/
def State.frameBlock (s : State) (ctx frame : Nat) : Option Block :=
  s.blocks.find? (fun b => b.frame == frame && s.ctxOf b.lsq == ctx && b.res != Residence.killed)

/-- The block and warp index that a selector names; none for a breach of 20_isa_system.md:R356. -/
def Iss.named (i : Iss) (s : State) (sel : Nat) : Option (Block × Nat) :=
  let b := if i.firmware then
      (if fld sel 31 1 = 0 then s.frameBlock (fld sel 17 6) (fld sel 7 10) else none)
    else (if fld sel 31 1 = 1 ∧ fld sel 7 16 = 0 then some i.blk else none)
  if fld sel 23 8 ≠ 0 then none
  else b.bind (fun b => if fld sel 0 7 < b.warps.length then some (b, fld sel 0 7) else none)

/-- The block and warp that a selector names. -/
def Iss.namedWarp (i : Iss) (s : State) (w : W) : Option (Block × Warp) :=
  (i.named s (i.uni w 1 w.a)).bind (fun x => (x.1.warp? x.2).map (fun t => (x.1, t)))

/-! ## Items -/

/-- Whether a warp is held by a `refstop`: it is held, and not by its trap (20_isa_system.md:R357). -/
def State.heldByStop (s : State) (b : Block) (w : Warp) : Bool :=
  let own := w.holder == .handler && b.handler.any (fun a => !a.firmware && a.trapped == w.idx)
  w.holder != .free && !(w.trap.isSome && (own || s.escalated b w.idx))

/-- The status item (20_isa_system.md:R359). -/
def State.status (s : State) (b : Block) (w : Warp) : Nat :=
  let parked := fun p : Path => match p.park with
    | .run | .released _ _ => false
    | _ => true
  bitNat w.trap.isSome + 2 * bitNat (s.heldByStop b w) + 4 * bitNat (w.paths.any parked) + 8 * bitNat w.ended

/-- A special register of a warp as `refrd` reads it: `TIME` reads its latch (20_isa_system.md:R359). -/
def refSr (s : State) (b : Block) (g : Grid) (t : Warp) (sel lane : Nat) : Nat :=
  if sel = 16 then half64 false t.latchT else srRead s b g t sel lane

/-- Whether an item belongs to a lane (20_isa_system.md:R359, R360): the special registers of a thread, predicates and `v`
registers. -/
def itemPerThread (item : Nat) : Bool :=
  item == 0x100 || item == 0x10D || item == 0x10E || item == 0x112 || item == 0x113 ||
    decide (0x300 ≤ item ∧ item < 0x800)

/-- Whether an item names a `v` register or a tag beyond the allocation of its warp (20_isa_system.md:R359). -/
def itemBeyond (t : Warp) (g : Grid) (item : Nat) : Bool :=
  (decide (0x400 ≤ item ∧ item < 0x800) && decide (t.regs g.rec_.base ≤ item - 0x400)) ||
    (decide (0x800 ≤ item ∧ item < 0xC00) && decide (t.regs g.rec_.base ≤ item - 0x800))

/-- Predicates 32i to 32i + 31 of a lane as a number. -/
def Warp.predWord (w : Warp) (i lane : Nat) : Nat :=
  ((List.range 32).map (fun j => bitNat ((cget w.p (32 * i + j)).getLsbD lane) * 2 ^ j)).foldl (· + ·) 0

/-- THE VALUE OF AN ITEM of a warp (20_isa_system.md:R359). -/
def itemRead (s : State) (b : Block) (g : Grid) (t : Warp) (item lane : Nat) : Nat :=
  if item < 0x10 then t.trapWord item
  else if item = 0x10 then s.status b t
  else if item < 0x200 then refSr s b g t (item - 0x100) lane
  else if item < 0x300 then (cget t.s (item - 0x200)).toNat
  else if item < 0x400 then t.predWord (item - 0x300) lane
  else if item < 0x800 then (cget t.v (32 * (item - 0x400) + lane)).toNat
  else if item < 0xC00 then t.tag (item - 0x800)
  else nth t.cnt (item - 0xC00) 0

/-- `refrd` (20_isa_system.md:R357, R359). -/
def execRefrd (w : W) (s : State) : Out :=
  issueW .refrd w (fun i s =>
    let item := bits w.imm 0 12
    let lane := i.uni w 1 w.b
    match i.namedWarp s w with
    | none => i.illegal s
    | some (b, t) =>
      match s.grid? b.lsq with
      | none => i.illegal s
      | some g =>
        if !(t.stopped || t.trap.isSome) || (itemPerThread item && decide (31 < lane)) || itemBeyond t g item then i.illegal s
        else .done (s.updRef i.r (fun wp => wp.put 1 w.d i.lanes (fun _ => itemRead s b g t item lane)))) s

/-- Whether a value may be written to an item of a warp (20_isa_system.md:R359, R360). -/
def itemWritable (t : Warp) (g : Grid) (item x : Nat) : Bool :=
  !itemBeyond t g item &&
    (if 0x100 ≤ item ∧ item < 0x200 then srWritable (item - 0x100) x
     else if 0x200 ≤ item ∧ item < 0x800 then true
     else if 0x800 ≤ item ∧ item < 0xC00 then
       let n := item - 0x800
       decide (x ≤ 6 ∧ n % vfAlign x = 0 ∧ n + x ≤ t.regs g.rec_.base)
     else false)

/-- WRITE AN ITEM of a warp in some lanes (20_isa_system.md:R360). -/
def Warp.itemWrite (t : Warp) (item x : Nat) (ls : List Nat) : Warp :=
  if item < 0x200 then t.srWrite (item - 0x100) (if item = 0x10C then [0] else ls) (fun _ => x)
  else if item < 0x300 then { t with s := cset t.s (item - 0x200) (BitVec.ofNat 32 x) }
  else if item < 0x400 then
    (List.range 32).foldl (fun t j => t.putP (.p (Fin.ofNat 96 (32 * (item - 0x300) + j))) ls (fun _ => fld x j 1 == 1)) t
  else if item < 0x800 then t.put 1 (.v (Fin.ofNat 384 (item - 0x400))) ls (fun _ => x)
  else
    let n := item - 0x800
    { t with tags := if x = 0 then cset t.tags n 0 else cset (clearTags t.tags n x) n (BitVec.ofNat 3 x) }

/-- `refwr` (20_isa_system.md:R357, R360). -/
def execRefwr (w : W) (s : State) : Out :=
  issueW .refwr w (fun i s =>
    let item := bits w.imm 0 12
    let all := w.mod.getLsbD 0
    let lane := i.uni w 1 w.c
    let x := i.uni w 1 w.b
    match i.namedWarp s w with
    | none => i.illegal s
    | some (b, t) =>
      match s.grid? b.lsq with
      | none => i.illegal s
      | some g =>
        if t.holder ≠ i.holder || (itemPerThread item && !all && decide (31 < lane)) || !itemWritable t g item x then
          i.illegal s
        else .done (s.updWarp b.lsq b.tkt t.idx (fun t => t.itemWrite item x (if all then lanesOf t.live else [lane])))) s

/-! ## Stopping, resuming and killing -/

/-- `refres` (20_isa_system.md:R361). -/
def execRefres (w : W) (s : State) : Out :=
  issueW .refres w (fun i s =>
    let mode := RetMode.ofMod w.mod.toNat
    match i.namedWarp s w with
    | none => i.illegal s
    | some (b, t) =>
      let own := !i.firmware && (match i.blk.handler with | some a => a.trapped == t.idx | none => false)
      if t.holder ≠ i.holder || own then i.illegal s
      else
        match t.trap with
        | some rec_ =>
          match (if mode = .ckpt then ckptTrap s (s.ctxOf b.lsq) t rec_.mask else none) with
          | some e => .trap s { e with mask := i.act }
          | none => .done (s.updWarp b.lsq b.tkt t.idx (fun t => t.returnFrom rec_ mode))
        | none =>
          if mode ≠ .retry then i.illegal s
          else .done (s.updWarp b.lsq b.tkt t.idx (fun t => t.resume b.bars))) s

/-- `refstop` (20_isa_system.md:R357, R358). -/
def execRefstop (w : W) (s : State) : Out :=
  issueW .refstop w (fun i s =>
    let note := fun (s : State) (v : Bool) => Res.done (s.updRef i.r (fun wp => wp.putP w.d i.lanes (fun _ => v)))
    match i.namedWarp s w with
    | none => i.illegal s
    | some (b, t) =>
      let target : Ref := { lsq := b.lsq, tkt := b.tkt, wrp := t.idx, lane := 0, handler := false }
      if t.holder = i.holder then note s true
      else if t.ended then note s false
      else if t.holder = .free ∧ t.atRest ∧ t.busy = [] then
        note (s.updWarp b.lsq b.tkt t.idx (fun t => { t with holder := i.holder, stopped := true })) true
      else .stay (s.updRef i.r (fun wp => wp.parkAt i.r.lane (.stopping target)))) s

/-- The event code of a `refkill`: the immediate in the firmware, the activation's cause in a handler; none for a breach
(20_isa_system.md:R362). -/
def Iss.killCode (i : Iss) (w : W) : Option Nat :=
  let n := w.imm.toNat
  if i.firmware then (if 1 ≤ n ∧ n ≤ 12 then some n else none)
  else if n ≠ 0 then none
  else i.trapped.bind (fun t => t.trap.map TrapRec.cause)

/-- `refkill`: the handler's lane ends with it (20_isa_system.md:R362). -/
def execRefkill (w : W) (s : State) : Out :=
  issueW .refkill w (fun i s =>
    match i.named s (i.uni w 1 w.a), i.killCode w with
    | some (b, _), some code =>
      let wrp := match i.blk.handler with
        | some a => if b.lsq = i.r.lsq ∧ b.tkt = i.r.tkt then a.trapped else 0
        | none => 0
      let t := s.killBlock b.lsq b.tkt wrp code
      if i.firmware then .done t else .moved t
    | _, _ => i.illegal s) s

/-! ## Saving and restoring -/

/-- Queue one reply for stores performed now: the maxima of their completion times (10_ordering.md:R218, R219). -/
def State.replyAll (s : State) (op : Nat) (link : Bool) (ps : List (Xlat × Nat)) : State :=
  let ts := ps.map (fun p => s.completion p.1.sys p.1.pa)
  s.queueReply op link (ps.any (fun p => !p.1.sys)) (maxT (ts.map (fun t => t.1))) (maxT (ts.map (fun t => t.2.1)))
    (maxT (ts.map (fun t => t.2.2)))

/-- `ctxsave`: steps 2 to 5 of 18_recovery.md:R327 for a block whose warps the issuer holds; an ended warp is held by
nobody (20_isa_system.md:R358, R363). The path waits while the block's operations land, and then, its generations advanced, for
the sectors that carry the old ones. -/
def execCtxsave (w : W) (s : State) : Out :=
  issueW .ctxsave w (withCounter w (fun i s =>
    match i.named s (i.uni w 1 w.a) with
    | none => i.illegal s
    | some (b, _) =>
      match s.grid? b.lsq with
      | none => i.illegal s
      | some gr =>
        if !i.firmware || b.res ≠ .resident || (b.coreAt i.warp.core).isNone ||
            !b.warps.all (fun t => t.holder == i.holder || t.ended) then i.illegal s
        else if !b.drained then .stay s
        else if !b.advanced then .stay (s.advanceGens b)
        else if s.inbound b then .stay s
        else
          let t := s.saveBlock b gr
          if !(t.block? b.lsq b.tkt).any (fun x => x.res == .saved) then .done t
          else
            let ps := s.framePieces b gr .store
            let n := t.startGroup i w 0 (ps.any (fun p => !p.1.sys)) 1
            .done (n.2.replyAll n.1 (ps.any (fun p => s.mem.linked p.1.sys p.1.pa p.2)) ps))) s

/-- `ctxrest`: the path waits until every core of the rectangle can admit the block; one whose header is not marked saved is killed
with code 11 (20_isa_system.md:R364). -/
def execCtxrest (w : W) (s : State) : Out :=
  issueW .ctxrest w (withCounter w (fun i s =>
    let org := i.uni w 1 w.b
    match i.named s (i.uni w 1 w.a) with
    | none => i.illegal s
    | some (b, _) =>
      match s.grid? b.lsq with
      | none => i.illegal s
      | some gr =>
        let o := originOf org
        let cores := gr.coresAt o
        let taken := s.blocks.any (fun x => x.res == .resident && cores.any (fun c => (x.coreAt c).isSome))
        if !i.firmware || org / 256 ≠ 0 || !gr.mayUse b.tkt o || taken then i.illegal s
        else
          match s.savedSeats false gr o b with
          | none => .stay s
          | some seats => .done (if b.res = .saved then s.restoreBlock b gr o seats else s.killBlock b.lsq b.tkt 0 11))) s

/-! ## Trapped warps -/

/-- The trapped warps of a core that the referee has not taken: block, warp and record. -/
def State.trapsOf (s : State) (core : Nat) : List (Block × Warp × TrapRec) :=
  s.blocks.flatMap (fun b => if b.res ≠ .resident ∨ b.saving then [] else
    b.warps.filterMap (fun w => match w.trap with
      | some t => if w.core = core ∧ w.holder = .free then some (b, w, t) else none
      | none => none))

/-- Whether a cause is user-class (18_recovery.md:R320). -/
def userClass (cause : Nat) : Bool := decide (6 ≤ cause ∧ cause ≤ 9)

/-- Whether a trap waits for an activation of its block on another core (20_isa_system.md:R357). -/
def mustWait (x : Block × Warp × TrapRec) : Bool := userClass x.2.2.cause && x.1.handler.isSome

/-- Whether a trap comes before another in the referee's order: the time at which it was raised, then the logical warp index
(18_recovery.md:R320). -/
def trapBefore (x y : Block × Warp × TrapRec) : Bool :=
  decide (x.2.2.order < y.2.2.order ∨
    (x.2.2.order = y.2.2.order ∧ x.1.tkt * 128 + x.2.1.idx < y.1.tkt * 128 + y.2.1.idx))

/-- The trap that comes first. -/
def firstRaised : List (Block × Warp × TrapRec) → Option (Block × Warp × TrapRec)
  | [] => none
  | x :: r => match firstRaised r with
    | none => some x
    | some y => if trapBefore y x then some y else some x

/-- Escalate a translation fault to the host; with no ring it is declined at once (22_attach.md:R388). -/
def State.escalate (s : State) (b : Block) (w : Warp) (t : TrapRec) : State :=
  if s.att.ring.isNone then s.killBlock b.lsq b.tkt w.idx 4
  else
    let ctx := s.ctxOf b.lsq
    let msg := BitVec.ofNat 128 (t.addr.toNat + t.sub % 256 * 2 ^ 64 + t.access % 256 * 2 ^ 72)
    let s := s.updWarp b.lsq b.tkt w.idx (fun w => { w with holder := .firmware b.lsq b.tkt })
    let e : Escalation := { ctx := ctx, frame := b.frame, wrp := w.idx, reply := none }
    let s := { s with att := { s.att with escal := s.att.escal ++ [e] } }
    s.post { msg := msg, ctx := ctx, frame := b.frame, wrp := w.idx, kind := 1, src := none }

/-- A user handler at its start: one lane with a scalar state of its own, `s0` and `s1` holding the parameter pointer
(18_recovery.md:R322). -/
def Activation.start (w : Warp) (r : LaunchRec) : Activation :=
  let h := Warp.start w.idx w.core 0 r.par r.hnd
  { warp := { h with paths := [Path.at 1 r.hnd], live := 1 }, trapped := w.idx, firmware := false }

/-- Start a handler for a trapped warp. -/
def State.startHandler (s : State) (b : Block) (w : Warp) (r : LaunchRec) : State :=
  let hold := fun w : Warp => { w with holder := .handler }
  s.updBlock b.lsq b.tkt (fun b => { b.updWarp w.idx hold with handler := some (Activation.start w r) })

/-- The error log notes the context that first consumed a poisoned sector, by an access, a fetch or a walk (22_attach.md:R381). -/
def State.noteConsumed (s : State) (ctx : Nat) (t : TrapRec) : State :=
  if t.cause = 4 ∧ t.sub = 7 then s.consumeWalk ctx t.addr.toNat
  else if t.cause ≠ 5 ∨ t.access = 0 then s
  else
    match s.translate ctx t.addr.toNat (if t.access = 3 then .fetch else .load) with
    | .error _ => s
    | .ok x =>
      s.consumeSector ctx x.sys (x.pa / 32)

/-- THE REFEREE ACTS ON A TRAP by its cause (18_recovery.md:R320). -/
def State.actTrap (s : State) (b : Block) (w : Warp) (t : TrapRec) : State :=
  match s.grid? b.lsq with
  | none => s
  | some g =>
    if t.cause = 4 ∧ (t.sub = 2 ∨ t.sub = 5 ∨ t.sub = 6) then s.escalate b w t
    else if userClass t.cause ∧ g.rec_.hnd ≠ 0 then s.startHandler b w g.rec_
    else (s.noteConsumed g.rec_.ctx t).killBlock b.lsq b.tkt w.idx t.cause

/-- REFEREE_TAKE_TRAP: the referee of a core takes the trap raised first (18_recovery.md:R320). While an activation runs
on the core it takes none (R322); a trap of a handler itself kills the block with the cause of that trap
(04_isa_core.md:R125). -/
def execRefereeTakeTrap (core : Nat) (s : State) : Out :=
  match s.activeOn core with
  | some (b, a) =>
    match a.warp.trap with
    | some t =>
      if a.firmware then .next s
      else .next ((s.noteConsumed (s.ctxOf b.lsq) t).killBlockFor b.lsq b.tkt a.trapped t.cause (some a.warp))
    | none => .next s
  | none =>
    match firstRaised ((s.trapsOf core).filter (fun x => !mustWait x)) with
    | none => .next s
    | some (b, w, t) => .next (s.actTrap b w t)

end Sys2Proof.Machine
end

