-- ==== Sys2Proof/Machine/Host.lean ====
section
/-! DEFINITION. What happens at the edges of the module: host accesses and BAR0 (22_attach.md:R374, R375; 16_isolation.md:R310),
reset, scrub and sessions (R384; 16_isolation.md:R309, R312, R315), pod formation (R386), and the device's own events:
errors, power, time, ports. -/

namespace Sys2Proof.Machine

/-! ## Host accesses -/

/-- Whether the TDISP interface of the session's context stands in RUN (16_isolation.md:R310). -/
def Security.running (x : Security) : Bool := nth x.tdisp x.ctx .unlocked == .run

/-- A host read returns bytes, and poison with them (18_recovery.md:R324). -/
def State.hostReads (s : State) (d : List Byte) (bad : Bool) : State :=
  s.setAtt (fun a => { a with lastRead := d, lastPoison := bad })

/-- A host read in confidential mode acts as an access of the session's context; one refused with completer abort returns all ones
(16_isolation.md:R310; DEDUCED, log 57). -/
def State.teeRead (s : State) (va len : Nat) (tee : Bool) : State :=
  match s.translateRange s.sec.ctx va len .load with
  | .ok _ =>
    if tee && s.sec.running then
      let x := s.homeRead s.sec.ctx va len
      s.hostReads x.1 x.2
    else s.hostReads (List.replicate len 0xFF) false
  | .error _ => s.hostReads (List.replicate len 0xFF) false

/-- A host write in confidential mode acts as an access of the session's context; one refused has no effect (16_isolation.md:R310;
DEDUCED, log 57). -/
def State.teeWrite (s : State) (va : Nat) (data : List Byte) (tee : Bool) : State :=
  match s.translateRange s.sec.ctx va data.length .store with
  | .ok _ => if tee && s.sec.running then s.homeStoreVa none s.sec.ctx va data false else s
  | .error _ => s

/-- HOST_MEMORY_ACCESS: an access to device memory over the link (22_attach.md:R374). In confidential mode it acts for the session's
context, or is refused (16_isolation.md:R310). Nothing is served before READY (22_attach.md:R384). -/
def execHostMemoryAccess (h : HostAccess) (s : State) : Out :=
  if s.att.dst ≠ .ready then .next s
  else
    match h with
    | .read pa len tee =>
      if s.sec.confidential then .next (s.teeRead pa len tee)
      else if 2 ^ 39 < pa + len then .fault .noSuchAddress
      else
        let bad := (sectorsOf pa len).any (fun k => s.mem.poisoned false (32 * k))
        .next (s.hostReads (s.mem.bytes false pa len) bad)
    | .write pa data tee =>
      if s.sec.confidential then .next (s.teeWrite pa data tee)
      else if 2 ^ 39 < pa + data.length then .fault .noSuchAddress
      else .next (s.homeStore none false pa data false)

/-- The code of a device state (22_attach.md:R375). -/
def DevState.code : DevState → Nat
  | .reset => 0 | .init => 1 | .ready => 2 | .scrub => 3 | .failed => 4

/-- `IDN` (22_attach.md:R375). -/
def idn : Nat := Config.revision.toNat * 2 ^ 32 + 0x00090D01

/-- What a host read of BAR0 returns at an offset (22_attach.md:R375). `CDB` may only be written. -/
def State.register (s : State) (off : Nat) : Nat :=
  match off with
  | 0x00 => idn
  | 0x08 => s.att.dst.code
  | 0x10 => s.att.crb.toNat
  | 0x18 => s.att.crs
  | 0x28 => s.att.cci.toNat
  | 0x30 => s.att.ncn.toNat
  | _ => 0

/-- The host acknowledges entries of the notification ring, which may free room (22_attach.md:R382). -/
def State.ackPosts (s : State) (v : DWord) : State := (s.setAtt (fun a => { a with ncn := v.setWidth 32 })).flushPosts

/-- NCN_WRITE: the host's acknowledgement; in confidential mode its secured reply (22_attach.md:R382). -/
def execNcnWrite (v : BitVec 64) (s : State) : Out :=
  if s.att.dst = .scrub then .next s else .next (s.ackPosts v)

/-- A host write to BAR0 in confidential mode: the session ring's doorbell is taken, every other write is dropped and counted
(16_isolation.md:R310). -/
def Security.written (x : Security) (off : Nat) (v : DWord) : Security :=
  if off = Config.sessionDoorbell then { x with doorbell := v } else { x with dropped := x.dropped + 1 }

/-- REGISTER_WRITE: a host write to BAR0 (22_attach.md:R375). -/
def execRegisterWrite (off : Nat) (v : BitVec 64) (s : State) : Out :=
  if s.att.dst = .scrub then .next s
  else if s.sec.confidential then .next (s.setSec (fun x => x.written off v))
  else
    let idle := s.att.cdb == s.att.cci
    match off with
    | 0x10 => .next (s.setAtt (fun a => if idle then { a with crb := v } else a))
    | 0x18 => .next (s.setAtt (fun a => if idle then { a with crs := bits v 0 4 } else a))
    | 0x20 => .next (s.setAtt (fun a => { a with cdb := v.setWidth 32 }))
    | 0x30 => .next (s.ackPosts v)
    | _ => .next s

/-! ## Reset, scrub and sessions -/

/-- A module whose work and registers are gone, with the given device memory. Host memory is not part of the device; the
environment's agenda and the model's own name counters go on. -/
def State.cleared (s : State) (dst : DevState) (dev : Memory) : State :=
  let z := State.reset
  { z with mem := { z.mem with dev := dev.dev, devPoison := dev.devPoison, host := s.mem.host, hostPoison := s.mem.hostPoison }
           att := { z.att with dst := dst, ports := s.att.ports }
           agenda := s.agenda, nextId := s.nextId, fresh := s.fresh }

/-- COLD_RESET: fuse readout and initialisation begin (22_attach.md:R384). It is no power cycle: sessions stay refused after a
failed scrub (16_isolation.md:R312). -/
def execColdReset (s : State) : Out :=
  .next ((s.cleared .reset s.mem).setSec (fun x => { x with scrubFailed := s.sec.scrubFailed }))

/-- Whether the device stays in the reset of a scrub that failed (16_isolation.md:R312). -/
def Security.stuck (x : Security) : Bool := x.scrubFailed && x.lastScrub != 0

/-- READY_REACHED: a step of the start fails, or initialisation ends with memory zero (22_attach.md:R384). After a failed scrub the
device stays in reset (16_isolation.md:R312). -/
def execReadyReached (ok : Bool) (s : State) : Out :=
  if s.sec.stuck || !(s.att.dst == .init || (s.att.dst == .reset && !ok)) then .next s
  else if ok then
    let m := { s.mem with dev := [], devPoison := [], lmax := [] }
    .next ({ s with mem := m }.setAtt (fun a => { a with dst := .ready }))
  else .next (s.setAtt (fun a => { a with dst := .failed }))

/-- THE SPDM MEASUREMENTS (01_device.md:R21; 16_isolation.md:R309, R312, R315). -/
def Security.measurements (x : Security) : Measurements :=
  { confidential := x.confidential, revision := Config.revision, lastScrub := x.lastScrub, scrubFailed := x.scrubFailed
    wasRunning := x.wasRunning }

/-- The measurement log goes to the host: in the next session, or, since there is none after it, when a scrub has failed (DESIGN CHOICE,
log 35: the moment, and that the measurements of a session are its log). -/
def Security.report (x : Security) (silent : Bool) : Security := if silent then x else { x with measured := some x.measurements }

/-- Every TDISP interface in one state. -/
def tdispAll (x : Tdisp) : List Tdisp := List.replicate 64 x

/-- THE RESET WITH SCRUB begins: issue stops, egress is blocked, the session ends, and the link stays in CONFIG_UNLOCKED
(16_isolation.md:R309, R312, R315). -/
def State.startScrub (s : State) (cause : Nat) : State :=
  let z := s.cleared .scrub s.mem
  let running := cause == 3 && s.grids != []
  { z with time := s.time
           sec := { s.sec with scrub := cause, session := false, wasRunning := running, tdisp := tdispAll .unlocked } }

/-- SCRUB_COMPLETE: every storage element is zero, and the device is in the mode of the scrub's cause; or a bit was found
nonzero, and the device stays in reset (16_isolation.md:R309, R312). In confidential mode the interfaces are locked (R310). -/
def execScrubComplete (ok : Bool) (s : State) : Out :=
  if s.att.dst ≠ .scrub then .next s
  else
    let z := s.cleared (if ok then .ready else .reset) Memory.reset
    let conf := ok && s.sec.scrub == 1
    .next (z.setSec (fun x => { x with confidential := conf, lastScrub := s.sec.scrub, scrubFailed := !ok
                                       wasRunning := s.sec.wasRunning
                                       tdisp := tdispAll (if conf then .locked else .unlocked) }.report ok))

/-- A session opens for a context, whose interface runs in confidential mode, and the host learns the measurements
(16_isolation.md:R309, R310, R315). -/
def Security.opened (x : Security) (ctx seconds : Nat) (t : DWord) : Security :=
  { x with session := true, interval := seconds, lastBeat := t, ctx := ctx
           tdisp := if x.confidential then updAt x.tdisp ctx (fun _ => .run) else x.tdisp }.report false

/-- SPDM_SESSION_SETUP: a session opens with its heartbeat interval (16_isolation.md:R315); after a failed scrub it is
refused (R312). -/
def execSpdmSessionSetup (seconds : Nat) (s : State) : Out :=
  if s.att.dst = .ready ∧ !s.sec.scrubFailed ∧ 1 ≤ seconds ∧ seconds ≤ 600 then
    .next ({ s with fresh := s.fresh + 1 }.setSec (fun x => x.opened (Config.sessionCtx s.fresh % 64) seconds s.time))
  else .next s

/-- The time in ns since the session's last heartbeat: a difference, since `TIME` may step back while a session is open. -/
def State.sinceBeat (s : State) : Nat := (s.time - s.sec.lastBeat).toNat

/-- Whether the interval of the open session has passed without a heartbeat (16_isolation.md:R315). -/
def State.beatLost (s : State) : Bool := s.sec.session && decide (s.sec.interval * 10 ^ 9 < s.sinceBeat)

/-- HEARTBEAT_LOSS: the interval has passed without a heartbeat (16_isolation.md:R315). -/
def execHeartbeatLoss (s : State) : Out := .next (if s.beatLost then s.startScrub 3 else s)

/-! ## Pod formation -/

/-- Whether a port is UP, at any width (22_attach.md:R383). -/
def PortState.isUp : PortState → Bool
  | .up | .up4 | .up2 => true
  | _ => false

/-- Whether the module can exchange messages with others: some port is UP. -/
def Attach.linkUp (a : Attach) : Bool := a.ports.any PortState.isUp

/-- POD_FORMATION_COMPLETE: every member agrees; `TIME` steps to the value `t` of the lowest-numbered member, `MODN` is set and
the replica takes its formation state (22_attach.md:R386). The members exchange messages over UP ports, and no warp runs across the
step (01_device.md:R20). -/
def execPodFormationComplete (t : BitVec 64) (s : State) : Out :=
  match s.att.form with
  | none => .next s
  | some f =>
    if s.blocks ≠ [] ∨ s.grids ≠ [] ∨ !s.att.linkUp then .next s
    else
      let lowest := (List.range 64).find? (fun m => f.mask.getLsbD m)
      let t := if lowest = some f.number then s.time else t
      let q := { Quad.formed f.mask (2 ^ (4 + f.code)) with lastRecv := List.replicate 64 t }
      .next (({ s.stepTime t with modn := f.number, quad := q }.setAtt (fun a => { a with form := none, exch := t, slewed := t })).complete 0 0)

/-- FORM_POD_TIMEOUT: after 1 s the command completes with status 7, and the module stays outside any pod
(22_attach.md:R386). -/
def execFormPodTimeout (s : State) : Out :=
  match s.att.form with
  | none => .next s
  | some f =>
    if f.started.toNat + 10 ^ 9 ≤ s.time.toNat then .next ((s.setAtt (fun a => { a with form := none })).complete 7 0)
    else .next s

/-! ## The device's own events -/

/-- ECC_ERROR_DETECTED: a correctable error is corrected and counted; an uncorrectable one poisons its sector and is counted
and logged (01_device.md:R17; 18_recovery.md:R323, R325; 22_attach.md:R381). `kind`: 1 HBM, 2 host link (a sector of host
memory), 3 fabric payload, whose mark travels with it. -/
def execEccErrorDetected (pa : Nat) (correctable : Bool) (kind : Nat) (s : State) : Out :=
  let st := stackOf pa
  if kind = 1 then
    if 2 ^ 39 ≤ pa then .fault .noSuchAddress
    else if correctable then .next (s.setAtt (fun a => { a with corrected := updAt a.corrected st (· + 1) }))
    else
      let m := { s.mem with devPoison := cset s.mem.devPoison (pa / 32) 1 }
      .next ({ s with mem := m, covers := uncover false [pa / 32] s.covers }.setAtt (fun a =>
        { a with uncorrected := updAt a.uncorrected st (· + 1), detected := updAt a.detected st (· + 1) }.logEvent
          { t := s.time, pa := pa / 32 * 32, stack := st, kind := 1, ctx := 255 }))
  else if correctable ∨ kind = 0 ∨ 3 < kind then .next s
  else
    let m := if kind = 2 then { s.mem with hostPoison := cset s.mem.hostPoison (pa / 32) 1 } else s.mem
    let cs := if kind = 2 then uncover true [pa / 32] s.covers else s.covers
    .next ({ s with mem := m, covers := cs }.setAtt (fun a =>
      a.logEvent { t := s.time, pa := pa / 32 * 32, stack := 255, kind := kind, ctx := 255 }))

/-- The budgets of the power domains in W: the two compute dies, the HBM stacks with their base dies, the I/O die
(01_device.md:R23). -/
def powerBudgets : List Nat := [600, 600, 480, 300]

/-- The shared pool that a cap leaves: it is withheld first (01_device.md:R23; 22_attach.md:R384). -/
def poolOf (cap : Nat) : Nat := 200 - min 200 (2200 - cap)

/-- Whether the pool may be lent so: in 25 W steps, to domains at their budget (01_device.md:R23). -/
def loansOk (p : Power) (cap : Nat) : Bool :=
  decide (p.loans.length = 4 ∧ p.loans.foldl (· + ·) 0 ≤ poolOf cap) && p.loans.all (fun n => n % 25 == 0) &&
    ((p.loans.zip p.draws).zip powerBudgets).all (fun x => x.1.1 == 0 || decide (x.2 ≤ x.1.2))

/-- Whether the module draws more than its limit, the remainder of the budget counted whole (01_device.md:R23; 22_attach.md:R384;
log 58). -/
def overCap (p : Power) (cap : Nat) : Bool := decide (cap < p.draws.foldl (· + ·) 0 + 20)

/-- Whether the clock `c` of a compute die may follow on `o`: in 100 MHz steps from 600 to 1,500 MHz; lowered where the die would exceed
its budget and its share of the pool, never raised while the module is over its limit, and lowered without need of the die only then
(01_device.md:R24; 22_attach.md:R384). -/
def clockOk (p : Power) (cap d o c : Nat) : Bool :=
  let hot := decide (nth powerBudgets d 0 + nth p.loans d 0 < nth p.draws d 0)
  decide (600 ≤ c ∧ c ≤ 1500 ∧ c % 100 = 0) &&
    (if hot then decide (c < o ∨ (c = 600 ∧ o ≤ 600)) else if overCap p cap then decide (c ≤ o) else decide (o ≤ c))

/-- Whether the power controller may act so: while the module is over its limit a clock falls, until both stand at 600 MHz
(22_attach.md:R384). -/
def powerOk (p : Power) (clk0 clk1 : Nat) (a : Attach) : Bool :=
  let o0 := nth a.clk 0 0
  let o1 := nth a.clk 1 0
  decide (p.draws.length = 4) && loansOk p a.cap && clockOk p a.cap 0 o0 clk0 && clockOk p a.cap 1 o1 clk1 &&
    (!overCap p a.cap || decide (clk0 < o0 ∨ clk1 < o1 ∨ (o0 ≤ 600 ∧ o1 ≤ 600)))

/-- POWER_ADJUST: the power controller lends the pool and sets the clocks for the draws that it measures (01_device.md:R23, R24;
22_attach.md:R384; log 58). -/
def execPowerAdjust (pool : Power) (clk0 clk1 : Nat) (s : State) : Out :=
  if powerOk pool clk0 clk1 s.att then .next (s.setAtt (fun a => { a with loans := pool.loans, clk := [clk0, clk1] })) else .next s

/-- Whether the pod-time unit may exchange timestamps now: a port is UP, and 1 µs has passed since the last exchange
(22_attach.md:R383). -/
def State.mayExchange (s : State) : Bool :=
  s.att.dst != .reset && !s.sealed && s.att.linkUp && decide (s.att.exch.toNat + 1000 ≤ s.time.toNat)

/-- Whether an exchange may move `TIME` by one count: the module is not lone, and the counter's rate changes by 100 parts per
million at most (01_device.md:R20; log 58). -/
def State.maySlew (s : State) : Bool := !s.quad.lone && decide (s.att.slewed.toNat + 10000 ≤ s.time.toNat)

/-- TIME_DISCIPLINE: the pod-time unit exchanges timestamps, and corrects the drift of `TIME` by the counter's rate; it never runs
backwards and never jumps (01_device.md:R20; 22_attach.md:R383). -/
def execTimeDiscipline (slew : Nat) (s : State) : Out :=
  if !s.mayExchange ∨ 1 < slew ∨ (slew = 1 ∧ !s.maySlew) then .next s
  else
    let t := s.time + BitVec.ofNat 64 slew
    .next ({ s with time := t }.setAtt (fun a => { a with exch := t, slewed := if slew = 1 then t else a.slewed }))

/-- The port states by code (22_attach.md:R383). -/
def PortState.ofCode : Nat → Option PortState
  | 0 => some .down | 1 => some .training | 2 => some .up | 3 => some .up4 | 4 => some .up2
  | _ => none

/-- PORT_STATE_CHANGE: a port changes state, and every enabled context receives an event of type 5 (22_attach.md:R383). -/
def execPortStateChange (port state : Nat) (s : State) : Out :=
  match PortState.ofCode state, s.att.ports[port]? with
  | some p, some old =>
    if p = old then .next s
    else
      let aux := Config.portErrorClass s.fresh
      let s := { s with fresh := s.fresh + 1 }.setAtt (fun a =>
        { a with ports := updAt a.ports port (fun _ => p), portErrors := updAt a.portErrors port (· + 1) })
      .next ((List.range 64).foldl (fun s c => s.postEvent c 5 port 0 aux 0 0 0 s.modn) s)
  | _, _ => .next s

/-- CORE_POWER_GATING: an idle core is gated, or a core is ungated with some of its matrix groups still to start
(01_device.md:R14, R24). -/
def execCorePowerGating (core : Nat) (gate : Bool) (groups : Nat) (s : State) : Out :=
  if 144 ≤ core ∨ 4 < groups then .next s
  else if gate then
    (if s.blocks.any (fun b => (b.coreAt core).isSome && b.res != .saved) then .next s
     else .next { s with gated := cset s.gated core 1, groupsDown := cset s.groupsDown core 4 })
  else .next { s with gated := cset s.gated core 0, groupsDown := cset s.groupsDown core (BitVec.ofNat 3 groups) }

end Sys2Proof.Machine
end

