-- ==== Sys2Proof/Machine/Command.lean ====
section
/-! DEFINITION. The command set of the service cores (22_attach.md:R376 to R382, R384 to R388; 16_isolation.md:R299, R300, R305 to
R315; 19_quadrille.md:R352). -/

namespace Sys2Proof

open Sys2Proof.Machine

/-- The command code of an entry (22_attach.md:R376). -/
def Cmd.opc (c : Cmd) : Nat := bits c.entry 0 16

/-- Parameter word k of an entry (22_attach.md:R379). -/
def Cmd.word (c : Cmd) (k : Nat) : Nat := bits c.entry (64 * k) 64

/-- Bits of a parameter word. -/
def Cmd.par (c : Cmd) (k lo len : Nat) : Nat := bits c.entry (64 * k + lo) len

/-- Whether every bit of an entry outside the masks of its parameter words is zero (22_attach.md:R376, R379). -/
def Cmd.clean (c : Cmd) (masks : List Nat) : Bool :=
  bits c.entry 48 16 == 0 && bits c.entry 16 16 == 0 &&
    (List.range 7).all (fun k => c.word (k + 1) == Nat.land (c.word (k + 1)) (nth masks k 0))

/-- Whether the command set knows an entry's code, a secured-only code in a secured message (22_attach.md:R377, R378). -/
def Cmd.known (c : Cmd) : Bool :=
  decide (1 ≤ c.opc ∧ c.opc ≤ 0x13) || (c.secured && decide (0x20 ≤ c.opc ∧ c.opc ≤ 0x27))

end Sys2Proof

namespace Sys2Proof.Machine

/-- What a command comes to: a refusal with its status and result, one that leaves the trace of a read, its effect with its result, or
an effect that goes on before the completion. -/
inductive CmdRes where
  | fail (status result : Nat)
  | refuse (s : State) (status : Nat)
  | done (s : State) (result : Nat)
  | wait (s : State)

/-- A mask of the low n bits. -/
def low (n : Nat) : Nat := 2 ^ n - 1

/-- Whether the command that the service cores have taken is still at work. -/
def State.cmdBusy (s : State) : Bool := s.att.form.isSome || s.invals.any (fun v => v.group.isNone)

/-- RUN A COMMAND of a code that the service cores have taken (22_attach.md:R377, R378): the reserved bits are judged, then
the command; a nonzero status has no effect. In FAILED every command is refused (R384). -/
def runCmd (code : Nat) (masks : List Nat) (k : Cmd → State → CmdRes) (s : State) : Out :=
  match s.att.cmd with
  | none => .next s
  | some c =>
    if c.opc ≠ code ∨ !c.known ∨ c.bad ∨ s.cmdBusy then .next s
    else if s.att.dst = .failed then .next (s.complete 5 0)
    else if s.att.dst ≠ .ready then .next s
    else if !c.clean masks then .next (s.complete 2 0)
    else match k c s with
      | .fail st r => .next (s.complete st r)
      | .refuse t st => .next (t.complete st 0)
      | .done t r => .next (t.complete 0 r)
      | .wait t => .next t

/-- UNKNOWN_COMMAND: an unknown code, a secured-only code on the plain ring, or an entry that was poisoned when it was read
(22_attach.md:R378). -/
def execUnknownCommand (s : State) : Out :=
  match s.att.cmd with
  | none => .next s
  | some c =>
    if c.known && !c.bad then .next s
    else if s.att.dst = .failed then .next (s.complete 5 0)
    else if s.att.dst ≠ .ready then .next s
    else .next (s.complete (if c.bad then 6 else 1) 0)

/-- Whether a context exists. -/
def State.hasCtx (s : State) (ctx : Nat) : Bool := (s.ctxDesc ctx).getLsbD 64

/-! ## Reports -/

/-- Bytes padded with zeros to a length. -/
def padTo (n : Nat) (l : List Byte) : List Byte := l ++ List.replicate (n - l.length) 0

/-- Section 1, the device (22_attach.md:R380). -/
def State.devSection (s : State) : List Byte :=
  padTo 64 (leBytes 16 (Config.coreMap 0).toNat ++ leBytes 16 (Config.coreMap 1).toNat ++
    (List.range 8).map Config.stackBinding ++ leBytes 2 (nth s.att.clk 0 0) ++ leBytes 2 (nth s.att.clk 1 0) ++
    leBytes 8 s.time.toNat ++ leBytes 1 s.sec.lastScrub)

/-- Section 2, the enabled queues (22_attach.md:R380). -/
def State.queueSection (s : State) : List Byte :=
  match s.front.table with
  | none => []
  | some t => (List.range 4096).flatMap (fun q =>
      let d := s.mem.queueDesc t q
      if d.getLsbD 161 then
        let pend := bitNat (s.front.pending.contains q)
        padTo 32 (leBytes 4 (q + bits d 162 6 * 2 ^ 12 + bits d 168 3 * 2 ^ 18 + pend * 2 ^ 21 + bits d 128 8 * 2 ^ 22) ++
          leBytes 4 (bits d 32 32) ++ leBytes 4 (bits d 0 32))
      else [])

/-- Section 3, the contexts (22_attach.md:R380). -/
def State.ctxSection (s : State) : List Byte :=
  (List.range 64).flatMap (fun k =>
    let c := nth s.ctxs k CtxEnt.absent
    let frames := (s.blocks.filter (fun b => s.ctxOf b.lsq == k)).length
    let locks := (s.mem.locks.filter (fun l => l.1 == k)).length
    padTo 32 (leBytes 4 (bitNat (c.desc.getLsbD 64)) ++ leBytes 4 c.written ++ leBytes 4 c.lostTotal ++ leBytes 2 frames ++
      [0, 0] ++ leBytes 4 locks))

/-- The time that a session has left, in ms. -/
def State.timeLeft (s : State) : Nat :=
  (s.sec.interval * 10 ^ 9 - s.sinceBeat) / 10 ^ 6

/-- The k-th of the session's values in its 64 bytes: at a place, and in bytes, that the manual leaves open, `n` at least. -/
def sessionField (k n v : Nat) : List Byte :=
  List.replicate (Config.sessionGap k % 14) 0 ++ leBytes (n + Config.sessionMore k % 5) v

/-- The 64 bytes of the session: its state, heartbeat interval in s and time left in ms (22_attach.md:R380). -/
def State.sessionBytes (s : State) : List Byte :=
  padTo 64 (sessionField 0 1 (bitNat s.sec.session) ++ sessionField 1 2 s.sec.interval ++ sessionField 2 3 s.timeLeft)

/-- Section 4, the session and the key slots (22_attach.md:R380). -/
def State.keySection (s : State) : List Byte :=
  s.sessionBytes ++ s.sec.slots.flatMap (fun k =>
      leBytes 8 (bitNat k.holds + 2 * bitNat k.bound + k.ctx % 64 * 2 ^ 8) ++ leBytes 8 k.mark.toNat)

/-- The codes of the member states (22_attach.md:R380). -/
def memberCode : MemberState → Nat
  | .absent => 0 | .member => 1 | .fenced => 2 | .joining => 3

/-- The codes of the grid states (19_quadrille.md:R334). -/
def gridCode : GridState → Nat
  | .empty => 0 | .queued => 1 | .placed => 2 | .blocked => 3 | .done => 4 | .faulted => 5

/-- The 128 bytes of a grid entry: its fields in table order (22_attach.md:R380, 19_quadrille.md:R334). -/
def gridBytes (g : GridEntry) : List Byte :=
  padTo 128 (leBytes 1 (gridCode g.gst) ++ leBytes 8 g.dps ++ leBytes 1 g.pri ++ leBytes 1 g.gc ++ leBytes 1 g.gw ++
    leBytes 1 g.gh ++ leBytes 1 g.skp ++ leBytes 1 (bitNat g.rst) ++ leBytes 1 g.ctx ++ leBytes 1 g.orm ++
    leBytes 8 g.lra.toNat ++ leBytes 8 g.par.toNat ++ leBytes 2 g.sgw ++ leBytes 2 g.sgh ++
    (List.range 64).map (fun k => BitVec.ofNat 8 (nth g.gng k 0)) ++ leBytes 1 (bitNat g.hsv) ++ leBytes 8 g.fin.toNat)

/-- The digest interval code (22_attach.md:R385). -/
def intervalCode (n : Nat) : Nat := Nat.log2 n - 4

/-- Section 5, the Quadrille (22_attach.md:R380). -/
def State.quadSection (s : State) : List Byte :=
  let r := s.quad.rep
  padTo 64 (leBytes 8 r.seq ++ leBytes 32 r.digest.toNat ++ leBytes 1 (intervalCode s.quad.interval) ++ leBytes 1 s.modn) ++
    (List.range 64).map (fun m => BitVec.ofNat 8 (memberCode (nth r.members m .absent))) ++
    (List.range 1024).flatMap (fun k => match s.qgrid? k with | some g => gridBytes g | none => List.replicate 128 0) ++
    (List.range 4096).flatMap (fun k => leBytes 8 (rowBits r.rows k))

/-- Section 6, the running grids (22_attach.md:R380). -/
def State.gridSection (s : State) : List Byte :=
  s.grids.flatMap (fun g =>
    let count := fun r : Residence => (s.blocks.filter (fun b => b.lsq == g.lsq && b.res == r)).length
    let st := if g.killCode ≠ 0 then 2 else if count .resident = 0 ∧ 0 < count .saved then 1 else 0
    padTo 32 (leBytes 8 g.lsq ++ leBytes 1 g.rec_.ctx ++ leBytes 1 st ++ leBytes 2 (g.qix.getD 0xFFFF) ++
      leBytes 4 (count .resident) ++ leBytes 4 (count .saved) ++ leBytes 4 g.killed))

/-- Section 7, the errors (22_attach.md:R380). -/
def State.errSection (s : State) : List Byte :=
  (List.range 8).flatMap (fun k => leBytes 8 (nth s.att.corrected k 0) ++ leBytes 8 (nth s.att.uncorrected k 0) ++
    leBytes 8 (nth s.att.detected k 0)) ++
  (List.range 16).flatMap (fun k => leBytes 4 (nth s.att.portErrors k 0)) ++
  (List.range 1728).flatMap (fun k => leBytes 4 (cget s.att.slips k).toNat)

/-- Offset and length of each section. -/
def directory : Nat → List (List Byte) → List Byte
  | _, [] => []
  | at_, x :: r => leBytes 4 at_ ++ leBytes 4 x.length ++ directory (at_ + x.length) r

/-- THE STATE SUMMARY: header and seven sections (22_attach.md:R380, 18_recovery.md:R332). -/
def State.summary (s : State) : List Byte :=
  let xs := [s.devSection, s.queueSection, s.ctxSection, s.keySection, s.quadSection, s.gridSection, s.errSection]
  let total := 128 + (xs.map List.length).foldl (· + ·) 0
  padTo 128 (leBytes 8 total ++ leBytes 8 idn ++ leBytes 8 s.time.toNat ++ leBytes 1 (bitNat s.sec.confidential) ++
    leBytes 1 s.att.dst.code ++ List.replicate 6 0 ++ directory 128 xs) ++ xs.flatten

/-- A report into a host buffer, under the length rule of 22_attach.md:R380. -/
def reportTo (c : Cmd) (s : State) (data : List Byte) : CmdRes :=
  let buf := c.word 1
  if buf % 4096 ≠ 0 then .fail 3 0
  else if c.word 2 < data.length then .fail 3 data.length
  else .done (s.homeStore none true buf data false) data.length

/-- STATE_SUMMARY (22_attach.md:R380). -/
def execStateSummary (s : State) : Out := runCmd 0x01 [low 64, low 64] (fun c s => reportTo c s s.summary) s

/-- The bytes of an uncorrectable event (22_attach.md:R381). -/
def UncEvent.bytes (e : UncEvent) : List Byte :=
  padTo 32 (leBytes 8 e.t.toNat ++ leBytes 8 e.pa ++ leBytes 1 e.stack ++ leBytes 1 e.kind ++ leBytes 1 e.ctx)

/-- ERROR_LOG (22_attach.md:R381). -/
def execErrorLog (s : State) : Out :=
  runCmd 0x12 [low 64, low 64] (fun c s =>
    reportTo c s (s.errSection ++ leBytes 8 s.att.uncTotal ++ s.att.errLog.flatMap UncEvent.bytes)) s

/-! ## Contexts -/

/-- The status that a context descriptor is refused with, 0 for none (16_isolation.md:R299). -/
def descStatus (d : BitVec 512) : Nat :=
  if bits d 129 191 ≠ 0 ∨ bits d 80 16 ≠ 0 ∨ bits d 65 3 ≠ 0 ∨ bits d 0 64 ≠ 0 then 2
  else if bits d 448 64 % 2048 ≠ 0 ∨ bits d 384 64 % 4096 ≠ 0 ∨ bits d 320 64 % 65536 ≠ 0 ∨ bits d 72 8 = 0 ∨ 3 < bits d 72 8 ∨
      8 < bits d 68 4 ∨ (!d.getLsbD 128 ∧ 2 ^ 39 ≤ bits d 448 64) then 3
  else 0

/-- CTX_CREATE (16_isolation.md:R299); reading the descriptor leaves its trace whatever comes of it (16_isolation.md:R310;
22_attach.md:R378, R381). -/
def execCtxCreate (s : State) : Out :=
  runCmd 0x02 [low 6, low 64] (fun c s =>
    let ctx := c.par 1 0 6
    let pa := c.word 2
    if pa % 64 ≠ 0 then .fail 3 0
    else if s.hasCtx ctx then .fail 4 0
    else if s.mem.unreadable pa then .refuse (s.deviceRead pa) 6
    else
      let s := s.deviceRead pa
      let d := BitVec.ofNat 512 (s.mem.nat true pa 64)
      let st := descStatus d
      if st ≠ 0 then .refuse s st
      else .done (s.updCtx ctx (fun x => { x.gone with desc := d })) 0) s

/-- A context no longer exists: no event and no completion store is made for it; its descriptor still serves the
operations under way (16_isolation.md:R300). -/
def CtxEnt.close (c : CtxEnt) : CtxEnt := { c with desc := c.desc &&& ~~~((1 : BitVec 512) <<< 64) }

/-- Disable the queues of a context (16_isolation.md:R300). -/
def State.closeQueues (s : State) (ctx : Nat) : State :=
  match s.front.table with
  | none => s
  | some t => (List.range 4096).foldl (fun s q =>
      let d := s.mem.queueDesc t q
      if bits d 162 6 = ctx ∧ d.getLsbD 161 then
        (s.unpend q).writeDesc t q 20 [BitVec.ofNat 8 (bits d 160 8 - 2)]
      else s) s

/-- Open or close the export window of a context (16_isolation.md:R306, R308). -/
def State.setWindow (s : State) (table ctx : Nat) (on : Bool) : State :=
  let pa := table + 32 * ctx
  let b := s.mem.byte false pa
  s.homeStore none false pa [if on then b ||| 1 else b &&& 0xFE] false

/-- An empty key slot. -/
def KeySlot.empty : KeySlot := { key := 0, holds := false, bound := false, ctx := 0, mark := 0 }

/-- Every block of a context is killed with code 12 and no event. Each part of a grid of the Quadrille raises FINISH once it has
ended; no other completion of the context's grids is stored here any more (16_isolation.md:R300; 19_quadrille.md:R337). -/
def State.killCtx (s : State) (ctx : Nat) : State :=
  let s := s.updCtx ctx CtxEnt.close
  let s := (s.grids.filter (fun g => g.rec_.ctx == ctx)).foldl (fun s g => s.killGrid g.lsq 12) s
  let close := fun g : Grid => { g with closing := g.closing || g.qix.isSome, cwa := none }
  { s with grids := updIf (fun g : Grid => g.rec_.ctx == ctx) close s.grids }.setQuad (fun q =>
    { q with subs := q.subs.filter (fun x => x.ctx != ctx) })

/-- Whether no block and no grid of a context is left on the module (16_isolation.md:R300). -/
def State.ctxEmpty (s : State) (ctx : Nat) : Bool :=
  !(s.blocks.any (fun b => s.ctxOf b.lsq == ctx) || s.grids.any (fun g => g.rec_.ctx == ctx))

/-- The context's translations are invalidated, its export window closed, its queues disabled, its key slots unbound and its locks
released (16_isolation.md:R300, step 4). -/
def State.stripCtx (s : State) (ctx : Nat) : State :=
  let waits := s.ctxOps ctx
  let s := s.dropFor ctx 0 0
  let s := match s.exportTable with | some t => s.setWindow t ctx false | none => s
  let s := s.closeQueues ctx
  let s := s.setSec (fun x => { x with slots := updIf (fun k : KeySlot => k.bound && k.ctx == ctx) (fun _ => KeySlot.empty) x.slots })
  let s := { s with mem := { s.mem with locks := s.mem.locks.filter (fun k => k.1 != ctx) } }
  s.startInval none ctx 0 0 waits

/-- CTX_DESTROY: the kills first; once the FINISHes are raised and every grid of the context has left, the rest. It completes with the
invalidation (16_isolation.md:R300). -/
def execCtxDestroy (s : State) : Out :=
  runCmd 0x03 [low 6] (fun c s =>
    let ctx := c.par 1 0 6
    match s.att.destroying with
    | some k => .wait (if s.ctxEmpty k then (s.setAtt (fun a => { a with destroying := none })).stripCtx k else s)
    | none =>
      if !s.hasCtx ctx then .fail 4 0
      else .wait ((s.killCtx ctx).setAtt (fun a => { a with destroying := some ctx }))) s

/-! ## Tables, windows and invalidation -/

/-- QUEUE_TABLE (13_progress.md:R260): no queue of the new table is pending yet. -/
def execQueueTable (s : State) : Out :=
  runCmd 0x04 [low 64] (fun c s =>
    let base := c.word 1
    if base % 2 ^ 18 ≠ 0 ∨ 2 ^ 39 ≤ base then .fail 3 0
    else .done { s with front := { s.front with table := some base, pending := [] } } 0) s

/-- EXPORT_TABLE (16_isolation.md:R306). -/
def execExportTable (s : State) : Out :=
  runCmd 0x05 [low 64] (fun c s =>
    let base := c.word 1
    if base % 2048 ≠ 0 ∨ 2 ^ 39 ≤ base then .fail 3 0 else .done { s with exportTable := some base } 0) s

/-- WINDOW: an operation that was accepted has been performed, so a close completes at once (16_isolation.md:R308). -/
def execWindow (s : State) : Out :=
  runCmd 0x06 [low 6 + 256] (fun c s =>
    let ctx := c.par 1 0 6
    match s.exportTable with
    | none => .fail 4 0
    | some t => if !s.hasCtx ctx then .fail 4 0 else .done (s.setWindow t ctx (c.par 1 8 1 == 1)) 0) s

/-- INVALIDATE: it completes as 16_isolation.md:R305 says. -/
def execInvalidate (s : State) : Out :=
  runCmd 0x07 [low 6, low 64, low 64] (fun c s =>
    let ctx := c.par 1 0 6
    let va := c.word 2
    let n := c.word 3
    if !invalOk va n then .fail 3 0
    else if !s.hasCtx ctx then .fail 4 0
    else .wait ((s.dropFor ctx va n).startInval none ctx va n (s.ctxOps ctx))) s

/-! ## Work -/

/-- SUBMIT: done whether or not the launch is accepted (22_attach.md:R379, 21_prog_pod.md:R373). -/
def execSubmit (s : State) : Out :=
  runCmd 0x08 [low 6 + 256, low 64, low 64, low 64] (fun c s =>
    let ctx := c.par 1 0 6
    if c.word 2 % 256 ≠ 0 ∨ c.word 3 % 8 ≠ 0 then .fail 3 0
    else if !s.hasCtx ctx then .fail 4 0
    else
      let l : Launch := { ctx := ctx, lra := BitVec.ofNat 64 (c.word 2), target := .pod, cwa := wordOrNone (c.word 3)
                          cwv := BitVec.ofNat 64 (c.word 4), rst := c.par 1 8 1 == 1 }
      let x := if s.mayRaise then s.submit l else (13, 0, s.reportRefusal l 13 0)
      .done x.2.2 (x.2.1 % 2 ^ 32 + x.1 * 2 ^ 32)) s

/-- A command that raises an event about a grid (21_prog_pod.md:R373). -/
def gridCmd (typ : Nat) (c : Cmd) (s : State) : CmdRes :=
  let ctx := c.par 1 0 6
  if !s.hasCtx ctx then .fail 4 0
  else if !s.mayRaise then .fail 5 0
  else let t := s.raise (gridEvent typ ctx (c.par 2 0 10)); .done t (t.quad.osq % 2 ^ 32)

/-- BLOCK (21_prog_pod.md:R373). -/
def execBlock (s : State) : Out := runCmd 0x09 [low 6, low 10] (gridCmd 3) s
/-- UNBLOCK (21_prog_pod.md:R373). -/
def execUnblock (s : State) : Out := runCmd 0x0A [low 6, low 10] (gridCmd 4) s
/-- CANCEL (21_prog_pod.md:R373). -/
def execCancel (s : State) : Out := runCmd 0x0B [low 6, low 10] (gridCmd 5) s

/-- PREEMPT: the block is saved, and the command then completes (18_recovery.md:R327). -/
def execPreempt (s : State) : Out :=
  runCmd 0x0C [low 6, low 10] (fun c s =>
    match s.frameBlock (c.par 1 0 6) (c.par 2 0 10) with
    | none => .fail 4 0
    | some b =>
      if b.res ≠ .resident then .fail 4 0
      else .wait (s.updBlock b.lsq b.tkt (fun b => { b with saving := true }))) s

/-- Whether the kill of a grid has had its whole effect on this module: its blocks have ended, and the grid has left, with its
completion word stored or its FINISH formed; a part for which this module raises no FINISH may stay (18_recovery.md:R321;
19_quadrille.md:R337; 22_attach.md:R377). -/
def State.killDone (s : State) (lsq : Nat) : Bool :=
  !s.blocks.any (fun b => b.lsq == lsq) && (s.grid? lsq).all (fun g => g.qix.isSome && s.partEnded g && !s.finishes g)

/-- KILL (18_recovery.md:R321, code 12): it completes once the kill has had its whole effect (22_attach.md:R377). -/
def execKill (s : State) : Out :=
  runCmd 0x0D [low 6, low 10] (fun c s =>
    match s.att.killing, s.frameBlock (c.par 1 0 6) (c.par 2 0 10) with
    | some k, _ => if s.killDone k then .done (s.setAtt (fun a => { a with killing := none })) 0 else .wait s
    | none, none => .fail 4 0
    | none, some b => .wait ((s.killBlock b.lsq b.tkt 0 12).setAtt (fun a => { a with killing := some b.lsq }))) s

/-- NOTIFY_RING (22_attach.md:R382). -/
def execNotifyRing (s : State) : Out :=
  runCmd 0x0E [low 64, low 4] (fun c s =>
    let sz := c.par 2 0 4
    if c.word 1 % 4096 ≠ 0 ∨ sz < 6 ∨ 12 < sz then .fail 3 0
    else .done (s.setAtt (fun a => { a with ring := some (c.word 1, sz) })).flushPosts 0) s

/-- FAULT_REPLY: for a saved block the reply is recorded, otherwise it is acted on (22_attach.md:R388). -/
def execFaultReply (s : State) : Out :=
  runCmd 0x13 [low 6, low 10, low 7 + 256] (fun c s =>
    let ctx := c.par 1 0 6
    let frame := c.par 2 0 10
    let wrp := c.par 3 0 7
    let decline := c.par 3 8 1 == 1
    let hit := fun e : Escalation => e.ctx == ctx && e.frame == frame && e.wrp == wrp && e.reply.isNone
    match s.frameBlock ctx frame with
    | none => .fail 4 0
    | some b =>
      if !s.att.escal.any hit then .fail 4 0
      else if b.res = .saved then
        let note := fun e : Escalation => { e with reply := some decline }
        .done (s.setAtt (fun a => { a with escal := updIf hit note a.escal })) 0
      else .done (s.actReply b wrp decline) 0) s

/-! ## The pod and power -/

/-- The number of bits of a mask. -/
def bitCount (m : DWord) : Nat := ((List.range 64).filter (fun k => m.getLsbD k)).length

/-- FORM_POD: formation starts (22_attach.md:R385 to R387). -/
def execFormPod (s : State) : Out :=
  runCmd 0x0F [low 64, low 64, low 10] (fun c s =>
    let mask := BitVec.ofNat 64 (c.word 2)
    let num := c.par 3 0 6
    let code := c.par 3 6 4
    if 6 < code ∨ bitCount mask < 2 ∨ !mask.getLsbD num then .fail 3 0
    else if !s.quad.lone || !s.mayJoin then .fail 5 0
    else
      let f : Formation := { ident := BitVec.ofNat 64 (c.word 1), mask := mask, code := code, number := num, started := s.time, cmd := c }
      .wait (s.setAtt (fun a => { a with form := some f }))) s

/-- RELEASE: recorded at the sponsor; no module answers on a port that is not UP (19_quadrille.md:R352; 22_attach.md:R379, R383). -/
def execRelease (s : State) : Out :=
  runCmd 0x10 [low 6, low 4] (fun c s =>
    if !s.isMember s.modn then .fail 5 0
    else if !(nth s.att.ports (c.par 2 0 4) .down).isUp || !c.answers then .fail 4 0
    else if c.held then .fail 5 0
    else .done (s.setAtt (fun a => { a with releases := insertNat (c.par 1 0 6) a.releases })) 0) s

/-- Loans cut to what the pool still has, in the order of the domains (DESIGN CHOICE, log 58). -/
def trimLoans : Nat → List Nat → List Nat
  | _, [] => []
  | n, x :: r => min x n :: trimLoans (n - min x n) r

/-- POWER_CAP: a limit below 2,200 W withholds the pool first (22_attach.md:R384). -/
def execPowerCap (s : State) : Out :=
  runCmd 0x11 [low 16] (fun c s =>
    let n := c.word 1
    if n < 1200 ∨ 2200 < n ∨ n % 25 ≠ 0 then .fail 3 0
    else .done (s.setAtt (fun a => { a with cap := n, loans := trimLoans (poolOf n) a.loans })) 0) s

/-! ## Secured commands -/

/-- Change one key slot. -/
def State.setSlot (s : State) (k : Nat) (f : KeySlot → KeySlot) : State :=
  s.setSec (fun x => { x with slots := updAt x.slots k f })

/-- KEY_LOAD: a key into an unbound slot (16_isolation.md:R313). -/
def execKeyLoad (s : State) : Out :=
  runCmd 0x20 [low 4, low 64, low 64, low 64, low 64] (fun c s =>
    let k := c.par 1 0 4
    if (nth s.sec.slots k KeySlot.empty).bound then .fail 4 0
    else .done (s.setSlot k (fun x => { x with key := BitVec.ofNat 256 (bits c.entry 128 256), holds := true })) 0) s

/-- KEY_BIND: a slot that holds a key, to a context, with its mark (16_isolation.md:R313). -/
def execKeyBind (s : State) : Out :=
  runCmd 0x21 [low 4 + low 6 * 256, low 64] (fun c s =>
    let k := c.par 1 0 4
    let ctx := c.par 1 8 6
    let x := nth s.sec.slots k KeySlot.empty
    if x.bound || !x.holds || !s.hasCtx ctx then .fail 4 0
    else .done (s.setSlot k (fun x => { x with bound := true, ctx := ctx, mark := BitVec.ofNat 64 (c.word 2) })) 0) s

/-- KEY_UNBIND: the key is erased and the mark is 0 (16_isolation.md:R313). -/
def execKeyUnbind (s : State) : Out :=
  runCmd 0x22 [low 4] (fun c s =>
    let k := c.par 1 0 4
    if !(nth s.sec.slots k KeySlot.empty).bound then .fail 4 0 else .done (s.setSlot k (fun _ => KeySlot.empty)) 0) s

/-- HEARTBEAT; one that comes after the interval has passed is too late (16_isolation.md:R315). -/
def execHeartbeat (s : State) : Out :=
  runCmd 0x23 [] (fun _ s => if s.beatLost then .wait (s.startScrub 3) else .done (s.setSec (fun x => { x with lastBeat := s.time })) 0) s

/-- FABRIC_KEY (16_isolation.md:R310). -/
def execFabricKey (s : State) : Out :=
  runCmd 0x24 [low 64, low 64, low 64, low 64] (fun c s =>
    .done (s.setSec (fun x => { x with fabricKey := some (BitVec.ofNat 256 (bits c.entry 64 256)) })) 0) s

/-- TRUSTED_RANGE: at most 16 ranges (16_isolation.md:R310, 22_attach.md:R379). -/
def execTrustedRange (s : State) : Out :=
  runCmd 0x25 [low 64, low 64] (fun c s =>
    let base := c.word 1
    let len := c.word 2
    let l := s.sec.trusted
    if base % 2 ^ 21 ≠ 0 ∨ len % 2 ^ 21 ≠ 0 then .fail 3 0
    else if len = 0 then
      (if l.any (fun r => r.1 == base) then
        .done (s.setSec (fun x => { x with trusted := l.filter (fun r => r.1 != base) })) 0
      else .fail 4 0)
    else if 16 ≤ l.length then .fail 4 0
    else .done (s.setSec (fun x => { x with trusted := l ++ [(base, len)] })) 0) s

/-- A secured command that starts the reset with scrub: it has no completion (16_isolation.md:R309; 22_attach.md:R379). -/
def scrubCmd (confidential : Bool) (cause : Nat) (_ : Cmd) (s : State) : CmdRes :=
  if s.sec.confidential != confidential || !s.sec.session then .fail 5 0 else .wait (s.startScrub cause)

/-- ENTER_CONFIDENTIAL, from ordinary mode (16_isolation.md:R309). -/
def execEnterConfidential (s : State) : Out := runCmd 0x26 [] (scrubCmd false 1) s

/-- LEAVE_CONFIDENTIAL, in a confidential session (16_isolation.md:R309). -/
def execLeaveConfidential (s : State) : Out := runCmd 0x27 [] (scrubCmd true 2) s

/-- The instruction of a command's code. -/
def cmdInstr (c : Cmd) : Instr :=
  if !c.known || c.bad then .unknownCommand
  else match c.opc with
    | 0x01 => .stateSummary | 0x02 => .ctxCreate | 0x03 => .ctxDestroy | 0x04 => .queueTable | 0x05 => .exportTable
    | 0x06 => .window | 0x07 => .invalidate | 0x08 => .submit | 0x09 => .block | 0x0A => .unblock | 0x0B => .cancel
    | 0x0C => .preempt | 0x0D => .kill | 0x0E => .notifyRing | 0x0F => .formPod | 0x10 => .release | 0x11 => .powerCap
    | 0x12 => .errorLog | 0x13 => .faultReply | 0x20 => .keyLoad | 0x21 => .keyBind | 0x22 => .keyUnbind
    | 0x23 => .heartbeat | 0x24 => .fabricKey | 0x25 => .trustedRange | 0x26 => .enterConfidential
    | 0x27 => .leaveConfidential | _ => .unknownCommand

end Sys2Proof.Machine
end

