-- ==== Sys2Proof/Machine/Select.lean ====
section
/-! DEFINITION. Which path issues next: ready paths (13_progress.md:R272), the running warps of deterministic grids (R274),
the choice of a partition's slots, and the instruction cache (R276). -/

namespace Sys2Proof.Machine

/-! ## Running warps -/

/-- Whether a signature of an `mma` that has not issued holds a counter of a warp (13_progress.md:R274). -/
def Block.signed (b : Block) (wrp n : Nat) : Bool :=
  b.cores.any (fun c => c.scrums.any (fun k => k.signers.any (fun x => x.wrp == wrp && x.ctr == some n)))

/-- Whether a path is in a cooperative wait (13_progress.md:R274). -/
def State.coopPath (s : State) (b : Block) (g : Grid) (w : Warp) (p : Path) : Bool :=
  match p.park with
  | .bar _ _ => true
  | .tbwait off _ none => (b.tbar g.rec_.scr off).parr != 0
  | .waitlt n t => decide (t ≤ nth w.cnt n 0) && b.signed w.idx n
  | .mma op => b.mmas.any (fun m => m.op == op)
  | .run =>
    p.word == 0 && (match s.fetch g.rec_.ctx p.hdr with
      | .ok h => (List.range 12).any (fun n => h.getLsbD (4 + n) && nth w.cnt n 0 != 0 && b.signed w.idx n)
      | .error _ => false)
  | _ => false

/-- Whether a warp may be the running warp of its core: it has not ended, and some path is in no cooperative wait. -/
def State.mayRun (s : State) (b : Block) (g : Grid) (w : Warp) : Bool := !w.ended && !w.paths.all (s.coopPath b g w)

/-- The running warp of a core stays until it ends, yields or waits for its block; the next is the lowest that may run
(13_progress.md:R274). -/
def State.nextRunning (s : State) (b : Block) (g : Grid) (c : BlockCore) : Option Nat :=
  let ok := b.warps.filter (fun w => w.core == c.core && s.mayRun b g w)
  match c.running with
  | some k => if ok.any (fun w => w.idx == k) then some k else (ok.head?).map Warp.idx
  | none => (ok.head?).map Warp.idx

/-- SETTLE THE RUNNING WARPS of the deterministic grids (13_progress.md:R274). -/
def State.settle (s : State) : State :=
  if s.grids.any (fun g => g.rec_.det) then
    { s with blocks := s.blocks.map (fun b =>
        match s.grid? b.lsq with
        | some g =>
          if g.rec_.det ∧ b.res = .resident then
            let set := fun c : BlockCore => { c with running := s.nextRunning b g c }
            { b with cores := b.cores.map set }
          else b
        | none => b) }
  else s

/-! ## Ready paths -/

/-- One path with the warp, block and grid that it belongs to. -/
structure Cand where
  r : Ref
  b : Block
  g : Grid
  w : Warp
  p : Path

/-- The issuing path that a candidate would be. -/
def Cand.iss (x : Cand) : Iss := { r := x.r, blk := x.b, grid := x.g, warp := x.w, path := x.p, act := 0 }

/-- The holder that a candidate's path would be (20_isa_system.md:R357). -/
def Cand.holder (x : Cand) : Holder := x.iss.holder

/-- Whether a `refstop` that waits for a warp may go on (20_isa_system.md:R357, R358). -/
def State.stopReady (s : State) (mine : Holder) (t : Ref) : Bool :=
  match (s.block? t.lsq t.tkt).bind (fun b => b.warp? t.wrp) with
  | none => true
  | some w => w.holder == mine || w.ended || (w.holder == .free && w.atRest && w.busy == [])

/-- Whether a path is ready (13_progress.md:R272): not parked, or parked at a condition that now holds; its clause may
start, its block does not stand still, no other path stalls its warp (02_state.md:R31), and no older word of the warp may still
trap. -/
def State.ready (s : State) (x : Cand) : Bool :=
  let quiet := !x.iss.held
  !s.stands x.b x.r && !x.w.stalledBut x.r.lane &&
  match x.p.park with
  | .run =>
    if x.p.word = 0 then
      !s.heldBack x.b x.w x.r && (match s.fetch x.g.rec_.ctx x.p.hdr with
        | .error _ => true
        | .ok h => x.p.hdr.toNat % 16 != 0 || !headerOk h || x.w.waitzOk h)
    else quiet
  | .released _ _ => quiet
  | .waitlt n t => quiet && decide (nth x.w.cnt n 0 < t)
  | .tile a n why => quiet && (match why with | some c => x.w.canRaise c | none => x.b.tileTurn x.w.core a (some n))
  | .aput a n => quiet && x.b.tileTurn x.w.core a (some n)
  | .stall n => quiet && x.w.canRaise n
  | .qwait o a d => quiet && (s.qwaitEnd o a.toNat d).isSome
  | .stopping t => s.stopReady x.holder t
  | _ => false

/-- Every path of the warps and handlers that may issue, stopped warps apart. -/
def State.cands (s : State) : List Cand :=
  s.blocks.flatMap (fun b => match s.grid? b.lsq with
    | none => []
    | some g =>
      let of := fun (w : Warp) (wrp : Nat) (h : Bool) =>
        if w.stopped then []
        else w.paths.map (fun p => ({ r := { lsq := b.lsq, tkt := b.tkt, wrp := wrp, lane := lowLane p.mask, handler := h }
                                      b := b, g := g, w := w, p := p } : Cand))
      (if b.res = .resident then b.warps.flatMap (fun w => of w w.idx false) else []) ++
        (match b.handler with
         | some a => if b.res = .resident ∨ a.firmware then of a.warp handlerWrp true else []
         | none => []))

/-- The warp of a core that a save lets come to rest next in a deterministic grid: the lowest that is not at rest
(18_recovery.md:R327, step 1). -/
def Block.restsNext (b : Block) (core : Nat) : Option Nat :=
  (b.warps.find? (fun w => w.core == core && !w.atRest)).map Warp.idx

/-- Whether a candidate's warp may issue under the schedule of its grid (13_progress.md:R274). While its block is being saved, every
warp of a deterministic grid comes to its next clause boundary, one after another. -/
def Cand.scheduled (x : Cand) : Bool :=
  !x.g.rec_.det ||
    (if x.b.saving then x.b.restsNext x.w.core == some x.w.idx
     else match x.b.coreAt x.w.core with
      | some c => c.running == some x.w.idx
      | none => false)

/-- The ready paths of the user warps of a partition. -/
def State.readyOn (s : State) (core part : Nat) : List Cand :=
  s.cands.filter (fun x => !x.r.handler && x.w.core == core && x.w.part == part && x.scheduled && s.ready x)

/-- The ready paths of the referee slot of a core, which is on partition 0 (01_device.md:R13). -/
def State.refereeOn (s : State) (core part : Nat) : List Cand :=
  if part = 0 then s.cands.filter (fun x => x.r.handler && x.w.core == core && s.ready x) else []

/-! ## The choice -/

/-- Whether a candidate's warp is older: launch sequence, then logical warp index (13_progress.md:R272). -/
def Cand.older (x y : Cand) : Bool :=
  let kx := x.b.tkt * 128 + x.w.idx
  let ky := y.b.tkt * 128 + y.w.idx
  decide (x.b.lsq < y.b.lsq ∨ (x.b.lsq = y.b.lsq ∧ kx < ky))

/-- Whether two candidates are paths of one warp. -/
def Cand.sameWarp (x y : Cand) : Bool := x.b.lsq == y.b.lsq && x.b.tkt == y.b.tkt && x.w.idx == y.w.idx

/-- Whether a candidate comes first in a partition: a warp that has been ready for 64 cycles, then the older; within a warp
the more populous path, then the one at the lower address (13_progress.md:R272). -/
def Cand.before (x y : Cand) : Bool :=
  if x.sameWarp y then
    let nx := (lanesOf x.p.mask).length
    let ny := (lanesOf y.p.mask).length
    decide (ny < nx ∨ (nx = ny ∧ x.p.hdr.toNat + 16 * x.p.word < y.p.hdr.toNat + 16 * y.p.word))
  else
    let ox := decide (64 ≤ x.w.age)
    let oy := decide (64 ≤ y.w.age)
    if ox = oy then x.older y else ox

/-- The first of some candidates. -/
def firstCand : List Cand → Option Cand
  | [] => none
  | x :: r => match firstCand r with
    | none => some x
    | some y => if y.before x then some y else some x

/-- Whether the next word of a path is P-form (03_encoding.md:R82). -/
def State.pForm (s : State) (x : Cand) : Bool :=
  x.p.word != 0 && (match s.fetch x.g.rec_.ctx (x.p.hdr + BitVec.ofNat 64 (16 * x.p.word)) with
    | .ok q => (match decode q with | .ok (.pFormWord _ _) => true | _ => false)
    | .error _ => false)

/-- The paths that take the slots of a partition (13_progress.md:R272): the referee's first, on one slot whatever its word
(01_device.md:R13); then the two most populous ready paths of the first warp, or one of it and one of the next. A P-form word of a
warp takes both slots. -/
def State.choose (s : State) (core part : Nat) : List Cand :=
  let all := s.readyOn core part
  let avail := all.filter (fun x => !x.w.pass || x.g.rec_.det)
  match firstCand (s.refereeOn core part) with
  | some h => h :: (firstCand (avail.filter (fun x => !s.pForm x))).toList
  | none =>
    match firstCand avail with
    | none => []
    | some x =>
      if s.pForm x then [x]
      else
        let other := avail.filter (fun y => y.r.lane != x.r.lane || !y.sameWarp x)
        let same := other.filter (fun y => y.sameWarp x)
        let next := if same.length = 0 then firstCand other else firstCand same
        match next with
        | some y => if s.pForm y then [x] else [x, y]
        | none => [x]

/-- The key of a partition. -/
def partKey (core part : Nat) : Nat := 12 * core + part

/-- After a choice: a warp that issued has waited no cycle, a ready one that did not one more, and a warp passed over has
been (13_progress.md:R272; 03_encoding.md:R63). DESIGN CHOICE (log 8): the ready cycles without an issue need not follow one another; a
cycle in which the warp is not ready neither counts nor starts the count again. -/
def State.noteChoice (s : State) (ready chosen : List Cand) : State :=
  ready.foldl (fun s x =>
    let hit := chosen.any (fun y => y.sameWarp x && !y.r.handler)
    s.updWarp x.b.lsq x.b.tkt x.w.idx (fun w => { w with age := if hit then 0 else x.w.age + 1, pass := false })) s

/-- ISSUE_SELECT: a partition chooses the paths of its slots, which then issue (13_progress.md:R272). A frozen sequencer
chooses nothing (R276). -/
def execIssueSelect (core part : Nat) (s : State) : Out :=
  let k := partKey core part
  if s.slots ≠ [] ∨ s.frozen.contains k then .next s
  else
    let c := s.choose core part
    .next { s.noteChoice (s.readyOn core part) c with slots := c.map Cand.r, scan := k + 1 }

/-- ICACHE_LINE_ARRIVES: the line that a partition waited for has come (13_progress.md:R276). -/
def execIcacheLineArrives (core part : Nat) (s : State) : Out :=
  .next { s with frozen := s.frozen.filter (fun k => k != partKey core part) }

end Sys2Proof.Machine
end

