-- ==== Sys2Proof/Machine/Auto.lean ====
section
/-! DEFINITION. What happens next on the module: the environment's action, the word of a chosen path, an event that the
device takes by itself, the choice of a partition's paths, or the passage of T (DESIGN CHOICE, log 4: the order in which
independent events are taken; the manual leaves it open, and `agenda` can ask for any other). -/

namespace Sys2Proof.Machine

/-! ## Events that the device takes by itself -/

/-- A command in hand that is not waiting for its own effect (22_attach.md:R377): a PREEMPT waits for the save, a KILL for the end of
its grid, a CTX-DESTROY for the end of its context's grids. -/
def State.autoCmd (s : State) : Option Instr :=
  match s.att.cmd with
  | none => none
  | some c =>
    let saving := c.opc == 0x0C && (match s.frameBlock (c.par 1 0 6) (c.par 2 0 10) with
      | some b => b.res == .resident && b.saving
      | none => false)
    let killing := c.opc == 0x0D && s.att.killing.any (fun k => !s.killDone k)
    let ending := c.opc == 0x03 && s.att.destroying.any (fun k => !s.ctxEmpty k)
    if s.cmdBusy || saving || killing || ending then none else some (cmdInstr c)

/-- The next step of an operation aimed at this module itself: its packet arrives, the endpoint context that it needs is fetched, or
its reply comes back (11_isa_memory.md:R258; 18_recovery.md:R331). -/
def State.ownOp (s : State) (o : RemoteOp) : Option Instr :=
  if o.target ≠ s.modn ∨ o.result.isSome then none
  else
    match o.answer, s.endpoint? o.ctx s.modn with
    | some r, _ => some (.completionReplyArrives o.op (some r))
    | none, some e =>
      if e.seen.contains o.seq then none
      else if e.fetching then some (.endpointContextFetch o.ctx s.modn)
      else if e.cached && (!o.after.all e.seen.contains || s.ownWaits o) then none
      else some (.remoteOpArrival (o.packet s.modn s.time))
    | none, none => some (.remoteOpArrival (o.packet s.modn s.time))

/-- Engines: the judgment of a confidential copy, a sector of a copy or of a multicast. -/
def State.autoEngine (s : State) : Option Instr :=
  let due := fun o : CopyOp => (o.gcm.isNone || o.data.isSome) && o.todo != [] && !s.copyWaits o
  match s.copies.find? (fun o => o.gcm.isSome && o.data.isNone && s.gcmFirst o), s.copies.find? due,
      s.casts.find? (fun o => o.targets.any (fun t => t.todo != [])) with
  | some o, _, _ => some (.gcmEngineJudge o.op)
  | none, some o, _ => (o.todo.head?).map (fun k => .engineSectorReport o.op k)
  | none, none, some o => (o.targets.find? (fun t => t.todo != [])).bind (fun t =>
      (t.todo.head?).map (fun k => .mcastSectorArrival o.op t.core k))
  | none, none, none => none

/-- Register results, replies, stores, this module's operations on itself, and engines. -/
def State.autoHome (s : State) : Option Instr :=
  let landed := s.rops.find? (fun o => o.dst.isSome && (s.rops.filter (fun x => x.grp == o.grp)).all (fun x => x.result.isSome))
  match landed, s.replies, s.homeOps with
  | some o, _, _ => some (.registerWriteLands o.grp)
  | none, r :: _, _ => some (.completionReplyArrives r.id none)
  | none, [], h :: _ => some (.homePerformsAccess h.id)
  | none, [], [] => s.rops.findSome? s.ownOp <|> s.autoEngine

/-- Waits that have ended. -/
def State.autoWait (s : State) : Option Instr :=
  let xs := s.cands
  let dead := fun x : Cand => match x.p.park with
    | .waitw _ _ _ _ d => s.past d
    | _ => false
  let late := fun x : Cand => match x.p.park with
    | .qwait o a d => s.past d && (s.qwaitNow o a.toNat).isNone
    | _ => false
  match xs.find? (fun x => s.fencePassed x.w x.p.park || s.tbPassed x.b x.g.rec_.scr x.p.park) with
  | some x => some (.waitTimePassed x.r)
  | none => match xs.find? dead with
    | some x => some (.waitwDeadline x.r)
    | none => match xs.find? late with
      | some x => some (.qwaitDeadline x.r)
      | none => (xs.find? (fun x => x.w.colls.any x.w.complete?)).map (fun x => .collectivePerformed x.r)

/-- Matrix operations: one that is first on its tile is performed, or a handle's fetch goes on. -/
def State.autoMatrix (s : State) : Option Instr :=
  let bs := s.blocks.filter (fun b => b.res != .saved)
  let ms := bs.flatMap (fun b => b.mmas.map (fun m => (b, m)))
  let runs := fun x : Block × MmaOp =>
    x.1.mmaFirst x.2 && x.2.rec_.missing == 0 && cget s.groupsDown x.2.core == 0
  match ms.find? runs, ms.find? (fun x => s.fetchDue x.1 x.2), bs.findSome? s.pendingDue with
  | some x, _, _ => some (.mmaRetire x.2.op)
  | none, some x, _ => some (.handleFetchFault x.2.op)
  | none, none, some m => some (.handleFetchFault m.id)
  | none, none, none => none

/-- The partitions on which a compaction may have something to do: those of waiting `xget` words, of seats that a block waits for, and
of warps that a compaction holds. -/
def State.compactParts (s : State) (wanted : List Seat) : List (Nat × Nat) :=
  (s.cands.filterMap (fun x => match x.p.park with | .xget _ _ => some (x.w.core, x.w.part) | _ => none)) ++
    wanted.map (fun x => (x.core, x.part)) ++
    s.blocks.flatMap (fun b => (b.warps.filter Warp.hold).map (fun w => (w.core, w.part)))

/-- Grants of a core and a partition, and compactions. -/
def State.autoGrant (s : State) : Option Instr :=
  let tile := fun x : Cand => match x.p.park with
    | .aget _ _ => (s.nextTile x.w.core).map (fun _ => Instr.tileGrant x.w.core)
    | _ => none
  let reg := fun x : Cand => match x.p.park with
    | .xget _ _ => (s.nextExt x.w.core x.w.part).bind (fun y =>
        (s.extSpot x.w.core x.w.part y.2.2.2.1).map (fun _ => Instr.extregGrant x.w.core x.w.part))
    | _ => none
  let wanted := s.wantedSeats
  s.cands.findSome? tile <|> s.cands.findSome? reg <|>
    ((s.compactParts wanted).find? (fun k => (s.compact wanted k.1 k.2).isSome)).map (fun k => .compaction k.1 k.2)

/-- Whether BLOCK_SAVE of a block does something now (18_recovery.md:R327). -/
def State.saveDue (s : State) (b : Block) : Bool := b.saveReady && (!b.advanced || !s.inbound b)

/-- Whether BLOCK_END of a block does something now (10_ordering.md:R224; 13_progress.md:R278; 14_isa_sync.md:R291). -/
def State.endDue (s : State) (b : Block) : Bool :=
  s.atomsDue b || (!(s.blockBusy b) && (b.res == .killed || (s.roundOver b && b.huddle == [])))

/-- The block that a grid places next where it can, restored or dispatched (13_progress.md:R269). -/
def State.placeDue (s : State) (g : Grid) : Option Instr :=
  if !s.hasWork g || !s.myTurn g then none
  else
    ((s.placesOf g).head?).bind (fun o => (s.placeAt g o).map (fun x => match x.1 with
      | some b => .blockRestore { lsq := b.lsq, tkt := b.tkt, wrp := 0, lane := 0, handler := false } (o.1 + 16 * o.2)
      | none => .blockDispatch g.lsq (o.1 + 16 * o.2)))

/-- A reference to a block. -/
def Block.ref (b : Block) (wrp : Nat) : Ref := { lsq := b.lsq, tkt := b.tkt, wrp := wrp, lane := 0, handler := false }

/-- Traps, saves, ends and starts of blocks, and the ends of grids. -/
def State.autoBlock (s : State) : Option Instr :=
  let takes := fun core : Nat => match s.activeOn core with
    | some (_, a) => a.warp.trap.isSome && !a.firmware
    | none => ((s.trapsOf core).filter (fun x => !mustWait x)) != []
  let free := fun b : Block => b.warps.find? b.mayGive
  let gone := fun g : Grid => s.partEnded g && (g.qix.isNone || (g.closing && !s.finishes g))
  match s.invals.find? s.invalDone with
  | some v => some (.invalidationComplete v.op)
  | none => match (List.range 144).find? takes with
    | some core => some (.refereeTakeTrap core)
    | none => match s.blocks.find? s.saveDue with
      | some b => some (.blockSave (b.ref 0))
      | none => match s.blocks.findSome? (fun b => (free b).map (fun w => b.ref w.idx)) with
        | some r => some (.warpRelease r)
        | none => match s.blocks.find? (fun b => b.huddle != [] && (s.atomsDue b || (s.grid? b.lsq).any (fun g => (s.nextRound b g).isSome))) with
          | some b => some (.huddleRoundEnd (b.ref 0))
          | none => match s.blocks.find? s.endDue with
            | some b => some (.blockEnd (b.ref 0))
            | none => match s.grids.find? gone with
              | some g => some (.gridCompletion g.lsq)
              | none => s.grids.findSome? s.placeDue

/-- Whether a service core can go on with a call. -/
def State.svcDue (s : State) (call : SvcCall) : Bool :=
  match call with
  | .waiting id num _ =>
    num != 3 || (!s.att.outbox.any (fun p => p.src == some id) &&
      (match s.att.awaiting.find? (fun x => x.2 == id) with
       | some x => s.att.passed x.1
       | none => true))
  | _ => false

/-- The next call that a service core answers. -/
def State.autoSvc (s : State) : Option Instr :=
  s.blocks.findSome? (fun b =>
    match b.warps.find? (fun w => s.svcDue w.svc) with
    | some w => some (.svcReply (b.ref w.idx))
    | none => match b.handler with
      | some a => if s.svcDue a.warp.svc then some (.svcReply { b.ref handlerWrp with handler := true }) else none
      | none => none)

/-- The delivery of an event (19_quadrille.md:R342). -/
def deliverInstr (typ : Nat) : Instr :=
  match typ with
  | 2 => .deliverFinish | 3 => .deliverBlock | 4 => .deliverUnblock | 5 => .deliverCancel | 6 => .deliverSuspect
  | 7 => .deliverJoin | 8 => .deliverFence | _ => .deliverSubmit

/-- The Quadrille and the front end. -/
def State.autoPod (s : State) : Option Instr :=
  let due := match s.quad.lastBeat with
    | none => true
    | some b => decide (b.sent.toNat + 500 ≤ s.time.toNat)
  let silent := fun m : Nat => s.mayRaise && s.isMember m && m != s.modn && !s.quad.raisedSuspect.contains m &&
    decide ((nth s.quad.lastRecv m 0).toNat + 20000 ≤ s.time.toNat)
  let row := (s.quad.pendRows.head?).filter (fun c => s.mayEnact c.kind)
  let fin := s.grids.find? (fun g => g.qix.isSome && s.partEnded g && s.finishes g)
  let fetch := s.att.form.isNone && (match s.front.table with | some t => (s.nextFetch t).isSome | none => false)
  row.map (fun c => .rowEnact c.row) <|>
  s.nextEvent.map (fun x => deliverInstr (QEvent.ofBits x).typ) <|>
  fin.map (fun g => .finishRaise g.lsq) <|>
  ((List.range 64).find? s.cutDue).map .memberCut <|>
  ((List.range 64).find? silent).map .suspectRaise <|>
  (if s.inPod s.modn && due then some .quadrilleHeartbeatSend else if fetch then some .queueFetch else none)

/-- The session's heartbeat, the time limit of pod formation, and the exchange of timestamps with other modules. -/
def State.autoTime (s : State) : Option Instr :=
  let late := s.att.form.any (fun f => decide (f.started.toNat + 10 ^ 9 ≤ s.time.toNat))
  if s.beatLost then some .heartbeatLoss
  else if late then some .formPodTimeout
  else if s.mayExchange && !s.quad.lone then some (.timeDiscipline 0)
  else none

/-- The exchange of phase counters, the arrival of instruction-cache lines, and the next partition that has a ready path. -/
def State.autoIssue (s : State) : Option Instr :=
  let stale := fun core : Nat => s.grids.any (fun g => (g.neighbours core).any (fun n =>
    cget g.seen (144 * core + n) != cget g.phase n))
  let keys := (List.range (1728 - s.scan)).map (· + s.scan)
  let ready := s.cands.filter s.ready
  let on := fun k : Nat => ready.any (fun x =>
    if x.r.handler then partKey x.w.core 0 == k else x.scheduled && partKey x.w.core x.w.part == k)
  match (List.range 144).find? stale, s.frozen, keys.find? on with
  | some c, _, _ => some (.phaseCounterExchange c)
  | none, k :: _, _ => some (.icacheLineArrives (k / 12) (k % 12))
  | none, [], some k => some (.issueSelect (k / 12) (k % 12))
  | none, [], none => none

/-- THE EVENT THAT THE DEVICE TAKES NEXT by itself; none when nothing is due at this T. -/
def State.auto (s : State) : Option Instr :=
  s.autoTime <|> s.autoCmd <|> s.autoHome <|> s.autoWait <|> s.autoMatrix <|> s.autoGrant <|> s.autoBlock <|> s.autoSvc <|> s.autoPod <|>
    s.autoIssue

/-! ## The environment -/

/-- Whether the service cores take a command: in confidential mode only a secured one, in an open session
(16_isolation.md:R310). -/
def State.takesCmd (s : State) (c : Cmd) : Bool :=
  (if c.secured then s.sec.session else !s.sec.confidential) && s.att.cmd.isNone &&
    (s.att.dst == .ready || s.att.dst == .failed)

/-- The next entry of the command ring, when the service cores are free to take it (22_attach.md:R376, R377). -/
def State.ringCmd (s : State) : Option Cmd :=
  if s.att.cdb = s.att.cci ∨ s.att.crs < 6 ∨ 12 < s.att.crs then none
  else
    let i := s.att.cci.toNat % 2 ^ s.att.crs
    let pa := s.att.crb.toNat + 64 * i
    let c : Cmd :=
      { entry := BitVec.ofNat 512 (s.mem.nat true pa 64), secured := false, ring := true
        answers := Config.joinerAnswers s.fresh, held := Config.joinerHolds s.fresh
        bad := s.mem.unreadable pa }
    if s.takesCmd c then some c else none

/-- The service cores take the next entry of the command ring. -/
def State.takeRing (s : State) (c : Cmd) : State :=
  let s := s.deviceRead (s.att.crb.toNat + 64 * (s.att.cci.toNat % 2 ^ s.att.crs))
  { s with fresh := s.fresh + 1, att := { s.att with cmd := some c } }

/-- The host starts or stops caching a line of device memory (22_attach.md:R374). -/
def Memory.hostHolds (m : Memory) (line : Nat) (held : Bool) : Memory :=
  { m with hostLines := if held then insertNat line m.hostLines else m.hostLines.filter (· != line) }

/-- A 4 KiB unit of host memory can no longer be read over the host link, or can again (16_isolation.md:R303). -/
def Memory.hostReach (m : Memory) (page : Nat) (lost : Bool) : Memory :=
  { m with hostLost := cset m.hostLost page (if lost then 1 else 0) }

/-- What the environment's action does: run an instruction on a state, or give a state. -/
def State.act (s : State) (a : Action) : Option Instr × State :=
  match a with
  | .event i => (some i, s)
  | .command c => (none, if s.takesCmd c then { s with att := { s.att with cmd := some { c with ring := false } } } else s)
  | .tick n => (none, if s.att.dst = .reset then s else { s with time := s.time + BitVec.ofNat 64 n, scan := 0 })
  | .evict core line =>
    let l1 := s.mem.l1.filter (fun c => !(c.core == core && c.line == line))
    (none, { s with mem := { s.mem with l1 := l1 } })
  | .icacheMiss core part =>
    let k := partKey core part
    let f := insertNat k s.frozen
    (none, { s with frozen := f, att := { s.att with slips := cset s.att.slips k (cget s.att.slips k + 1) } })
  | .hostStore pa data mark => (none, { s.homeStore none true pa data mark with sec := s.sec })
  | .sectorError op core sector => (none, s.sectorError op core sector)
  | .resend op => (none, s.resend op)
  | .hostCache line held => (none, { s with mem := s.mem.hostHolds line held })
  | .hostLink page lost => (none, { s with mem := s.mem.hostReach page lost })

/-- T advances by one nanosecond, and every partition may issue again. -/
def State.tick (s : State) : State := { s with time := s.time + 1, scan := 0 }

/-- What a device that is READY does by itself: the word of a chosen path, an entry of the command ring, an event, or the
passage of T. -/
def State.advance (s : State) : Option Instr × State :=
  match s.slots with
  | r :: rest => { s with slots := rest }.beginWord r
  | [] =>
    match s.ringCmd with
    | some c => (none, s.takeRing c)
    | none =>
      match s.auto with
      | some i => (some i, s)
      | none => (none, s.tick)

/-- WHAT HAPPENS NEXT: first the loss of a session whose heartbeat has not come, so that nothing reaches the host after it
(16_isolation.md:R315); then the environment's next action; otherwise what the device state allows (22_attach.md:R384). `TIME`
runs from 0 at the end of fuse readout; FAILED refuses commands. -/
def State.plan (s : State) : Option Instr × State :=
  let s := { s.settle with cur := none }
  match decide (s.att.dst = .ready) && s.beatLost, s.agenda with
  | true, _ => (some .heartbeatLoss, s)
  | false, a :: r => { s with agenda := r }.act a
  | false, [] =>
    match s.att.dst with
    | .ready => s.advance
    | .reset => (none, if s.sec.stuck then s else { s with time := 0, att := { s.att with dst := .init } })
    | .failed =>
      match s.ringCmd, s.autoCmd with
      | _, some i => (some i, s)
      | some c, none => (none, s.takeRing c)
      | none, none => (none, s.tick)
    | .init | .scrub => (none, s.tick)

end Sys2Proof.Machine
end

