-- ==== Sys2Proof/Machine/Dispatch.lean ====
section
/-! DEFINITION. The dispatch: one arm for each constructor of `Instr`, each one call of its meaning. -/

namespace Sys2Proof.Machine

def exec (i : Instr) (s : State) : Host.Outcome State Fault Refusal :=
  match i with
  | .add w => Sys2Proof.Machine.execAdd w s
  | .sub w => Sys2Proof.Machine.execSub w s
  | .addc w => Sys2Proof.Machine.execAddc w s
  | .subb w => Sys2Proof.Machine.execSubb w s
  | .mul w => Sys2Proof.Machine.execMul w s
  | .mulh w => Sys2Proof.Machine.execMulh w s
  | .mulw w => Sys2Proof.Machine.execMulw w s
  | .mad w => Sys2Proof.Machine.execMad w s
  | .idiv w => Sys2Proof.Machine.execIdiv w s
  | .irem w => Sys2Proof.Machine.execIrem w s
  | .min w => Sys2Proof.Machine.execMin w s
  | .max w => Sys2Proof.Machine.execMax w s
  | .abs w => Sys2Proof.Machine.execAbs w s
  | .neg w => Sys2Proof.Machine.execNeg w s
  | .cmp w => Sys2Proof.Machine.execCmp w s
  | .lea w => Sys2Proof.Machine.execLea w s
  | .add64 w => Sys2Proof.Machine.execAdd64 w s
  | .sub64 w => Sys2Proof.Machine.execSub64 w s
  | .shl64 w => Sys2Proof.Machine.execShl64 w s
  | .and w => Sys2Proof.Machine.execAnd w s
  | .or w => Sys2Proof.Machine.execOr w s
  | .xor w => Sys2Proof.Machine.execXor w s
  | .andn w => Sys2Proof.Machine.execAndn w s
  | .orn w => Sys2Proof.Machine.execOrn w s
  | .not w => Sys2Proof.Machine.execNot w s
  | .shl w => Sys2Proof.Machine.execShl w s
  | .shr w => Sys2Proof.Machine.execShr w s
  | .sar w => Sys2Proof.Machine.execSar w s
  | .rol w => Sys2Proof.Machine.execRol w s
  | .ror w => Sys2Proof.Machine.execRor w s
  | .perm w => Sys2Proof.Machine.execPerm w s
  | .bfx w => Sys2Proof.Machine.execBfx w s
  | .bfi w => Sys2Proof.Machine.execBfi w s
  | .bfr w => Sys2Proof.Machine.execBfr w s
  | .popc w => Sys2Proof.Machine.execPopc w s
  | .clz w => Sys2Proof.Machine.execClz w s
  | .ctz w => Sys2Proof.Machine.execCtz w s
  | .mov w => Sys2Proof.Machine.execMov w s
  | .ldi w => Sys2Proof.Machine.execLdi w s
  | .ldih w => Sys2Proof.Machine.execLdih w s
  | .sel w => Sys2Proof.Machine.execSel w s
  | .pand w => Sys2Proof.Machine.execPand w s
  | .por w => Sys2Proof.Machine.execPor w s
  | .pxor w => Sys2Proof.Machine.execPxor w s
  | .pnot w => Sys2Proof.Machine.execPnot w s
  | .rds w => Sys2Proof.Machine.execRds w s
  | .wrs w => Sys2Proof.Machine.execWrs w s
  | .vote w => Sys2Proof.Machine.execVote w s
  | .shfl w => Sys2Proof.Machine.execShfl w s
  | .red w => Sys2Proof.Machine.execRed w s
  | .scan w => Sys2Proof.Machine.execScan w s
  | .waitlt w => Sys2Proof.Machine.execWaitlt w s
  | .bra w => Sys2Proof.Machine.execBra w s
  | .brx w => Sys2Proof.Machine.execBrx w s
  | .call w => Sys2Proof.Machine.execCall w s
  | .ret w => Sys2Proof.Machine.execRet w s
  | .exit w => Sys2Proof.Machine.execExit w s
  | .trap w => Sys2Proof.Machine.execTrap w s
  | .tret w => Sys2Proof.Machine.execTret w s
  | .trec w => Sys2Proof.Machine.execTrec w s
  | .nop w => Sys2Proof.Machine.execNop w s
  | .pFormWord x y => Sys2Proof.Machine.execPFormWord x y s
  | .fadd w => Sys2Proof.Machine.execFadd w s
  | .fsub w => Sys2Proof.Machine.execFsub w s
  | .fmul w => Sys2Proof.Machine.execFmul w s
  | .fma w => Sys2Proof.Machine.execFma w s
  | .fmin w => Sys2Proof.Machine.execFmin w s
  | .fmax w => Sys2Proof.Machine.execFmax w s
  | .fneg w => Sys2Proof.Machine.execFneg w s
  | .fabs w => Sys2Proof.Machine.execFabs w s
  | .fcmp w => Sys2Proof.Machine.execFcmp w s
  | .fcls w => Sys2Proof.Machine.execFcls w s
  | .frnd w => Sys2Proof.Machine.execFrnd w s
  | .fscl w => Sys2Proof.Machine.execFscl w s
  | .fdiv w => Sys2Proof.Machine.execFdiv w s
  | .fsqrt w => Sys2Proof.Machine.execFsqrt w s
  | .frcp w => Sys2Proof.Machine.execFrcp w s
  | .frsq w => Sys2Proof.Machine.execFrsq w s
  | .vfadd w => Sys2Proof.Machine.execVfadd w s
  | .vfsub w => Sys2Proof.Machine.execVfsub w s
  | .vfmul w => Sys2Proof.Machine.execVfmul w s
  | .vfma w => Sys2Proof.Machine.execVfma w s
  | .vfdiv w => Sys2Proof.Machine.execVfdiv w s
  | .vfsqrt w => Sys2Proof.Machine.execVfsqrt w s
  | .vfcmp w => Sys2Proof.Machine.execVfcmp w s
  | .vfmin w => Sys2Proof.Machine.execVfmin w s
  | .vfmax w => Sys2Proof.Machine.execVfmax w s
  | .vfneg w => Sys2Proof.Machine.execVfneg w s
  | .vfabs w => Sys2Proof.Machine.execVfabs w s
  | .vfcvt w => Sys2Proof.Machine.execVfcvt w s
  | .vfext w => Sys2Proof.Machine.execVfext w s
  | .vfrnd w => Sys2Proof.Machine.execVfrnd w s
  | .vfmov w => Sys2Proof.Machine.execVfmov w s
  | .fex2 w => Sys2Proof.Machine.execFex2 w s
  | .flg2 w => Sys2Proof.Machine.execFlg2 w s
  | .fsinp w => Sys2Proof.Machine.execFsinp w s
  | .fcosp w => Sys2Proof.Machine.execFcosp w s
  | .ftnh w => Sys2Proof.Machine.execFtnh w s
  | .cvt w => Sys2Proof.Machine.execCvt w s
  | .cvtn w => Sys2Proof.Machine.execCvtn w s
  | .cvtw w => Sys2Proof.Machine.execCvtw w s
  | .cbdec w => Sys2Proof.Machine.execCbdec w s
  | .bfly w => Sys2Proof.Machine.execBfly w s
  | .cbfly w => Sys2Proof.Machine.execCbfly w s
  | .cmul w => Sys2Proof.Machine.execCmul w s
  | .twid w => Sys2Proof.Machine.execTwid w s
  | .aget w => Sys2Proof.Machine.execAget w s
  | .aput w => Sys2Proof.Machine.execAput w s
  | .azero w => Sys2Proof.Machine.execAzero w s
  | .ald w => Sys2Proof.Machine.execAld w s
  | .ast w => Sys2Proof.Machine.execAst w s
  | .ascl w => Sys2Proof.Machine.execAscl w s
  | .aconv w => Sys2Proof.Machine.execAconv w s
  | .omset w => Sys2Proof.Machine.execOmset w s
  | .thset w => Sys2Proof.Machine.execThset w s
  | .mma w => Sys2Proof.Machine.execMma w s
  | .mmaz w => Sys2Proof.Machine.execMmaz w s
  | .kinit w => Sys2Proof.Machine.execKinit w s
  | .stclr w => Sys2Proof.Machine.execStclr w s
  | .stset w => Sys2Proof.Machine.execStset w s
  | .stadd w => Sys2Proof.Machine.execStadd w s
  | .stget w => Sys2Proof.Machine.execStget w s
  | .stpre w => Sys2Proof.Machine.execStpre w s
  | .sttot w => Sys2Proof.Machine.execSttot w s
  | .stfind w => Sys2Proof.Machine.execStfind w s
  | .stcut w => Sys2Proof.Machine.execStcut w s
  | .stcutm w => Sys2Proof.Machine.execStcutm w s
  | .stq w => Sys2Proof.Machine.execStq w s
  | .stld w => Sys2Proof.Machine.execStld w s
  | .stst w => Sys2Proof.Machine.execStst w s
  | .ldg w => Sys2Proof.Machine.execLdg w s
  | .stg w => Sys2Proof.Machine.execStg w s
  | .ldsp w => Sys2Proof.Machine.execLdsp w s
  | .stsp w => Sys2Proof.Machine.execStsp w s
  | .ldvf w => Sys2Proof.Machine.execLdvf w s
  | .stvf w => Sys2Proof.Machine.execStvf w s
  | .atomg w => Sys2Proof.Machine.execAtomg w s
  | .atomsp w => Sys2Proof.Machine.execAtomsp w s
  | .fence w => Sys2Proof.Machine.execFence w s
  | .drain w => Sys2Proof.Machine.execDrain w s
  | .tcopy w => Sys2Proof.Machine.execTcopy w s
  | .mcast w => Sys2Proof.Machine.execMcast w s
  | .tbinit w => Sys2Proof.Machine.execTbinit w s
  | .tbexp w => Sys2Proof.Machine.execTbexp w s
  | .tbarr w => Sys2Proof.Machine.execTbarr w s
  | .tbwait w => Sys2Proof.Machine.execTbwait w s
  | .tbtest w => Sys2Proof.Machine.execTbtest w s
  | .lkl w => Sys2Proof.Machine.execLkl w s
  | .ulk w => Sys2Proof.Machine.execUlk w s
  | .pref w => Sys2Proof.Machine.execPref w s
  | .rput w => Sys2Proof.Machine.execRput w s
  | .rget w => Sys2Proof.Machine.execRget w s
  | .ratom w => Sys2Proof.Machine.execRatom w s
  | .rflag w => Sys2Proof.Machine.execRflag w s
  | .rwake w => Sys2Proof.Machine.execRwake w s
  | .waitw w => Sys2Proof.Machine.execWaitw w s
  | .bar w => Sys2Proof.Machine.execBar w s
  | .yield w => Sys2Proof.Machine.execYield w s
  | .phase w => Sys2Proof.Machine.execPhase w s
  | .xget w => Sys2Proof.Machine.execXget w s
  | .xput w => Sys2Proof.Machine.execXput w s
  | .hud w => Sys2Proof.Machine.execHud w s
  | .qpost w => Sys2Proof.Machine.execQpost w s
  | .launch w => Sys2Proof.Machine.execLaunch w s
  | .refrd w => Sys2Proof.Machine.execRefrd w s
  | .refwr w => Sys2Proof.Machine.execRefwr w s
  | .refres w => Sys2Proof.Machine.execRefres w s
  | .refstop w => Sys2Proof.Machine.execRefstop w s
  | .refkill w => Sys2Proof.Machine.execRefkill w s
  | .ctxsave w => Sys2Proof.Machine.execCtxsave w s
  | .ctxrest w => Sys2Proof.Machine.execCtxrest w s
  | .svc w => Sys2Proof.Machine.execSvc w s
  | .svcw w => Sys2Proof.Machine.execSvcw w s
  | .evtpop w => Sys2Proof.Machine.execEvtpop w s
  | .tlbinv w => Sys2Proof.Machine.execTlbinv w s
  | .qsub w => Sys2Proof.Machine.execQsub w s
  | .qblk w => Sys2Proof.Machine.execQblk w s
  | .qunb w => Sys2Proof.Machine.execQunb w s
  | .qcan w => Sys2Proof.Machine.execQcan w s
  | .qrow w => Sys2Proof.Machine.execQrow w s
  | .qdig w => Sys2Proof.Machine.execQdig w s
  | .qseq w => Sys2Proof.Machine.execQseq w s
  | .qwait w => Sys2Proof.Machine.execQwait w s
  | .issueSelect core part => Sys2Proof.Machine.execIssueSelect core part s
  | .icacheLineArrives core part => Sys2Proof.Machine.execIcacheLineArrives core part s
  | .registerWriteLands op => Sys2Proof.Machine.execRegisterWriteLands op s
  | .homePerformsAccess op => Sys2Proof.Machine.execHomePerformsAccess op s
  | .completionReplyArrives op remote => Sys2Proof.Machine.execCompletionReplyArrives op remote s
  | .waitTimePassed r => Sys2Proof.Machine.execWaitTimePassed r s
  | .waitwDeadline r => Sys2Proof.Machine.execWaitwDeadline r s
  | .qwaitDeadline r => Sys2Proof.Machine.execQwaitDeadline r s
  | .collectivePerformed r => Sys2Proof.Machine.execCollectivePerformed r s
  | .mmaRetire op => Sys2Proof.Machine.execMmaRetire op s
  | .handleFetchFault op => Sys2Proof.Machine.execHandleFetchFault op s
  | .tileGrant core => Sys2Proof.Machine.execTileGrant core s
  | .extregGrant core part => Sys2Proof.Machine.execExtregGrant core part s
  | .compaction core part => Sys2Proof.Machine.execCompaction core part s
  | .engineSectorReport op sector => Sys2Proof.Machine.execEngineSectorReport op sector s
  | .gcmEngineJudge op => Sys2Proof.Machine.execGcmEngineJudge op s
  | .mcastSectorArrival op core sector => Sys2Proof.Machine.execMcastSectorArrival op core sector s
  | .remoteOpArrival k => Sys2Proof.Machine.execRemoteOpArrival k s
  | .transportGiveUp op => Sys2Proof.Machine.execTransportGiveUp op s
  | .pageWalkComplete ctx va => Sys2Proof.Machine.execPageWalkComplete ctx va s
  | .invalidationComplete op => Sys2Proof.Machine.execInvalidationComplete op s
  | .refereeTakeTrap core => Sys2Proof.Machine.execRefereeTakeTrap core s
  | .blockSave r => Sys2Proof.Machine.execBlockSave r s
  | .blockRestore r org => Sys2Proof.Machine.execBlockRestore r org s
  | .warpRelease r => Sys2Proof.Machine.execWarpRelease r s
  | .blockEnd r => Sys2Proof.Machine.execBlockEnd r s
  | .huddleRoundEnd r => Sys2Proof.Machine.execHuddleRoundEnd r s
  | .gridCompletion lsq => Sys2Proof.Machine.execGridCompletion lsq s
  | .blockDispatch lsq org => Sys2Proof.Machine.execBlockDispatch lsq org s
  | .phaseCounterExchange core => Sys2Proof.Machine.execPhaseCounterExchange core s
  | .svcReply r => Sys2Proof.Machine.execSvcReply r s
  | .eccErrorDetected pa correctable kind => Sys2Proof.Machine.execEccErrorDetected pa correctable kind s
  | .powerAdjust pool clk0 clk1 => Sys2Proof.Machine.execPowerAdjust pool clk0 clk1 s
  | .timeDiscipline slew => Sys2Proof.Machine.execTimeDiscipline slew s
  | .portStateChange port state => Sys2Proof.Machine.execPortStateChange port state s
  | .quadrilleHeartbeatReceive h => Sys2Proof.Machine.execQuadrilleHeartbeatReceive h s
  | .eventReceive e => Sys2Proof.Machine.execEventReceive e s
  | .finishRaise lsq => Sys2Proof.Machine.execFinishRaise lsq s
  | .suspectRaise m => Sys2Proof.Machine.execSuspectRaise m s
  | .memberCut m => Sys2Proof.Machine.execMemberCut m s
  | .rowEnact row => Sys2Proof.Machine.execRowEnact row s
  | .joinProcedure j => Sys2Proof.Machine.execJoinProcedure j s
  | .hostMemoryAccess h => Sys2Proof.Machine.execHostMemoryAccess h s
  | .ncnWrite v => Sys2Proof.Machine.execNcnWrite v s
  | .registerWrite off v => Sys2Proof.Machine.execRegisterWrite off v s
  | .podFormationComplete t => Sys2Proof.Machine.execPodFormationComplete t s
  | .scrubComplete ok => Sys2Proof.Machine.execScrubComplete ok s
  | .readyReached ok => Sys2Proof.Machine.execReadyReached ok s
  | .unassignedOpcode word => Sys2Proof.Machine.execUnassignedOpcode word s
  | .spdmSessionSetup seconds => Sys2Proof.Machine.execSpdmSessionSetup seconds s
  | .endpointContextFetch ctx peer => Sys2Proof.Machine.execEndpointContextFetch ctx peer s
  | .corePowerGating core gate groups => Sys2Proof.Machine.execCorePowerGating core gate groups s
  | .queueFetch => Sys2Proof.Machine.execQueueFetch s
  | .quadrilleHeartbeatSend => Sys2Proof.Machine.execQuadrilleHeartbeatSend s
  | .deliverSubmit => Sys2Proof.Machine.execDeliverSubmit s
  | .deliverFinish => Sys2Proof.Machine.execDeliverFinish s
  | .deliverBlock => Sys2Proof.Machine.execDeliverBlock s
  | .deliverUnblock => Sys2Proof.Machine.execDeliverUnblock s
  | .deliverCancel => Sys2Proof.Machine.execDeliverCancel s
  | .deliverSuspect => Sys2Proof.Machine.execDeliverSuspect s
  | .deliverJoin => Sys2Proof.Machine.execDeliverJoin s
  | .deliverFence => Sys2Proof.Machine.execDeliverFence s
  | .stateSummary => Sys2Proof.Machine.execStateSummary s
  | .ctxCreate => Sys2Proof.Machine.execCtxCreate s
  | .ctxDestroy => Sys2Proof.Machine.execCtxDestroy s
  | .queueTable => Sys2Proof.Machine.execQueueTable s
  | .exportTable => Sys2Proof.Machine.execExportTable s
  | .window => Sys2Proof.Machine.execWindow s
  | .invalidate => Sys2Proof.Machine.execInvalidate s
  | .submit => Sys2Proof.Machine.execSubmit s
  | .block => Sys2Proof.Machine.execBlock s
  | .unblock => Sys2Proof.Machine.execUnblock s
  | .cancel => Sys2Proof.Machine.execCancel s
  | .preempt => Sys2Proof.Machine.execPreempt s
  | .kill => Sys2Proof.Machine.execKill s
  | .notifyRing => Sys2Proof.Machine.execNotifyRing s
  | .formPod => Sys2Proof.Machine.execFormPod s
  | .formPodTimeout => Sys2Proof.Machine.execFormPodTimeout s
  | .release => Sys2Proof.Machine.execRelease s
  | .powerCap => Sys2Proof.Machine.execPowerCap s
  | .errorLog => Sys2Proof.Machine.execErrorLog s
  | .faultReply => Sys2Proof.Machine.execFaultReply s
  | .keyLoad => Sys2Proof.Machine.execKeyLoad s
  | .keyBind => Sys2Proof.Machine.execKeyBind s
  | .keyUnbind => Sys2Proof.Machine.execKeyUnbind s
  | .heartbeat => Sys2Proof.Machine.execHeartbeat s
  | .fabricKey => Sys2Proof.Machine.execFabricKey s
  | .trustedRange => Sys2Proof.Machine.execTrustedRange s
  | .enterConfidential => Sys2Proof.Machine.execEnterConfidential s
  | .leaveConfidential => Sys2Proof.Machine.execLeaveConfidential s
  | .heartbeatLoss => Sys2Proof.Machine.execHeartbeatLoss s
  | .coldReset => Sys2Proof.Machine.execColdReset s
  | .unknownCommand => Sys2Proof.Machine.execUnknownCommand s

end Sys2Proof.Machine
end

