-- ==== Sys2Proof/Machine/Load.lean ====
section
/-! DEFINITION. A machine whose next fetch is a given word: context 0 with a page table that maps the first
GiB, one grid of one block of one warp, and one path about to issue the last word of a clause of one word
(DESIGN CHOICE, log 5: a program comes to the module from outside). -/

namespace Sys2Proof.Machine

/-- The launch record of the loaded program: base block of 48 granules, one warp for each block, function-table version
1, eight tiles, 64 KiB of scratchpad, a sum-tree register of 64 leaves of 32 bits. -/
def loadRec : LaunchRec :=
  { hnd := 0, prl := 0, par := 0, ent := 0x10000, scr := 65536, stg := 0, grdw := 1, grdh := 1, wpb := 1
    ftv := 1, gngc := 1, gngh := 1, gngw := 1, ext := 0, base := 48, acc := 8, wtc := 1, wtl := 0
    wtm := true, alw := 1, pri := 0, det := false, brc := 0, ctx := 0, reserved := false
    fmt := List.replicate 8 0 }

/-- The grid of the loaded program. -/
def loadGrid : Grid :=
  { lsq := 1, rec_ := loadRec, ftv := 1, tables := [], qix := none, dps := 0, gngi := 0, rx := 0, ry := 0
    parent := none, nextTkt := 1, ended := 0, killed := 0, killCode := 0, cwa := none, cwv := 0, wctp := 0
    phase := [], seen := [], detLog := [], detAtoms := [], held := false, closing := false, silent := false }

/-- The header of the loaded clause: one word, counters n0 and n1 (03_encoding.md:R59). -/
def loadHeader : QWord := 0x100001

/-- The loaded block: its one path stands at word 1 of the clause at 0x10000. -/
def loadBlock : Block :=
  let w := Warp.start 0 0 0 0 0x10000
  Block.start 1 0 0 1 [BlockCore.start 0 0]
    [{ w with paths := [{ mask := 0xFFFFFFFF, hdr := 0x10000, word := 1, held := loadHeader, park := .run }] }]

/-- The issuing path of the loaded program. -/
def loadRef : Ref := { lsq := 1, tkt := 0, wrp := 0, lane := 0, handler := false }

/-- The descriptor of context 0: its level-3 table at 0x1000 (16_isolation.md:R299). -/
def loadDesc : BitVec 512 := (0x1000 : BitVec 512) <<< 448 ||| (1 : BitVec 512) <<< 72 ||| (1 : BitVec 512) <<< 64

/-- The page tables and the clause of a word: levels 3, 2 and 1 at 0x1000, 0x2000 and 0x3000, the last a leaf
that maps the first GiB, writable and executable (16_isolation.md:R301, R302). -/
def loadMem (m : Memory) (q : QWord) : Memory :=
  let m := m.write false 0x1000 (leBytes 8 0x2001) false
  let m := m.write false 0x2000 (leBytes 8 0x3001) false
  let m := m.write false 0x3000 (leBytes 8 0xF) false
  let m := m.write false 0x10000 (leBytes 16 loadHeader.toNat) false
  { m.write false 0x10010 (leBytes 16 q.toNat) false with
    tlb := m.tlb.filter (fun t => t.ctx != 0) }

/-- The state with a word placed where the next step fetches. -/
def State.loadWord (s : State) (q : QWord) : State :=
  { s with
    mem := loadMem s.mem q
    ctxs := updAt s.ctxs 0 (fun c => { c with desc := loadDesc })
    grids := loadGrid :: s.grids.filter (fun g => g.lsq != 1)
    blocks := loadBlock :: s.blocks.filter (fun b => b.lsq != 1)
    att := { s.att with dst := .ready }
    front := { s.front with nextLsq := max s.front.nextLsq 2 }
    sec := { s.sec with session := false }
    agenda := [], slots := [loadRef], cur := none }

end Sys2Proof.Machine
end

