-- ==== Sys2Proof/Machine/Step.lean ====
section
/-! DEFINITION. One step of the module, and the state in which a given instruction word is the next to be
fetched. -/

namespace Sys2Proof.Machine

/-- One step: what `State.plan` says happens next, an instruction by its meaning. -/
def step (s : State) : Host.Outcome State Fault Refusal :=
  match s.plan with
  | (some i, t) => exec i t
  | (none, t) => .next t

/-- The state `s` with the instruction of `w` placed where the next step fetches, in a program that is loaded
and running (log 5): see `State.loadWord`. -/
def State.withFetchWord (s : State) (nbits w : Nat) : State :=
  s.loadWord (BitVec.ofNat 128 (w % 2 ^ nbits))

end Sys2Proof.Machine
end

