-- ==== Sys2Proof/Safety.lean ====
section
/-! DEFINITION. The terms in which claims are stated: what counts as a safe state, when an instruction word issues, what
it means that the word completes, and what a write of a destination does and leaves. -/

namespace Sys2Proof.Machine

/-- Memory keeps its canonical form. -/
def State.MemInv (s : State) : Prop := s.mem.wf = true

/-- Every trap that a warp or a handler has recorded has a cause of 18_recovery.md:R320 that an access or an instruction raises: 1 to 9.
Cause 10, pre-emption, leaves no record (DEDUCED, log 61). -/
def State.TrapInv (s : State) : Prop :=
  ∀ b ∈ s.blocks, ∀ w ∈ b.warps ++ (b.handler.map Activation.warp).toList, ∀ t, w.trap = some t → 1 ≤ t.cause ∧ t.cause ≤ 9

/-- The queues with a pending bit are listed in ascending order, each once (13_progress.md:R262, R264). -/
def State.QueueInv (s : State) : Prop := s.front.pending.Pairwise (· < ·)

/-- The warp that a reference names on the module. -/
def State.warpAt (s : State) (r : Ref) : Option Warp := (s.block? r.lsq r.tkt).bind (fun b => b.refWarp? r)

/-! ## Issuing and completing -/

/-- The issuing path with the lanes whose guard is true (03_encoding.md:R73). -/
def State.issuer (s : State) (w : W) : Option Iss :=
  s.issuing.map (fun i => { i with act := maskBy i.path.mask (fun l => i.warp.guard w.g l) })

/-- A W-form word issues and acts on at least one lane: it passes the checks of 02_state.md:R56, no older word of its warp
may still trap (03_encoding.md:R83, R86), and the guard of some lane is true. -/
def Issues (op : Op) (w : W) (s : State) (i : Iss) : Prop :=
  s.issuer w = some i ∧ i.precheck op w = none ∧ i.held = false ∧ i.act ≠ 0

/-- The state `u` once the word of `i` is complete: its path goes on after the word, and no path is issuing
(03_encoding.md:R65). -/
def State.wordDone (u : State) (i : Iss) : State :=
  { u.updRef i.r (fun w => w.advance i.r.lane) with cur := none }

/-- An instruction completes: the next state is `u` with the path of `i` gone on after the word. -/
def Completes (ins : Instr) (s : State) (i : Iss) (u : State) : Prop := exec ins s = .next (u.wordDone i)

/-! ## Destinations -/

/-- The tags after a write of `n` words that is not a VF write: every window it touches loses its head tag (02_state.md:R54). -/
def tagsAfter (a : Warp) (n : Nat) (o : Opnd) (ls : List Nat) : Cells 3 :=
  match o with
  | .v k => if ls = [] then a.tags else clearTags a.tags k n
  | _ => a.tags

/-- WHAT A WRITE OF `n` WORDS TO A DESTINATION DOES AND LEAVES, from warp `a` to warp `b` (02_state.md:R29, R54): every
active lane of a `v` destination reads its value, an `s` destination reads the value of the lowest active lane, and every
other register of every lane reads as before. -/
structure RegWrite (n : Nat) (o : Opnd) (ls : List Nat) (val : Nat → Nat) (a b : Warp) : Prop where
  v_lanes : ∀ k, o = .v k → ∀ l ∈ ls, b.reg n o l = val l % 2 ^ (32 * n)
  v_rest : ∀ j, (∀ k, o = .v k → j % 32 ∉ ls ∨ j / 32 < k.val ∨ k.val + n ≤ j / 32) → cget b.v j = cget a.v j
  s_value : ∀ k, o = .s k → ∀ l0 ∈ ls.head?, b.reg n o l0 = val l0 % 2 ^ (32 * n)
  s_rest : ∀ j, (∀ k, o = .s k → j < k.val ∨ k.val + n ≤ j) → cget b.s j = cget a.s j
  tags : b.tags = tagsAfter a n o ls

/-- The flags `fl` are raised in the active lanes, and no other flag of any lane changes (02_state.md:R40). -/
def FlagRaise (ls : List Nat) (fl : Nat → Flags) (a b : Warp) : Prop :=
  b.fenv.length = a.fenv.length ∧
    ∀ l, l < a.fenv.length → nth b.fenv l 0 = if l ∈ ls then nth a.fenv l 0 ||| fl l else nth a.fenv l 0

/-- A predicate destination takes a truth value in each active lane and keeps the others; every other predicate register
is unchanged. -/
def PredWrite (o : Opnd) (ls : List Nat) (val : Nat → Bool) (a b : Warp) : Prop :=
  (∀ k l, o = .p k → l < 32 → (cget b.p k).getLsbD l = if l ∈ ls then val l else (cget a.p k).getLsbD l) ∧
    ∀ j : Nat, (∀ k, o = .p k → j ≠ k.val) → cget b.p j = cget a.p j

/-- Nothing of a warp changes but `v` and `s` registers, VF tags, predicates and `FENV`. -/
def OnlyRegs (a b : Warp) : Prop :=
  b = { a with v := b.v, s := b.s, tags := b.tags, p := b.p, fenv := b.fenv }

/-- A word completes by changing only its own warp, by `f`. -/
def CompletesLocally (ins : Instr) (s : State) (i : Iss) (f : Warp → Warp) : Prop :=
  Completes ins s i (s.updRef i.r f)

/-- A WORD WITH A REGISTER DESTINATION completes: D of `n` words takes its value in every active lane, the flags are
raised, and nothing else changes but the path's place. -/
def LaneWord (ins : Instr) (s : State) (i : Iss) (n : Nat) (d : Opnd) (val : Nat → Nat) (fl : Nat → Flags) : Prop :=
  ∃ f, CompletesLocally ins s i f ∧ RegWrite n d i.lanes val i.warp (f i.warp) ∧
    FlagRaise i.lanes fl i.warp (f i.warp) ∧ (f i.warp).p = i.warp.p ∧ OnlyRegs i.warp (f i.warp)

/-- A WORD WITH A PREDICATE DESTINATION completes: D takes its truth value in every active lane, the flags are raised, and
nothing else changes but the path's place. -/
def PredWord (ins : Instr) (s : State) (i : Iss) (d : Opnd) (val : Nat → Bool) (fl : Nat → Flags) : Prop :=
  ∃ f, CompletesLocally ins s i f ∧ PredWrite d i.lanes val i.warp (f i.warp) ∧ FlagRaise i.lanes fl i.warp (f i.warp) ∧
    (f i.warp).v = i.warp.v ∧ (f i.warp).s = i.warp.s ∧ (f i.warp).tags = i.warp.tags ∧ OnlyRegs i.warp (f i.warp)

end Sys2Proof.Machine
end

