-- ==== Sys2Proof/Certificates/Slice0/Obligations.lean ====
section
/-! DEFINITION. The statements for the provers. Each is a property of the model that formalises rules of spec/; its
docstring names them. -/

namespace Sys2Proof.Machine

/-! ## Values of the integer instructions, as 04_isa_core.md:R102 gives them -/

/-- An exact result limited to the range of a type of `wd` bits. -/
def limited (signed : Bool) (wd : Nat) (x : Int) : Int :=
  if signed then max (-(2 ^ (wd - 1))) (min (2 ^ (wd - 1) - 1) x) else max 0 (min (2 ^ wd - 1) x)

/-- What is written of an exact result: limited with SAT, then modulo 2^wd, extended to `n` bits by the type. -/
def written (signed sat : Bool) (wd n : Nat) (x : Int) : Nat :=
  let y := BitVec.ofInt wd (if sat then limited signed wd x else x)
  (if signed then y.signExtend n else y.zeroExtend n).toNat

/-- The flag that an exact result raises: SAT when it was limited. -/
def limitFlag (signed sat : Bool) (wd : Nat) (x : Int) : Flags := if sat && limited signed wd x != x then fSAT else 0

/-- The value written for a word of integer type. -/
def intWritten (w : W) (x : Int) : Nat :=
  written (intSigned w.mod.toNat) w.sat (intWidth w.mod.toNat) 32 x

/-- The flags raised for a word of integer type. -/
def intFlag (w : W) (x : Int) : Flags :=
  unlessNF w.nf (limitFlag (intSigned w.mod.toNat) w.sat (intWidth w.mod.toNat) x)

/-- A word of integer type completes with an exact result limited or wrapped by R102. -/
def IntWord (ins : Instr) (w : W) (s : State) (i : Iss) (x : Nat → Int) : Prop :=
  LaneWord ins s i 1 w.d (fun l => intWritten w (x l)) (fun l => intFlag w (x l))

/-- No lane raises a flag. -/
def noFlags : Nat → Flags := fun _ => 0

end Sys2Proof.Machine

open Sys2Proof Sys2Proof.Machine

/-- 04_isa_core.md:R102, R103: `add`, `sub`, `mul`, `mad`, `min`, `max`, `abs` and `neg` complete with their exact results
limited with SAT or taken modulo 2^w, extended by the type; only D and `FENV.SAT` change. -/
def Sys2Proof.Claims.IntegerResults : Prop :=
  ∀ (s : State) (w : W) (i : Iss),
    let a := fun l => i.int w w.a l
    let b := fun l => i.int w w.b l
    (Issues .add w s i → IntWord (.add w) w s i (fun l => a l + b l)) ∧
    (Issues .sub w s i → IntWord (.sub w) w s i (fun l => a l - b l)) ∧
    (Issues .mul w s i → IntWord (.mul w) w s i (fun l => a l * b l)) ∧
    (Issues .mad w s i → IntWord (.mad w) w s i (fun l => a l * b l + i.int w w.c l)) ∧
    (Issues .min w s i → IntWord (.min w) w s i (fun l => if a l ≤ b l then a l else b l)) ∧
    (Issues .max w s i → IntWord (.max w) w s i (fun l => if a l ≤ b l then b l else a l)) ∧
    (Issues .abs w s i → IntWord (.abs w) w s i (fun l => if a l < 0 then -(a l) else a l)) ∧
    (Issues .neg w s i → IntWord (.neg w) w s i (fun l => -(a l)))

/-- 04_isa_core.md:R103, R107: `mulh` and `mulw` give the high word and the whole of the exact 64-bit product, `lea` the
base and scaled index, `add64` and `sub64` the sum and difference by R102 at w = 64 with a flag that NF does not hold
back, and `shl64` the shifted pair, 0 from 64 on. -/
def Sys2Proof.Claims.WideResults : Prop :=
  ∀ (s : State) (w : W) (i : Iss),
    let a := fun l => i.int w w.a l
    let b := fun l => i.int w w.b l
    let x := fun l => (i.src w 2 w.a l : Int)
    let p := fun l => readInt (w.mod.toNat == 0) 64 (i.src w 2 w.a l)
    let q := fun l => readInt (w.mod.toNat == 0) 64 (i.src w 2 w.b l)
    let ix := fun l => readInt (bits w.mod 3 1 == 1) 32 (i.src w 1 w.b l)
    let n := fun l => i.src w 1 w.b l % 256
    (Issues .mulh w s i → LaneWord (.mulh w) s i 1 w.d (fun l => (BitVec.ofInt 64 (a l * b l)).toNat / 2 ^ 32) noFlags) ∧
    (Issues .mulw w s i → LaneWord (.mulw w) s i 2 w.d (fun l => (BitVec.ofInt 64 (a l * b l)).toNat) noFlags) ∧
    (Issues .lea w s i →
      LaneWord (.lea w) s i 2 w.d (fun l => (BitVec.ofInt 64 (x l + ix l * 2 ^ bits w.mod 0 3)).toNat) noFlags) ∧
    (Issues .add64 w s i → LaneWord (.add64 w) s i 2 w.d
      (fun l => written (w.mod.toNat == 0) w.sat 64 64 (p l + q l))
      (fun l => limitFlag (w.mod.toNat == 0) w.sat 64 (p l + q l))) ∧
    (Issues .sub64 w s i → LaneWord (.sub64 w) s i 2 w.d
      (fun l => written (w.mod.toNat == 0) w.sat 64 64 (p l - q l))
      (fun l => limitFlag (w.mod.toNat == 0) w.sat 64 (p l - q l))) ∧
    (Issues .shl64 w s i → LaneWord (.shl64 w) s i 2 w.d
      (fun l => if 64 ≤ n l then 0 else i.src w 2 w.a l * 2 ^ n l % 2 ^ 64) noFlags)

/-- 04_isa_core.md:R104: `addc` and `subb` write the sum or difference modulo 2^32 to D and the carry or borrow to the
predicate E, which may be absent; no flag changes. They accept `MOD` 0 only and honour neither `SAT` nor `NF`. -/
def Obligations.CarryChain : Prop :=
  ∀ (s : State) (w : W) (i : Iss),
    let a := fun l => (i.src w 1 w.a l : Int)
    let b := fun l => (i.src w 1 w.b l : Int)
    let c := fun l => if i.warp.pred w.c l then (1 : Int) else 0
    (Issues .addc w s i → ∃ f, CompletesLocally (.addc w) s i f ∧
      RegWrite 1 w.d i.lanes (fun l => ((a l + b l + c l) % 2 ^ 32).toNat) i.warp (f i.warp) ∧
      PredWrite w.e i.lanes (fun l => decide (2 ^ 32 ≤ a l + b l + c l)) i.warp (f i.warp) ∧
      (f i.warp).fenv = i.warp.fenv ∧ OnlyRegs i.warp (f i.warp)) ∧
    (Issues .subb w s i → ∃ f, CompletesLocally (.subb w) s i f ∧
      RegWrite 1 w.d i.lanes (fun l => ((a l - b l - c l) % 2 ^ 32).toNat) i.warp (f i.warp) ∧
      PredWrite w.e i.lanes (fun l => decide (a l - b l - c l < 0)) i.warp (f i.warp) ∧
      (f i.warp).fenv = i.warp.fenv ∧ OnlyRegs i.warp (f i.warp)) ∧
    Op.addc.opc = 0x002 ∧ Op.subb.opc = 0x003 ∧
    ∀ op, op = .addc ∨ op = .subb → w.subCause op = 0 → w.mod = 0 ∧ w.sat = false ∧ w.nf = false ∧
      ((∃ k, w.d = .v k) ∨ ∃ k, w.d = .s k) ∧ ((∃ k, w.e = .p k) ∨ w.e = .none) ∧
      ((∃ k, w.c = .p k) ∨ w.c = .sel .true_ ∨ w.c = .sel .zero) ∧
      ∀ o ∈ [w.a, w.b], (∃ k, o = .v k) ∨ (∃ k, o = .s k) ∨ ∃ c, o = .sel c

/-- 04_isa_core.md:R105: `idiv` rounds its quotient toward zero and `irem` takes the sign of the dividend; a zero divisor
gives the table's results and raises DZ. -/
def Sys2Proof.Claims.DivisionResults : Prop :=
  ∀ (s : State) (w : W) (i : Iss),
    let sg := intSigned w.mod.toNat
    let wd := intWidth w.mod.toNat
    let a := fun l => i.int w w.a l
    let b := fun l => i.int w w.b l
    (Issues .idiv w s i → LaneWord (.idiv w) s i 1 w.d
      (fun l => if b l = 0 then
          (if sg then (if a l < 0 then written sg false wd 32 (-(2 ^ (wd - 1))) else 2 ^ (wd - 1) - 1) else 2 ^ wd - 1)
        else intWritten w (Int.tdiv (a l) (b l)))
      (fun l => if b l = 0 then unlessNF w.nf fDZ else intFlag w (Int.tdiv (a l) (b l)))) ∧
    (Issues .irem w s i → LaneWord (.irem w) s i 1 w.d
      (fun l => written sg false wd 32 (if b l = 0 then a l else Int.tmod (a l) (b l)))
      (fun l => if b l = 0 then unlessNF w.nf fDZ else 0))

/-- 04_isa_core.md:R106: `cmp` writes whether its condition holds of A and B as values of the type, and changes nothing
else. -/
def Sys2Proof.Claims.CompareResults : Prop :=
  ∀ (s : State) (w : W) (i : Iss), Issues .cmp w s i →
    let n := if bits w.mod 0 2 < 2 then 1 else 2
    let a := fun l => readInt (bits w.mod 0 2 % 2 == 0) (32 * n) (i.src w n w.a l)
    let b := fun l => readInt (bits w.mod 0 2 % 2 == 0) (32 * n) (i.src w n w.b l)
    let c := bits w.mod 2 3
    PredWord (.cmp w) s i w.d (fun l =>
      if c = 0 then decide (a l = b l) else if c = 1 then decide (a l ≠ b l) else if c = 2 then decide (a l < b l)
      else if c = 3 then decide (a l ≤ b l) else if c = 4 then decide (b l < a l) else decide (b l ≤ a l)) noFlags

/-- 04_isa_core.md:R108: the logic instructions act bit by bit on 1, 2 or 4 words, and `not` on its one source. -/
def Sys2Proof.Claims.LogicResults : Prop :=
  ∀ (s : State) (w : W) (i : Iss),
    let n := bWords w.mod.toNat
    let a := fun l => BitVec.ofNat 128 (i.src w n w.a l)
    let b := fun l => BitVec.ofNat 128 (i.src w n w.b l)
    (Issues .and w s i → LaneWord (.and w) s i n w.d (fun l => (a l &&& b l).toNat) noFlags) ∧
    (Issues .or w s i → LaneWord (.or w) s i n w.d (fun l => (a l ||| b l).toNat) noFlags) ∧
    (Issues .xor w s i → LaneWord (.xor w) s i n w.d (fun l => (a l ^^^ b l).toNat) noFlags) ∧
    (Issues .andn w s i → LaneWord (.andn w) s i n w.d (fun l => (a l &&& ~~~(b l)).toNat) noFlags) ∧
    (Issues .orn w s i → LaneWord (.orn w) s i n w.d (fun l => (a l ||| ~~~(b l)).toNat) noFlags) ∧
    (Issues .not w s i → LaneWord (.not w) s i n w.d (fun l => (~~~(a l)).toNat) noFlags)

/-- 04_isa_core.md:R108: the shifts act on 32 bits by n = b[7:0], arithmetically as the table says, and the rotates by
n mod 32. -/
def Sys2Proof.Claims.ShiftResults : Prop :=
  ∀ (s : State) (w : W) (i : Iss),
    let x := fun l => i.src w 1 w.a l % 2 ^ 32
    let a := fun l => BitVec.ofNat 32 (i.src w 1 w.a l)
    let n := fun l => i.src w 1 w.b l % 256
    (Issues .shl w s i → LaneWord (.shl w) s i 1 w.d (fun l => x l * 2 ^ n l % 2 ^ 32) noFlags) ∧
    (Issues .shr w s i → LaneWord (.shr w) s i 1 w.d (fun l => x l / 2 ^ n l) noFlags) ∧
    (Issues .sar w s i →
      LaneWord (.sar w) s i 1 w.d (fun l => (BitVec.ofInt 32 ((a l).toInt / 2 ^ n l)).toNat) noFlags) ∧
    (Issues .rol w s i → LaneWord (.rol w) s i 1 w.d
      (fun l => (x l * 2 ^ (n l % 32) + x l / 2 ^ (32 - n l % 32)) % 2 ^ 32) noFlags) ∧
    (Issues .ror w s i → LaneWord (.ror w) s i 1 w.d
      (fun l => (x l / 2 ^ (n l % 32) + x l * 2 ^ (32 - n l % 32)) % 2 ^ 32) noFlags)

/-- 04_isa_core.md:R110: `bfx` gives the `len` bits of A from position `pos`, A read as extended without limit by the type,
extended from bit len − 1 by the type, and 0 for len = 0; `bfi` gives A with the bits from `pos` on replaced by those of B. The
position and the length are bytes, of the field or of two operands, and a length above 32 is 32. -/
def Sys2Proof.Claims.BitFieldResults : Prop :=
  ∀ (s : State) (w : W) (i : Iss),
    let field := w.mod.getLsbD 1
    let sg := !w.mod.getLsbD 0
    let a := fun l j => (i.src w 1 w.a l).testBit (if j < 32 then j else 31) && (decide (j < 32) || sg)
    let posX := fun l => if field then bits w.imm 0 8 else i.src w 1 w.b l % 256
    let lenX := fun l => min (if field then bits w.imm 8 8 else i.src w 1 w.c l % 256) 32
    let posI := fun l => if field then bits w.imm 0 8 else i.src w 1 w.c l % 256
    let lenI := fun l => min (if field then bits w.imm 8 8 else i.src w 1 w.e l % 256) 32
    (Issues .bfx w s i → ∃ val, LaneWord (.bfx w) s i 1 w.d val noFlags ∧ ∀ l j, j < 32 →
      ((val l).testBit j = if lenX l = 0 then false else if j < lenX l then a l (posX l + j)
        else sg && a l (posX l + lenX l - 1))) ∧
    (Issues .bfi w s i → ∃ val, LaneWord (.bfi w) s i 1 w.d val noFlags ∧ ∀ l j, j < 32 →
      ((val l).testBit j = if posI l ≤ j ∧ j < posI l + lenI l then (i.src w 1 w.b l).testBit (j - posI l)
        else (i.src w 1 w.a l).testBit j))

/-- 04_isa_core.md:R111: `bfr` reverses the bits of a word or pair, `popc` counts its 1 bits, `clz` and `ctz` count its leading
and trailing zeros, and both give the width for zero. -/
def Sys2Proof.Claims.BitCounts : Prop :=
  ∀ (s : State) (w : W) (i : Iss),
    let n := 32 * (w.mod.toNat + 1)
    let a := fun l => i.src w (w.mod.toNat + 1) w.a l % 2 ^ n
    (Issues .bfr w s i → ∃ val, LaneWord (.bfr w) s i (w.mod.toNat + 1) w.d val noFlags ∧
      ∀ l j, j < n → (val l).testBit j = (a l).testBit (n - 1 - j)) ∧
    (Issues .popc w s i → LaneWord (.popc w) s i 1 w.d (fun l => (List.range n).countP (fun j => (a l).testBit j)) noFlags) ∧
    (Issues .clz w s i →
      LaneWord (.clz w) s i 1 w.d (fun l => if a l = 0 then n else n - 1 - Nat.log2 (a l)) noFlags) ∧
    (Issues .ctz w s i → ∃ val, LaneWord (.ctz w) s i 1 w.d val noFlags ∧
      ∀ l, val l ≤ n ∧ (∀ j, j < val l → (a l).testBit j = false) ∧ (val l < n → (a l).testBit (val l) = true))

/-- 04_isa_core.md:R109: without a reserved selector in an active lane, `perm` builds D from four of the eight bytes of its
sources, or from their sign bits or zeros; with one it raises the illegal-operand trap and has no other effect. -/
def Sys2Proof.Claims.BytePermutation : Prop :=
  ∀ (s : State) (w : W) (i : Iss), Issues .perm w s i →
    let sel := fun l k => (if w.mod = 0 then w.imm.toNat else i.src w 1 w.c l) / 2 ^ (5 * k) % 32
    let byte := fun l j => (if j < 4 then i.src w 1 w.a l % 2 ^ 32 / 2 ^ (8 * j) else i.src w 1 w.b l / 2 ^ (8 * (j - 4))) % 256
    let reserved := fun l => ∃ k, k < 4 ∧ sel l k / 8 = 3
    ((∀ l ∈ i.lanes, ¬ reserved l) → ∃ val, LaneWord (.perm w) s i 1 w.d val noFlags ∧
      ∀ l ∈ i.lanes, ∀ k, k < 4 → val l / 2 ^ (8 * k) % 256 =
        if sel l k / 8 = 0 then byte l (sel l k % 8)
        else if sel l k / 8 = 1 then (if 128 ≤ byte l (sel l k % 8) then 255 else 0) else 0) ∧
    ((∃ l ∈ i.lanes, reserved l) → ∃ m, m ≠ 0 ∧ (∀ l, m.getLsbD l = true ↔ l ∈ i.lanes ∧ reserved l) ∧
      exec (.perm w) s = .next { s.takeTrap i.r { cause := 3, mask := m } with cur := none })

/-- 04_isa_core.md:R112: `mov` copies 1, 2 or 4 words or a predicate, `ldi` writes its field or the field sign-extended to a
pair, `ldih` writes the odd register of a pair and leaves the even one, and `sel` chooses by its predicate. -/
def Sys2Proof.Claims.Moves : Prop :=
  ∀ (s : State) (w : W) (i : Iss),
    let n := w.mod.toNat + 1
    (Issues .mov w s i → w.mod ≠ 3 →
      LaneWord (.mov w) s i (bWords w.mod.toNat) w.d (fun l => i.src w (bWords w.mod.toNat) w.a l) noFlags) ∧
    (Issues .mov w s i → w.mod = 3 → PredWord (.mov w) s i w.d (fun l => i.warp.pred w.a l) noFlags) ∧
    (Issues .ldi w s i →
      LaneWord (.ldi w) s i n w.d (fun _ => if w.mod = 0 then w.imm.toNat else (w.imm.signExtend 64).toNat) noFlags) ∧
    (Issues .ldih w s i → LaneWord (.ldih w) s i 1 (oddReg w.d) (fun _ => w.imm.toNat) noFlags) ∧
    (Issues .sel w s i → LaneWord (.sel w) s i n w.d
      (fun l => if i.warp.pred w.c l then i.src w n w.a l else i.src w n w.b l) noFlags)

/-- 04_isa_core.md:R113: the predicate instructions write the conjunction, disjunction, difference or negation of their
sources in the active lanes; every other lane keeps its truth value. -/
def Obligations.PredicateLogic : Prop :=
  ∀ (s : State) (w : W) (i : Iss),
    let a := fun l => i.warp.pred w.a l
    let b := fun l => i.warp.pred w.b l
    (Issues .pand w s i → PredWord (.pand w) s i w.d (fun l => a l && b l) noFlags) ∧
    (Issues .por w s i → PredWord (.por w) s i w.d (fun l => a l || b l) noFlags) ∧
    (Issues .pxor w s i → PredWord (.pxor w) s i w.d (fun l => a l ^^ b l) noFlags) ∧
    (Issues .pnot w s i → PredWord (.pnot w) s i w.d (fun l => !a l) noFlags) ∧
    Op.pand.opc = 0x084 ∧ Op.por.opc = 0x085 ∧ Op.pxor.opc = 0x086 ∧ Op.pnot.opc = 0x087 ∧
    ∀ op, op = .pand ∨ op = .por ∨ op = .pxor ∨ op = .pnot → w.subCause op = 0 →
      let source := fun o : Opnd => (∃ k, o = .p k) ∨ o = .sel .true_ ∨ o = .sel .zero
      w.mod = 0 ∧ (∃ k, w.d = .p k) ∧ source w.a ∧ (op ≠ .pnot → source w.b)

namespace Sys2Proof.Machine

/-- A float atomic that a deterministic grid holds back may still raise a flag in some lanes of a warp (02_state.md:R40). -/
def FlagsDue (i : Iss) (sel wrp : Nat) (ls : List Nat) : Prop :=
  sel = 14 ∧ ∃ a ∈ i.grid.detAtoms, a.tkt = i.blk.tkt ∧ a.wrp = wrp ∧ a.lane ∈ ls ∧ a.nf = false

end Sys2Proof.Machine

/-- 02_state.md:R36, R38; 04_isa_core.md:R114: `rds` writes the register's value to D in the active lanes; reading `TIMEL`, or the
low half of a completion time, copies the whole value into the warp's latch for it, and nothing else changes. A read of the
trapped warp takes its lowest trapped lane, fills that warp's latches, and leaves the handler's alone. A read of `FENV` waits for a
deferred float atomic of the lanes that may still raise a flag (02_state.md:R40). -/
def Sys2Proof.Claims.SpecialReads : Prop :=
  ∀ (s : State) (w : W) (i : Iss), Issues .rds w s i →
    let sel := w.imm.toNat
    let due := FlagsDue i sel
    (w.mod = 0 → due i.r.wrp i.lanes → exec (.rds w) s = .next { s with cur := none }) ∧
    (w.mod = 0 → ¬ due i.r.wrp i.lanes → ∃ f, CompletesLocally (.rds w) s i f ∧
      RegWrite 1 w.d i.lanes (fun l => srRead s i.blk i.grid i.warp sel l) i.warp (f i.warp) ∧
      (f i.warp).latchT = (if sel = 16 then s.time else i.warp.latchT) ∧
      (f i.warp).latchC = (if sel = 20 then i.warp.wctc else i.warp.latchC) ∧
      (f i.warp).latchP = (if sel = 22 then i.warp.wctp else i.warp.latchP) ∧
      (f i.warp).latchS = (if sel = 24 then i.warp.wcts else i.warp.latchS) ∧
      f i.warp = { i.warp with
        v := (f i.warp).v, s := (f i.warp).s, tags := (f i.warp).tags, latchT := (f i.warp).latchT
        latchC := (f i.warp).latchC, latchP := (f i.warp).latchP, latchS := (f i.warp).latchS }) ∧
    (∀ t rec_, w.mod ≠ 0 → i.trapped = some t → t.trap = some rec_ → ¬ due t.idx [lowLane rec_.mask] → ∃ f,
      Completes (.rds w) s i ((s.updWarp i.r.lsq i.r.tkt t.idx (srLatch s sel)).updRef i.r f) ∧
      RegWrite 1 w.d i.lanes (fun _ => srRead s i.blk i.grid t sel (lowLane rec_.mask)) i.warp (f i.warp) ∧
      OnlyRegs i.warp (f i.warp) ∧ (f i.warp).fenv = i.warp.fenv ∧ (f i.warp).p = i.warp.p)

/-- 02_state.md:R38: the low half of a latched register followed by its high half is the whole value that the register had when
its low half was read, whatever the time and the registers have become since; `CKPT` is read directly. -/
def Sys2Proof.Claims.LatchedHalves : Prop :=
  ∀ (s u : State) (b c : Block) (g h : Grid) (w x : Warp) (lane lane' : Nat),
    let both := fun (n : Nat) => srRead s b g w n lane + srRead u c h x (n + 1) lane' * 2 ^ 32
    (x.latchT = (srLatch s 16 w).latchT → both 16 = s.time.toNat) ∧
    (x.latchC = (srLatch s 20 w).latchC → both 20 = w.wctc.toNat) ∧
    (x.latchP = (srLatch s 22 w).latchP → both 22 = w.wctp.toNat) ∧
    (x.latchS = (srLatch s 24 w).latchS → both 24 = w.wcts.toNat) ∧
    (srRead s b g w 18 lane + srRead s b g w 19 lane * 2 ^ 32 = (nth w.ckpt lane 0).toNat)

namespace Sys2Proof.Machine

/-- A value that the writable special register `sel` takes (02_state.md:R36, R39, R40, R41). -/
def SrTakes (sel x : Nat) : Prop :=
  if sel = 12 then 1 ≤ x ∧ x ≤ 5
  else if sel = 13 then x < 2 ^ 20 ∧ 8 ≤ x % 256 ∧ x % 256 ≤ 176 ∧ x / 256 % 256 ≤ x % 256 ∧ x / 2 ^ 17 ≤ 4
  else if sel = 14 then x < 2 ^ 7 else sel = 18 ∨ sel = 19

/-- From warp `a` to warp `b` the special register `sel` takes its values in the lanes `ls`, and nothing else changes. -/
def SrWritten (sel : Nat) (ls : List Nat) (x : Nat → Nat) (a b : Warp) : Prop :=
  b = { a with sqd := b.sqd, prec := b.prec, fenv := b.fenv, ckpt := b.ckpt } ∧
  (∀ l ∈ ls, b.sqd = if sel = 12 then x l else a.sqd) ∧
  (∀ l, l < a.prec.length → nth b.prec l 0 = if sel = 13 ∧ l ∈ ls then BitVec.ofNat 20 (x l) else nth a.prec l 0) ∧
  (∀ l, l < a.fenv.length → nth b.fenv l 0 = if sel = 14 ∧ l ∈ ls then BitVec.ofNat 7 (x l) else nth a.fenv l 0) ∧
  (∀ l, l < a.ckpt.length → (nth b.ckpt l 0).toNat % 2 ^ 32 =
    if sel = 18 ∧ l ∈ ls then x l % 2 ^ 32 else (nth a.ckpt l 0).toNat % 2 ^ 32) ∧
  ∀ l, l < a.ckpt.length → (nth b.ckpt l 0).toNat / 2 ^ 32 =
    if sel = 19 ∧ l ∈ ls then x l % 2 ^ 32 else (nth a.ckpt l 0).toNat / 2 ^ 32

end Sys2Proof.Machine

/-- 02_state.md:R36, R38: the value of each special register: the lane, the warp, the block, the core, the grid, the module, and the
registers of the warp, each read as it stands, the high half of a latched one from its latch; a selector of R37 that names none reads
as 0. What `wrs` has written reads back. -/
def Sys2Proof.Claims.SpecialValues : Prop :=
  (∀ (s : State) (b : Block) (g : Grid) (w : Warp) (lane : Nat),
    let r := fun sel => srRead s b g w sel lane
    r 0 = lane ∧ r 1 = w.idx ∧ r 2 = b.tkt % g.rec_.grdw ∧ r 3 = b.tkt / g.rec_.grdw ∧ r 4 = w.core % 12 ∧ r 5 = w.core / 12 ∧
    r 6 = g.rec_.grdw ∧ r 7 = g.rec_.grdh ∧ r 8 = s.modn ∧ r 9 = g.gngi ∧ r 10 = g.rec_.alw ∧ r 11 = g.ftv ∧ r 12 = w.sqd ∧
    r 13 = (nth w.prec lane 0).toNat ∧ r 14 = (nth w.fenv lane 0).toNat ∧
    r 16 = s.time.toNat % 2 ^ 32 ∧ r 17 = w.latchT.toNat / 2 ^ 32 ∧
    r 18 = (nth w.ckpt lane 0).toNat % 2 ^ 32 ∧ r 19 = (nth w.ckpt lane 0).toNat / 2 ^ 32 ∧
    r 20 = w.wctc.toNat % 2 ^ 32 ∧ r 21 = w.latchC.toNat / 2 ^ 32 ∧ r 22 = w.wctp.toNat % 2 ^ 32 ∧ r 23 = w.latchP.toNat / 2 ^ 32 ∧
    r 24 = w.wcts.toNat % 2 ^ 32 ∧ r 25 = w.latchS.toNat / 2 ^ 32 ∧ ∀ sel, sel = 15 ∨ 26 ≤ sel → r sel = 0) ∧
  ∀ (s : State) (b : Block) (g : Grid) (w v : Warp) (sel l : Nat) (ls : List Nat) (x : Nat → Nat), SrWritten sel ls x w v →
    l ∈ ls → l < w.prec.length → l < w.fenv.length → l < w.ckpt.length → SrTakes sel (x l) → x l < 2 ^ 32 →
    srRead s b g v sel l = x l

/-- 02_state.md:R36, R37, R39, R41; 04_isa_core.md:R114: `wrs` writes `PREC`, `FENV` and the halves of `CKPT` lane by lane and
`SQD` for the warp, when every value is one that the register takes; otherwise it raises the illegal-operand trap and the
register keeps its value. With `.tw` it writes its one value into every lane of the trapped warp that has not exited, and the handler
keeps its own. A write of `FENV` waits for a deferred float atomic of the lanes that may still raise a flag (R40). -/
def Sys2Proof.Claims.SpecialWrites : Prop :=
  (∀ (s : State) (w : W) (i : Iss), Issues .wrs w s i → w.mod = 0 →
    let sel := w.imm.toNat
    let x := fun l => i.src w 1 w.a l
    let agree := sel = 12 → ∀ l ∈ i.lanes, ∀ m ∈ i.lanes, x l = x m
    let due := FlagsDue i sel i.r.wrp i.lanes
    ((∀ l ∈ i.lanes, SrTakes sel (x l)) → due → exec (.wrs w) s = .next { s with cur := none }) ∧
    ((∀ l ∈ i.lanes, SrTakes sel (x l)) ∧ agree → ¬ due → ∃ f, CompletesLocally (.wrs w) s i f ∧
      SrWritten sel i.lanes x i.warp (f i.warp)) ∧
    (¬ ((∀ l ∈ i.lanes, SrTakes sel (x l)) ∧ agree) → ∃ m, m ≠ 0 ∧
      exec (.wrs w) s = .next { s.takeTrap i.r { cause := 3, mask := m } with cur := none })) ∧
  ∀ (s : State) (w : W) (i : Iss) (t : Warp), Issues .wrs w s i → w.mod ≠ 0 → i.trapped = some t →
    let sel := w.imm.toNat
    let x := i.uni w 1 w.a
    let due := FlagsDue i sel t.idx (lanesOf t.live)
    (due → exec (.wrs w) s = .next { s with cur := none }) ∧
    (¬ due → SrTakes sel x → ∃ f, Completes (.wrs w) s i (s.updWarp i.r.lsq i.r.tkt t.idx f) ∧
      SrWritten sel (lanesOf t.live) (fun _ => x) t (f t)) ∧
    (¬ due → ¬ SrTakes sel x → exec (.wrs w) s = .next { s.takeTrap i.r { cause := 3, mask := i.act } with cur := none })

namespace Sys2Proof.Machine

/-- A word completes with an exact result rounded once into its type, as 06_isa_float.md:R162 says; `nv` tells whether an
operand is a signaling NaN or the operation invalid, `dz` whether a finite nonzero value is divided by zero. -/
def FloatWord (ins : Instr) (w : W) (s : State) (i : Iss) (x : Nat → Num) (nv dz : Nat → Bool) : Prop :=
  let r := fun l => round (wFmt w) (i.warp.modeOf w.mod l) w.sat (wFtz w) (x l)
  LaneWord ins s i 1 w.d (fun l => (r l).bits) (fun l =>
    unlessNF w.nf ((r l).fl ||| (if nv l then fNV else 0) ||| (if dz l then fDZ else 0)))

/-- A word completes with a value that is written without rounding, raising NV where an operand is a signaling NaN. -/
def ChoiceWord (ins : Instr) (w : W) (s : State) (i : Iss) (x : Nat → Num) (nv : Nat → Bool) : Prop :=
  LaneWord ins s i 1 w.d (fun l => (round (wFmt w) .rne false false (x l)).bits)
    (fun l => unlessNF w.nf (if nv l then fNV else 0))

end Sys2Proof.Machine

/-- 06_isa_float.md:R162: the float instructions complete with the exact result of their operation, rounded once into the type
under the word's mode; an invalid operation or a signaling operand raises NV and a division by zero DZ. `fmin` and `fmax` choose
an operand and do not round; `fneg` and `fabs` invert or clear the sign bit alone and raise no flag. -/
def Sys2Proof.Claims.FloatArithmetic : Prop :=
  ∀ (s : State) (w : W) (i : Iss),
    let a := fun l => i.fnum w w.a l
    let b := fun l => i.fnum w w.b l
    let c := fun l => i.fnum w w.c l
    let md := fun l => i.warp.modeOf w.mod l
    let sig2 := fun l => (a l).isSig || (b l).isSig
    let no : Nat → Bool := fun _ => false
    let e := fun l => max (-100000) (min (readInt true 32 (i.src w 1 w.b l)) 100000)
    let top := (wFmt w).eb + (wFmt w).p - 1
    let x := fun l => i.fbits w (wFmt w) w.a l
    (Issues .fadd w s i → FloatWord (.fadd w) w s i (fun l => (a l).add (md l) (b l))
      (fun l => sig2 l || (a l).addInvalid (b l)) no) ∧
    (Issues .fsub w s i → FloatWord (.fsub w) w s i (fun l => (a l).add (md l) (b l).negate)
      (fun l => sig2 l || (a l).addInvalid (b l).negate) no) ∧
    (Issues .fmul w s i → FloatWord (.fmul w) w s i (fun l => (a l).mul (b l))
      (fun l => sig2 l || (a l).mulInvalid (b l)) no) ∧
    (Issues .fma w s i → FloatWord (.fma w) w s i
      (fun l => if (a l).mulInvalid (b l) then .nan false else ((a l).mul (b l)).add (md l) (c l))
      (fun l => sig2 l || (c l).isSig || (a l).mulInvalid (b l) || ((a l).mul (b l)).addInvalid (c l)) no) ∧
    (Issues .fdiv w s i → FloatWord (.fdiv w) w s i (fun l => (a l).div (b l))
      (fun l => sig2 l || (a l).divInvalid (b l)) (fun l => (a l).divByZero (b l))) ∧
    (Issues .fsqrt w s i → FloatWord (.fsqrt w) w s i (fun l => (a l).sqrt)
      (fun l => (a l).isSig || (a l).sqrtInvalid) no) ∧
    (Issues .fscl w s i → FloatWord (.fscl w) w s i (fun l => (a l).scale (e l)) (fun l => (a l).isSig) no) ∧
    (Issues .fmin w s i → ChoiceWord (.fmin w) w s i (fun l => (a l).min2 (b l)) sig2) ∧
    (Issues .fmax w s i → ChoiceWord (.fmax w) w s i (fun l => (a l).max2 (b l)) sig2) ∧
    (Issues .fneg w s i → ∃ val, LaneWord (.fneg w) s i 1 w.d val noFlags ∧
      ∀ l j, (val l).testBit j = ((x l).testBit j ^^ decide (j = top))) ∧
    (Issues .fabs w s i → ∃ val, LaneWord (.fabs w) s i 1 w.d val noFlags ∧
      ∀ l j, (val l).testBit j = ((x l).testBit j && decide (j ≠ top)))

/-- 06_isa_float.md:R163, R164, R165: `fcmp` writes whether its condition holds, −0 equal to +0, and raises NV for a signaling
NaN and, under an ordering condition, for any NaN; `fcls` writes whether its mask holds the bit of A's class; `frnd` writes A
rounded to an integral value and raises NX where that differs from A. -/
def Sys2Proof.Claims.FloatTests : Prop :=
  ∀ (s : State) (w : W) (i : Iss),
    let a := fun l => i.fnum w w.a l
    let b := fun l => i.fnum w w.b l
    let un := fun l => (a l).isNan || (b l).isNan
    let sig := fun l => (a l).isSig || (b l).isSig
    let eq := fun l => !un l && !(a l).lt (b l) && !(b l).lt (a l)
    let cond := w.mod.toNat % 8
    let holds := fun l =>
      if cond = 0 then eq l else if cond = 1 then !eq l else if cond = 2 then (a l).lt (b l)
      else if cond = 3 then (a l).lt (b l) || eq l else if cond = 4 then (b l).lt (a l)
      else if cond = 5 then (b l).lt (a l) || eq l else if cond = 6 then un l else !un l
    let cls := fun l =>
      match a l with
      | .nan true => 9
      | .nan false => 8
      | .inf true => 7
      | .fin true m e => if (wFmt w).emin ≤ expOf m e then 6 else 5
      | .zero true => 4
      | .zero false => 3
      | .fin false m e => if (wFmt w).emin ≤ expOf m e then 1 else 2
      | .inf false => 0
    let q := fun l => roundIntegral (i.warp.modeOf w.mod l) (a l)
    (Issues .fcmp w s i → PredWord (.fcmp w) s i w.d holds (fun l => unlessNF w.nf
      (if sig l || (un l && decide (2 ≤ cond ∧ cond ≤ 5)) then fNV else 0))) ∧
    (Issues .fcls w s i → PredWord (.fcls w) s i w.d (fun l => w.imm.getLsbD (cls l)) noFlags) ∧
    (Issues .frnd w s i → LaneWord (.frnd w) s i 1 w.d (fun l => (round (wFmt w) .rne false false (q l).1).bits)
      (fun l => unlessNF w.nf ((if (a l).isSig then fNV else 0) ||| (if (q l).2 then fNX else 0))))

/-- 06_isa_float.md:R166: the transcendental instructions complete with the result that the grid's function-table version defines
for their operand, and raise its flags. -/
def Sys2Proof.Claims.Transcendentals : Prop :=
  ∀ (s : State) (w : W) (i : Iss),
    let word := fun (ins : Instr) (f : TFun) =>
      LaneWord ins s i 1 w.d (fun l => (f.result i.grid.ftv (wFmt w) w.sat (wFtz w) (i.fnum w w.a l)).bits)
        (fun l => unlessNF w.nf (f.result i.grid.ftv (wFmt w) w.sat (wFtz w) (i.fnum w w.a l)).fl)
    (Issues .fex2 w s i → word (.fex2 w) .ex2) ∧ (Issues .flg2 w s i → word (.flg2 w) .lg2) ∧
    (Issues .fsinp w s i → word (.fsinp w) .sinp) ∧ (Issues .fcosp w s i → word (.fcosp w) .cosp) ∧
    (Issues .ftnh w s i → word (.ftnh w) .tnh) ∧ (Issues .frcp w s i → word (.frcp w) .rcp) ∧
    (Issues .frsq w s i → word (.frsq w) .rsq)

/-- 06_isa_float.md:R166: the special results of the transcendental functions, in every version and type: at the zeros, the
infinities, negative operands and NaNs, with the flags they raise. -/
def Sys2Proof.Claims.TranscendentalSpecials : Prop :=
  ∀ (f : Fmt) (ver : Nat) (ftz n sg : Bool) (m : Nat) (e : Int), f ∈ [fmt32, fmt16, fmtBf16] →
    let r := fun (t : TFun) (x : Machine.Num) => t.result ver f false ftz x
    let one := f.bias.toNat * 2 ^ (f.p - 1)
    let minus := 2 ^ (f.eb + f.p - 1)
    let zero := fun neg : Bool => if neg then minus else 0
    let inf := (2 ^ f.eb - 1) * 2 ^ (f.p - 1)
    let nan := inf + 2 ^ (f.p - 2)
    r .ex2 (.zero n) = ⟨one, 0⟩ ∧ r .ex2 (.inf false) = ⟨inf, 0⟩ ∧ r .ex2 (.inf true) = ⟨0, 0⟩ ∧
    r .lg2 (.zero n) = ⟨minus + inf, fDZ⟩ ∧ r .lg2 (.inf false) = ⟨inf, 0⟩ ∧ r .lg2 (.inf true) = ⟨nan, fNV⟩ ∧
    r .lg2 (.fin true m e) = ⟨nan, fNV⟩ ∧ r .lg2 (.fin false 1 0) = ⟨0, 0⟩ ∧
    r .sinp (.zero n) = ⟨zero n, 0⟩ ∧ r .sinp (.inf n) = ⟨nan, fNV⟩ ∧
    r .cosp (.zero n) = ⟨one, 0⟩ ∧ r .cosp (.inf n) = ⟨nan, fNV⟩ ∧
    r .tnh (.zero n) = ⟨zero n, 0⟩ ∧ r .tnh (.inf n) = ⟨zero n + one, 0⟩ ∧
    r .rcp (.zero n) = ⟨zero n + inf, fDZ⟩ ∧ r .rcp (.inf n) = ⟨zero n, 0⟩ ∧
    r .rsq (.zero n) = ⟨zero n + inf, fDZ⟩ ∧ r .rsq (.inf false) = ⟨0, 0⟩ ∧ r .rsq (.inf true) = ⟨nan, fNV⟩ ∧
    r .rsq (.fin true m e) = ⟨nan, fNV⟩ ∧
    ∀ t : TFun, r t (.nan sg) = ⟨nan, if sg then fNV else 0⟩

/-- 05_numbers.md:R153: a value that a format represents rounds to its own bits under every mode and raises no flag. -/
def Sys2Proof.Claims.RoundingIsExact : Prop :=
  ∀ (f : Fmt) (mode : Mode) (sat : Bool) (x : Nat),
    (f ∈ [fmt32, fmt16, fmtBf16, fmt64, fmtE5m2] ∨ ∃ l, 8 ≤ l ∧ l ≤ 176 ∧ f = fmtVf l) →
    x < 2 ^ (f.eb + f.p) → (decodeF f false x).isNan = false →
    round f mode sat false (decodeF f false x) = ⟨x, 0⟩

namespace Sys2Proof.Machine

/-- WHAT A VF WRITE DOES AND LEAVES, from warp `a` to warp `b` (02_state.md:R50, R54): the window of `k` registers at head `h`
holds the bits, most significant word first, in every lane given; the head is tagged k and the windows it overlaps lose their
tags; every other `v` register of every lane reads as before. -/
structure WindowWrite (h k : Nat) (ls : List Nat) (val : Nat → Nat) (a b : Warp) : Prop where
  value : ∀ l ∈ ls, b.vfBits h k l = val l % 2 ^ (32 * k)
  rest : ∀ j, (j % 32 ∉ ls ∨ j / 32 < h ∨ h + k ≤ j / 32) → cget b.v j = cget a.v j
  head : cget b.tags h = BitVec.ofNat 3 k
  tags : ∀ j, j ≠ h → cget b.tags j = cget (clearTags a.tags h k) j

/-- A VF WORD WITH ONE DESTINATION (02_state.md:R53, R54; 06_isa_float.md:R176). It completes when its sources are windows, the
active lanes imply one window length, the head is aligned to it, and no active lane that meets the precision-exhausted
condition has PXEN set: the window takes each lane's result, the lane's flags are raised, with PX where the condition is met, and
nothing else changes. Where one of these fails it raises the illegal-operand or the precision trap. -/
def VfWord (ins : Instr) (w : W) (s : State) (i : Iss) (ok : Bool) (r : Nat → FRes) (px : Nat → Bool) : Prop :=
  let h := w.d.vreg
  let stops := fun l => px l && precPxen (i.warp.precOf l)
  (∀ k, i.warp.oneK i.lanes = some k → ok = true → h % vfAlign k = 0 → (∀ l ∈ i.lanes, stops l = false) →
    ∃ f, CompletesLocally ins s i f ∧
      WindowWrite h k i.lanes (fun l => vfWindow k (precL (i.warp.precOf l)) (r l).bits) i.warp (f i.warp) ∧
      FlagRaise i.lanes (fun l => unlessNF w.nf ((r l).fl ||| (if px l then fPX else 0))) i.warp (f i.warp) ∧
      (f i.warp).s = i.warp.s ∧ (f i.warp).p = i.warp.p ∧ OnlyRegs i.warp (f i.warp)) ∧
  ((i.warp.oneK i.lanes = none ∨ ok = false ∨ ∃ k, i.warp.oneK i.lanes = some k ∧ h % vfAlign k ≠ 0) →
    exec ins s = .next { s.takeTrap i.r { cause := 3, mask := i.act } with cur := none }) ∧
  (∀ k, i.warp.oneK i.lanes = some k → ok = true → h % vfAlign k = 0 → (∃ l ∈ i.lanes, stops l = true) →
    exec ins s = .next { s.takeTrap i.r { cause := 6, mask := maskBy i.act stops } with cur := none })

end Sys2Proof.Machine

/-- 06_isa_float.md:R168, R169, R170: `cvt` converts one value under an optional scale, `cvtn` packs and `cvtw` unpacks elements,
`cbdec` decodes the eight values of a codebook index, and traps where the slot holds no codebook. -/
def Sys2Proof.Claims.Conversions : Prop :=
  ∀ (s : State) (w : W) (i : Iss),
    let md := fun l => i.warp.modeOf w.mod l
    let d := bits w.imm 0 8
    let src := bits w.imm 8 8
    let one := fun l => convert d src (bits w.imm 16 4) (md l) w.sat (readType src (i.src w (regsOfCode src) w.a l))
      (i.src w 1 w.b l)
    let slot := nth i.grid.rec_.fmt w.c.resIx 0
    (Issues .cvt w s i →
      LaneWord (.cvt w) s i (regsOfCode d) w.d (fun l => (one l).bits) (fun l => unlessNF w.nf (one l).fl)) ∧
    (Issues .cvtn w s i →
      LaneWord (.cvtn w) s i 1 w.d (fun l => (cvtnRes w i l).1) (fun l => unlessNF w.nf (cvtnRes w i l).2)) ∧
    (Issues .cvtw w s i →
      LaneWord (.cvtw w) s i (packWords w) w.d (fun l => (cvtwRes w i l).1) (fun l => unlessNF w.nf (cvtwRes w i l).2)) ∧
    (Issues .cbdec w s i → bits slot 0 8 = 7 →
      LaneWord (.cbdec w) s i 4 w.d (fun l => (cbdecRes w i l).1) (fun l => unlessNF w.nf (cbdecRes w i l).2)) ∧
    (Issues .cbdec w s i → bits slot 0 8 ≠ 7 →
      exec (.cbdec w) s = .next { s.takeTrap i.r { cause := 3, mask := i.act } with cur := none })

/-- 06_isa_float.md:R169, R170; 05_numbers.md:R143, R144: `cvtn` packs element i of its wide source in bits w·i and up, w the width
of the narrow type, and with E2M1 in the half that `.hi` chooses, D keeping its other half; `cvtw` reads the same elements; each is
converted as `cvt` converts, and their flags are raised together. `cbdec` gives eight halfwords: the magnitudes of the table's row
that the index names, half added by its bit 15, signed by its bits 8 to 14 and the last by their parity, times the scale, rounded
once. -/
def Sys2Proof.Claims.PackedElements : Prop :=
  ∀ (w : W) (i : Iss) (l : Nat),
    let c := bits w.imm 0 8
    let hi := w.imm.getLsbD 20
    let n := if c = 2 ∨ c = 3 then 2 else 4
    let wd := if c = 2 ∨ c = 3 then 16 else if c = 6 then 4 else 8
    let lo := if hi then 16 else 0
    let conv := fun (to_ from_ x : Nat) =>
      convert to_ from_ (bits w.imm 16 4) (i.warp.modeOf w.mod l) w.sat (readType from_ x) (i.src w 1 w.b l)
    let packs := fun k => conv c 1 (i.src w n w.a l / 2 ^ (32 * k) % 2 ^ 32)
    let unpacks := fun k => conv 1 c (i.src w 1 w.a l / 2 ^ (lo + wd * k) % 2 ^ wd)
    let all := fun (n : Nat) (r : Nat → FRes) (fl : Flags) => (List.range n).foldl (fun f k => f ||| (r k).fl) fl
    let old := i.warp.reg 1 w.d l
    let legal := 2 ≤ c ∧ c ≤ 6 ∧ (c ≠ 6 → hi = false)
    let f := if w.mod = 0 then fmtBf16 else fmt16
    let slot := nth i.grid.rec_.fmt w.c.resIx 0
    let idx := i.src w 1 w.a l
    let scale := i.src w 1 w.b l % 256
    let table := ((i.grid.tables.find? (fun t => t.1 == w.c.resIx)).map Prod.snd).getD []
    let row := (cget table (idx % 256)).toNat
    let twice := fun j => 2 * (row / 2 ^ (4 * j) % 16) + idx / 2 ^ 15 % 2
    let neg := fun j => if j < 7 then idx.testBit (8 + j) else (List.range 7).countP (fun m => idx.testBit (8 + m)) % 2 == 1
    let weight := fun j => Machine.round f .rne (w.sat || slot.getLsbD 16) false
      (if twice j = 0 then Machine.Num.zero false else Machine.Num.fin (neg j) (twice j) ((scale : Int) - 128))
    (legal → (∀ k, k < n → (cvtnRes w i l).1 / 2 ^ (lo + wd * k) % 2 ^ wd = (packs k).bits) ∧ (cvtnRes w i l).1 < 2 ^ 32 ∧
      (c = 6 → if hi then (cvtnRes w i l).1 % 2 ^ 16 = old % 2 ^ 16 else (cvtnRes w i l).1 / 2 ^ 16 = old / 2 ^ 16) ∧
      (cvtnRes w i l).2 = all n packs 0) ∧
    (legal → (∀ k, k < n → (cvtwRes w i l).1 / 2 ^ (32 * k) % 2 ^ 32 = (unpacks k).bits) ∧
      (cvtwRes w i l).2 = all n unpacks 0) ∧
    (scale ≠ 255 → (∀ j, j < 8 → (cbdecRes w i l).1 / 2 ^ (16 * j) % 2 ^ 16 = (weight j).bits) ∧
      (cbdecRes w i l).2 = all 8 weight 0) ∧
    (scale = 255 → (∀ j, j < 8 → (cbdecRes w i l).1 / 2 ^ (16 * j) % 2 ^ 16 = f.nanBits) ∧ (cbdecRes w i l).2 = fNV)

/-- 06_isa_float.md:R171, R175, R176; 05_numbers.md:R150: the VF arithmetic instructions complete with their exact result rounded
once to the lane's L bits; addition, subtraction and multiply-add test the precision they have lost. -/
def Sys2Proof.Claims.VfArithmetic : Prop :=
  ∀ (s : State) (w : W) (i : Iss),
    let a := fun l => i.vf w w.a l
    let b := fun l => i.vf w w.b l
    let c := fun l => i.vf w w.c l
    let md := fun l => i.warp.modeOf w.mod l
    let rnd := fun l x (nv : Bool) (more : Flags) =>
      let r := round (fmtVf (precL (i.warp.precOf l))) (md l) w.sat false x
      (⟨r.bits, r.fl ||| (if nv then fNV else 0) ||| more⟩ : FRes)
    let sig2 := fun l => (a l).isSig || (b l).isSig
    let ab := i.warp.vfTagged w.a && i.warp.vfTagged w.b
    let no : Nat → Bool := fun _ => false
    let lost := fun l xs r => precisionExhausted xs r (precL (i.warp.precOf l)) (precFloor (i.warp.precOf l))
    let sum := fun l => (a l).add (md l) (b l)
    let dif := fun l => (a l).add (md l) (b l).negate
    let acc := fun l => if (a l).mulInvalid (b l) then .nan false else ((a l).mul (b l)).add (md l) (c l)
    let q := fun l => roundIntegral (md l) (a l)
    (Issues .vfadd w s i → VfWord (.vfadd w) w s i ab
      (fun l => rnd l (sum l) (sig2 l || (a l).addInvalid (b l)) 0) (fun l => lost l [a l, b l] (sum l))) ∧
    (Issues .vfsub w s i → VfWord (.vfsub w) w s i ab
      (fun l => rnd l (dif l) (sig2 l || (a l).addInvalid (b l).negate) 0) (fun l => lost l [a l, (b l).negate] (dif l))) ∧
    (Issues .vfmul w s i → VfWord (.vfmul w) w s i ab
      (fun l => rnd l ((a l).mul (b l)) (sig2 l || (a l).mulInvalid (b l)) 0) no) ∧
    (Issues .vfma w s i → VfWord (.vfma w) w s i (ab && i.warp.vfTagged w.c)
      (fun l => rnd l (acc l) (sig2 l || (c l).isSig || (a l).mulInvalid (b l) || ((a l).mul (b l)).addInvalid (c l)) 0)
      (fun l => lost l [(a l).mul (b l), c l] (acc l))) ∧
    (Issues .vfdiv w s i → VfWord (.vfdiv w) w s i ab
      (fun l => rnd l ((a l).div (b l)) (sig2 l || (a l).divInvalid (b l)) (if (a l).divByZero (b l) then fDZ else 0)) no) ∧
    (Issues .vfsqrt w s i → VfWord (.vfsqrt w) w s i (i.warp.vfTagged w.a)
      (fun l => rnd l (a l).sqrt ((a l).isSig || (a l).sqrtInvalid) 0) no) ∧
    (Issues .vfmin w s i → VfWord (.vfmin w) w s i ab (fun l => rnd l ((a l).min2 (b l)) (sig2 l) 0) no) ∧
    (Issues .vfmax w s i → VfWord (.vfmax w) w s i ab (fun l => rnd l ((a l).max2 (b l)) (sig2 l) 0) no) ∧
    (Issues .vfrnd w s i → VfWord (.vfrnd w) w s i (i.warp.vfTagged w.a)
      (fun l => rnd l (q l).1 (a l).isSig (if (q l).2 then fNX else 0)) no) ∧
    (Issues .vfext w s i → bits w.mod 3 2 ≠ 0 → VfWord (.vfext w) w s i (i.warp.vfTagged w.a)
      (fun l => rnd l ((a l).scale (max (-100000) (min (readInt true 32 (i.src w 1 w.b l)) 100000))) (a l).isSig 0) no)

/-- 06_isa_float.md:R172 to R175: `vfcmp` compares as `fcmp` does; `vfneg`, `vfabs` and `vfmov` copy a window at its own length
with its sign bit inverted, cleared or kept, and raise no flag; `vfcvt` converts into or out of a window; `vfext.exp` extracts an
exponent. A source that is no window raises the illegal-operand trap. -/
def Sys2Proof.Claims.VfMoves : Prop :=
  ∀ (s : State) (w : W) (i : Iss),
    let k := i.warp.tag w.a.vreg
    let x := fun l => i.warp.vfBits w.a.vreg k l
    let illegal := fun ins => exec ins s = .next { s.takeTrap i.r { cause := 3, mask := i.act } with cur := none }
    let copy := fun (ins : Instr) (bit : Nat → Bool → Bool) =>
      (i.warp.vfTagged w.a = true → w.d.vreg % vfAlign k = 0 → ∃ f val, CompletesLocally ins s i f ∧
        WindowWrite w.d.vreg k i.lanes val i.warp (f i.warp) ∧
        (∀ l j, j < 32 * k → (val l).testBit j = bit j ((x l).testBit j)) ∧
        (f i.warp).s = i.warp.s ∧ (f i.warp).p = i.warp.p ∧ (f i.warp).fenv = i.warp.fenv ∧ OnlyRegs i.warp (f i.warp)) ∧
      (¬ (i.warp.vfTagged w.a = true ∧ w.d.vreg % vfAlign k = 0) → illegal ins)
    let ab := i.warp.vfTagged w.a && i.warp.vfTagged w.b
    let c := bits w.imm 0 8
    let out := fun l => writeType c (i.warp.modeOf w.mod l) w.sat (i.vf w w.a l)
    let read := fun l => readType c (i.warp.src w.imm (regsOfCode c) (match codeFmt c with | some f => f.oneBits | none => 1) w.a l)
    let into := fun l =>
      let r := round (fmtVf (precL (i.warp.precOf l))) (i.warp.modeOf w.mod l) w.sat false (read l)
      (⟨r.bits, r.fl ||| (if (read l).isSig then fNV else 0)⟩ : FRes)
    (Issues .vfneg w s i → copy (.vfneg w) (fun j y => if j = 32 * k - 1 then !y else y)) ∧
    (Issues .vfabs w s i → copy (.vfabs w) (fun j y => if j = 32 * k - 1 then false else y)) ∧
    (Issues .vfmov w s i → copy (.vfmov w) (fun _ y => y)) ∧
    (Issues .vfcmp w s i → ab = true → PredWord (.vfcmp w) s i w.d
      (fun l => (fcond (bits w.mod 0 3) (i.vf w w.a l) (i.vf w w.b l)).1)
      (fun l => unlessNF w.nf (fcond (bits w.mod 0 3) (i.vf w w.a l) (i.vf w w.b l)).2)) ∧
    (Issues .vfcmp w s i → ab = false → illegal (.vfcmp w)) ∧
    (Issues .vfcvt w s i → bits w.mod 3 1 = 0 → VfWord (.vfcvt w) w s i true into (fun _ => false)) ∧
    (Issues .vfcvt w s i → bits w.mod 3 1 ≠ 0 → i.warp.vfTagged w.a = true →
      LaneWord (.vfcvt w) s i (regsOfCode c) w.d (fun l => (out l).bits) (fun l => unlessNF w.nf (out l).fl)) ∧
    (Issues .vfcvt w s i → bits w.mod 3 1 ≠ 0 → i.warp.vfTagged w.a = false → illegal (.vfcvt w)) ∧
    (Issues .vfext w s i → bits w.mod 3 2 = 0 → i.warp.vfTagged w.a = true → LaneWord (.vfext w) s i 1 w.d
      (fun l => match i.vf w w.a l with
        | .zero _ => 0x80000000
        | .fin _ m e => (BitVec.ofInt 32 (expOf m e)).toNat
        | _ => 0x7FFFFFFF) noFlags) ∧
    (Issues .vfext w s i → bits w.mod 3 2 = 0 → i.warp.vfTagged w.a = false → illegal (.vfext w))

/-- 06_isa_float.md:R177, R178, R179: a transform of type `.f32` completes with each component of its result the exact sum of its
terms rounded once, in a register of its own; `.vf` writes one window for each component, when its sources are windows and its
destinations aligned and apart; `twid` traps for m above 20. -/
def Obligations.Transforms : Prop :=
  ∀ (s : State) (w : W) (i : Iss),
    let md := fun l => i.warp.modeOf w.mod l
    let fx := fun l (c : Comp) => (round fmt32 (md l) w.sat false (c.sum (md l)).1).nv (c.sum (md l)).2
    let f32 := fun (ins : Instr) (ds : List Opnd) (r : Nat → List FRes) => CompletesLocally ins s i (fun wp =>
      ((ds.zip (List.range 4)).foldl (fun wp d => wp.put 1 d.1 i.lanes (fun l => (nth (r l) d.2 ⟨0, 0⟩).bits)) wp).raiseFlags
        i.lanes (fun l => unlessNF w.nf ((r l).foldl (fun a x => a ||| x.fl) 0)))
    let vf := fun (ins : Instr) (ok : Bool) (d : VfDst) (r : Nat → VfOut) =>
      ∀ k, i.warp.oneK i.lanes = some k → ok = true → d.ok k = true →
        (∀ l ∈ i.lanes, ((r l).any Prod.snd && precPxen (i.warp.precOf l)) = false) →
        CompletesLocally ins s i (fun wp =>
          (((d.heads k).zip (List.range 4)).foldl (fun wp h => wp.putWindow h.1 k i.lanes (fun l =>
            vfWindow k (precL (i.warp.precOf l)) (nth (r l) h.2 (⟨0, 0⟩, false)).1.bits)) wp).raiseFlags i.lanes (fun l =>
              unlessNF w.nf ((r l).foldl (fun a x => a ||| x.1.fl ||| (if x.2 then fPX else 0)) 0)))
    let is32 := bits w.mod 3 2 = 0
    let small := ∀ l ∈ i.lanes, i.src w 1 w.b l ≤ 20
    (Issues .bfly w s i → is32 → f32 (.bfly w) [w.d, w.e] (fun l => (bflyComps (i.f32 w w.a l) (i.f32 w w.b l)).map (fx l))) ∧
    (Issues .cmul w s i → is32 →
      f32 (.cmul w) [w.d, oddReg w.d] (fun l => (cmulComps (i.cx32 w w.a l) (i.cx32 w w.b l)).map (fx l))) ∧
    (Issues .cbfly w s i → is32 → f32 (.cbfly w) [w.d, oddReg w.d, w.e, oddReg w.e]
      (fun l => (cbflyComps (i.cx32 w w.a l) (i.cx32 w w.b l) (i.cx32 w w.c l)).map (fx l))) ∧
    (Issues .twid w s i → is32 → small → f32 (.twid w) [w.d, oddReg w.d] (fun l =>
      let t := twidNum (i.src w 1 w.a l) (i.src w 1 w.b l)
      [round fmt32 (md l) false false t.1, round fmt32 (md l) false false t.2])) ∧
    (Issues .bfly w s i → ¬ is32 → vf (.bfly w) (tagged [w.a, w.b] i) (vfDst2 w.d w.e)
      (fun l => (bflyComps (i.vf w w.a l) (i.vf w w.b l)).map (compVf w i l))) ∧
    (Issues .cmul w s i → ¬ is32 → vf (.cmul w) ([w.a, w.b].all (cxTagged i)) (cxDst1 w.d)
      (fun l => (cmulComps (i.cxVf w.a l) (i.cxVf w.b l)).map (compVf w i l))) ∧
    (Issues .cbfly w s i → ¬ is32 → vf (.cbfly w) ([w.a, w.b, w.c].all (cxTagged i)) (cxDst2 w.d w.e)
      (fun l => (cbflyComps (i.cxVf w.a l) (i.cxVf w.b l) (i.cxVf w.c l)).map (compVf w i l))) ∧
    (Issues .twid w s i → ¬ is32 → small → vf (.twid w) true (cxDst1 w.d) (fun l =>
      let t := twidNum (i.src w 1 w.a l) (i.src w 1 w.b l)
      [twidVf w i l t.1, twidVf w i l t.2])) ∧
    (Issues .twid w s i → ¬ small → exec (.twid w) s =
      .next { s.takeTrap i.r { cause := 3, mask := maskBy i.act (fun l => decide (20 < i.src w 1 w.b l)) } with cur := none })

namespace Sys2Proof.Machine

/-- An instruction takes a trap on the path of `i`: the next state is the one that `State.takeTrap` gives, with no path
issuing. -/
def Traps (ins : Instr) (s : State) (i : Iss) (t : TrapV) : Prop :=
  exec ins s = .next { s.takeTrap i.r t with cur := none }

/-- The path of `i` leaves its word by itself: its warp changes by `f`. -/
def StepsBy (ins : Instr) (s : State) (i : Iss) (f : Warp → Warp) : Prop :=
  exec ins s = .next { s.updRef i.r f with cur := none }

/-- A path holds place `n` in the order of a tile (07_isa_matrix.md:R189). -/
def HoldsPlace (p : Path) (n : Nat) : Prop := ∃ a, (∃ y, p.park = .tile a n y) ∨ p.park = .aput a n

/-- The path of `i` waits at its word with its warp stalled, for a counter or for room (02_state.md:R31; 01_device.md:R12); a word
that has a place in the order of a tile keeps it (07_isa_matrix.md:R189). -/
def Stalls (ins : Instr) (s : State) (i : Iss) (why : Option Nat) : Prop :=
  ((∀ a n y, i.path.park ≠ .tile a n y) → StepsBy ins s i (fun wp => wp.parkAt i.r.lane (.stall why))) ∧
    ∀ a n y, i.path.park = .tile a n y → StepsBy ins s i (fun wp => wp.parkAt i.r.lane (.tile a n (some why)))

/-- The accesses of a word have room: its warp's asynchronous operations put nothing before them, and its core has fewer than 3,072
requests outstanding with them, or none without them (01_device.md:R12; 10_ordering.md:R213, R225). -/
def HasRoom (s : State) (i : Iss) (acc : Acc) (rs : List (Nat × Nat × Nat)) : Prop :=
  i.behind acc rs s = false ∧
    (s.requests i.warp.core = 0 ∨ s.requests i.warp.core + s.pieceCount i.ctx acc rs ≤ 3072)

/-- Nothing comes before the word of `i` in the order of a tile of its core: no issued matrix operation that has not retired, and no
stalled word that took its place earlier (07_isa_matrix.md:R189). -/
def TileFree (i : Iss) (a : Nat) : Prop :=
  let before := fun n : Nat => ∀ k, HoldsPlace i.path k → n < k
  (∀ m ∈ i.blk.mmas, m.core = i.warp.core → m.rec_.w.d.resIx = a → ¬ before m.op) ∧
    ∀ wp ∈ i.blk.warps ++ (i.blk.handler.map Activation.warp).toList, wp.core = i.warp.core → ∀ p ∈ wp.paths, ∀ n,
      ((∃ y, p.park = .tile a n y) ∨ p.park = .aput a n) → ¬ before n

/-- A word takes a place in the order of a tile and waits there, parked by `put`, or stays at the place that it has
(07_isa_matrix.md:R189). -/
def Queues (ins : Instr) (s : State) (i : Iss) (put : Nat → Park) : Prop :=
  ((∀ n, ¬ HoldsPlace i.path n) → exec ins s =
    .next { ({ s with nextId := s.nextId + 1 }.updRef i.r (fun wp => wp.parkAt i.r.lane (put s.nextId))) with cur := none }) ∧
  ∀ n, HoldsPlace i.path n → StepsBy ins s i (fun wp => wp.parkAt i.r.lane (put n))

/-- Some path of a warp holds a lane and stands at word `n` of the clause at `hdr`. -/
def Warp.standsAt (w : Warp) (lane : Nat) (hdr : DWord) (n : Nat) : Prop :=
  ∃ q ∈ w.paths, q.mask.getLsbD lane = true ∧ q.hdr = hdr ∧ q.word = n

/-- A CONTROL TRANSFER (03_encoding.md:R65, R66; 04_isa_core.md:R123): when every active lane's target is an aligned address
of a header, the active lanes stand at their targets and the other lanes of the path at the next clause. When one is not, the
word takes the trap of its first failing target, and nothing moves. -/
def TransferWord (ins : Instr) (s : State) (i : Iss) (target : Nat → DWord) (regs : Warp → Warp → Prop) : Prop :=
  let bad := badTargets s i.ctx i.lanes target
  (bad = [] → ∃ f, StepsBy ins s i f ∧ regs i.warp (f i.warp) ∧
    (∀ l ∈ i.lanes, (f i.warp).standsAt l (target l) 0) ∧
    (∀ l, i.path.mask.getLsbD l = true → l ∉ i.lanes →
      (f i.warp).standsAt l (nextClause i.path.hdr i.path.held) 0) ∧
    f i.warp = { i.warp with
      v := (f i.warp).v, s := (f i.warp).s, tags := (f i.warp).tags, paths := (f i.warp).paths, pass := (f i.warp).pass }) ∧
  (∀ t, firstTrap bad = some t → Traps ins s i t)

/-- Two warps hold the same registers. -/
def SameRegs (a b : Warp) : Prop := b.v = a.v ∧ b.s = a.s ∧ b.p = a.p ∧ b.tags = a.tags ∧ b.fenv = a.fenv

end Sys2Proof.Machine

/-- 04_isa_core.md:R115, R116, R117: `vote`, `shfl`, `red` and `scan` fix the parts of the lanes of their path, park it at the word,
perform every instance that no lane is waited for, and let go the lanes that have arrived there and those whose guard is false. Where
a part disagrees with another the path takes the collective-mismatch trap instead, with the place of the other collective: lanes that
meet at one instance disagree where they have read different widths, or different masks in the squad of either, and a lane that
another waits for disagrees where it reaches another collective that names its waiter. -/
def Sys2Proof.Claims.CollectivesIssue : Prop :=
  (∀ (s : State) (w : W) (i : Iss) (op : Op), op ∈ [Op.vote, .shfl, .red, .scan] → Issues op w s i →
    let ps := newParts op w i
    let clash := fun n o : CollPart => n ∈ ps ∧ o ∈ i.warp.colls ++ ps ∧ partsClash i.warp n o = true
    ((∀ n o, ¬ clash n o) → StepsBy (Instr.ofOp op w) s i (fun wp =>
      (({ wp with colls := wp.colls ++ ps }.parkAt i.r.lane .coll).collect (i.path.mask &&& ~~~i.act)).yielded i.path)) ∧
    ((∃ n o, clash n o) → ∃ m n o, clash n o ∧ (∀ l, l < 32 → (m.getLsbD l = true ↔ ∃ x y, clash x y ∧ x.lane = l)) ∧
      Traps (Instr.ofOp op w) s i { cause := 9, mask := m, addr := o.hdr, other := o.word })) ∧
  ∀ (wp : Warp) (n o : CollPart),
    let same := n.hdr = o.hdr ∧ n.word = o.word
    let in_ := fun (c : CollPart) (l : Nat) => c.named.getLsbD l = true
    let squad := fun (c : CollPart) (l : Nat) => (squadOf c.width c.lane).getLsbD l = true
    partsClash wp n o = true ↔ n.arrived = true ∧ o.arrived = true ∧ n.lane ≠ o.lane ∧
      ((same ∧ n.ord = o.ord ∧ (in_ n o.lane ∨ in_ o n.lane) ∧
          (n.width ≠ o.width ∨ ∃ l, l < 32 ∧ (squad n l ∨ squad o l) ∧ ¬ (in_ n l ↔ in_ o l))) ∨
        (¬ same ∧ in_ o n.lane ∧ in_ n o.lane ∧
          ∀ p ∈ wp.colls, ¬ (p.hdr = o.hdr ∧ p.word = o.word ∧ p.ord = o.ord ∧ p.lane = n.lane)))

/-- 04_isa_core.md:R115, R116: the named set of a lane is the lanes of its squad that the member mask names, and an instance waits
for every named lane that is live and has not issued its word; one named lane that is waited for keeps it from being performed,
and none lets it be. A lane's later part waits until its earlier one is over, and the part of a lane whose guard was false stands for
no instance of which an arrived lane names it or is named by it. -/
def Sys2Proof.Claims.CollectivesWait : Prop :=
  ∀ (w : W) (wp : Warp) (c : CollPart) (code lane : Nat), 1 ≤ code → code ≤ 5 → lane < 32 →
    let width := squadWidth code
    let m : Word := match w.e with | .none => 0xFFFFFFFF | o => BitVec.ofNat 32 (wp.src w.imm 1 1 o lane)
    (∀ l, l < 32 → (namedSet w wp width lane).getLsbD l = (decide (l / 2 ^ code = lane / 2 ^ code) && m.getLsbD l)) ∧
    (wp.complete? c = true ↔ c.ord = 0 ∧
      (∀ l, l < 32 → c.named.getLsbD l = true →
        wp.live.getLsbD l = false ∨ ∃ p ∈ wp.colls, p.hdr = c.hdr ∧ p.word = c.word ∧ p.ord = 0 ∧ p.lane = l) ∧
      (c.arrived = true ∨ ∀ p ∈ wp.colls, p.arrived = true → p.hdr = c.hdr → p.word = c.word → p.ord = c.ord →
        p.named.getLsbD c.lane = false ∧ c.named.getLsbD p.lane = false))

/-- 04_isa_core.md:R118, R119: the results of `vote` in every contributing lane: the word of true contributions, the three truths, the
count and the lowest; and that of `shfl` in every lane that has arrived at the instance, each contributing lane among them: the value
of the source lane, or the lane's own where the source contributes nothing. A lane's own value and its source position are those that
it read as it issued. -/
def Sys2Proof.Claims.VotesAndShuffles : Prop :=
  ∀ (wp : Warp) (c : CollPart), c.lane < 32 → c.width ∈ [2, 4, 8, 16, 32] →
    let base := c.lane - c.lane % c.width
    let xs := wp.contributions c
    let from_ := wp.contributors c
    let u := (wp.performColl c).1
    let is := fun k => decide (k < c.width) && nth xs k none == some 1
    let n := if c.w.mod.getLsbD 2 then 2 else 1
    let own := fun l => ((wp.partOf c.hdr c.word c.ord l).getD c).val.toNat
    let b := fun l => ((wp.partOf c.hdr c.word c.ord l).getD c).sel
    let q := fun l => l - base
    let s := fun l =>
      if c.w.mod.toNat % 4 = 0 then base + b l % c.width
      else if c.w.mod.toNat % 4 = 1 then (if b l ≤ q l then l - b l else l)
      else if c.w.mod.toNat % 4 = 2 then (if q l + b l < c.width then l + b l else l)
      else base + (q l ^^^ (b l % c.width))
    (c.op = .vote → c.w.mod = 0 → ∃ val, RegWrite 1 c.w.d from_ (fun _ => val) wp u ∧
      ∀ j, j < 32 → val.testBit j = (decide (base ≤ j) && is (j - base))) ∧
    (c.op = .vote → c.w.mod = 1 → PredWrite c.w.d from_ (fun _ => xs.any (· == some 1)) wp u) ∧
    (c.op = .vote → c.w.mod = 2 → PredWrite c.w.d from_ (fun _ => xs.all (fun x => x == none || x == some 1)) wp u) ∧
    (c.op = .vote → c.w.mod = 3 →
      PredWrite c.w.d from_ (fun _ => (xs.filterMap id).all (fun x => (xs.filterMap id).all (fun y => x == y))) wp u) ∧
    (c.op = .vote → c.w.mod = 4 → RegWrite 1 c.w.d from_ (fun _ => (List.range c.width).countP is) wp u) ∧
    (c.op = .vote → c.w.mod = 5 → ∃ val, RegWrite 1 c.w.d from_ (fun _ => val) wp u ∧
      ((∃ k, is k = true) → base ≤ val ∧ is (val - base) = true ∧ ∀ k, k < val - base → is k = false) ∧
      ((∀ k, is k = false) → val = 32)) ∧
    (c.op = .shfl → RegWrite n c.w.d (lanesOf (wp.performColl c).2) (fun l =>
      if from_.contains (s l) then (nth xs (s l - base) none).getD (own l) else own l) wp u) ∧
    (c.ord = 0 → ∀ l ∈ from_, l ∈ lanesOf (wp.performColl c).2)

/-- 04_isa_core.md:R120, R121: integer `red` gives every contributing lane the sum modulo 2^32, or the bitwise and, or, xor, of the
contributions that are present, and 0 when none is; `scan.add` gives the sum of those up to the lane's position, or before it.
The other operations give what the tree of R120 gives. -/
def Sys2Proof.Claims.Reductions : Prop :=
  ∀ (wp : Warp) (c : CollPart), c.lane < 32 → c.width ∈ [2, 4, 8, 16, 32] →
    let base := c.lane - c.lane % c.width
    let xs := wp.contributions c
    let from_ := wp.contributors c
    let u := (wp.performColl c).1
    let there := xs.filterMap id
    let ty := c.w.mod.toNat / 8
    let op := c.w.mod.toNat % 8
    let cut := fun l => if c.w.mod.getLsbD 2 then l - base else l - base + 1
    let sop := if c.w.mod.toNat % 4 = 3 then 4 else c.w.mod.toNat % 4
    let tree := fun l => reduceTree ty sop 5 (xs.take (cut l) ++ List.replicate (c.width - cut l) none)
    (c.op = .red → ty < 2 → op = 0 → RegWrite 1 c.w.d from_ (fun _ => there.sum % 2 ^ 32) wp u) ∧
    (c.op = .red → ty < 2 → op = 3 → ∃ val, RegWrite 1 c.w.d from_ (fun _ => val) wp u ∧
      ∀ j, j < 32 → val.testBit j = (there != [] && there.all (fun x => x.testBit j))) ∧
    (c.op = .red → ty < 2 → op = 4 → ∃ val, RegWrite 1 c.w.d from_ (fun _ => val) wp u ∧
      ∀ j, j < 32 → val.testBit j = there.any (fun x => x.testBit j)) ∧
    (c.op = .red → ty < 2 → op = 5 → ∃ val, RegWrite 1 c.w.d from_ (fun _ => val) wp u ∧
      ∀ j, j < 32 → val.testBit j = (there.countP (fun x => x.testBit j) % 2 == 1)) ∧
    (c.op = .red → RegWrite 1 c.w.d from_ (fun _ => (reduceTree ty op 5 xs).1.getD 0) wp u ∧
      FlagRaise from_ (fun _ => unlessNF c.w.nf (reduceTree ty op 5 xs).2) wp u) ∧
    (c.op = .scan → ty < 2 → sop = 0 → RegWrite 1 c.w.d from_
      (fun l => ((xs.take (cut l)).filterMap id).sum % 2 ^ 32) wp u) ∧
    (c.op = .scan → RegWrite 1 c.w.d from_ (fun l => (tree l).1.getD (scanIdentity ty (if sop = 4 then 3 else sop))) wp u ∧
      FlagRaise from_ (fun l => unlessNF c.w.nf (tree l).2) wp u)

/-- 04_isa_core.md:R122, R128: `waitlt` completes when its counter reads less than t, and parks its path at the word when it does
not; `nop` completes and changes nothing but its path's place. -/
def Sys2Proof.Claims.WaitsAndNops : Prop :=
  ∀ (s : State) (w : W) (i : Iss),
    (Issues .waitlt w s i → nth i.warp.cnt w.a.resIx 0 < w.imm.toNat → Completes (.waitlt w) s i s) ∧
    (Issues .waitlt w s i → w.imm.toNat ≤ nth i.warp.cnt w.a.resIx 0 →
      StepsBy (.waitlt w) s i (fun wp => wp.parkAt i.r.lane (.waitlt w.a.resIx w.imm.toNat))) ∧
    (Issues .nop w s i → Completes (.nop w) s i s)

/-- 04_isa_core.md:R123; 03_encoding.md:R65, R66: `bra`, `brx`, `call` and `ret` move their active lanes to their targets, and the
other lanes of the path to the next clause; `call` writes the address of the next clause to D; no other register changes. -/
def Sys2Proof.Claims.ControlTransfers : Prop :=
  ∀ (s : State) (w : W) (i : Iss),
    let rel := fun (_ : Nat) => i.path.hdr + BitVec.ofInt 64 (16 * w.imm.toInt)
    let ind := fun (l : Nat) => BitVec.ofNat 64 (i.src w 2 w.a l)
    let next := (i.path.hdr + BitVec.ofNat 64 (16 * (i.path.held.toNat % 16 + 1))).toNat
    (Issues .bra w s i → TransferWord (.bra w) s i rel SameRegs) ∧
    (Issues .brx w s i → TransferWord (.brx w) s i ind SameRegs) ∧
    (Issues .ret w s i → TransferWord (.ret w) s i ind SameRegs) ∧
    (Issues .call w s i → TransferWord (.call w) s i (if w.mod = 0 then rel else ind) (fun a b =>
      RegWrite 2 w.d i.lanes (fun _ => next) a b ∧ b.p = a.p ∧ b.fenv = a.fenv))

/-- 04_isa_core.md:R123: lanes whose program counters are equal at a clause boundary form one path: adding a path that stands at a
boundary to paths of which no two stand at the same one leaves no two that do. -/
def Sys2Proof.Claims.PathsMeet : Prop :=
  ∀ (p : Path) (l : List Path),
    let apart := List.Pairwise (fun a b : Path => ¬ (a.fresh = true ∧ b.fresh = true ∧ a.hdr = b.hdr))
    apart l → apart (joinPath p l)

/-- 04_isa_core.md:R124; 18_recovery.md:R322: `exit` ends its active lanes at the end of the clause and moves the others on; in a
handler it raises the illegal-operand trap. No register changes. -/
def Sys2Proof.Claims.LanesExit : Prop :=
  ∀ (s : State) (w : W) (i : Iss), Issues .exit w s i →
    (i.r.handler = true → Traps (.exit w) s i { cause := 3, mask := i.act }) ∧
    (i.r.handler = false → ∃ f, StepsBy (.exit w) s i f ∧
      (∀ l, l < 32 → (f i.warp).live.getLsbD l = (i.warp.live.getLsbD l && decide (l ∉ i.lanes))) ∧
      (∀ l, i.path.mask.getLsbD l = true → l ∉ i.lanes →
        (f i.warp).standsAt l (nextClause i.path.hdr i.path.held) 0) ∧
      f i.warp = { i.warp with
        live := (f i.warp).live, paths := (f i.warp).paths, pass := (f i.warp).pass })

/-- 04_isa_core.md:R125, R126, R127: `trap` takes the software trap with its code on its active lanes; in a user handler `trec` gives
a word of the record, and `tret` returns the trapped warp as its mode says and ends the activation, unless a checkpoint is no
clause. -/
def Sys2Proof.Claims.TrapInstructions : Prop :=
  ∀ (s : State) (w : W) (i : Iss),
    let mode := RetMode.ofMod w.mod.toNat
    (Issues .trap w s i → Traps (.trap w) s i { cause := 7, code := w.imm.toNat % 2 ^ 16, mask := i.act }) ∧
    (∀ t, Issues .trec w s i → i.trapped = some t →
      LaneWord (.trec w) s i 1 w.d (fun _ => t.trapWord w.imm.toNat) noFlags) ∧
    (∀ t rec_, Issues .tret w s i → i.trapped = some t → t.trap = some rec_ →
      (mode = .ckpt → ckptTrap s i.ctx t rec_.mask = none) → exec (.tret w) s = .next { (s.endHandler i.r.lsq i.r.tkt).updBlock i.r.lsq i.r.tkt (fun b =>
        { (b.updWarp t.idx (fun wp => wp.returnFrom rec_ mode)).letGo .handler with handler := none }) with cur := none }) ∧
    (∀ t rec_ e, Issues .tret w s i → i.trapped = some t → t.trap = some rec_ → mode = .ckpt →
      ckptTrap s i.ctx t rec_.mask = some e → Traps (.tret w) s i { e with mask := i.act })

/-- 02_state.md:R31; 18_recovery.md:R322; 20_isa_system.md:R357, R361: what a user handler has started when its activation ends goes
on without it: no operation of the block is its handler's any more, and none has begun or gone. The warps that the activation still
held resume: those that have not trapped are free and running, their waits for a word, a counter, a fence, a drain or a reply stand
to be judged afresh, and a trapped one stays stopped; every other warp stays as it was. -/
def Sys2Proof.Claims.ActivationEnds : Prop :=
  (∀ (s : State) (lsq tkt : Nat),
    let u := s.endHandler lsq tkt
    let mine := fun r : Ref => r.lsq = lsq ∧ r.tkt = tkt ∧ r.handler = true
    let still := fun b : Block => { b with mmas := [], cores := [] }
    (∀ g ∈ u.groups, ¬ (g.lsq = lsq ∧ g.tkt = tkt ∧ g.wrp = handlerWrp)) ∧
    (∀ o ∈ u.copies, ¬ mine o.src) ∧ (∀ o ∈ u.casts, ¬ mine o.src) ∧ (∀ o ∈ u.rops, ¬ mine o.src) ∧
    u.groups.map OpGroup.op = s.groups.map OpGroup.op ∧ u.copies.map CopyOp.op = s.copies.map CopyOp.op ∧
    u.casts.map CastOp.op = s.casts.map CastOp.op ∧ u.rops.map RemoteOp.op = s.rops.map RemoteOp.op ∧
    u.blocks.map still = s.blocks.map still ∧ u.mem = s.mem) ∧
  ∀ (b : Block) (h : Holder) (k : Nat) (w : Warp), b.warps[k]? = some w →
    (b.letGo h).warps.length = b.warps.length ∧ ∃ v, (b.letGo h).warps[k]? = some v ∧
      (w.holder ≠ h → v = w) ∧
      (w.holder = h → w.trap ≠ none → v = { w with holder := .free, stopped := true }) ∧
      (w.holder = h → w.trap = none → v = { w with holder := .free, stopped := false, paths := v.paths } ∧
        v.paths.map (fun p => (p.mask, p.hdr, p.word, p.held)) = w.paths.map (fun p => (p.mask, p.hdr, p.word, p.held)) ∧
        ∀ (n : Nat) (p q : Path), w.paths[n]? = some p → v.paths[n]? = some q →
          ((∃ sys pa cond cmp dl, p.park = .waitw sys pa cond cmp dl) ∨ (∃ c t, p.park = .waitlt c t) ∨
            (∃ sc ops, p.park = .fence sc ops) ∨ (∃ kind ops c, p.park = .drain kind ops c) ∨
            (∃ off ph t, p.park = .tbwait off ph t) ∨ (∃ osq a dl, p.park = .qwait osq a dl) → q.park = .run) ∧
          (∀ ok val, p.park = .released ok val → q = p))

/-- 18_recovery.md:R319; 04_isa_core.md:R126: a warp that takes a trap stops with the record of the trap: its cause, the mask of the
trapping lanes, the clause and the word of its path, and the checkpoint of the lowest trapping lane. Its registers are unchanged
and its paths stand where they stood. -/
def Sys2Proof.Claims.TrapTaken : Prop :=
  ∀ (w : Warp) (lane order : Nat) (t : TrapV) (p : Path), w.path? lane = some p →
    let u := w.takeTrap lane order t
    u.stopped = true ∧
    u.trap = some
      { cause := t.cause, sub := t.sub, code := t.code, mask := t.mask, hdr := p.hdr, prog := t.prog, word := max p.word 1
        addr := t.addr, ckpt := nth w.ckpt (lowLane t.mask) 0, other := t.other, otherTkt := t.otherTkt
        otherGngi := t.otherGngi, path := p.mask, access := t.access, order := order } ∧
    u.paths.map (fun q => (q.mask, q.hdr, q.word, q.held)) = w.paths.map (fun q => (q.mask, q.hdr, q.word, q.held)) ∧
    u = { w with trap := u.trap, stopped := u.stopped, paths := u.paths }

/-- 04_isa_core.md:R126: the words of a trap record. -/
def Sys2Proof.Claims.TrapRecordWords : Prop :=
  ∀ (w : Warp) (t : TrapRec), w.trap = some t → t.code < 2 ^ 16 → t.sub < 2 ^ 8 → t.cause < 2 ^ 8 →
    let x := w.trapWord
    x 0 / 2 ^ 16 = t.code ∧ x 0 / 2 ^ 8 % 2 ^ 8 = t.sub ∧ x 0 % 2 ^ 8 = t.cause ∧ x 1 = t.mask.toNat ∧
    x 2 + x 3 * 2 ^ 32 = t.hdr.toNat ∧ x 4 / 16 = t.prog ∧ x 4 % 16 = t.word % 16 ∧ x 5 = w.idx % 2 ^ 7 ∧
    x 6 + x 7 * 2 ^ 32 = t.addr.toNat ∧ x 8 + x 9 * 2 ^ 32 = t.ckpt.toNat ∧ x 10 = t.other ∧
    x 11 = t.otherTkt % 2 ^ 32 ∧ x 12 = t.otherGngi ∧ ∀ n, 13 ≤ n → x n = 0

/-- 04_isa_core.md:R127; 09_prog_filter.md:R211: a warp that returns runs again; under `.retry` its paths stand where they stood,
under `.skip` the trapping lanes stand after the word, under `.ckpt` each at its own checkpoint, and in every mode the other lanes
of the trapped path stand at the word. -/
def Sys2Proof.Claims.TrapReturns : Prop :=
  ∀ (w : Warp) (t : TrapRec) (p : Path) (m : RetMode), w.path? (lowLane t.path) = some p →
    let u := w.returnFrom t m
    let hit := fun l => p.mask.getLsbD l = true ∧ t.mask.getLsbD l = true
    u.trap = none ∧ u.stopped = false ∧
    u = { w with trap := u.trap, stopped := u.stopped, holder := u.holder, paths := u.paths } ∧
    (m = .retry → u.paths = w.paths) ∧
    (m = .skip → p.hdr = t.hdr → max p.word 1 = t.word → ∀ l, hit l →
      if p.lastWord then u.standsAt l (nextClause p.hdr p.held) 0 else u.standsAt l p.hdr (p.word + 1)) ∧
    (m = .ckpt → ∀ l, hit l → u.standsAt l (nth w.ckpt l 0) 0) ∧
    (∀ l, p.mask.getLsbD l = true → t.mask.getLsbD l = false → u.standsAt l p.hdr p.word)

/-- 02_state.md:R56; 03_encoding.md:R89: an instruction word that breaks a rule of its encoding or its place, or names a register
that its warp does not hold, takes the trap of the first check that fails, and has no other effect. -/
def Sys2Proof.Claims.ChecksComeFirst : Prop :=
  ∀ (s : State) (op : Op) (w : W) (i : Iss), s.issuer w = some i →
    (i.subCause op w ≠ 0 →
      Traps (Instr.ofOp op w) s i { cause := 1, sub := i.subCause op w, mask := i.path.mask }) ∧
    (i.subCause op w = 0 → i.r.handler = false →
      (∃ x ∈ spansOf op w i.warp i.path.mask, 8 * i.grid.rec_.base + i.warp.ext < x.1 + x.2) →
      Traps (Instr.ofOp op w) s i { cause := 2, mask := i.path.mask })

/-- 03_encoding.md:R73: a word whose guard is false in every lane of its path has no effect: the path goes on after it. -/
def Sys2Proof.Claims.GuardedOff : Prop :=
  ∀ (s : State) (op : Op) (w : W) (i : Iss), s.issuer w = some i → i.precheck op w = none → i.held = false → i.act = 0 →
    op.isCollective = false → Completes (Instr.ofOp op w) s i s

namespace Sys2Proof.Machine

/-- The halves whose `IMM16` is sign-extended (03_encoding.md:R81, the Immediate column). -/
def halfSigned (h : Hop) : Bool := [Hop.add, .sub, .mul, .min, .max, .neg, .abs, .mulh, .fscl].contains h

/-- The halves whose `IMM16` is the high half of a binary32 value. -/
def halfHigh (h : Hop) : Bool := [Hop.fadd, .fsub, .fmul, .fmin, .fmax, .fneg, .fabs].contains h

/-- The halves on predicate registers. -/
def halfOnPreds (h : Hop) : Bool := [Hop.pand, .por, .pxor, .pnot].contains h

/-- The second source of a half in a lane: a register, or `IMM16` widened (03_encoding.md:R81). -/
def halfSource (h : Half) (i : Iss) (l : Nat) : Nat :=
  match h.a with
  | .reg o => i.warp.reg 1 o l
  | .imm v => if halfSigned h.hop then (v.signExtend 32).toNat else if halfHigh h.hop then v.toNat * 2 ^ 16 else v.toNat
  | .none => 0

/-- The value that a half on registers writes in a lane and the flags that it raises, from `d`, the value of D before the word, and
`a`, that of the second source (03_encoding.md:R81): d op a for a binary half, op a for a unary one. -/
def halfValue (h : Hop) (d a : Nat) : Nat × Flags :=
  let sd := (BitVec.ofNat 32 d).toInt
  let sa := (BitVec.ofNat 32 a).toInt
  let wrap := fun x : Int => ((BitVec.ofInt 32 x).toNat, (0 : Flags))
  let bit := fun x : BitVec 32 => (x.toNat, (0 : Flags))
  let x := BitVec.ofNat 32 d
  let y := BitVec.ofNat 32 a
  let n := a % 256
  let m := a % 32
  let fd := decodeF fmt32 false d
  let fa := decodeF fmt32 false a
  let sig := fd.isSig || fa.isSig
  let rounded := fun (v : Num) (nv : Bool) =>
    let r := round fmt32 .rne false false v
    (r.bits, r.fl ||| (if nv then fNV else 0))
  let chosen := fun v : Num => ((round fmt32 .rne false false v).bits, if sig then fNV else 0)
  match h with
  | .mov => bit y
  | .add => wrap (sd + sa)
  | .sub => wrap (sd - sa)
  | .mul => wrap (sd * sa)
  | .min => wrap (min sd sa)
  | .max => wrap (max sd sa)
  | .minn => wrap (min (d : Int) a)
  | .maxn => wrap (max (d : Int) a)
  | .and => bit (x &&& y)
  | .or => bit (x ||| y)
  | .xor => bit (x ^^^ y)
  | .andn => bit (x &&& ~~~y)
  | .orn => bit (x ||| ~~~y)
  | .shl => (d * 2 ^ n % 2 ^ 32, 0)
  | .shr => (d / 2 ^ n, 0)
  | .sar => wrap (sd / 2 ^ n)
  | .rol => ((d * 2 ^ m + d / 2 ^ (32 - m)) % 2 ^ 32, 0)
  | .ror => ((d / 2 ^ m + d * 2 ^ (32 - m)) % 2 ^ 32, 0)
  | .not => bit (~~~y)
  | .neg => wrap (-sa)
  | .abs => wrap (if sa < 0 then -sa else sa)
  | .popc => ((List.range 32).countP (fun j => a.testBit j), 0)
  | .clz => (if a = 0 then 32 else 31 - Nat.log2 a, 0)
  | .ctz => (((List.range 32).find? (fun j => a.testBit j)).getD 32, 0)
  | .bfr => ((((List.range 32).filter (fun j => a.testBit (31 - j))).map (fun j => 2 ^ j)).sum, 0)
  | .mulh => ((BitVec.ofInt 64 (sd * sa)).toNat / 2 ^ 32, 0)
  | .mulhn => (d * a / 2 ^ 32, 0)
  | .fadd => rounded (fd.add .rne fa) (sig || fd.addInvalid fa)
  | .fsub => rounded (fd.add .rne fa.negate) (sig || fd.addInvalid fa.negate)
  | .fmul => rounded (fd.mul fa) (sig || fd.mulInvalid fa)
  | .fmin => chosen (fd.min2 fa)
  | .fmax => chosen (fd.max2 fa)
  | .fneg => bit (y ^^^ 0x80000000)
  | .fabs => bit (y &&& 0x7FFFFFFF)
  | .fscl => rounded (fd.scale (max (-100000) (min sa 100000))) fd.isSig
  | _ => (0, 0)

/-- The truth value that a half on predicate registers writes (03_encoding.md:R81). -/
def halfTruth (h : Hop) (d a : Bool) : Bool :=
  match h with
  | .pand => d && a
  | .por => d || a
  | .pxor => d ^^ a
  | _ => !a

/-- The lanes of a half: those of the path whose own guard is true (03_encoding.md:R82). -/
def halfLanes (h : Half) (i : Iss) : List Nat :=
  (List.range 32).filter (fun l => i.path.mask.getLsbD l && (match h.g with | none => true | some g => i.warp.gp g l))

/-- WHAT A HALF DOES, from warp `a` to warp `b` (03_encoding.md:R81, R82): it writes D in the lanes of its own guard, with values read
from the registers that the word saw, raises the flags of a float half, and changes nothing else. -/
def HalfDoes (h : Half) (i : Iss) (a b : Warp) : Prop :=
  let r := fun l => halfValue h.hop (i.warp.reg 1 h.d l) (halfSource h i l)
  let truth := fun o l => i.warp.pred o l
  let src := match h.a with | .reg o => o | _ => Opnd.none
  if h.hop = .nop then b = a
  else if halfOnPreds h.hop then
    PredWrite h.d (halfLanes h i) (fun l => halfTruth h.hop (truth h.d l) (truth src l)) a b ∧
      b.v = a.v ∧ b.s = a.s ∧ b.tags = a.tags ∧ b.fenv = a.fenv ∧ OnlyRegs a b
  else
    RegWrite 1 h.d (halfLanes h i) (fun l => (r l).1) a b ∧ FlagRaise (halfLanes h i) (fun l => (r l).2) a b ∧
      b.p = a.p ∧ OnlyRegs a b

end Sys2Proof.Machine

/-- 03_encoding.md:R79 to R82; 02_state.md:R46; 18_recovery.md:R322: a P-form word whose halves are legal completes when its warp
holds its registers: each half writes what R81 gives, in the lanes of its own guard, and raises its flags; both halves read the
registers as they stood before the word. A handler's word completes when it names no `v` register, and is illegal when an active
half names one. A breach of R80 is an illegal encoding. -/
def Obligations.PairedHalves : Prop :=
  ∀ (s : State) (x y : Half) (i : Iss), s.issuing = some i →
    let legal := pSubCause x y = 0
    let names := fun h : Half => ∃ k, h.d = .v k ∨ h.a = .reg (.v k)
    let held := ∀ h ∈ [x, y], ∀ k, (h.d = .v k ∨ h.a = .reg (.v k)) → k.val < 8 * i.grid.rec_.base + i.warp.ext
    let acts := ∃ h ∈ [x, y], names h ∧ halfLanes h i ≠ []
    (legal → (i.r.handler = false → held ∧ i.held = false) → (i.r.handler = true → ¬ acts) →
      ∃ f, CompletesLocally (.pFormWord x y) s i f ∧ ∃ m, HalfDoes x i i.warp m ∧ HalfDoes y i m (f i.warp)) ∧
    (legal → i.r.handler = true → acts → ∃ m, Traps (.pFormWord x y) s i { cause := 3, mask := m }) ∧
    (legal → i.r.handler = false → ¬ held → Traps (.pFormWord x y) s i { cause := 2, mask := i.path.mask }) ∧
    (¬ legal → Traps (.pFormWord x y) s i { cause := 1, sub := pSubCause x y, mask := i.path.mask })

/-- 03_encoding.md:R88, R89: a word whose opcode is unassigned takes the illegal-encoding trap with sub-cause 2 on its path. -/
def Sys2Proof.Claims.UnassignedOpcodes : Prop :=
  ∀ (s : State) (q : BitVec 128) (i : Iss), s.issuing = some i →
    Traps (.unassignedOpcode q) s i { cause := 1, sub := 2, mask := i.path.mask }

/-- 07_isa_matrix.md:R183, R184, R189; 13_progress.md:R271: `aget` binds a free name to a tile that reads +0 when the core can grant
one and no older waiting request that it could grant is passed, waits otherwise, and is illegal on a bound name; `aput` unbinds and
`azero` clears a tile in the tile order, and they wait behind the tile words and matrix operations that came before. A word that comes
behind a waiting `aput` of its tile meets the tile unbound (cause 2), as if the `aput` had finished. -/
def Sys2Proof.Claims.TileBinding : Prop :=
  ∀ (s : State) (w : W) (i : Iss) (c : BlockCore), i.core? = some c →
    let a := w.d.resIx
    let core := i.warp.core
    let me := (i.blk, { i.warp with idx := i.r.wrp }, i.r.lane, a, s.nextId)
    let now := s.tileGrantable core i.blk = true ∧
      ∀ x ∈ s.tileWaiters core, s.tileGrantable core x.1 = true → earlier x me = false
    let still := fun wp : Warp => ({ wp with paths := [] }, wp.paths.map (fun p => (p.mask, p.hdr, p.word)))
    let places := fun b : Block => (b.warps.map still, b.handler.map (fun a => (a.firmware, still a.warp)))
    let put := fun x : Nat => ∃ wp ∈ i.blk.warps ++ (i.blk.handler.map Activation.warp).toList, wp.core = core ∧
      ∃ p ∈ wp.paths, ∃ n, p.park = .aput x n ∧ ∀ k, HoldsPlace i.path k → n < k
    let pending := c.scrums.any (fun k => match k.pend with | some r => r.w.d.resIx == a | none => false)
    (Issues .aget w s i → bound c.tiles a = true → Traps (.aget w) s i { cause := 3, mask := i.act }) ∧
    (Issues .aget w s i → bound c.tiles a = false → now → ∃ (f : Block → Block) (c' : BlockCore),
      Completes (.aget w) s i (i.updBlk s f) ∧ (f i.blk).coreAt core = some c' ∧ bound c'.tiles a = true ∧ (c'.tile a).poison = false ∧
      (∀ e, cget (c'.tile a).el e = 0) ∧ (∀ a', a' ≠ a → c'.tile a' = c.tile a') ∧ c' = { c with tiles := c'.tiles } ∧
      (∀ k, k ≠ core → (f i.blk).coreAt k = i.blk.coreAt k) ∧ places (f i.blk) = places i.blk ∧
      f i.blk = { i.blk with cores := (f i.blk).cores, warps := (f i.blk).warps, handler := (f i.blk).handler }) ∧
    (Issues .aget w s i → bound c.tiles a = false → ¬ now → exec (.aget w) s =
      .next { ({ s with nextId := s.nextId + 1 }.updRef i.r (fun wp => wp.parkAt i.r.lane (.aget a s.nextId))) with
        cur := none }) ∧
    (Issues .aput w s i → pending = true → Traps (.aput w) s i { cause := 3, mask := i.act }) ∧
    (Issues .aput w s i → pending = false → TileFree i a → ∃ f : BlockCore → BlockCore, Completes (.aput w) s i (i.updCore s f) ∧
      bound (f c).tiles a = false ∧ (∀ a', a' ≠ a → (f c).tile a' = c.tile a') ∧ f c = { c with tiles := (f c).tiles }) ∧
    (Issues .azero w s i → TileFree i a →
      Completes (.azero w) s i (i.updCore s (fun c => c.updTile a (fun _ => { el := [], poison := false })))) ∧
    (Issues .aput w s i → pending = false → ¬ TileFree i a → Queues (.aput w) s i (.aput a)) ∧
    (Issues .azero w s i → ¬ TileFree i a → Queues (.azero w) s i (fun n => .tile a n)) ∧
    (∀ op, op ∈ [Op.aput, .azero, .ast, .ascl, .ald, .aconv, .mma, .mmaz] → s.issuer w = some i → i.subCause op w = 0 →
      (i.r.handler = true → spansOf op w i.warp i.path.mask = [] ∨ i.act = 0) → (∀ ok v, i.path.park ≠ .released ok v) →
      (∀ m, i.path.park ≠ .mma m) → put (if op = .ald ∨ op = .aconv then w.a.resIx else a) →
      Traps (Instr.ofOp op w) s i { cause := 2, mask := i.path.mask })

/-- 07_isa_matrix.md:R198, R199, R200: `ald` reads and `ast` writes the elements at each lane's row and column, lanes ascending;
`ascl` multiplies a row or column of each lane, rounding once. A row or column out of range is illegal, and a poisoned tile raises
data poison on a read. -/
def Sys2Proof.Claims.TileAccess : Prop :=
  ∀ (s : State) (w : W) (i : Iss) (c : BlockCore), i.core? = some c →
    let n := if w.mod = 0 then 1 else if w.mod = 1 then 2 else 4
    let row := fun l => i.src w 1 w.b l
    let col := fun l => i.src w 1 w.c l
    let at_ := fun l => 64 * row l + col l
    let good := ∀ l ∈ i.lanes, row l ≤ 63 ∧ col l ≤ 63 ∧ col l % n = 0
    let t := c.tile w.a.resIx
    let scale := fun el l => scaleLine el (w.mod.getLsbD 3) (row l) (i.f32 w w.a l) (i.warp.modeOf w.mod l) w.sat
    let free := fun a : Opnd => TileFree i a.resIx
    (Issues .ald w s i → free w.a → good → t.poison = false → ∃ val, LaneWord (.ald w) s i n w.d val noFlags ∧
      ∀ l k, k < n → val l / 2 ^ (32 * k) % 2 ^ 32 = (cget t.el (at_ l + k)).toNat) ∧
    (Issues .ald w s i → free w.a → good → t.poison = true → Traps (.ald w) s i { cause := 5, mask := i.act }) ∧
    (Issues .ald w s i → free w.a → ¬ good → ∃ m, m ≠ 0 ∧ Traps (.ald w) s i { cause := 3, mask := m }) ∧
    (Issues .ast w s i → free w.d → ¬ good → ∃ m, m ≠ 0 ∧ Traps (.ast w) s i { cause := 3, mask := m }) ∧
    (Issues .ast w s i → free w.d → good → ∃ f : Cells 32 → Cells 32,
      Completes (.ast w) s i (i.updCore s (fun c => c.updTile w.d.resIx (fun t => { t with el := f t.el }))) ∧
      ∀ el e, (∀ l ∈ i.lanes, ∀ k, k < n → at_ l + k = e → (∀ m ∈ i.lanes, l < m → ∀ j, j < n → at_ m + j ≠ e) →
          cget (f el) e = BitVec.ofNat 32 (i.src w n w.a l / 2 ^ (32 * k))) ∧
        ((∀ l ∈ i.lanes, ∀ k, k < n → at_ l + k ≠ e) → cget (f el) e = cget el e)) ∧
    (Issues .ascl w s i → free w.d → (∀ l ∈ i.lanes, row l ≤ 63) →
      Completes (.ascl w) s i (i.updCore s (fun c => c.updTile w.d.resIx (fun t => { t with el := i.lanes.foldl scale t.el })))) ∧
    (Issues .ascl w s i → free w.d → ¬ (∀ l ∈ i.lanes, row l ≤ 63) → ∃ m, m ≠ 0 ∧ Traps (.ascl w) s i { cause := 3, mask := m }) ∧
    (∀ el tall k x md e, k < 64 → cget (scaleLine el tall k x md w.sat) e =
      if e < 4096 ∧ (if tall then e % 64 else e / 64) = k then
        BitVec.ofNat 32 (round fmt32 md w.sat false ((decodeF fmt32 false (cget el e).toNat).mul x)).bits
      else cget el e)

/-- 07_isa_matrix.md:R201, R202: `aconv` converts the 64 rows of a tile and stores them, one row every `C` bytes from B: to the
scratchpad at once, or to global memory as stores of one operation group; its address, stride and slot are checked first. -/
def Sys2Proof.Claims.TileConversion : Prop :=
  ∀ (s : State) (w : W) (i : Iss) (c : BlockCore), Issues .aconv w s i → i.core? = some c →
    i.warp.canRaise (i.counter w) = true → TileFree i w.a.resIx →
    let glob := w.mod.getLsbD 3
    let raw := w.mod.getLsbD 4
    let q := nth i.grid.rec_.fmt w.e.resIx 0
    let elt := if raw then 1 else bits q 0 8
    let n := 64 * eltBits elt / 8
    let b := i.uni w (if glob then 2 else 1) w.b
    let st := i.uni w 1 w.c
    let t := c.tile w.a.resIx
    let rows := (List.range 64).map (fun r =>
      (b + r * st, aconvRow t raw elt (i.warp.modeOf w.mod i.lane0) (w.sat || (!raw && q.getLsbD 16)) r))
    let rs := rows.map (fun r => (i.lane0, r.1, n))
    let good := (raw = true ∨ (1 ≤ elt ∧ elt ≤ 5 ∧ bits q 8 4 = 0)) ∧ b % 16 = 0 ∧ st % 16 = 0 ∧ n ≤ st
    (¬ good → Traps (.aconv w) s i { cause := 3, mask := i.act }) ∧
    (∀ u, good → glob = false → b + 63 * st + n ≤ i.blk.cores.length * i.scr → t.poison = false →
      i.detect 1 (i.detScratch rs) s = .ok u →
      Completes (.aconv w) s i (i.updBlk u (fun b => b.spStores i.scr rows))) ∧
    (good → glob = false → b + 63 * st + n ≤ i.blk.cores.length * i.scr → t.poison = true →
      Traps (.aconv w) s i { cause := 5, mask := i.act }) ∧
    (good → glob = false → i.blk.cores.length * i.scr < b + 63 * st + n → Traps (.aconv w) s i { cause := 3, mask := i.act }) ∧
    (good → glob = true → s.laneFault i.ctx .store rs = none → HasRoom s i .store rs →
      ∀ u, i.detect 1 (s.detSectors i.ctx .store rs) s = .ok u → Completes (.aconv w) s i (u.issueStores i w 2 rows t.poison))

/-- 07_isa_matrix.md:R185, R186, R187, R190: `omset` and `thset` bind a well-formed map or handle to a name, on the core alone;
`kinit` declares 1 to 3,072 threads in a scrum register that none has signed. Anything else is illegal and changes nothing. -/
def Sys2Proof.Claims.MapsAndScrums : Prop :=
  ∀ (s : State) (w : W) (i : Iss) (c : BlockCore), i.core? = some c →
    let q := BitVec.ofNat 128 (i.uni w 4 w.a)
    let n := i.uni w 1 w.b
    let map := bits q 112 16 = 0 ∧ bits q 85 11 = 0 ∧ bits q 51 13 = 0 ∧ bits q 21 11 = 0 ∧ bits q 32 16 ≠ 0 ∧
      bits q 32 16 % 16 = 0 ∧ bits q 0 21 % 16 = 0
    let handle := bits q 91 37 = 0 ∧ bits q 64 24 ≠ 0 ∧ bits q 64 24 % 16 = 0 ∧ bits q 0 64 % 16 = 0
    let count := 1 ≤ n ∧ n ≤ 3072 ∧ (nth c.scrums w.d.resIx Scrum.empty).signed = 0
    (Issues .omset w s i → map → ∃ f : BlockCore → BlockCore, Completes (.omset w) s i (i.updCore s f) ∧
      bound (f c).maps w.d.resIx = true ∧ boundTo (f c).maps w.d.resIx = q ∧
      (∀ m, m ≠ w.d.resIx → boundTo (f c).maps m = boundTo c.maps m) ∧ f c = { c with maps := (f c).maps }) ∧
    (Issues .omset w s i → ¬ map → Traps (.omset w) s i { cause := 3, mask := i.act }) ∧
    (Issues .thset w s i → handle → ∃ f : BlockCore → BlockCore, Completes (.thset w) s i (i.updCore s f) ∧
      bound (f c).handles w.d.resIx = true ∧ boundTo (f c).handles w.d.resIx = q ∧
      (∀ m, m ≠ w.d.resIx → boundTo (f c).handles m = boundTo c.handles m) ∧ f c = { c with handles := (f c).handles }) ∧
    (Issues .thset w s i → ¬ handle → Traps (.thset w) s i { cause := 3, mask := i.act }) ∧
    (Issues .kinit w s i → count → ∃ f : BlockCore → BlockCore, Completes (.kinit w) s i (i.updCore s f) ∧
      (w.d.resIx < c.scrums.length → (nth (f c).scrums w.d.resIx Scrum.empty).declared = n ∧
        (nth (f c).scrums w.d.resIx Scrum.empty).signed = 0) ∧
      (∀ m, m ≠ w.d.resIx → nth (f c).scrums m Scrum.empty = nth c.scrums m Scrum.empty) ∧
      f c = { c with scrums := (f c).scrums }) ∧
    (Issues .kinit w s i → ¬ count → Traps (.kinit w) s i { cause := 3, mask := i.act })

/-- 07_isa_matrix.md:R191, R192, R193: an `mma` or `mmaz` signs its scrum register with its active lanes and raises its counter; the
first signature captures the word with its operands, one that does not match or is too many is illegal, and the one that reaches
the declared count issues the operation and clears the register. A signature of the handle form takes the fetch as far as the rows
translate (R195), and the last signer stays at its word until the fetch is over (R196); the first one stalls behind the warp's
asynchronous operations where 10_ordering.md:R225 asks for it. -/
def Sys2Proof.Claims.ScrumSigning : Prop :=
  ∀ (s : State) (w : W) (i : Iss) (c : BlockCore) (op : Op), op = .mma ∨ op = .mmaz → Issues op w s i → i.core? = some c →
    i.warp.canRaise (i.counter w) = true → (∀ m, i.path.park ≠ .mma m) → (∀ ok v, i.path.park ≠ .released ok v) →
    let ins := Instr.ofOp op w
    let k := nth c.scrums w.c.resIx Scrum.empty
    let n := i.lanes.length
    let rec_ := k.pend.getD (i.capture op w c)
    let sg := k.signers ++ [{ wrp := i.r.wrp, ctr := i.counter w }]
    let raised := fun u : State => u.updRef i.r (fun wp => wp.raise (i.counter w))
    let judged := i.detectRows k.pend.isNone rec_ s
    let set := fun (s : State) (k : Scrum) =>
      i.updCore s (fun c => { c with scrums := updAt c.scrums w.c.resIx (fun _ => k) })
    let good := rec_.matches op w = true ∧ k.signed + n ≤ k.declared ∧ (k.pend = none → i.mmaOk rec_ = true)
    let free := k.pend = none → i.behind .load rec_.handleRows s = false
    (¬ good → Traps ins s i { cause := 3, mask := i.act }) ∧
    (good → ¬ free → Stalls ins s i none) ∧
    (∀ t, good → free → judged = .error t → Traps ins s i { t with mask := i.act }) ∧
    (∀ u, good → free → judged = .ok u →
      let named := if k.pend = none then { rec_ with id := u.nextId } else rec_
      let x := State.fetchHandle { u with nextId := u.nextId + 1 } i.warp.core i.ctx named
      let v := raised x.2
      let issued : MmaOp := { op := v.nextId, core := i.warp.core, rec_ := x.1, prog := 0, signers := sg, last := i.r }
      let full := i.updBlk (set { v with nextId := v.nextId + 1 } { k with signed := 0, pend := none, signers := [] })
        (fun b => { b with mmas := b.mmas ++ [issued] })
      (k.signed + n < k.declared →
        Completes ins s i (set v { k with signed := k.signed + n, pend := some x.1, signers := sg })) ∧
      (k.signed + n = k.declared → x.1.missing = 0 → Completes ins s i full) ∧
      (k.signed + n = k.declared → x.1.missing ≠ 0 →
        exec ins s = .next { full.updRef i.r (fun wp => wp.parkAt i.r.lane (.mma v.nextId)) with cur := none }) ∧
      (rec_.handle = false → x = (named, { u with nextId := u.nextId + 1 })) ∧
      (x.1.missing = 0 ∨ (x.2.fetchFault i.ctx x.1).isSome = true))

namespace Sys2Proof.Machine

/-- `y` is the integer nearest to `m × 2^k`, the even one of two (05_numbers.md:R133). -/
def RoundsTo (m : Nat) (k : Int) (y : Nat) : Prop :=
  let d := (-k).toNat
  if 0 ≤ k then y = m * 2 ^ k.toNat
  else 2 * m ≤ 2 ^ d + 2 * (y * 2 ^ d) ∧ 2 * (y * 2 ^ d) ≤ 2 * m + 2 ^ d ∧
    (2 * m = 2 ^ d + 2 * (y * 2 ^ d) ∨ 2 * (y * 2 ^ d) = 2 * m + 2 ^ d → y % 2 = 0)

end Sys2Proof.Machine

/-- 05_numbers.md:R151; 07_isa_matrix.md:R205: the mass that `stq` writes. A NaN, and a negative weight but for −0, give 0 with NV;
a zero gives 0; a weight above 2^b − 1 after the scale, and +infinity, give 2^b − 1 with SAT; any other weight times 2^scale is
rounded once to the nearest integer, with NX when that changes it (that `stq` raises NX is log 53). The weight is read by the bits
of its type, `.f32`, `.f16` or `.bf16`. -/
def Sys2Proof.Claims.Masses : Prop :=
  ∀ (w : W) (i : Iss) (l y : Nat) (t : Tree), w.mod.toNat ≤ 2 →
    let f := stqFmt w
    let eb : Nat := if w.mod = 1 then 5 else 8
    let fb : Nat := if w.mod = 0 then 23 else if w.mod = 1 then 10 else 7
    let x := i.warp.src w.imm 1 f.oneBits w.c l
    let b := i.grid.leafBits
    let frac := x % 2 ^ fb
    let ex := x / 2 ^ fb % 2 ^ eb
    let neg := x / 2 ^ (fb + eb) % 2 = 1
    let nan := ex = 2 ^ eb - 1 ∧ frac ≠ 0
    let inf := ex = 2 ^ eb - 1 ∧ frac = 0
    let m := if ex = 0 then frac else frac + 2 ^ fb
    let k : Int := max ex 1 - (2 ^ (eb - 1) - 1) - fb + stqScale w i l
    let exact := 0 ≤ k ∨ m % 2 ^ (-k).toNat = 0
    let gives := fun (v : Nat) (fl : Flags) => stqOp w i l t = (t.setLeaf (i.src w 1 w.b l) v, 0, false, fl)
    (nan → gives 0 fNV) ∧
    (neg → ¬ nan → m ≠ 0 → gives 0 fNV) ∧
    (m = 0 → gives 0 0) ∧
    (inf → ¬ neg → gives (2 ^ b - 1) fSAT) ∧
    (¬ nan → ¬ inf → ¬ neg → m ≠ 0 → RoundsTo m k y →
      (2 ^ b - 1 < y → gives (2 ^ b - 1) fSAT) ∧
      (y ≤ 2 ^ b - 1 → exact → gives y 0) ∧
      (y ≤ 2 ^ b - 1 → ¬ exact → gives y fNX))

namespace Sys2Proof.Machine

/-- A SUM-TREE WORD (07_isa_matrix.md:R205, R206, R209): with every active lane within its limit and the register not poisoned, its
lane-operations are performed in ascending order on the register, and D, E and the flags follow lane by lane. Otherwise it is
illegal, or raises data poison, and changes nothing. -/
def TreeWord (ins : Instr) (w : W) (s : State) (i : Iss) (words : Nat) (inside : Nat → Prop) (f : LaneOp) : Prop :=
  let t := nth i.blk.trees w.a.resIx Tree.empty
  let r := foldLanes f i.lanes t
  ((∀ l ∈ i.lanes, inside l) → t.poison = false → Completes ins s i
    ((i.updBlk s (fun b => { b with trees := updAt b.trees w.a.resIx (fun _ => r.1) })).updRef i.r (fun wp =>
      ((wp.put words w.d i.lanes (fun l => (laneOf r.2 l).1)).putP w.e i.lanes (fun l => (laneOf r.2 l).2.1)).raiseFlags
        i.lanes (fun l => unlessNF w.nf (laneOf r.2 l).2.2)))) ∧
  ((∀ l ∈ i.lanes, inside l) → t.poison = true → Traps ins s i { cause := 5, mask := i.act }) ∧
  ((∃ l ∈ i.lanes, ¬ inside l) → ∃ m, m ≠ 0 ∧ Traps ins s i { cause := 3, mask := m })

end Sys2Proof.Machine

/-- 07_isa_matrix.md:R205, R206: the lane-operations of the sum-tree instructions; `stclr` clears the register whatever it holds. -/
def Sys2Proof.Claims.SumTreeWords : Prop :=
  ∀ (s : State) (w : W) (i : Iss),
    let size := 64 * 2 ^ i.grid.rec_.wtl
    let top := if i.grid.rec_.wtm then 2 ^ 32 - 1 else 2 ^ 16 - 1
    let b := fun l => i.src w 1 w.b l
    let u := fun l => i.src w 2 w.b l
    let c := fun l => i.src w 1 w.c l
    let leaf := fun (t : Tree) l => (cget t.leaves (b l)).toNat
    let leafIn := fun l => b l < size
    let endIn := fun l => b l ≤ size
    let any := fun _ : Nat => True
    let find := fun (cut : Bool) (l : Nat) (t : Tree) =>
      match findLeaf (u l) t.leaves 0 with
      | none => (t, size, false, (0 : Flags))
      | some k => (if cut then t.cut (k + 1) size else t, k, true, 0)
    (Issues .stclr w s i → Completes (.stclr w) s i
      (i.updBlk s (fun b => { b with trees := updAt b.trees w.a.resIx (fun _ => { leaves := [], poison := false }) }))) ∧
    (Issues .stset w s i → TreeWord (.stset w) w s i 1 leafIn (fun l t =>
      (t.setLeaf (b l) (min (c l) top), 0, false, if top < c l then fSAT else 0))) ∧
    (Issues .stadd w s i → TreeWord (.stadd w) w s i 1 leafIn (fun l t =>
      let v : Int := leaf t l + readInt (w.mod == 1) 32 (c l)
      let x : Int := max 0 (min v top)
      (t.setLeaf (b l) x.toNat, leaf t l, false, if x = v then 0 else fSAT))) ∧
    (Issues .stget w s i → TreeWord (.stget w) w s i 1 leafIn (fun l t => (t, leaf t l, false, 0))) ∧
    (Issues .stpre w s i → TreeWord (.stpre w) w s i 2 endIn (fun l t => (t, t.prefix_ (b l), false, 0))) ∧
    (Issues .sttot w s i → TreeWord (.sttot w) w s i 2 any (fun _ t => (t, t.total, false, 0))) ∧
    (Issues .stfind w s i → TreeWord (.stfind w) w s i 1 any (find false)) ∧
    (Issues .stcut w s i → TreeWord (.stcut w) w s i 1 endIn (fun l t => (t.cut (b l) size, 0, false, 0))) ∧
    (Issues .stcutm w s i → TreeWord (.stcutm w) w s i 1 any (find true)) ∧
    (Issues .stq w s i → TreeWord (.stq w) { w with e := .none } s i 1
      (fun l => leafIn l ∧ -256 ≤ stqScale w i l ∧ stqScale w i l ≤ 255) (stqOp w i))

/-- 07_isa_matrix.md:R203, R205; 05_numbers.md:R152: on the leaves of a register in canonical form, Prefix(i) is the sum of the
leaves below i and Total that of all; the leaf found for u is the smallest i with Prefix(i + 1) > u, and none is found when
u is not below the total; writing a leaf changes it alone, and a cut clears the leaves of its range alone. -/
def Sys2Proof.Claims.TreeSums : Prop :=
  ∀ (t : Tree) (n u k x lo hi j : Nat), cwf t.leaves = true →
    let sum := fun n => ((List.range n).map (fun k => (cget t.leaves k).toNat)).sum
    t.prefix_ n = sum n ∧
    ((∀ e ∈ t.leaves, e.1 < n) → t.total = sum n) ∧
    (findLeaf u t.leaves 0 = some k → u < sum (k + 1) ∧ sum k ≤ u) ∧
    (findLeaf u t.leaves 0 = none ↔ t.total ≤ u) ∧
    cget (t.setLeaf k x).leaves j = (if j = k then BitVec.ofNat 32 x else cget t.leaves j) ∧
    cget (t.cut lo hi).leaves j = (if lo ≤ j ∧ j < hi then 0 else cget t.leaves j) ∧
    cwf (t.setLeaf k x).leaves = true ∧ cwf (t.cut lo hi).leaves = true ∧ ∀ data, cwf (treeOfBytes n k data) = true

/-- 07_isa_matrix.md:R206: `stld` replaces all leaves of a register by the bytes at its address, which set the poison bit where a
sector is poisoned; `stst` stores the leaves; both need a 16-byte address inside its space. A global load of the leaves is performed
at its issue, and global stores are pending (log 6). -/
def Sys2Proof.Claims.TreeTransfers : Prop :=
  ∀ (s : State) (w : W) (i : Iss), i.warp.canRaise (i.counter w) = true →
    let glob := w.mod = 1
    let a := i.uni w (if w.mod == 1 then 2 else 1) w.b
    let n := 64 * 2 ^ i.grid.rec_.wtl * (i.grid.leafBits / 8)
    let t := nth i.blk.trees w.a.resIx Tree.empty
    let put := fun (s : State) (d : List Byte) (p : Bool) => i.updBlk s (fun b =>
      { b with trees := updAt b.trees w.a.resIx (fun _ =>
        { leaves := treeOfBytes i.grid.leaves (i.grid.leafBits / 8) d, poison := p }) })
    let x := fun u : State => u.loadRange i.r i.warp.core i.ctx a n
    let rs := [(i.lane0, a, n)]
    let inside := a + n ≤ i.blk.cores.length * i.scr
    (∀ u, Issues .stld w s i → a % 16 = 0 → ¬ glob → inside → i.detect 0 (i.detScratch rs) s = .ok u →
      Completes (.stld w) s i (put u (i.blk.spRead i.scr a n) (i.blk.spPoisoned i.scr a n))) ∧
    (Issues .stld w s i → a % 16 = 0 → glob → s.laneFault i.ctx .load rs = none → HasRoom s i .load rs →
      ∀ u, i.detect 0 (s.detSectors i.ctx .load rs) s = .ok u →
        Completes (.stld w) s i (put (x u).2.2 (x u).1 (x u).2.1)) ∧
    (∀ u, Issues .stst w s i → a % 16 = 0 → ¬ glob → inside → i.detect 1 (i.detScratch rs) s = .ok u →
      Completes (.stst w) s i (i.updBlk u (fun b => b.spWrite i.scr a (treeBytes i.grid t) t.poison))) ∧
    (Issues .stst w s i → a % 16 = 0 → glob → s.laneFault i.ctx .store rs = none → HasRoom s i .store rs →
      ∀ u, i.detect 1 (s.detSectors i.ctx .store rs) s = .ok u →
        Completes (.stst w) s i (u.issueStores i w 2 [(a, treeBytes i.grid t)] t.poison)) ∧
    (Issues .stld w s i → a % 16 ≠ 0 ∨ (¬ glob ∧ ¬ inside) → Traps (.stld w) s i { cause := 3, mask := i.act }) ∧
    (Issues .stst w s i → a % 16 ≠ 0 ∨ (¬ glob ∧ ¬ inside) → Traps (.stst w) s i { cause := 3, mask := i.act })

/-- 11_isa_memory.md:R238, R239, R241; 04_isa_core.md:R102; 18_recovery.md:R324: `ldg` and `ldsp` load the bytes at each active
lane's address, A plus the signed offset, and write them to D, a narrow value extended by its type; a translation fault of any
lane, an access outside the allocation, or poisoned data traps, and then D is not written. A byte of memory changes by a load only
where a store was already pending. Without room the warp stalls (01_device.md:R12). A lane's range that lies in one line gives the
bytes that its line gives (10_ordering.md:R213, R216), unless a store of the warp is pending. -/
def Sys2Proof.Claims.Loads : Prop :=
  ∀ (s : State) (w : W) (i : Iss),
    let m := w.mod.toNat
    let n := if m = 1 then 2 else if m = 2 then 4 else 1
    let size := if m = 0 then 4 else if m = 1 then 8 else if m = 2 then 16 else if m ≤ 4 then 1 else 2
    let value := fun d : List Byte => if m = 4 ∨ 6 ≤ m then
      ((BitVec.ofNat (8 * size) (leNat d)).signExtend 32).toNat else leNat d
    let ga := fun l => (BitVec.ofNat 64 (i.src w 2 w.a l) + w.imm.signExtend 64).toNat
    let sa := fun l => (BitVec.ofNat 32 (i.src w 1 w.a l) + w.imm).toNat
    let rs := i.lanes.map (fun l => (l, ga l, size))
    let inside := ∀ l ∈ i.lanes, sa l + size ≤ i.blk.cores.length * i.scr
    let poisoned := fun l => i.blk.spPoisoned i.scr (sa l) size
    let lands := fun (f : Warp → Warp) (d : Nat → List Byte) => ∀ wp, RegWrite n w.d i.lanes (fun l => value (d l)) wp (f wp) ∧
      OnlyRegs wp (f wp) ∧ (f wp).p = wp.p ∧ (f wp).fenv = wp.fenv
    (∀ t, Issues .ldg w s i → s.laneFault i.ctx .load rs = some t → Traps (.ldg w) s i t) ∧
    (Issues .ldg w s i → s.laneFault i.ctx .load rs = none → ¬ HasRoom s i .load rs → Stalls (.ldg w) s i none) ∧
    (∀ t, Issues .ldg w s i → s.laneFault i.ctx .load rs = none → HasRoom s i .load rs → i.detect 0 (s.detSectors i.ctx .load rs) s = .error t →
      Traps (.ldg w) s i t) ∧
    (∀ u, Issues .ldg w s i → s.laneFault i.ctx .load rs = none → HasRoom s i .load rs → i.detect 0 (s.detSectors i.ctx .load rs) s = .ok u →
      let x := u.loadLanes i rs
      (x.2.1 = 0 → ∃ f, Completes (.ldg w) s i (x.2.2.updRef i.r f) ∧ lands f (laneBytes x.1)) ∧
      (x.2.1 ≠ 0 → exec (.ldg w) s = .next
        { x.2.2.takeTrap i.r { cause := 5, mask := x.2.1, addr := rangeAddr rs x.2.1, access := 1 } with cur := none }) ∧
      ∀ sys a, (∀ h ∈ u.homeOps, h.sys = sys → ¬ (h.pa ≤ a ∧ a < h.pa + h.data.length)) →
        x.2.2.mem.byte sys a = s.mem.byte sys a) ∧
    (∀ (u : State) (l a k : Nat) (x : Xlat), u.homeOps = [] → 0 < k → u.translate i.ctx a .load = .ok x → a % 65536 + k ≤ 65536 →
      x.pa % 128 + k ≤ 128 → (u.loadLanes i [(l, a, k)]).1 = [(l, (u.loadLine i.warp.core i.ctx x k).1)]) ∧
    (Issues .ldsp w s i → ¬ inside → Traps (.ldsp w) s i { cause := 3, mask := i.act }) ∧
    (∀ u, Issues .ldsp w s i → inside → (∀ l ∈ i.lanes, poisoned l = false) →
      i.detect 0 (i.detScratch (i.lanes.map (fun l => (l, sa l, size)))) s = .ok u →
      ∃ f, Completes (.ldsp w) s i (u.updRef i.r f) ∧ u.mem = s.mem ∧
        ∀ wp, RegWrite n w.d i.lanes (fun l => value (i.blk.spRead i.scr (sa l) size)) wp (f wp) ∧ OnlyRegs wp (f wp) ∧
          (f wp).p = wp.p ∧ (f wp).fenv = wp.fenv) ∧
    (∀ u, Issues .ldsp w s i → inside → (∃ l ∈ i.lanes, poisoned l = true) →
      i.detect 0 (i.detScratch (i.lanes.map (fun l => (l, sa l, size)))) s = .ok u →
      ∃ t, t.cause = 5 ∧ (∀ l, t.mask.getLsbD l = true ↔ l ∈ i.lanes ∧ poisoned l = true) ∧
        exec (.ldsp w) s = .next { u.takeTrap i.r t with cur := none })

/-- 10_ordering.md:R215, R216, R217: a load of a line is served by a copy of the core that has not expired, and by the home
otherwise; a line of a lease class is then kept, its copy expiring the lease after the present time, and the home's bound for the
line is raised to that time. A line of host memory or of class 0 is not kept, and the core then keeps no older copy of it (R213). -/
def Sys2Proof.Claims.LineLoads : Prop :=
  ∀ (s : State) (core ctx len : Nat) (x : Xlat),
    let line := x.pa / 128
    let mine := fun c : L1Copy => c.core == core && c.line == line && c.usable s.time
    let lease := if x.lc = 1 then 128 else if x.lc = 2 then 512 else if x.lc = 3 then 4000 else 0
    let e := s.time + BitVec.ofNat 64 lease
    let kept := x.sys = false ∧ (x.lc = 1 ∨ x.lc = 2 ∨ x.lc = 3 ∨ x.lc = 7)
    let r := s.loadLine core ctx x len
    (∀ c, kept → s.mem.l1.find? mine = some c → r.1 = (c.data.drop (x.pa % 128)).take len ∧ r.2.2 = s) ∧
    (kept → s.mem.l1.find? mine = none → r.1 = s.mem.bytes x.sys x.pa len ∧
      (∃ c, r.2.2.mem.l1.head? = some c ∧ c.core = core ∧ c.line = line ∧
        c.expiry = (if x.lc = 7 then none else some e) ∧ c.data = s.mem.bytes false (128 * line) 128) ∧
      (∀ k, cget r.2.2.mem.lmax k =
        if k = line ∧ x.lc ≠ 7 then tmax (cget s.mem.lmax line) e else cget s.mem.lmax k)) ∧
    (¬ kept → r.1 = s.mem.bytes x.sys x.pa len ∧ r.2.2 = { s with sec := r.2.2.sec, mem := { s.mem with l1 := r.2.2.mem.l1 } } ∧
      (s.sec.confidential = false → r.2.2.sec = s.sec) ∧
      ∀ c, c ∈ r.2.2.mem.l1 ↔ c ∈ s.mem.l1 ∧ ¬ (x.sys = false ∧ c.core = core ∧
        x.pa < 128 * c.line + 128 ∧ 128 * c.line < x.pa + len))

/-- 11_isa_memory.md:R238, R239, R241; 10_ordering.md:R213, R222: `stg` issues one store for each piece of a lane's bytes, and its
counter counts them; `stsp` stores at once, the highest lane last. A fault or an access outside the allocation traps and nothing
is stored. A long-latency word whose counter stands at 63, or whose accesses have no room, stalls its warp (02_state.md:R31;
01_device.md:R12). -/
def Sys2Proof.Claims.Stores : Prop :=
  ∀ (s : State) (w : W) (i : Iss),
    let m := w.mod.toNat
    let n := if m = 1 then 2 else if m = 2 then 4 else 1
    let size := if m = 0 then 4 else if m = 1 then 8 else if m = 2 then 16 else if m = 3 then 1 else 2
    let ga := fun l => (BitVec.ofNat 64 (i.src w 2 w.a l) + w.imm.signExtend 64).toNat
    let sa := fun l => (BitVec.ofNat 32 (i.src w 1 w.a l) + w.imm).toNat
    let data := fun l => leBytes size (i.src w n w.b l)
    let rs := i.lanes.map (fun l => (l, ga l, size))
    let ss := i.lanes.map (fun l => (l, sa l, size))
    let room := i.warp.canRaise (i.counter w) = true
    let inside := ∀ l ∈ i.lanes, sa l + size ≤ i.blk.cores.length * i.scr
    (∀ op, op ∈ [Op.stg, .stsp, .stvf, .stld, .stst, .aconv, .atomg, .atomsp, .tcopy, .mcast, .rput, .rget, .rflag, .rwake, .ratom,
        .qpost, .launch, .tlbinv, .qsub, .ctxsave, .ctxrest] → Issues op w s i → ¬ room → Stalls (Instr.ofOp op w) s i (i.counter w)) ∧
    (∀ t, Issues .stg w s i → room → s.laneFault i.ctx .store rs = some t → Traps (.stg w) s i t) ∧
    (Issues .stg w s i → room → s.laneFault i.ctx .store rs = none → ¬ HasRoom s i .store rs → Stalls (.stg w) s i none) ∧
    (∀ u, Issues .stg w s i → room → s.laneFault i.ctx .store rs = none → HasRoom s i .store rs →
      i.detect 1 (s.detSectors i.ctx .store rs) s = .ok u →
      Completes (.stg w) s i ((u.issueStores i w 0 (i.lanes.map (fun l => (ga l, data l))) false).updRef i.r id)) ∧
    (∀ t, Issues .stg w s i → room → s.laneFault i.ctx .store rs = none → HasRoom s i .store rs →
      i.detect 1 (s.detSectors i.ctx .store rs) s = .error t → Traps (.stg w) s i t) ∧
    (Issues .stsp w s i → room → ¬ inside → Traps (.stsp w) s i { cause := 3, mask := i.act }) ∧
    (∀ u, Issues .stsp w s i → room → inside → i.detect 1 (i.detScratch ss) s = .ok u →
      u.mem = s.mem ∧ Completes (.stsp w) s i
        ((i.updBlk u (fun b => b.spStores i.scr (i.lanes.map (fun l => (sa l, data l))))).updRef i.r id)) ∧
    (∀ t, Issues .stsp w s i → room → inside → i.detect 1 (i.detScratch ss) s = .error t → Traps (.stsp w) s i t)

/-- 10_ordering.md:R213; 11_isa_memory.md:R241; 03_encoding.md:R62: issuing stores, with none pending before, changes no byte of
memory; it queues the pieces of the lanes' bytes in order and records one operation that counts them, raising its counter. -/
def Sys2Proof.Claims.StoresArePending : Prop :=
  ∀ (s : State) (i : Iss) (w : W) (kind : Nat) (ls : List (Nat × List Byte)) (mark : Bool), s.homeOps = [] →
    let t := s.issueStores i w kind ls mark
    let ps := ls.flatMap (fun x => s.storePieces i.ctx x.1 x.2)
    (∀ sys a, t.mem.byte sys a = s.mem.byte sys a) ∧
    t.homeOps.map (fun h => (h.sys, h.pa, h.data)) = ps.map (fun p => (p.1.sys, p.1.pa, p.2)) ∧
    (∀ h ∈ t.homeOps, h.op = s.nextId ∧ h.core = i.warp.core ∧ h.mark = mark) ∧
    t.groups = s.groups ++ [{ op := s.nextId, lsq := i.r.lsq, tkt := i.r.tkt, wrp := i.r.wrp, ctr := i.counter w
                              core := i.warp.core, kind := kind, left := ps.length, cpod := 0
                              chip := ps.any (fun p => !p.1.sys) }] ∧
    t.warpAt i.r = (s.warpAt i.r).map (fun wp => wp.raise (i.counter w))

/-- 18_recovery.md:R323: once the pending stores of a word are all performed, with none pending before them, a sector of memory is
poisoned if it was and they have not stored its 32 bytes between them, by whichever lanes. -/
def Sys2Proof.Claims.WholeSectorsAreClean : Prop :=
  ∀ (s : State) (i : Iss) (w : W) (kind : Nat) (ls : List (Nat × List Byte)) (sys : Bool) (k : Nat), s.homeOps = [] → s.covers = [] →
    let t := s.issueStores i w kind ls false
    let u := t.homeOps.foldl State.performHome t
    let stored := ∀ j, j < 32 → ∃ h ∈ t.homeOps, h.sys = sys ∧ h.pa ≤ 32 * k + j ∧ 32 * k + j < h.pa + h.data.length
    u.homeOps = [] ∧ u.covers = [] ∧
    (u.mem.poisoned sys (32 * k) = true ↔ s.mem.poisoned sys (32 * k) = true ∧ ¬ stored)

/-- 11_isa_memory.md:R238, R239; 10_ordering.md:R222; 18_recovery.md:R323: a write to a block's scratchpad changes the bytes of its
range and no other byte of the allocation, on whichever cores they lie; the stores of a word are such writes in order, and leave a
sector poisoned if it was and they have not stored its 32 bytes between them. -/
def Sys2Proof.Claims.ScratchBytes : Prop :=
  (∀ (b : Block) (size off a : Nat) (data : List Byte) (mark : Bool), 0 < size →
    off + data.length ≤ b.cores.length * size → a < b.cores.length * size →
    (b.spWrite size off data mark).spRead size a 1 =
      if off ≤ a ∧ a < off + data.length then [data.getD (a - off) 0] else b.spRead size a 1) ∧
  ∀ (b : Block) (size a : Nat) (ls : List (Nat × List Byte)), 0 < size → size % 32 = 0 → a < b.cores.length * size →
    (∀ x ∈ ls, x.1 + x.2.length ≤ b.cores.length * size) →
    let u := b.spStores size ls
    let stored := ∀ j, j < 32 → ∃ x ∈ ls, x.1 ≤ a / 32 * 32 + j ∧ a / 32 * 32 + j < x.1 + x.2.length
    u.spRead size a 1 = (ls.foldl (fun b x => b.spWrite size x.1 x.2 false) b).spRead size a 1 ∧
    (u.spPoisoned size a 1 = true ↔ b.spPoisoned size a 1 = true ∧ ¬ stored)

/-- 11_isa_memory.md:R242, R243; 05_numbers.md:R147, R148: `stvf` stores each lane's value as a length code c, the halfword of sign
and exponent, and 8c fraction bits, dropping further fraction bits toward zero and raising NX where one is lost; `ldvf` reads such
elements into a window, rounded to the lane's L bits, and gives the default NaN and NV for an illegal length code. A global `ldvf`
is performed at its issue, and the stores of a global `stvf` are pending (log 6). -/
def Sys2Proof.Claims.VfElements : Prop :=
  ∀ (s : State) (w : W) (i : Iss),
    let glob := w.mod = 1
    let prec := fun l => precL (i.warp.precOf l)
    let c := fun l => (prec l + 7) / 8
    let elem := fun (l x fr : Nat) => leBytes 1 (c l) ++ leBytes 2 (x / 2 ^ fr) ++ leBytes (c l) (x % 2 ^ fr * 2 ^ (8 * c l) / 2 ^ fr)
    let lost := fun (l x fr : Nat) => decide (x % 2 ^ fr * 2 ^ (8 * c l) % 2 ^ fr ≠ 0)
    let code := fun d : List Byte => leNat (d.take 1)
    let size := fun k : Nat => if 1 ≤ k ∧ k ≤ 22 then 3 + k else 1
    let value := fun (l : Nat) (d : List Byte) =>
      if 1 ≤ code d ∧ code d ≤ 22 then
        let x := decodeF (fmtVf (8 * code d)) false (leNat ((d.drop 1).take 2) * 2 ^ (8 * code d) + leNat (d.drop 3))
        let r := round (fmtVf (prec l)) (Mode.ofCode (precRmd (i.warp.precOf l))) w.sat false x
        (r.bits, r.fl ||| (if x.isSig then fNV else 0))
      else ((fmtVf (prec l)).nanBits, fNV)
    let lands := fun (k : Nat) (f : Warp → Warp) (d : Nat → List Byte) => ∀ wp,
      WindowWrite w.d.vreg k i.lanes (fun l => vfWindow k (prec l) (value l (d l)).1) wp (f wp) ∧
      FlagRaise i.lanes (fun l => unlessNF w.nf (value l (d l)).2) wp (f wp) ∧ (f wp).s = wp.s ∧ (f wp).p = wp.p ∧ OnlyRegs wp (f wp)
    let at_ := fun (ix : Opnd) l =>
      let k := match ix with | .none => 0 | o => i.src w 1 o l * bits w.imm 0 24
      if w.mod = 1 then (i.src w 2 w.a l + k) % 2 ^ 64 else (i.src w 1 w.a l + k) % 2 ^ 32
    let ls := i.lanes.map (fun l => (l, at_ w.c l, (stvfElem w i l).1))
    let nx := fun wp : Warp => wp.raiseFlags i.lanes (fun l => unlessNF w.nf (if (stvfElem w i l).2 then fNX else 0))
    let room := i.warp.canRaise (i.counter w) = true
    let inside := ∀ x ∈ ls, x.2.1 + x.2.2.length ≤ i.blk.cores.length * i.scr
    let heads := i.lanes.map (fun l => (l, at_ w.b l, 1))
    let gs := heads.map (fun x => (x.1, x.2.1, size (leNat (s.loadRange i.r i.warp.core i.ctx x.2.1 1).1)))
    let ss := heads.map (fun x => (x.1, x.2.1, size (leNat (i.blk.spRead i.scr x.2.1 1))))
    (∀ l h, w.b = .v h → i.warp.tag h ≠ 0 →
      let fr := 32 * i.warp.tag h - 16
      let x := i.warp.vfBits h (i.warp.tag h) l
      stvfElem w i l = (elem l x fr, lost l x fr)) ∧
    (∀ l, (∀ h, w.b ≠ .v h) →
      let x := (round (fmtVf 176) .rne false false (i.vf w w.b l)).bits
      stvfElem w i l = (elem l x 176, lost l x 176)) ∧
    (Issues .stvf w s i → room → i.warp.vfTagged w.b = false → Traps (.stvf w) s i { cause := 3, mask := i.act }) ∧
    (∀ u, Issues .stvf w s i → room → i.warp.vfTagged w.b = true → ¬ glob → inside →
      i.detect 1 (i.detScratch (storeRanges ls)) s = .ok u → Completes (.stvf w) s i
        ((i.updBlk u (fun b => b.spStores i.scr (ls.map Prod.snd))).updRef i.r nx)) ∧
    (∀ u, Issues .stvf w s i → room → i.warp.vfTagged w.b = true → glob → s.laneFault i.ctx .store (storeRanges ls) = none →
      HasRoom s i .store (storeRanges ls) →
      i.detect 1 (s.detSectors i.ctx .store (storeRanges ls)) s = .ok u →
      Completes (.stvf w) s i ((u.issueStores i w 0 (ls.map Prod.snd) false).updRef i.r nx)) ∧
    (∀ k u, Issues .ldvf w s i → i.warp.oneK i.lanes = some k → w.d.vreg % vfAlign k = 0 → ¬ glob →
      (∀ x ∈ heads, x.2.1 + 1 ≤ i.blk.cores.length * i.scr) → (∀ x ∈ ss, x.2.1 + x.2.2 ≤ i.blk.cores.length * i.scr) →
      (∀ x ∈ ss, i.blk.spPoisoned i.scr x.2.1 x.2.2 = false) → i.detect 0 (i.detScratch ss) s = .ok u →
      ∃ f, Completes (.ldvf w) s i (u.updRef i.r f) ∧ lands k f (laneBytes (ss.map (fun x => (x.1, i.blk.spRead i.scr x.2.1 x.2.2))))) ∧
    (∀ k u, Issues .ldvf w s i → i.warp.oneK i.lanes = some k → w.d.vreg % vfAlign k = 0 → glob →
      s.laneFault i.ctx .load heads = none → s.laneFault i.ctx .load gs = none → HasRoom s i .load gs →
      i.detect 0 (s.detSectors i.ctx .load gs) s = .ok u → (u.loadLanes i gs).2.1 = 0 →
      ∃ f, Completes (.ldvf w) s i ((u.loadLanes i gs).2.2.updRef i.r f) ∧ lands k f (laneBytes (u.loadLanes i gs).1)) ∧
    (Issues .ldvf w s i → (i.warp.oneK i.lanes = none ∨ ∃ k, i.warp.oneK i.lanes = some k ∧ w.d.vreg % vfAlign k ≠ 0) →
      Traps (.ldvf w) s i { cause := 3, mask := i.act })

/-- 11_isa_memory.md:R244; 10_ordering.md:R222, R223: `atomg` and `atomsp` perform one read-modify-write for each active lane,
ascending, and give each lane the value its location held; a misaligned lane is illegal. A global float atomic of a deterministic
grid is held back to the end of its interval. -/
def Sys2Proof.Claims.Atomics : Prop :=
  ∀ (s : State) (w : W) (i : Iss), i.warp.canRaise (i.counter w) = true →
    let ty := w.imm.toNat % 2 ^ 8
    let n := if ty = 14 ∨ ty = 15 then 8 else 4
    let ga := fun l => i.src w 2 w.a l
    let sa := fun l => i.src w 1 w.a l
    let gs := i.lanes.map (fun l => (l, ga l, n))
    let ss := i.lanes.map (fun l => (l, sa l, n))
    let floatRet := i.grid.rec_.det = true ∧ ty = 1 ∧ w.d ≠ .none
    let later := i.grid.rec_.det = true ∧ ty = 1
    let inside := ∀ l ∈ i.lanes, sa l + n ≤ i.blk.cores.length * i.scr
    let none_ : AtomRun := { got := [], bad := none }
    let home := fun u : State =>
      let u := gs.foldl (fun s x => s.fillRange i.ctx x.2.1 x.2.2) u
      let g := u.startGroup i w 0 true i.lanes.length
      i.lanes.foldl (fun a l => atomAtHome w i g.1 a l (ga l)) (none_, g.2)
    let pad := i.lanes.foldl (fun a l => atomAtScratch w i a l (sa l)) (none_, i.blk)
    ((Issues .atomg w s i) → (∃ l ∈ i.lanes, ga l % n ≠ 0) ∨ floatRet → Traps (.atomg w) s i { cause := 3, mask := i.act }) ∧
    (∀ u, Issues .atomg w s i → (∀ l ∈ i.lanes, ga l % n = 0) → ¬ later → s.laneFault i.ctx .store gs = none →
      HasRoom s i .store gs →
      i.detect (atomKind w) (s.detSectors i.ctx .store gs) s = .ok u → (home u).1.bad = none →
      Completes (.atomg w) s i ((home u).2.updRef i.r (landAtom w i (home u).1))) ∧
    (∀ u, Issues .atomg w s i → (∀ l ∈ i.lanes, ga l % n = 0) → later → w.d = .none → s.laneFault i.ctx .store gs = none →
      HasRoom s i .store gs →
      i.detect (atomKind w) (s.detSectors i.ctx .store gs) s = .ok u →
      Completes (.atomg w) s i (deferAtom w i ga (gs.foldl (fun s x => s.fillRange i.ctx x.2.1 x.2.2) u))) ∧
    (Issues .atomsp w s i → (∃ l ∈ i.lanes, sa l % n ≠ 0) ∨ floatRet ∨ ¬ inside →
      Traps (.atomsp w) s i { cause := 3, mask := i.act }) ∧
    (∀ u, Issues .atomsp w s i → (∀ l ∈ i.lanes, sa l % n = 0) → ¬ floatRet → inside →
      i.detect (atomKind w) (i.detScratch ss) s = .ok u → pad.1.bad = none →
      Completes (.atomsp w) s i
        ((i.updBlk u (fun b => { b with cores := pad.2.cores })).updRef i.r (landAtom w i pad.1)))

/-- 11_isa_memory.md:R244; 10_ordering.md:R223: one lane's atomic at a home that is not poisoned, with no store pending, returns the
value its location held, stores the result of its operation there and changes no other byte; the results of the integer
operations, of exchange and of compare-and-swap are these. -/
def Sys2Proof.Claims.AtomicEffects : Prop :=
  (∀ (w : W) (i : Iss) (g l addr : Nat) (got : List (Nat × Nat × Flags)) (s : State) (x : Xlat),
    s.homeOps = [] → s.translate i.ctx addr .store = .ok x → s.mem.poisoned x.sys x.pa = false →
    let n := atomBytes (atomTy w)
    let old := s.mem.nat x.sys x.pa n
    let r := atomNew (atomOp w) (atomTy w) w.sat old (atomArgs w i l).1 (atomArgs w i l).2
    let y := atomAtHome w i g ({ got := got, bad := none }, s) l addr
    y.1 = { got := got ++ [(l, old, r.2)], bad := none } ∧ y.2.mem.nat x.sys x.pa n = r.1 % 2 ^ (8 * n) ∧
    ∀ sys a, ¬ (sys = x.sys ∧ x.pa ≤ a ∧ a < x.pa + n) → y.2.mem.byte sys a = s.mem.byte sys a) ∧
  ∀ (ty old b c : Nat) (sat : Bool), ty ∈ [12, 13, 14, 15] → old < 2 ^ (8 * atomBytes ty) →
    let wd := if ty = 14 ∨ ty = 15 then 64 else 32
    let sg := ty == 12 || ty == 14
    let x := readInt sg wd old
    let y := readInt sg wd b
    atomNew 0 ty sat old b c = (written sg sat wd wd (x + y), limitFlag sg sat wd (x + y)) ∧
    atomNew 1 ty sat old b c = ((BitVec.ofInt wd (if x ≤ y then x else y)).toNat, 0) ∧
    atomNew 2 ty sat old b c = ((BitVec.ofInt wd (if x ≤ y then y else x)).toNat, 0) ∧
    atomNew 3 ty sat old b c = (old &&& b, 0) ∧ atomNew 4 ty sat old b c = (old ||| b, 0) ∧
    atomNew 5 ty sat old b c = (old ^^^ b, 0) ∧ atomNew 6 ty sat old b c = (b % 2 ^ wd, 0) ∧
    atomNew 7 ty sat old b c = (if old = c then b % 2 ^ wd else old, 0)

/-- 11_isa_memory.md:R245; 10_ordering.md:R221, R222, R230, R231; 17_prog_copyin.md:R318; 07_isa_matrix.md:R195: `fence.core`
completes when no confidential copy of the warp still owes its status word; a wider `fence` completes when none of the warp's
operations that its scope covers is outstanding, the fetches of handles among them, and the pod time has passed the scope's
completion time, from the pod on also the greatest LCT that its `tbtest`s have found (R230), and parks until then; `drain` waits for
the operations of its core on its path.
Where the spec leaves a point open, the model's choice is stated: log 14. -/
def Obligations.FencesAndDrains : Prop :=
  ∀ (s : State) (w : W) (i : Iss),
    let scope := w.mod.toNat
    let issues := i.path.park = .run ∨ ∃ n, i.path.park = .stall n
    let own := fun x : OpGroup => x.lsq = i.r.lsq ∧ x.tkt = i.r.tkt ∧ x.wrp = i.r.wrp ∧ (scope ≠ 1 ∨ x.chip = true)
    let fetched := ∀ m ∈ s.fetches, ¬ (m.src.lsq = i.r.lsq ∧ m.src.tkt = i.r.tkt ∧ m.src.wrp = i.r.wrp)
    let ops := s.fenceOps i.r scope
    let status := s.statusOps i.r
    let wctp := tmax i.warp.wctp i.warp.lct
    let wct := if scope = 1 then i.warp.wctc else if scope = 2 then wctp else tmax i.warp.wcts i.warp.lct
    let passed := ops = [] ∧ wct.toNat < s.time.toNat
    let kind := w.mod.toNat + 1
    let mine := (s.groups.filter (fun g => g.core == i.warp.core && g.kind == kind)).map OpGroup.op
    let park := fun (k : Park) (wp : Warp) => wp.parkAt i.r.lane k
    let c := cget s.pathCpod (2 * i.warp.core + (kind - 2))
    let both := mine ++ s.fenceOps i.r 2
    (status = [] ↔ ∀ o ∈ s.copies, o.gcm.isSome = true → o.data = none → o.src.sameWarp i.r = false) ∧
    (ops = [] ↔ (∀ x ∈ s.groups, ¬ own x) ∧ fetched) ∧
    (Issues .fence w s i → w.mod = 0 → issues → status = [] → Completes (.fence w) s i s) ∧
    (Issues .fence w s i → w.mod = 0 → issues → status ≠ [] → StepsBy (.fence w) s i (park (.fence 0 status))) ∧
    (Issues .fence w s i → w.mod ≠ 0 → issues → passed → Completes (.fence w) s i s) ∧
    (Issues .fence w s i → w.mod ≠ 0 → issues → ¬ passed → StepsBy (.fence w) s i (park (.fence scope ops))) ∧
    (∀ ok v, Issues .fence w s i → i.path.park = .released ok v → Completes (.fence w) s i s) ∧
    (Issues .drain w s i → w.mod = 0 → issues → mine = [] → Completes (.drain w) s i s) ∧
    (Issues .drain w s i → w.mod = 0 → issues → mine ≠ [] → StepsBy (.drain w) s i (park (.drain 1 mine 0))) ∧
    (Issues .drain w s i → w.mod ≠ 0 → issues → both = [] → (tmax c wctp).toNat < s.time.toNat →
      Completes (.drain w) s i s) ∧
    (Issues .drain w s i → w.mod ≠ 0 → issues → ¬ (both = [] ∧ (tmax c wctp).toNat < s.time.toNat) →
      StepsBy (.drain w) s i (park (.drain kind both c))) ∧
    (∀ ok v, Issues .drain w s i → i.path.park = .released ok v → Completes (.drain w) s i s)

/-- 10_ordering.md:R227, R228, R230; 11_isa_memory.md:R253, R254: `tbinit` starts a barrier with its expected arrivals pending and
armed, `tbexp` adds pending sectors and `tbarr` takes an arrival for each active lane; `tbtest` gives whether the phase has left the
one named and the barrier's low word, and keeps the completion time of a phase that has for the warp's next `fence.pod` (R230), and
`tbwait` gives that word once the phase has left and the pod time has passed its completion time. A misplaced or unarmed barrier is
illegal. -/
def Sys2Proof.Claims.BarrierWords : Prop :=
  ∀ (s : State) (w : W) (i : Iss),
    let t := i.uni w 1 w.a
    let n := i.uni w 1 w.b
    let b := i.blk.tbar i.scr t
    let placed := t % 16 = 0 ∧ t + 16 ≤ i.blk.cores.length * i.scr
    let armed := placed ∧ b.arm = true
    let set := fun x : TBar => i.updBlk s (fun b => b.setTbar i.scr t x)
    let illegal := fun ins => Traps ins s i { cause := 3, mask := i.act }
    let go := Completes (.tbwait w) s i (s.updRef i.r (fun wp => wp.put 1 w.d i.lanes (fun _ => b.toNat % 2 ^ 32)))
    let fresh : TBar :=
      { lct := 0, psec := 0, arld := n, parr := n, arm := true, gmm := false, psn := false, err := false, ph := 0 }
    (Issues .tbinit w s i → placed → 1 ≤ n → n ≤ 4096 → Completes (.tbinit w) s i (set fresh)) ∧
    (Issues .tbinit w s i → ¬ (placed ∧ 1 ≤ n ∧ n ≤ 4096) → illegal (.tbinit w)) ∧
    (Issues .tbexp w s i → armed → n < 2 ^ 29 → Completes (.tbexp w) s i (set (b.change 0 (-n)))) ∧
    (Issues .tbexp w s i → ¬ (armed ∧ n < 2 ^ 29) → illegal (.tbexp w)) ∧
    (Issues .tbarr w s i → armed → Completes (.tbarr w) s i (set (b.change i.lanes.length 0))) ∧
    (Issues .tbarr w s i → ¬ armed → illegal (.tbarr w)) ∧
    (Issues .tbtest w s i → armed → n ≤ 15 → Completes (.tbtest w) s i (s.updRef i.r (fun wp =>
      let x := (wp.putP w.d i.lanes (fun _ => b.ph != n)).put 1 w.e i.lanes (fun _ => b.toNat % 2 ^ 32)
      if b.ph = n then x else { x with lct := tmax x.lct b.lct }))) ∧
    (Issues .tbtest w s i → ¬ (armed ∧ n ≤ 15) → illegal (.tbtest w)) ∧
    (Issues .tbwait w s i → armed → n ≤ 15 →
      ((∃ ok v, i.path.park = .released ok v) ∨ (b.ph ≠ n ∧ b.lct.toNat < s.time.toNat)) → go) ∧
    (Issues .tbwait w s i → armed → n ≤ 15 → (∀ ok v, i.path.park ≠ .released ok v) →
      ¬ (b.ph ≠ n ∧ b.lct.toNat < s.time.toNat) → StepsBy (.tbwait w) s i (fun wp =>
        wp.parkAt i.r.lane (.tbwait t n (if b.ph = n then none else some b.lct)))) ∧
    (Issues .tbwait w s i → ¬ (armed ∧ n ≤ 15) → illegal (.tbwait w))

/-- 10_ordering.md:R227, R228: a barrier keeps its fields in its 128 bits; a change lowers its pending counts, and when both reach 0
the phase moves on, modulo 16, with the expected arrivals pending again; a change that would take a count out of its range sets ERR
and leaves both; a sector raises the completion time, never lowers it, and marks what befell it. -/
def Sys2Proof.Claims.BarrierCounts : Prop :=
  ∀ (b : TBar) (arr : Nat) (sec : Int) (f : SecFate) (c : DWord),
    let fits := arr ≤ b.parr ∧ -(2 ^ 29) ≤ b.psec - sec ∧ b.psec - sec < 2 ^ 29
    let done := b.parr = arr ∧ b.psec = sec
    let next := (b.ph + 1) % 16
    (b.arld < 2 ^ 13 → b.parr < 2 ^ 13 → -(2 ^ 29) ≤ b.psec → b.psec < 2 ^ 29 → b.ph < 16 →
      TBar.ofNat b.toNat = b ∧ TBar.ofNat (leNat (leBytes 16 b.toNat)) = b) ∧
    (fits → done → b.change arr sec = { b with parr := b.arld, psec := 0, ph := next }) ∧
    (fits → ¬ done → b.change arr sec = { b with parr := b.parr - arr, psec := b.psec - sec }) ∧
    (¬ fits → (b.parr ≠ 0 ∨ b.psec ≠ 0) → b.change arr sec = { b with err := true }) ∧
    (b.sector f (some c)).lct = tmax b.lct c ∧ (b.sector f none).lct = b.lct ∧
    ((b.sector f (some c)).psn = (b.psn || f == SecFate.poisoned)) ∧
    ((b.sector f (some c)).gmm = (b.gmm || f == SecFate.dropped)) ∧
    (f = .failed → (b.sector f (some c)).err = true)

/-- 11_isa_memory.md:R246 to R252; 10_ordering.md:R231: `tcopy` and `mcast` check their operands and ranges, raise the counter, and
hand the copy to its engine with every sector of its destination still to be done, and the generations of the allocations it
names; `drain` counts it on its path. No byte of memory changes as they issue. The detector judges what they read and write, the
status word of a confidential copy too, before it records any of it (10_ordering.md:R234, R236; 17_prog_copyin.md:R318). A multicast
stalls while its source comes behind older asynchronous operations of its warp (10_ordering.md:R225). -/
def Sys2Proof.Claims.CopyWords : Prop :=
  ∀ (s : State) (w : W) (i : Iss), i.warp.canRaise (i.counter w) = true →
    let o := tcopyOf w i
    let good := copyOk w i o = true ∧ i.optTbOk w = true ∧ placeInside i o.to_ o.rows = true ∧
      placeInside i o.from_ o.srcRows = true
    let clear := placeFault i s .load o.from_ o.srcRows = none ∧ placeFault i s .store o.to_ o.rows = none
    let status := match o.gcm with | some p => i.detScratch [(i.lane0, 16 * p.sto, 4)] | none => []
    let det := i.detectAll [(0, placeSectors i s .load o.from_ o.srcRows), (1, placeSectors i s .store o.to_ o.rows ++ status)] s
    let kind := match o.to_ with | .glob _ => 2 | .sp _ => if onOwnCore i o.to_ o.rows then 1 else 0
    let fill := fun u : State => placeFill i u .load o.from_ o.srcRows
    let both := fun u : State => placeFill i (fill u).2 .store o.to_ o.rows
    let g := fun u : State => (both u).2.startGroup i w kind ((fill u).1 || (both u).1) o.sectors.length
    let q := BitVec.ofNat 128 (i.uni w 4 w.a)
    let src := i.place w (w.mod == 0) w.b
    let rows := [(0, bits q 64 32)]
    let cast := castOk q = true ∧ castInside i.grid q = true ∧ i.optTbOk w = true ∧ placeInside i src rows = true
    let ts := (rectCores (bits q 0 4) (bits q 4 4) (bits q 8 4 + 1) (bits q 12 4 + 1)).map (castTargetOf i s q)
    let front := i.behind .load (placeRanges i src rows) s = false
    let cdet := i.detectAll [(0, placeSectors i s .load src rows), (1, castSectors i s q ts)] s
    let h := fun u : State => (placeFill i u .load src rows).2.startGroup i w
      (if ts.any (fun t => t.core == i.warp.core) then 1 else 0) (placeFill i u .load src rows).1
      (ts.foldl (fun n t => n + t.todo.length) 0)
    let op := fun u : State => ({ op := (h u).1, src := i.r, ctx := i.ctx, from_ := src, dst := bits q 32 32, len := bits q 64 32
                                  bar := i.optTb w, rbar := if q.getLsbD 127 then some (16 * bits q 112 15) else none
                                  targets := ts } : CastOp)
    (Issues .tcopy w s i → ¬ good → Traps (.tcopy w) s i { cause := 3, mask := i.act }) ∧
    (∀ t, Issues .tcopy w s i → good → placeFault i s .load o.from_ o.srcRows = some t → placeFault i s .store o.to_ o.rows = none →
      Traps (.tcopy w) s i { t with mask := i.act }) ∧
    (∀ t, Issues .tcopy w s i → good → placeFault i s .load o.from_ o.srcRows = none → placeFault i s .store o.to_ o.rows = some t →
      Traps (.tcopy w) s i { t with mask := i.act }) ∧
    (∀ t u, Issues .tcopy w s i → good → placeFault i s .load o.from_ o.srcRows = some t → placeFault i s .store o.to_ o.rows = some u →
      Traps (.tcopy w) s i { (if u.sub < t.sub then u else t) with mask := i.act }) ∧
    (∀ t, Issues .tcopy w s i → good → clear → det = .error t → Traps (.tcopy w) s i { t with mask := i.act }) ∧
    (∀ v, Issues .tcopy w s i → good → clear → det = .ok v →
      Completes (.tcopy w) s i { (g v).2 with copies := (g v).2.copies ++ [{ o with op := (g v).1, todo := o.sectors }] } ∧
      (g v).2.copies = s.copies ∧ ∀ sys a, (g v).2.mem.byte sys a = s.mem.byte sys a) ∧
    (Issues .mcast w s i → ¬ cast → Traps (.mcast w) s i { cause := 3, mask := i.act }) ∧
    (∀ t, Issues .mcast w s i → cast → placeFault i s .load src rows = some t → Traps (.mcast w) s i { t with mask := i.act }) ∧
    (Issues .mcast w s i → cast → placeFault i s .load src rows = none → ¬ front → Stalls (.mcast w) s i none) ∧
    (∀ t, Issues .mcast w s i → cast → placeFault i s .load src rows = none → front → cdet = .error t →
      Traps (.mcast w) s i { t with mask := i.act }) ∧
    (∀ u, Issues .mcast w s i → cast → placeFault i s .load src rows = none → front → cdet = .ok u →
      Completes (.mcast w) s i { (h u).2 with casts := (h u).2.casts ++ [op u] } ∧
      (h u).2.casts = s.casts ∧ ∀ sys a, (h u).2.mem.byte sys a = s.mem.byte sys a)

/-- 11_isa_memory.md:R247, R248, R249: the sectors of a copy's destination range cover it: every byte of a range lies in exactly one
sector, the sectors are as many as R248 counts, and each lies in one 32-byte unit. -/
def Sys2Proof.Claims.SectorsCover : Prop :=
  ∀ (d len k : Nat), k < len →
    let n := (d + len + 31) / 32 - d / 32
    sectorCount d len = n ∧
    ∃ j, j < n ∧ (sectorPiece d len j).1 ≤ k ∧ k < (sectorPiece d len j).1 + (sectorPiece d len j).2 ∧
      (∀ i, i < n → (sectorPiece d len i).1 ≤ k → k < (sectorPiece d len i).1 + (sectorPiece d len i).2 → i = j) ∧
      (d + (sectorPiece d len j).1) / 32 = (d + (sectorPiece d len j).1 + (sectorPiece d len j).2 - 1) / 32

/-- 11_isa_memory.md:R255, R256: `lkl` tries to lock the line of each active lane, ascending, and writes whether it is locked; `ulk`
unlocks the lines of its lanes that its context holds, and `pref` fills copies; none of them changes a byte of memory. A
translation fault of any lane traps first, except for `pref`. -/
def Sys2Proof.Claims.CacheControl : Prop :=
  ∀ (s : State) (w : W) (i : Iss),
    let rs := i.lanes.map (fun l => (l, i.src w 2 w.a l, 1))
    let line := fun (u : State) l => match u.translate i.ctx (i.src w 2 w.a l) .load with
      | .ok x => some (x, x.pa / 128)
      | .error _ => none
    let r := i.lanes.foldl (fun (a : List Nat × State) l => match line a.2 l with
      | some x => let k := a.2.lockLine i.ctx x.1; (if k.1 then a.1 ++ [l] else a.1, k.2)
      | none => a) ([], s)
    let mine := i.lanes.filterMap (fun l => match line s l with
      | some x => if x.1.sys then none else some x.2
      | none => none)
    (∀ t, Issues .lkl w s i → s.laneFault i.ctx .load rs = some t → Traps (.lkl w) s i t) ∧
    (∀ t, Issues .ulk w s i → s.laneFault i.ctx .load rs = some t → Traps (.ulk w) s i t) ∧
    (Issues .lkl w s i → s.laneFault i.ctx .load rs = none →
      Completes (.lkl w) s i (r.2.updRef i.r (fun wp => wp.putP w.d i.lanes (fun l => r.1.contains l))) ∧
      r.2 = { s with mem := { s.mem with locks := r.2.mem.locks } }) ∧
    (Issues .ulk w s i → s.laneFault i.ctx .load rs = none → ∃ m : Memory, Completes (.ulk w) s i { s with mem := m } ∧
      m = { s.mem with locks := m.locks } ∧
      ∀ c k, (c, k) ∈ m.locks ↔ (c, k) ∈ s.mem.locks ∧ ¬ (c = i.ctx ∧ k ∈ mine)) ∧
    (Issues .pref w s i → ∃ u, Completes (.pref w) s i u ∧ (∀ sys a, u.mem.byte sys a = s.mem.byte sys a) ∧
      (w.mod = 0 → u = s) ∧ u = { s with mem := { s.mem with l1 := u.mem.l1, lmax := u.mem.lmax, tlb := u.mem.tlb } }) ∧
    (∀ x : Xlat, (s.lockLine i.ctx x).1 = true → (s.lockLine i.ctx x).2.mem.locks.any (fun k => k.2 == x.pa / 128) = true) ∧
    (∀ x : Xlat, (s.lockLine i.ctx x).1 = false → (s.lockLine i.ctx x).2 = s)

/-- 11_isa_memory.md:R257, R258; 10_ordering.md:R213, R224, R225, R232, R234, R236: the remote words name a module and an offset by
a pod-global address, are illegal on any other or on a misaligned one, and send their operation with the source as it stands when
they issue; `ratom` sends one for each lane and keeps its path at the word until the results land. In a deterministic grid every
remote word waits so for the target's detector: a `ratom` first asks each target about all its lanes there, and is performed, or
held back to the end of its interval when it is a float one, once they have been accepted (10_ordering.md:R224, R234, R236). An
operation that comes behind one of its warp that is held back so is held back with it, once it has been accepted. An `rput` and an
`rget` stall while their place here comes behind older asynchronous operations of the warp (10_ordering.md:R213, R225).
Where the spec leaves a point open, the model's choice is stated: log 6, log 7, log 55. -/
def Obligations.RemoteWords : Prop :=
  ∀ (s : State) (w : W) (i : Iss) (m off : Nat), i.warp.canRaise (i.counter w) = true →
    let n := i.uni w 1 w.b
    let sp := !w.mod.getLsbD 1
    let ordered := !w.mod.getLsbD 0
    let src := i.place w sp w.a
    let dst := i.place w sp w.d
    let good := fun (base : Nat) => remoteLenOk n base = true ∧ i.optTbOk w = true
    let illegal := fun ins => Traps ins s i { cause := 3, mask := i.act }
    let judged := i.grid.rec_.det = true
    let unasked := judged ∧ i.r.handler = false ∧ ∀ ok v, i.path.park ≠ .released ok v
    let stays := fun (ins : Instr) (x : Nat × State) => exec ins s = .next { x.2.updRef i.r (fun wp =>
        let wp := wp.parkAt i.r.lane (.remote x.1)
        { wp with busy := wp.busy ++ [x.1] }) with cur := none }
    let goes := fun (ins : Instr) (u : State) (kind : Nat) (chip : Bool) (left det : Nat) (o : RemoteOp) =>
      (i.behindHeld o = false → judged → stays ins (u.issueRemote i w kind chip left [o])) ∧
      (i.behindHeld o = false → ¬ judged → Completes ins s i (u.issueRemote i w kind chip left [o]).2) ∧
      (i.behindHeld o = true → unasked →
        stays ins (u.askDetectors i det (i.lanes.map (fun l => (o.target, l, o.off.toNat, remoteSize o.kind))))) ∧
      (i.behindHeld o = true → ¬ unasked → Completes ins s i (u.holdBack i w kind chip left [{ o with det := none }]).2)
    let put := fun u : State =>
      let f := placeFill i u .load src [(0, n)]
      let x := f.2.engineRead i.r i.ctx src 0 n
      let bad := (List.range (sectorCount off n)).filter (fun k =>
        (f.2.engineRead i.r i.ctx src (sectorPiece off n k).1 (sectorPiece off n k).2).2.1)
      goes (.rput w) x.2.2 3 f.1 1 1 { i.remote m off (.put x.1 bad) ordered 1 with len := n, bar := i.optTb w }
    let get := fun u : State =>
      let f := placeFill i u .store dst [(0, n)]
      let kind := match dst with | .glob _ => 2 | .sp _ => if onOwnCore i dst [(0, n)] then 1 else 0
      goes (.rget w) f.2 kind f.1 (sectorCount dst.base n) 0
        { i.remote m off (.get n) ordered 0 with len := n, bar := i.optTb w, to_ := some dst }
    let v := i.uni w 2 w.b
    let ab := atomBytes (atomTy w)
    let lane := fun l => podAddr (i.src w 2 w.a l)
    let aligned := ∀ l ∈ i.lanes, ∃ x, lane l = some x ∧ x.2 % ab = 0
    let os := i.lanes.filterMap (fun l => (lane l).map (fun x =>
      { i.remote x.1 x.2 (.atom (atomOp w) (atomTy w) w.sat (BitVec.ofNat 64 (atomArgs w i l).1)
          (BitVec.ofNat 64 (atomArgs w i l).2)) (!w.mod.getLsbD 4) (atomKind w) with
        lane := l, dst := some w.d, nf := w.nf, det := none }))
    let held := ∃ o ∈ os, i.behindHeld o = true
    let front := fun (acc : Acc) (p : Place) => i.behind acc (placeRanges i p [(0, n)]) s = false
    let ask := s.askDetectors i (atomKind w) (os.map (fun o => (o.target, o.lane, o.off.toNat, ab)))
    let probed := fun t : Nat => (os.filter (fun o => o.target == t)).map (fun o => (o.lane, o.off.toNat, ab))
    let later := i.grid.rec_.det = true ∧ atomTy w = 1
    (∀ a, podAddr a = (if 2 ^ 56 ≤ a ∧ a < 2 ^ 57 then some (a / 2 ^ 50 % 64, a % 2 ^ 50) else none)) ∧
    (Issues .rput w s i → podAddr (i.uni w 2 w.d) = none → illegal (.rput w)) ∧
    (Issues .rget w s i → podAddr (i.uni w 2 w.a) = none → illegal (.rget w)) ∧
    (Issues .rflag w s i → podAddr (i.uni w 2 w.a) = none → illegal (.rflag w)) ∧
    (Issues .rwake w s i → podAddr (i.uni w 2 w.a) = none → illegal (.rwake w)) ∧
    (∀ u, Issues .rput w s i → podAddr (i.uni w 2 w.d) = some (m, off) → good src.base → placeInside i src [(0, n)] = true →
      placeFault i s .load src [(0, n)] = none → front .load src → i.detect 0 (placeSectors i s .load src [(0, n)]) s = .ok u →
      put u) ∧
    (Issues .rput w s i → podAddr (i.uni w 2 w.d) = some (m, off) → good src.base → placeInside i src [(0, n)] = true →
      placeFault i s .load src [(0, n)] = none → ¬ front .load src → Stalls (.rput w) s i none) ∧
    (∀ u, Issues .rget w s i → podAddr (i.uni w 2 w.a) = some (m, off) → good dst.base → placeInside i dst [(0, n)] = true →
      placeFault i s .store dst [(0, n)] = none → front .store dst → i.detect 1 (placeSectors i s .store dst [(0, n)]) s = .ok u →
      get u) ∧
    (Issues .rget w s i → podAddr (i.uni w 2 w.a) = some (m, off) → good dst.base → placeInside i dst [(0, n)] = true →
      placeFault i s .store dst [(0, n)] = none → ¬ front .store dst → Stalls (.rget w) s i none) ∧
    (Issues .rflag w s i → podAddr (i.uni w 2 w.a) = some (m, off) → off % 8 = 0 →
      goes (.rflag w) s 3 false 1 1 (i.remote m off (.flag (BitVec.ofNat 64 v)) true 1)) ∧
    (Issues .rwake w s i → podAddr (i.uni w 2 w.a) = some (m, off) → off % 8 = 0 →
      goes (.rwake w) s 3 false 1 2 (i.remote m off (.wake (BitVec.ofNat 64 n)) false 2)) ∧
    (Issues .rflag w s i → podAddr (i.uni w 2 w.a) = some (m, off) → off % 8 ≠ 0 → illegal (.rflag w)) ∧
    (Issues .rwake w s i → podAddr (i.uni w 2 w.a) = some (m, off) → off % 8 ≠ 0 → illegal (.rwake w)) ∧
    (Issues .ratom w s i → ¬ aligned → illegal (.ratom w)) ∧
    (Issues .ratom w s i → later → w.d ≠ .none → illegal (.ratom w)) ∧
    (Issues .ratom w s i → aligned → (later → w.d = .none) → unasked → stays (.ratom w) ask) ∧
    (Issues .ratom w s i → aligned → ¬ unasked → ¬ later → ¬ held →
      stays (.ratom w) (s.issueRemote i w 3 false os.length os)) ∧
    (Issues .ratom w s i → aligned → ¬ unasked → later ∨ (judged ∧ held) → w.d = .none →
      Completes (.ratom w) s i (deferRatom w i os s)) ∧
    (Issues .ratom w s i → aligned → ¬ unasked → ¬ later → held → ¬ (judged ∧ w.d = .none) →
      stays (.ratom w) (s.holdBack i w 3 false os.length os)) ∧
    (∀ o : RemoteOp, i.behindHeld o = true ↔ ∃ a ∈ i.grid.detAtoms, a.tkt = i.blk.tkt ∧ a.wrp = i.r.wrp ∧
      ∃ x, a.rop = some x ∧ x.target = o.target ∧ (o.isFlag = true ∨ (o.ordered = true ∧ x.ordered = true) ∨
        (x.isFloat = false ∧ remoteReads x.kind = false ∧ x.off.toNat < o.off.toNat + remoteSize o.kind ∧
          o.off.toNat < x.off.toNat + remoteSize x.kind))) ∧
    (∀ (u : State) (kind left : Nat) (chip : Bool) (l : List RemoteOp),
      let x := (u.holdBack i w kind chip left l).2
      x.rops = u.rops ∧ x.mem = u.mem ∧ (x.grid? i.r.lsq).map (fun g => g.detAtoms.map DetAtom.rop) =
        (u.grid? i.r.lsq).map (fun g => g.detAtoms.map DetAtom.rop ++ l.map (fun o => some { o with grp := u.nextId }))) ∧
    ask.2.mem = s.mem ∧
    (∀ o ∈ os, ∃ x ∈ ask.2.rops, x.grp = s.nextId ∧ x.target = o.target ∧ x.kind = .probe (probed o.target)) ∧
    (∀ x ∈ ask.2.rops, x ∈ s.rops ∨ (x.grp = s.nextId ∧ x.kind = .probe (probed x.target)))

/-- 11_isa_memory.md:R259: `waitw` goes on with D true when the word at its address meets the condition, with D false when it does
not and the deadline has passed, and parks otherwise; a misaligned address is illegal and a translation fault traps, as does an
access that the detector refuses (10_ordering.md:R234). A path that was released goes on with what the wait found. A value that was
observed leaves no older copy of its line in the core's L1, and the word stalls behind the warp's asynchronous operations where the
order asks for it (10_ordering.md:R213, R225). -/
def Sys2Proof.Claims.WaitForWord : Prop :=
  ∀ (s : State) (w : W) (i : Iss), Issues .waitw w s i →
    let a := i.uni w 2 w.a
    let cmp := BitVec.ofNat 64 (i.uni w 2 w.b)
    let cond := w.mod.toNat % 4
    let dl : Option DWord := if w.c = .none then none else some (BitVec.ofNat 64 (i.uni w 2 w.c))
    let late := ∃ d, dl = some d ∧ d.toNat < s.time.toNat
    let holds := fun v : Nat =>
      if cond = 0 then v ≠ cmp.toNat else if cond = 1 then v = cmp.toNat else if cond = 2 then cmp.toNat ≤ v else cmp.toNat < v
    let fault := s.laneFault i.ctx .load [(i.lane0, a, 8)]
    let det := i.detect 0 (s.detSectors i.ctx .load [(i.lane0, a, 8)]) s
    let t := fun (u : State) (x : Xlat) => ((u.fillTlb i.ctx a).flushOwn i.r x 8).noteSys x.sys x.pa
    let front := i.behind .load [(i.lane0, a, 8)] s = false
    let val := fun (u : State) (x : Xlat) => (t u x).mem.nat x.sys x.pa 8
    let go := fun (u : State) (b : Bool) => Completes (.waitw w) s i ((u.observed i a).updRef i.r (fun wp => wp.putP w.d i.lanes (fun _ => b)))
    let waits := ∀ ok v, i.path.park ≠ .released ok v
    (∀ ok v, i.path.park = .released ok v → go s ok) ∧
    (waits → a % 8 ≠ 0 → Traps (.waitw w) s i { cause := 3, mask := i.act }) ∧
    (∀ e, waits → a % 8 = 0 → fault = some e → Traps (.waitw w) s i { e with mask := i.act }) ∧
    (∀ x, waits → a % 8 = 0 → fault = none → s.translate i.ctx a .load = .ok x → ¬ front → Stalls (.waitw w) s i none) ∧
    (∀ x e, waits → a % 8 = 0 → fault = none → s.translate i.ctx a .load = .ok x → front → det = .error e →
      Traps (.waitw w) s i { e with mask := i.act }) ∧
    (∀ x u, waits → a % 8 = 0 → fault = none → s.translate i.ctx a .load = .ok x → front → det = .ok u → holds (val u x) →
      go (t u x) true) ∧
    (∀ x u, waits → a % 8 = 0 → fault = none → s.translate i.ctx a .load = .ok x → front → det = .ok u → ¬ holds (val u x) → late →
      go (t u x) false) ∧
    (∀ x u, waits → a % 8 = 0 → fault = none → s.translate i.ctx a .load = .ok x → front → det = .ok u → ¬ holds (val u x) → ¬ late →
      exec (.waitw w) s = .next
        { (t u x).updRef i.r (fun wp => wp.parkAt i.r.lane (.waitw x.sys x.pa cond cmp dl)) with cur := none }) ∧
    (∀ u : State, ∃ l1, u.observed i a = { u with mem := { u.mem with l1 := l1 } } ∧ (∀ c ∈ l1, c ∈ u.mem.l1) ∧
      ∀ x, u.translate i.ctx a .load = .ok x → x.sys = false → ∀ c ∈ l1, ¬ (c.core = i.warp.core ∧ c.line = x.pa / 128))

namespace Sys2Proof.Machine

/-- The earlier accesses of a path are ordered as a `fence` of a scope orders them: its wait was released, or nothing that the
scope covers is outstanding and the pod time has passed the scope's completion time (10_ordering.md:R221). -/
def Fenced (s : State) (i : Iss) (scope : Nat) : Prop :=
  (∃ ok v, i.path.park = .released ok v) ∨
    ((i.path.park = .run ∨ ∃ n, i.path.park = .stall n) ∧ s.fenceOps i.r scope = [] ∧ (i.warp.wctOf scope).toNat < s.time.toNat)

/-- A word that orders as a `fence` does parks its path there until it may go on. -/
def FenceWaits (ins : Instr) (s : State) (i : Iss) (scope : Nat) : Prop :=
  (i.path.park = .run ∨ ∃ n, i.path.park = .stall n) → ¬ Fenced s i scope →
    StepsBy ins s i (fun wp => wp.parkAt i.r.lane (.fence scope (s.fenceOps i.r scope)))

/-- The active lanes end at the end of the clause, the others of the path stand at the next clause, and no register changes
(04_isa_core.md:R124). -/
def EndsLanes (i : Iss) (f : Warp → Warp) : Prop :=
  (∀ l, l < 32 → (f i.warp).live.getLsbD l = (i.warp.live.getLsbD l && decide (l ∉ i.lanes))) ∧
  (∀ l, i.path.mask.getLsbD l = true → l ∉ i.lanes → (f i.warp).standsAt l (nextClause i.path.hdr i.path.held) 0) ∧
  f i.warp = { i.warp with live := (f i.warp).live, paths := (f i.warp).paths, pass := (f i.warp).pass }

end Sys2Proof.Machine

/-- 14_isa_sync.md:R282 to R285: an arriving `bar` adds its active lanes to the phase, gives the phase bit in D, and completes the
phase when the count reaches the expected one, which lets the waiting paths go on; otherwise `bar.aw` parks. A waiting `bar`
goes on when the phase bit differs from the parity it waits for. Counts outside the rules are illegal. While a confidential copy of
the warp owes its status word, an arrival stays at its word (10_ordering.md:R222; 17_prog_copyin.md:R318). -/
def Sys2Proof.Claims.NamedBarriers : Prop :=
  (∀ (s : State) (w : W) (i : Iss), Issues .bar w s i →
    let b := i.barrier w
    let n := i.uni w 1 w.b
    let m := i.lanes.length
    let new := (∀ ok v, i.path.park ≠ .released ok v) ∧ ∀ k q, i.path.park ≠ .bar k q
    let legal := 1 ≤ n ∧ n ≤ 4096 ∧ (b.exc = 0 ∨ b.exc = n) ∧ b.arc + m ≤ n
    let full := b.arc + m = n
    let owes := ∃ o ∈ s.copies, o.gcm.isSome = true ∧ o.data = none ∧ o.src.sameWarp i.r = true
    let after : Barrier := if b.arc + m = n then { phb := !b.phb, arc := 0, exc := 0, warps := [] }
      else { phb := b.phb, arc := b.arc + m, exc := n, warps := insertNat i.r.wrp b.warps }
    let u := (s.updRef i.r (fun wp => wp.putP w.d i.lanes (fun _ => b.phb))).setBarrier i w b after
    let parity := if w.c = .none then b.phb else i.warp.pred w.c i.lane0
    let fits := n ≤ 4096 ∧ (n = 0 ∨ b.exc = 0 ∨ n = b.exc)
    let illegal := Traps (.bar w) s i { cause := 3, mask := i.act }
    (∀ ok v, i.path.park = .released ok v → Completes (.bar w) s i s) ∧
    (new → w.mod ≠ 2 → ¬ legal → illegal) ∧
    (new → w.mod ≠ 2 → legal → owes → exec (.bar w) s = .next { s with cur := none }) ∧
    (new → w.mod ≠ 2 → legal → ¬ owes → (w.mod = 1 ∨ full) → Completes (.bar w) s i u) ∧
    (new → w.mod = 0 → legal → ¬ owes → ¬ full → exec (.bar w) s = .next
      { u.updRef i.r (fun wp => wp.parkAt i.r.lane (.bar w.a.resIx b.phb)) with cur := none }) ∧
    (new → w.mod = 2 → ¬ fits → illegal) ∧
    (new → w.mod = 2 → fits → b.phb ≠ parity → Completes (.bar w) s i s) ∧
    (new → w.mod = 2 → fits → b.phb = parity →
      StepsBy (.bar w) s i (fun wp => wp.parkAt i.r.lane (.bar w.a.resIx parity)))) ∧
  (∀ (s : State) (i : Iss) (w : W) (old new : Barrier),
    let there := i.blk.warps.all (fun wp => wp.live == 0 || wp.idx == i.r.wrp || old.warps.contains wp.idx)
    let u := i.updBlk s (fun b =>
      if old.phb = new.phb then { b with bars := updAt b.bars w.a.resIx (fun _ => new) }
      else ({ b with bars := updAt b.bars w.a.resIx (fun _ => new) } : Block).mapPaths (Path.barRelease w.a.resIx old.phb))
    s.setBarrier i w old new = if old.phb ≠ new.phb ∧ there = true then u.endInterval i.r.lsq i.r.tkt else u) ∧
  ∀ (p : Path) (n : Nat) (par : Bool),
    p.barRelease n par = if p.park = .bar n par then { p with park := .released true 0 } else p

/-- 14_isa_sync.md:R286 to R289; 13_progress.md:R271, R274; 02_state.md:R45, R49: `yield` has its warp passed over once, and in a
deterministic grid lets the core choose its running warp afresh; `phase` raises the core's phase counter and gives it; `xget`
gives a warp that holds none a block of extended registers that read 0, whose other paths that wait for one judge their words again,
parks, or with `.try` gives false; `xput` gives the block up, once no collective that the warp has issued is still to write its
registers. Requests outside the rules are illegal. -/
def Sys2Proof.Claims.YieldsAndExtendedRegisters : Prop :=
  (∀ (s : State) (w : W) (i : Iss),
    let n := i.uni w 1 w.a
    let v := cget i.grid.phase i.warp.core + BitVec.ofNat 32 n
    let ok := n ∈ [8, 16, 32, 64, 128, 256] ∧ n ≤ i.grid.rec_.ext ∧ i.warp.ext = 0 ∧ i.r.handler = false
    let note := fun b : Bool => s.updRef i.r (fun wp => wp.putP w.d i.lanes (fun _ => b))
    let owed := ∃ c ∈ i.warp.colls, c.arrived = true ∧ ∃ r, c.w.d = .v r ∧
      8 * i.grid.rec_.base < r.val + (if c.op = .shfl ∧ c.w.mod.getLsbD 2 = true then 2 else 1)
    let illegal := fun ins => Traps ins s i { cause := 3, mask := i.act }
    (Issues .yield w s i → i.grid.rec_.det = false → Completes (.yield w) s i (s.updRef i.r (fun wp => { wp with pass := true }))) ∧
    (Issues .yield w s i → i.grid.rec_.det = true →
      Completes (.yield w) s i (i.updCore s (fun c => { c with running := none }))) ∧
    (Issues .phase w s i → 1 ≤ n → n ≤ 255 → Completes (.phase w) s i
      ((s.updGrid i.r.lsq (fun g => { g with phase := cset g.phase i.warp.core v })).updRef i.r (fun wp =>
        wp.put 1 w.d i.lanes (fun _ => v.toNat)))) ∧
    (Issues .phase w s i → ¬ (1 ≤ n ∧ n ≤ 255) → illegal (.phase w)) ∧
    (∀ spot, Issues .xget w s i → ok → s.extNow i n = some spot → Completes (.xget w) s i
      ((note true).updRef i.r (fun wp => wp.takeExt i.grid.rec_.base n spot))) ∧
    (Issues .xget w s i → ok → s.extNow i n = none → w.mod = 1 → Completes (.xget w) s i (note false)) ∧
    (Issues .xget w s i → ok → s.extNow i n = none → w.mod = 0 → exec (.xget w) s = .next
      { ({ s with nextId := s.nextId + 1 } : State).updRef i.r (fun wp => wp.parkAt i.r.lane (.xget n s.nextId)) with cur := none }) ∧
    (Issues .xget w s i → ¬ ok → illegal (.xget w)) ∧
    (Issues .xput w s i → i.warp.ext ≠ 0 → ¬ owed → Completes (.xput w) s i (s.updRef i.r (fun wp => wp.dropExt i.grid.rec_.base))) ∧
    (Issues .xput w s i → i.warp.ext ≠ 0 → owed → exec (.xput w) s = .next { s with cur := none }) ∧
    (Issues .xput w s i → i.warp.ext = 0 → illegal (.xput w))) ∧
  ∀ (wp : Warp) (base n spot : Nat),
    let u := wp.grantExt base n spot
    u.ext = n ∧ u.extAt = spot ∧ (wp.dropExt base).ext = 0 ∧
    (∀ k, cget u.v k = if k < 32 * (8 * base) then cget wp.v k else 0) ∧
    (∀ r, cget u.tags r = if r < 8 * base then cget wp.tags r else 0) ∧
    (∀ k, cget (wp.dropExt base).v k = cget u.v k) ∧
    u = { wp with v := u.v, tags := u.tags, ext := u.ext, extAt := u.extAt } ∧
    (∃ f : Path → Path, wp.takeExt base n spot = { u with paths := wp.paths.map f } ∧
      ∀ p, ((∃ a b, p.park = .xget a b) → f p = { p with park := .run }) ∧ ((∀ a b, p.park ≠ .xget a b) → f p = p))

/-- 14_isa_sync.md:R290, R294 to R296; 13_progress.md:R262, R267, R268: `hud` deposits an entry for each active lane and ends them,
when its continuation is a clause and the round has no other, an illegal encoding of the target coming first and its fetch faults
last (02_state.md:R56); `qpost` adds n to the notify word of a queue of its context, gives the old count, and sets the pending bit
of an enabled queue; `launch` hands its record to the front end and gives the code of a refusal, or 0, and a grid so launched is a
child of the launching one with the next launch sequence; its reading leaves only what the security unit and the error log note of
it. Both wait as a `fence` does.
Where the spec leaves a point open, the model's choice is stated: log 18, log 25, log 62. -/
def Obligations.WorkWords : Prop :=
  (∀ (s : State) (w : W) (i : Iss),
    let cont := i.path.hdr + BitVec.ofInt 64 (16 * w.imm.toInt)
    let bad := badTargets s i.ctx i.lanes (fun _ => cont)
    let other := i.r.handler = true ∨ ∃ d, i.blk.hudCont = some d ∧ d ≠ cont
    let encoding := fun t : TrapV => t.cause = 1
    let deposits := i.lanes.map (fun l =>
      ({ key := i.src w 1 w.a l % 2 ^ 16, payload := BitVec.ofNat 64 (i.src w 2 w.b l), wrp := i.r.wrp, lane := l } : HudEntry))
    let room := i.warp.canRaise (i.counter w) = true
    let q := i.uni w 1 w.a
    let n := i.uni w 1 w.b
    let own := fun t => q ≤ 4095 ∧ 1 ≤ n ∧ n ≤ 65535 ∧ bits (s.mem.queueDesc t q) 162 6 = i.ctx
    let lra := BitVec.ofNat 64 (i.uni w 2 w.a)
    let cwa : Option DWord := if w.b = .none then none else some (BitVec.ofNat 64 (i.uni w 2 w.b))
    let cwv : DWord := if w.c = .none then 1 else BitVec.ofNat 64 (i.uni w 2 w.c)
    let l : Launch := { ctx := i.ctx, lra := lra, target := .inside (some i.r.lsq) (w.imm.toNat % 16) (w.imm.toNat / 16 % 16)
                        cwa := cwa, cwv := cwv, rst := false }
    let x := s.launchAll l
    let aligned := lra.toNat % 256 = 0 ∧ ∀ a, cwa = some a → a.toNat % 8 = 0
    let give := fun (u : State) (v : Nat) => u.updRef i.r (fun wp => wp.put 1 w.d i.lanes (fun _ => v))
    let illegal := fun ins => Traps ins s i { cause := 3, mask := i.act }
    (∀ t, Issues .hud w s i → firstTrap bad = some t → (encoding t ∨ ¬ other) → Traps (.hud w) s i t) ∧
    (∀ t, Issues .hud w s i → firstTrap bad = some t → ¬ encoding t → other → illegal (.hud w)) ∧
    (Issues .hud w s i → bad = [] → other → illegal (.hud w)) ∧
    (Issues .hud w s i → bad = [] → ¬ other → ∃ f, EndsLanes i f ∧ exec (.hud w) s = .next
      { (i.updBlk s (fun b => { b with huddle := b.huddle ++ deposits, hudCont := some cont })).updRef i.r f with cur := none }) ∧
    (∀ t, Issues .qpost w s i → room → Fenced s i 2 → s.front.table = some t → own t →
      Completes (.qpost w) s i (give (s.postQueue i w t q n).2 (s.mem.nat false (t + 64 * q) 4))) ∧
    (∀ t, Issues .qpost w s i → room → Fenced s i 2 → s.front.table = some t → ¬ own t → illegal (.qpost w)) ∧
    (Issues .qpost w s i → room → Fenced s i 2 → s.front.table = none → illegal (.qpost w)) ∧
    (Issues .qpost w s i → room → FenceWaits (.qpost w) s i 2) ∧
    (Issues .launch w s i → room → Fenced s i 1 → aligned → Completes (.launch w) s i
      (give (if x.1 = 0 then x.2 else x.2.completionStore i.ctx cwa (BitVec.ofNat 64 (2 ^ 63 + x.1)) 0 0) x.1)) ∧
    (Issues .launch w s i → room → Fenced s i 1 → ¬ aligned → illegal (.launch w)) ∧
    (Issues .launch w s i → room → FenceWaits (.launch w) s i 1)) ∧
  (∀ (s : State) (i : Iss) (w : W) (t q n : Nat), s.front.table = some t → q ≤ 4095 →
    let u := (s.postQueue i w t q n).2
    u.mem.nat false (t + 64 * q) 4 = (s.mem.nat false (t + 64 * q) 4 + n) % 2 ^ 32 ∧
    (∀ sys a, ¬ (sys = false ∧ t + 64 * q ≤ a ∧ a < t + 64 * q + 4) → u.mem.byte sys a = s.mem.byte sys a) ∧
    (s.mem.queueOn t q = true → q ∈ u.front.pending)) ∧
  ∀ (s : State) (l : Launch),
    ((s.ctxDesc l.ctx).getLsbD 64 = false → s.launchAll l = (6, s)) ∧
    (∀ k, ∃ sec att, s.launchSeen l k = { s with sec := sec, att := att }) ∧
    (∀ c, s.judge l.ctx l.lra l.target 0 = .refused c → c ≠ 0 → s.launchAll l = (c, s.launchSeen l 0)) ∧
    (∀ r t lsq x y p, l.target = .inside (some lsq) x y → s.grid? lsq = some p →
      s.judge l.ctx l.lra l.target 0 = .accepted r t 0 → ∃ g, s.launchAll l = (0, { s.launchSeen l 0 with
        grids := s.grids ++ [g], front := { s.front with nextLsq := s.front.nextLsq + 1 } }) ∧
        g.lsq = s.front.nextLsq ∧ g.rec_ = r ∧ g.parent = some lsq ∧ g.rx = p.rx + x ∧ g.ry = p.ry + y ∧
        g.cwa = l.cwa ∧ g.cwv = l.cwv ∧ g.nextTkt = 0 ∧ g.ended = 0 ∧ g.killCode = 0)

/-- 20_isa_system.md:R355 to R362; 04_isa_core.md:R127; 18_recovery.md:R321: a selector in a handler names a warp of its own block, in
the firmware a warp of a block by context and frame. `refrd` reads an item of a warp that is stopped or has trapped, `refwr` writes
one of a warp that the issuer holds, `refres` lets it go on, `refstop` stops one at a clause boundary, and `refkill` kills every
block of the grid. A breach of the rules is illegal. -/
def Sys2Proof.Claims.RefereeWords : Prop :=
  (∀ (s : State) (w : W) (i : Iss) (b : Block) (t : Warp) (g : Grid), i.namedWarp s w = some (b, t) → s.grid? b.lsq = some g →
    let item := w.imm.toNat % 2 ^ 12
    let x := i.uni w 1 w.b
    let lane := i.uni w 1 w.c
    let all := w.mod.getLsbD 0
    let reads := (t.stopped = true ∨ t.trap ≠ none) ∧ (itemPerThread item = true → x ≤ 31) ∧ itemBeyond t g item = false
    let writes := t.holder = i.holder ∧ (itemPerThread item = true → all = true ∨ lane ≤ 31) ∧ itemWritable t g item x = true
    let mine := t.holder = i.holder ∧ ¬ (i.firmware = false ∧ ∃ a, i.blk.handler = some a ∧ a.trapped = t.idx)
    let mode := RetMode.ofMod w.mod.toNat
    let upd := fun f => s.updWarp b.lsq b.tkt t.idx f
    let ckpt := fun r : TrapRec => if mode = .ckpt then ckptTrap s (s.ctxOf b.lsq) t r.mask else none
    let note := fun (u : State) (v : Bool) => u.updRef i.r (fun wp => wp.putP w.d i.lanes (fun _ => v))
    let rests := t.holder = .free ∧ t.atRest = true ∧ t.busy = []
    let illegal := fun ins => Traps ins s i { cause := 3, mask := i.act }
    (Issues .refrd w s i → reads → LaneWord (.refrd w) s i 1 w.d (fun _ => itemRead s b g t item x) noFlags) ∧
    (Issues .refrd w s i → ¬ reads → illegal (.refrd w)) ∧
    (Issues .refwr w s i → writes → Completes (.refwr w) s i
      (upd (fun t => t.itemWrite item x (if all then lanesOf t.live else [lane])))) ∧
    (Issues .refwr w s i → ¬ writes → illegal (.refwr w)) ∧
    (∀ r, Issues .refres w s i → mine → t.trap = some r → ckpt r = none →
      Completes (.refres w) s i (upd (fun t => t.returnFrom r mode))) ∧
    (∀ r e, Issues .refres w s i → mine → t.trap = some r → ckpt r = some e → Traps (.refres w) s i { e with mask := i.act }) ∧
    (Issues .refres w s i → mine → t.trap = none → mode = .retry → Completes (.refres w) s i (upd (fun t => t.resume b.bars))) ∧
    (Issues .refres w s i → (¬ mine ∨ (t.trap = none ∧ mode ≠ .retry)) → illegal (.refres w)) ∧
    (Issues .refstop w s i → t.holder = i.holder → Completes (.refstop w) s i (note s true)) ∧
    (Issues .refstop w s i → t.holder ≠ i.holder → t.ended = true → Completes (.refstop w) s i (note s false)) ∧
    (Issues .refstop w s i → t.holder ≠ i.holder → t.ended = false → rests → Completes (.refstop w) s i
      (note (upd (fun t => { t with holder := i.holder, stopped := true })) true)) ∧
    (Issues .refstop w s i → t.holder ≠ i.holder → t.ended = false → ¬ rests → StepsBy (.refstop w) s i (fun wp =>
      wp.parkAt i.r.lane (.stopping { lsq := b.lsq, tkt := b.tkt, wrp := t.idx, lane := 0, handler := false })))) ∧
  (∀ (s : State) (w : W) (i : Iss),
    let sel := i.uni w 1 w.a
    let n := w.imm.toNat
    let illegal := fun ins => Traps ins s i { cause := 3, mask := i.act }
    let code := if i.firmware then (if 1 ≤ n ∧ n ≤ 12 then some n else none)
      else if n ≠ 0 then none else i.trapped.bind (fun t => t.trap.map TrapRec.cause)
    (∀ op ∈ [Op.refrd, .refwr, .refres, .refstop], Issues op w s i → i.namedWarp s w = none → illegal (Instr.ofOp op w)) ∧
    (Issues .refkill w s i → (i.named s sel = none ∨ code = none) → illegal (.refkill w)) ∧
    ∀ b k c, Issues .refkill w s i → i.named s sel = some (b, k) → code = some c →
      let wrp := match i.blk.handler with
        | some a => if b.lsq = i.r.lsq ∧ b.tkt = i.r.tkt then a.trapped else 0
        | none => 0
      let u := s.killBlock b.lsq b.tkt wrp c
      (i.firmware = true → Completes (.refkill w) s i u) ∧
      (i.firmware = false → exec (.refkill w) s = .next { u with cur := none })) ∧
  (∀ (s : State) (i : Iss) (sel : Nat), sel < 2 ^ 32 → i.firmware = false →
    i.named s sel =
      if sel / 2 ^ 31 = 1 ∧ sel % 2 ^ 31 / 2 ^ 7 = 0 ∧ sel % 2 ^ 7 < i.blk.warps.length then some (i.blk, sel % 2 ^ 7) else none) ∧
  (∀ (s : State) (b : Block) (g : Grid) (t : Warp) (lane k : Nat),
    (k < 16 → itemRead s b g t k lane = t.trapWord k) ∧
    (k < 192 → itemRead s b g t (0x200 + k) lane = (cget t.s k).toNat) ∧
    (k < 384 → itemRead s b g t (0x400 + k) lane = (cget t.v (32 * k + lane)).toNat) ∧
    (k < 384 → itemRead s b g t (0x800 + k) lane = (cget t.tags k).toNat) ∧
    (k < 12 → itemRead s b g t (0xC00 + k) lane = nth t.cnt k 0) ∧
    (k < 3 → ∀ j, j < 32 → (itemRead s b g t (0x300 + k) lane).testBit j = (cget t.p (32 * k + j)).getLsbD lane)) ∧
  (∀ (t : Warp) (k x : Nat) (ls : List Nat), (∀ l ∈ ls, l < 32) →
    (k < 192 → (t.itemWrite (0x200 + k) x ls) = { t with s := cset t.s k (BitVec.ofNat 32 x) }) ∧
    (∀ h : k < 384, RegWrite 1 (.v ⟨k, h⟩) ls (fun _ => x) t (t.itemWrite (0x400 + k) x ls)) ∧
    (k < 3 → ∀ j l, l < 32 → (cget (t.itemWrite (0x300 + k) x ls).p j).getLsbD l =
      if l ∈ ls ∧ 32 * k ≤ j ∧ j < 32 * k + 32 then x.testBit (j - 32 * k) else (cget t.p j).getLsbD l)) ∧
  ∀ (s : State) (lsq tkt wrp code : Nat) (b : Block), s.block? lsq tkt = some b → b.res ≠ .killed →
    let u := s.killBlock lsq tkt wrp code
    u.blocks.length = s.blocks.length ∧ ∀ x ∈ u.blocks, x.lsq = lsq → x.res = .killed

/-- 20_isa_system.md:R363, R364; 18_recovery.md:R327, R328; 13_progress.md:R278: `ctxsave` saves a block that the firmware holds once
it has drained: it raises the generation of each core of the block, waits until no sector that carries an old one is on its
way, and leaves the block saved, its counter falling with the last completion time of the frame's stores; a frame that cannot be
written kills it with code 11. `ctxrest` restores a saved block at an origin
that its grid may use and no resident block covers; one that is not saved is killed with code 11. -/
def Sys2Proof.Claims.SaveAndRestoreWords : Prop :=
  (∀ (s : State) (w : W) (i : Iss) (b : Block) (k : Nat) (g : Grid), i.warp.canRaise (i.counter w) = true →
    i.named s (i.uni w 1 w.a) = some (b, k) → s.grid? b.lsq = some g →
    let org := i.uni w 1 w.b
    let o := (org % 16, org / 16 % 16)
    let covered := ∃ x ∈ s.blocks, x.res = .resident ∧ ∃ c ∈ g.coresAt o, (x.coreAt c).isSome = true
    let saves := i.firmware = true ∧ b.res = .resident ∧ (b.coreAt i.warp.core).isSome = true ∧
      ∀ t ∈ b.warps, t.holder = i.holder ∨ t.ended = true
    let restores := i.firmware = true ∧ org < 256 ∧ g.mayUse b.tkt o = true ∧ ¬ covered
    let seats := s.savedSeats false g o b
    let still := b.drained = true ∧ b.advanced = true ∧ s.inbound b = false
    let t := s.saveBlock b g
    let ps := s.framePieces b g .store
    let n := t.startGroup i w 0 (ps.any (fun p => !p.1.sys)) 1
    let saved := ∃ x, t.block? b.lsq b.tkt = some x ∧ x.res = .saved
    (Issues .ctxsave w s i → ¬ saves → Traps (.ctxsave w) s i { cause := 3, mask := i.act }) ∧
    (Issues .ctxsave w s i → saves → b.drained = false → exec (.ctxsave w) s = .next { s with cur := none }) ∧
    (Issues .ctxsave w s i → saves → b.drained = true → b.advanced = false →
      exec (.ctxsave w) s = .next { s.advanceGens b with cur := none }) ∧
    (Issues .ctxsave w s i → saves → b.drained = true → b.advanced = true → s.inbound b = true →
      exec (.ctxsave w) s = .next { s with cur := none }) ∧
    (Issues .ctxsave w s i → saves → still → saved →
      Completes (.ctxsave w) s i (n.2.replyAll n.1 (ps.any (fun p => s.mem.linked p.1.sys p.1.pa p.2)) ps)) ∧
    (Issues .ctxsave w s i → saves → still → ¬ saved → Completes (.ctxsave w) s i t) ∧
    (Issues .ctxrest w s i → ¬ restores → Traps (.ctxrest w) s i { cause := 3, mask := i.act }) ∧
    (Issues .ctxrest w s i → restores → seats = none → exec (.ctxrest w) s = .next { s with cur := none }) ∧
    (∀ l, Issues .ctxrest w s i → restores → seats = some l → b.res = .saved →
      Completes (.ctxrest w) s i (s.restoreBlock b g o l)) ∧
    (∀ l, Issues .ctxrest w s i → restores → seats = some l → b.res ≠ .saved →
      Completes (.ctxrest w) s i (s.killBlock b.lsq b.tkt 0 11))) ∧
  (∀ (s : State) (op : Nat) (link : Bool) (ps : List (Xlat × Nat)), ∃ r : Reply,
    s.replyAll op link ps = { s with nextId := s.nextId + 1, replies := s.replies ++ [r] } ∧ r.op = op ∧ r.link = link ∧
    ∀ p ∈ ps, let c := s.completion p.1.sys p.1.pa
      c.1.toNat ≤ r.cchip.toNat ∧ c.2.1.toNat ≤ r.cpod.toNat ∧ c.2.2.toNat ≤ r.csys.toNat) ∧
  ∀ (s : State) (b : Block) (g : Grid), s.block? b.lsq b.tkt = some b → (b.cores.map BlockCore.core).Nodup →
    let fault := s.frameFault b g.rec_.ctx (s.frameBase g.rec_.ctx b.frame) (b.frameImage g s.fresh)
    (∀ k, cget (s.advanceGens b).gens k = if k ∈ b.cores.map BlockCore.core then cget s.gens k + 1 else cget s.gens k) ∧
    (∃ u, (s.advanceGens b).block? b.lsq b.tkt = some u ∧ u.cores.map (fun c => (c.core, c.gen, c.old)) =
      b.cores.map (fun c => (c.core, (c.gen + 1) % 64, some c.gen))) ∧
    (fault = true → s.saveBlock b g = (s.consumeFrame b g .store).killBlock b.lsq b.tkt 0 11) ∧
    (∀ acc, ∃ att, s.consumeFrame b g acc = { s with att := att }) ∧
    (fault = false → (s.saveBlock b g).gens = s.gens ∧
      ∃ u, (s.saveBlock b g).block? b.lsq b.tkt = some u ∧ u.res = .saved ∧ u.saving = false ∧ u.frame = b.frame ∧
        u.warps.map (fun w => (w.idx, w.s, w.live, w.cnt)) = b.warps.map (fun w => (w.idx, w.s, w.live, w.cnt)))

/-- 20_isa_system.md:R365 to R368; 13_progress.md:R277; 16_isolation.md:R305: `svc` sends its message after the order of `fence.sys`,
once the warp has no call outstanding, and `svcw` takes the reply, or parks; the services ECHO, ERRCOUNT and the unknown ones
answer so. `evtpop` moves an entry of the event ring to the scratchpad, or gives false; `tlbinv` drops the translations and copies of
a range, of its own context or, in the firmware, of any.
Where the spec leaves a point open, the model's choice is stated: log 29, log 30. -/
def Obligations.SystemWords : Prop :=
  (∀ (s : State) (w : W) (i : Iss),
    let msg := BitVec.ofNat 128 (i.uni w 4 w.a)
    let off := i.uni w 1 w.a
    let c := nth s.ctxs i.ctx CtxEnt.absent
    let ring := (s.ctxDesc i.ctx).toNat / 2 ^ 384 % 2 ^ 64
    let va := ring + 64 * (c.taken % 2 ^ (8 + (s.ctxDesc i.ctx).toNat / 2 ^ 68 % 2 ^ 4))
    let placed := off % 64 = 0 ∧ off + 64 ≤ i.blk.cores.length * i.scr
    let note := fun (u : State) (b : Bool) => u.updRef i.r (fun wp => wp.putP w.d i.lanes (fun _ => b))
    let fetched := fun u : State =>
      let x := u.homeRead i.ctx va 32
      let y := u.homeRead i.ctx (va + 32) 32
      let u := if x.2 || y.2 then u.consume i.ctx (u.linePieces i.ctx va 64 .load) else u
      let t := i.updBlk (u.fillTlb i.ctx va) (fun b => (b.spWrite i.scr off x.1 x.2).spWrite i.scr (off + 32) y.1 y.2)
      { t with ctxs := updAt t.ctxs i.ctx (fun c => { c with taken := c.taken + 1 }) }
    let lo := i.uni w 2 w.a
    let units := i.uni w 1 w.b
    let other := w.mod.getLsbD 0
    let ctx := if other then i.uni w 1 w.c else i.ctx
    let good := lo % 65536 = 0 ∧ lo < 2 ^ 56 ∧ (units = 0 → lo = 0) ∧ (other = true → i.firmware = true ∧ ctx ≤ 63)
    let g := (s.dropFor ctx lo units).startGroup i w 0 true 1
    let room := i.warp.canRaise (i.counter w) = true
    let illegal := fun ins => Traps ins s i { cause := 3, mask := i.act }
    (Issues .svc w s i → i.warp.svc ≠ .none → illegal (.svc w)) ∧
    (Issues .svc w s i → i.warp.svc = .none → Fenced s i 3 → Completes (.svc w) s i
      (({ s with nextId := s.nextId + 1 } : State).updRef i.r (fun wp =>
        { wp with svc := .waiting s.nextId (w.imm.toNat % 2 ^ 16) msg }))) ∧
    (Issues .svc w s i → i.warp.svc = .none → FenceWaits (.svc w) s i 3) ∧
    (Issues .svcw w s i → i.warp.svc = .none → illegal (.svcw w)) ∧
    (∀ a b m, Issues .svcw w s i → i.warp.svc = .waiting a b m → StepsBy (.svcw w) s i (fun wp => wp.parkAt i.r.lane .svcw)) ∧
    (Issues .svcw w s i → i.warp.svc = .replied → Completes (.svcw w) s i (s.updRef i.r (fun wp =>
      { wp.put 4 w.d i.lanes (fun _ => i.warp.reply.toNat % 2 ^ 128) with svc := .none }))) ∧
    (Issues .evtpop w s i → ¬ placed → illegal (.evtpop w)) ∧
    (Issues .evtpop w s i → placed → c.written ≤ c.taken → Completes (.evtpop w) s i (note s false)) ∧
    (∀ k, Issues .evtpop w s i → placed → c.taken < c.written → s.translate i.ctx va .load = .error k →
      Traps (.evtpop w) s i { cause := 4, sub := k, mask := i.act, addr := BitVec.ofNat 64 va, access := 1 }) ∧
    (∀ x t, Issues .evtpop w s i → placed → c.taken < c.written → s.translate i.ctx va .load = .ok x →
      i.detect 1 (i.detScratch [(i.lane0, off, 64)]) (s.noteSys x.sys x.pa) = .error t → Traps (.evtpop w) s i { t with mask := i.act }) ∧
    (∀ x u, Issues .evtpop w s i → placed → c.taken < c.written → s.translate i.ctx va .load = .ok x →
      i.detect 1 (i.detScratch [(i.lane0, off, 64)]) (s.noteSys x.sys x.pa) = .ok u → Completes (.evtpop w) s i (note (fetched u) true)) ∧
    (Issues .tlbinv w s i → room → ¬ good → illegal (.tlbinv w)) ∧
    (Issues .tlbinv w s i → room → good →
      Completes (.tlbinv w) s i (g.2.startInval (some g.1) ctx lo units (s.ctxOps ctx))) ∧
    (units ≠ 0 → ∀ x ∈ (s.dropFor ctx lo units).mem.tlb, x ∈ s.mem.tlb ∧
      ¬ (x.ctx = ctx ∧ lo < (x.page + 1) * 2 ^ x.bits ∧ x.page * 2 ^ x.bits < lo + 65536 * units)) ∧
    (units = 0 → (∀ x ∈ (s.dropFor ctx lo units).mem.l1, x.ctx ≠ ctx) ∧
      ∀ x ∈ (s.dropFor ctx lo units).mem.tlb, x.ctx = ctx → 2 ^ 40 * 65536 ≤ x.page * 2 ^ x.bits)) ∧
  ∀ (s : State) (r : Ref) (id num : Nat) (msg : QWord) (wp : Warp), s.warpAt r = some wp → wp.svc = .waiting id num msg →
    let answer := fun v : Nat => ∃ u, exec (.svcReply r) s = .next u ∧ u = s.svcAnswer r v ∧
      ∃ z, u.warpAt r = some z ∧ z.svc = .replied ∧ z.reply = BitVec.ofNat 256 v
    let k := msg.toNat % 2 ^ 32
    let count := fun l : List Nat => min (nth l k 0) (2 ^ 32 - 1)
    let ack := s.att.awaiting.find? (fun x => x.2 == id)
    (num = 1 → answer (msg.toNat % 2 ^ 96 * 2 ^ 32)) ∧
    (num = 2 → k < 8 → answer (count s.att.corrected * 2 ^ 32 + count s.att.uncorrected * 2 ^ 64 + count s.att.detected * 2 ^ 96)) ∧
    (num = 2 → 8 ≤ k → answer 3) ∧
    (num ≠ 1 → num ≠ 2 → num ≠ 3 → answer 1) ∧
    (num = 3 → ack = none → (∀ p ∈ s.att.outbox, p.src ≠ some id) → s.att.ring = none → answer 2) ∧
    (num = 3 → ack = none → (∀ p ∈ s.att.outbox, p.src ≠ some id) → s.att.ring ≠ none → ∀ b, s.block? r.lsq r.tkt = some b →
      exec (.svcReply r) s = .next (s.post
        { msg := msg, ctx := s.ctxOf r.lsq, frame := b.frame, wrp := wp.idx, kind := 0, src := some id })) ∧
    (∀ x, num = 3 → ack = some x → (∀ p ∈ s.att.outbox, p.src ≠ some id) → s.att.passed x.1 = true →
      ∃ u z, exec (.svcReply r) s = .next u ∧ u.warpAt r = some z ∧ z.svc = .replied ∧ z.reply = 0)

/-- 20_isa_system.md:R369 to R372; 19_quadrille.md:R336, R337: `qsub` submits its record and gives the code and the `OSQ` of its
SUBMIT, and is refused with code 13 where the module may raise no event; `qblk`, `qunb` and `qcan` raise BLOCK, UNBLOCK and CANCEL
and give their `OSQ`, or 0; `qrow`, `qdig` and `qseq` read the replica; `qwait` gives what it waited for, and parks before.
Where the spec leaves a point open, the model's choice is stated: log 27, log 28. -/
def Obligations.QuadrilleWords : Prop :=
  (∀ (s : State) (w : W) (i : Iss),
    let room := i.warp.canRaise (i.counter w) = true
    let lra := BitVec.ofNat 64 (i.uni w 2 w.a)
    let cwa : Option DWord := if w.b = .none then none else some (BitVec.ofNat 64 (i.uni w 2 w.b))
    let cwv : DWord := if w.c = .none then 1 else BitVec.ofNat 64 (i.uni w 2 w.c)
    let words := ∀ a, cwa = some a → a.toNat % 8 = 0
    let aligned := words ∧ (s.mayRaise = true → lra.toNat % 256 = 0)
    let l : Launch := { ctx := i.ctx, lra := lra, target := .pod, cwa := cwa, cwv := cwv, rst := w.mod.getLsbD 0 }
    let give := fun (u : State) (d e : Nat) => u.updRef i.r (fun wp =>
      (wp.put 1 w.d i.lanes (fun _ => d)).put 1 w.e i.lanes (fun _ => e))
    let gix := i.uni w 1 w.a
    let event := fun t : Nat => ({ stt := 0, typ := t, grx := gix, ctx := i.ctx } : QEvent)
    let raises := fun (ins : Instr) (t : Nat) =>
      (Fenced s i 2 → gix ≤ 1023 → s.mayRaise = true → Completes ins s i ((s.raise (event t)).updRef i.r (fun wp =>
        wp.put 1 w.d i.lanes (fun _ => s.quad.osq + 1)))) ∧
      (Fenced s i 2 → gix ≤ 1023 → s.mayRaise = false →
        Completes ins s i (s.updRef i.r (fun wp => wp.put 1 w.d i.lanes (fun _ => 0)))) ∧
      (Fenced s i 2 → 1023 < gix → Traps ins s i { cause := 3, mask := i.act }) ∧ FenceWaits ins s i 2
    let row := match s.quad.rep.rows.find? (fun x => x.1 == gix) with
      | some x => 2 ^ 63 + x.2.grx * 2 ^ 53 + x.2.mdn * 2 ^ 47 + x.2.x0 * 2 ^ 43 + x.2.y0 * 2 ^ 39
      | none => 0
    (Issues .qsub w s i → room → Fenced s i 2 → aligned → s.mayRaise = true →
      Completes (.qsub w) s i (give (s.submit l).2.2 (s.submit l).1 (s.submit l).2.1)) ∧
    (Issues .qsub w s i → room → Fenced s i 2 → aligned → s.mayRaise = false →
      Completes (.qsub w) s i (give (s.reportRefusal l 13 0) 13 0)) ∧
    (Issues .qsub w s i → room → Fenced s i 2 → ¬ aligned → Traps (.qsub w) s i { cause := 3, mask := i.act }) ∧
    (Issues .qsub w s i → room → FenceWaits (.qsub w) s i 2) ∧
    (Issues .qblk w s i → raises (.qblk w) 3) ∧ (Issues .qunb w s i → raises (.qunb w) 4) ∧
    (Issues .qcan w s i → raises (.qcan w) 5) ∧
    (Issues .qrow w s i → gix ≤ 4095 → LaneWord (.qrow w) s i 2 w.d (fun _ => row) noFlags) ∧
    (Issues .qrow w s i → 4095 < gix → Traps (.qrow w) s i { cause := 3, mask := i.act }) ∧
    (Issues .qdig w s i → Completes (.qdig w) s i (s.updRef i.r (fun wp =>
      (wp.put 4 w.d i.lanes (fun _ => if w.mod.getLsbD 0 then s.quad.rep.digest.toNat / 2 ^ 128 else s.quad.rep.digest.toNat % 2 ^ 128)).put
        1 w.e i.lanes (fun _ => s.quad.rep.seq % 2 ^ 32)))) ∧
    (Issues .qseq w s i → LaneWord (.qseq w) s i 2 w.d (fun _ => s.quad.rep.seq) noFlags)) ∧
  (∀ (s : State) (w : W) (i : Iss), Issues .qwait w s i →
    let osq := w.mod.getLsbD 0
    let a := i.uni w (if osq then 1 else 2) w.a
    let d : Option DWord := if w.c = .none then none else some (BitVec.ofNat 64 (i.uni w 2 w.c))
    let gives := fun (n : Nat) (ok : Bool) => Completes (.qwait w) s i (s.updRef i.r (fun wp =>
      (wp.put 2 w.d i.lanes (fun _ => n)).putP w.e i.lanes (fun _ => ok)))
    let new := (∀ ok v, i.path.park ≠ .released ok v) ∧ ∀ x y z, i.path.park ≠ .qwait x y z
    let real := osq = true → 1 ≤ a ∧ a ≤ s.quad.osq
    (∀ ok v, i.path.park = .released ok v → gives v.toNat ok) ∧
    (new → ¬ real → Traps (.qwait w) s i { cause := 3, mask := i.act }) ∧
    (∀ n ok, new → real → s.qwaitEnd osq a d = some (n, ok) → gives n ok) ∧
    (new → real → s.qwaitEnd osq a d = none →
      StepsBy (.qwait w) s i (fun wp => wp.parkAt i.r.lane (.qwait osq (BitVec.ofNat 64 a) d)))) ∧
  ∀ (s : State) (a : Nat) (d : DWord),
    let late := d.toNat < s.time.toNat
    (a ≤ s.quad.rep.seq → s.qwaitEnd false a (some d) = some (s.quad.rep.seq, true)) ∧
    (s.quad.rep.seq < a → late → s.qwaitEnd false a (some d) = some (s.quad.rep.seq, false)) ∧
    (s.quad.rep.seq < a → ¬ late → s.qwaitEnd false a (some d) = none) ∧
    (∀ n, s.quad.osq < a + 65536 → s.quad.fates.find? (fun f => f.1 == a) = some (a, .delivered n) →
      s.qwaitEnd true a (some d) = some (n, true)) ∧
    (s.quad.osq < a + 65536 → s.quad.fates.find? (fun f => f.1 == a) = some (a, .discarded) →
      s.qwaitEnd true a (some d) = some (0, false))

namespace Sys2Proof.Machine

/-- An operation or event takes the module from `s` to `u`. -/
def Goes (ins : Instr) (s u : State) : Prop := exec ins s = .next u

/-- The reference to the warp that started an operation group. -/
def OpGroup.owner (g : OpGroup) : Ref := { lsq := g.lsq, tkt := g.tkt, wrp := g.wrp, lane := 0, handler := g.wrp == 128 }

/-- The counters and completion times of the warp of a reference. -/
def State.timesAt (s : State) (r : Ref) : Option (List Nat × DWord × DWord × DWord) :=
  (s.warpAt r).map (fun w => (w.cnt, w.wctc, w.wctp, w.wcts))

end Sys2Proof.Machine

/-- 10_ordering.md:R221, R230, R231; 11_isa_memory.md:R259; 20_isa_system.md:R372; 04_isa_core.md:R116: a parked fence, drain or
barrier wait is released once nothing it waits for is outstanding and the pod time has passed its time, and not before, one whose
scope is the pod or the system also the LCT of the barriers that `tbtest` found changed; a `fence.core` once no confidential copy
that it waits for owes its status word (10_ordering.md:R222; 17_prog_copyin.md:R318); a `waitw` and a `qwait` whose deadline has
passed are released with what they find then; nothing of the kind ends in a warp that is held or has trapped, which judges afresh as
it resumes (20_isa_system.md:R361); the collectives of a warp that can be performed are.
Where the spec leaves a point open, the model's choice is stated: log 28, log 48. -/
def Obligations.WaitsEnd : Prop :=
  ∀ (s : State) (r : Ref),
    let release := fun (ok : Bool) (v : DWord) => s.updRef r (fun w => w.parkAt r.lane (.released ok v))
    let done := fun ops : List Nat => ∀ o ∈ ops, (∀ x ∈ s.groups, x.op ≠ o) ∧ ∀ m ∈ s.fetches, m.id ≠ o
    let told := fun ops : List Nat => ∀ o ∈ ops, ∀ x ∈ s.copies, x.op = o → x.gcm = none ∨ x.data ≠ none
    let past := fun t : DWord => t.toNat < s.time.toNat
    (∀ b g w p, s.block? r.lsq r.tkt = some b → s.grid? r.lsq = some g → b.refWarp? r = some w → w.path? r.lane = some p →
      let ended := w.stopped = false ∧ match p.park with
        | .fence scope ops => if scope = 0 then told ops
          else done ops ∧ past (if scope = 1 then w.wctc else tmax (if scope = 2 then w.wctp else w.wcts) w.lct)
        | .drain kind ops c => done ops ∧ (kind = 1 ∨ past (tmax c (tmax w.wctp w.lct)))
        | .tbwait _ _ (some l) => past l
        | .tbwait t ph none => (b.tbar g.rec_.scr t).ph ≠ ph ∧ past (b.tbar g.rec_.scr t).lct
        | _ => False
      (ended → Goes (.waitTimePassed r) s (release true 0)) ∧ (¬ ended → Goes (.waitTimePassed r) s s)) ∧
    (∀ w p sys pa cond cmp d, s.warpAt r = some w → w.path? r.lane = some p → p.park = .waitw sys pa cond cmp (some d) →
      (w.stopped = false → past d → Goes (.waitwDeadline r) s ((s.noteSys sys pa).updRef r (fun w =>
        w.parkAt r.lane (.released (waitwHolds cond (BitVec.ofNat 64 (s.mem.nat sys pa 8)) cmp) 0)))) ∧
      (w.stopped = true ∨ ¬ past d → Goes (.waitwDeadline r) s s)) ∧
    (∀ w p osq a d x, s.warpAt r = some w → w.path? r.lane = some p → p.park = .qwait osq a (some d) →
      s.qwaitEnd osq a.toNat (some d) = some x →
      (w.stopped = false → past d → Goes (.qwaitDeadline r) s (release x.2 (BitVec.ofNat 64 x.1))) ∧
      (w.stopped = true ∨ ¬ past d → Goes (.qwaitDeadline r) s s)) ∧
    Goes (.collectivePerformed r) s (s.updRef r (fun w => w.collect 0))

/-- 10_ordering.md:R213, R218, R219; 03_encoding.md:R62, R83, R86; 11_isa_memory.md:R239; 16_isolation.md:R304, R305: a home
performs the first pending store of an operation: its bytes are in memory, no other byte changes, and its reply carries the
completion times. A reply that arrives raises its warp's completion times, with the time that the host link reports where it reports
one, and with the last one the counter falls. The result registers of a remote atomic land together, or its path traps. A walk fills
the TLB. An invalidation completes once what it waits for is done.
Where the spec leaves a point open, the model's choice is stated: log 6, log 30, log 49, log 54, log 55. -/
def Obligations.AccessesLand : Prop :=
  (∀ (s : State) (op : Nat) (h : HomeOp), s.homeOps.find? (fun x => x.id == op) = some h →
    s.homeOps.find? (fun x => x.op == h.op) = some h →
    let c := tmax s.time (if h.sys then 0 else cget s.mem.lmax (h.pa / 128))
    ∃ u, Goes (.homePerformsAccess op) s u ∧
      (∀ sys a, u.mem.byte sys a = if sys = h.sys ∧ h.pa ≤ a ∧ a < h.pa + h.data.length then h.data.getD (a - h.pa) 0
        else s.mem.byte sys a) ∧
      u.homeOps = s.homeOps.filter (fun x => x.id != op) ∧ u.groups = s.groups ∧
      u.replies = s.replies ++
        [{ id := s.nextId, op := h.op, chip := !h.sys, cchip := c, cpod := c + 40, csys := if h.sys then s.time else c + 40
           link := h.sys || s.mem.hostLines.any (fun k => decide (h.pa < 128 * k + 128 ∧ 128 * k < h.pa + h.data.length)) }]) ∧
  (∀ (s : State) (op : Nat) (r : Reply), s.replies.find? (fun x => x.id == op) = some r →
    ∀ told : Option RemoteReply,
      let csys := if r.link then tmax r.csys (match told with | some x => x.csys | none => s.time) else r.csys
      Goes (.completionReplyArrives op told) s (({ s with replies := s.replies.filter (fun x => x.id != op) } : State).groupReply
        r.op r.chip r.cchip r.cpod csys)) ∧
  (∀ (s : State) (op : Nat) (chip : Bool) (c p y : DWord) (g : OpGroup), s.groups.find? (fun x => x.op == op) = some g →
    (∀ x ∈ s.groups, x.op = op → x = g) →
    let u := s.groupReply op chip c p y
    let after := fun x : List Nat × DWord × DWord × DWord =>
      (match g.ctr with | some n => if g.left ≤ 1 then updAt x.1 n (· - 1) else x.1 | none => x.1,
       if chip then tmax x.2.1 c else x.2.1, tmax x.2.2.1 p, tmax x.2.2.2 y)
    u.timesAt g.owner = (s.timesAt g.owner).map after ∧
    (∀ x, x ∈ u.groups ↔ (x ∈ s.groups ∧ x.op ≠ op) ∨ (1 < g.left ∧ x = { g with left := g.left - 1, cpod := tmax g.cpod p })) ∧
    u.mem = s.mem) ∧
  (∀ (s : State) (op : Nat) (o : RemoteOp) (d : Opnd), (s.rops.filter (fun x => x.grp == op)).head? = some o → o.dst = some d →
    let os := s.rops.filter (fun x => x.grp == op)
    let t := ({ s with rops := s.rops.filter (fun x => x.grp != op) } : State).updRef o.src (fun w =>
      { w with busy := w.busy.filter (· != op) })
    let bad := os.filter (fun x => match x.result with | some v => v.2 | none => false)
    let val := fun l => match (os.find? (fun x => x.lane == l)).bind RemoteOp.result with | some v => v.1.toNat | none => 0
    let n := match o.kind with | .atom _ ty _ _ _ => atomBytes ty / 4 | _ => 1
    ((∃ x ∈ os, x.result = none) → Goes (.registerWriteLands op) s s) ∧
    ((∀ x ∈ os, x.result ≠ none) → bad = [] → Goes (.registerWriteLands op) s
      (t.updRef o.src (fun w => (w.put n d (os.map RemoteOp.lane) val).advance o.src.lane))) ∧
    (∀ x, (∀ y ∈ os, y.result ≠ none) → bad.head? = some x → Goes (.registerWriteLands op) s
      (t.takeTrap o.src { cause := 5, mask := maskOf (bad.map RemoteOp.lane), addr := podGlobal x.target x.off.toNat }))) ∧
  (∀ (s : State) (ctx : Nat) (va : BitVec 64), va.toNat < 2 ^ 56 → (s.ctxDesc ctx).getLsbD 64 = true →
    ∃ u, Goes (.pageWalkComplete ctx va) s u ∧
      (∀ e, s.lookup ctx va.toNat = .ok e → ∃ x ∈ u.mem.tlb, x.ctx = ctx ∧ x.page = va.toNat / 2 ^ x.bits) ∧
      (∀ k, s.lookup ctx va.toNat = .error k → u = s) ∧ u = { s with mem := { s.mem with tlb := u.mem.tlb } }) ∧
  ∀ (s : State) (op : Nat) (v : InvalOp), s.invals.find? (fun x => x.op == op) = some v →
    let gone := !(s.ctxDesc v.ctx).getLsbD 64
    let free := ∀ o ∈ v.waits, (∀ x ∈ s.groups, x.op ≠ o) ∧ ∀ m ∈ s.fetches, m.id ≠ o
    let t := ({ s with invals := s.invals.filter (fun x => x.op != op) } : State).dropFor v.ctx v.va.toNat v.units
    let t' := if gone then { t with ctxs := updAt t.ctxs v.ctx (fun c => { c with desc := 0, taken := c.written, marked := [] }) } else t
    (¬ free → Goes (.invalidationComplete op) s s) ∧
    (∀ g, free → v.group = some g → Goes (.invalidationComplete op) s (t.groupDone g)) ∧
    (free → v.group = none → Goes (.invalidationComplete op) s (t'.complete 0 0))

/-- 16_isolation.md:R306, R307; 18_recovery.md:R330, R331; 10_ordering.md:R218, R232, R233; 11_isa_memory.md:R258: a remote
operation that arrives is accepted once for each sequence number, after the operations that come before it, judged in the order of
R307 and by the detector, and performed or failed, and the module replies; an atomic behind a lane of its word that found poison is
passed over (11_isa_memory.md:R239); one of the module itself waits for what its warp's asynchronous operations put before it, and
its warp's pending stores on the lines are performed first (10_ordering.md:R213, R225, R226); in a scrub nothing is accepted
(16_isolation.md:R312); a spilled endpoint context answers NOT READY and is fetched. At the sender a failure is posted and completes
the operation at the time of its report, a reply completes it with its times, and one that the target's detector refuses traps
(10_ordering.md:R234). The transport gives up after 64 resends, or after 100 µs.
Where the spec leaves a point open, the model's choice is stated: log 6, log 11, log 15, log 55, log 63. -/
def Obligations.RemoteOperations : Prop :=
  (∀ (s : State) (k : Packet),
    let e := s.exportEntry k.ctx
    let n := remoteSize k.kind
    let va := e / 2 ^ 64 % 2 ^ 64 + k.off.toNat
    let acc := if remoteReads k.kind then Acc.load else Acc.store
    let code :=
      if s.sec.confidential ∧ ¬ (s.sec.fabricKey ≠ none ∧ k.sealOk = true) then 8
      else if ¬ s.isMember s.modn then 6
      else if e % 2 = 0 ∨ (s.ctxDesc k.ctx).getLsbD 64 = false then 1
      else if e / 2 ^ (128 + k.src) % 2 = 0 ∨ ¬ s.isMember k.src then 2
      else if e / 2 ^ 28 % 2 ^ 34 * 65536 < k.off.toNat + n then 3
      else if e / 2 % 2 = 1 ∧ remoteReads k.kind = false then 4
      else match s.translateRange k.ctx va n acc with | .error _ => 5 | .ok _ => 0
    s.remoteRefusal k = code) ∧
  (∀ (s : State) (k : Packet) (e : Endpoint),
    let here := s.endpoint? k.ctx k.src = some e
    let upd := fun f : Endpoint → Endpoint =>
      ({ s with endpoints := updIf (fun e : Endpoint => e.ctx == k.ctx && e.peer == k.src) f s.endpoints } : State)
    let t := upd (fun e => { e with seen := insertNat k.seq e.seen })
    let base := s.exportEntry k.ctx / 2 ^ 64 % 2 ^ 64
    let code := s.remoteRefusal k
    let no : RemoteReply := { ok := false, code := code, cpod := s.time, csys := s.time, data := [], poison := [], hit := none }
    let open_ := s.att.dst ≠ .scrub
    let cut := ∃ q ∈ k.mates, q ∈ e.cut
    let waits := ∃ o, s.ownOf k = some o ∧ s.ownWaits o = true
    let next := open_ ∧ here ∧ e.cached = true ∧ k.seq ∉ e.seen ∧ (∀ q ∈ k.after, q ∈ e.seen) ∧ ¬ waits
    (¬ open_ → Goes (.remoteOpArrival k) s s) ∧
    (open_ → s.endpoint? k.ctx k.src = none → Goes (.remoteOpArrival k) s
      { s with lastReply := none, endpoints := s.endpoints ++
          [{ ctx := k.ctx, peer := k.src, cached := false, fetching := true, seen := [], next := 0 }] }) ∧
    (open_ → here → e.cached = false → Goes (.remoteOpArrival k) s { upd (fun e => { e with fetching := true }) with lastReply := none }) ∧
    (here → e.cached = true → k.seq ∈ e.seen ∨ (∃ q ∈ k.after, q ∉ e.seen) ∨ waits → Goes (.remoteOpArrival k) s s) ∧
    (next → cut → Goes (.remoteOpArrival k) s ((t.noteCut k).reply k { no with ok := true, code := 0, skipped := true })) ∧
    (next → ¬ cut → code ≠ 0 → code ≠ 5 → Goes (.remoteOpArrival k) s (t.reply k no)) ∧
    (next → ¬ cut → code = 5 → Goes (.remoteOpArrival k) s
      ((t.consumeWalks k.ctx (base + k.off.toNat) (remoteSize k.kind)).reply k no)) ∧
    (∀ h, next → ¬ cut → code = 0 → t.remoteDetect k base = .error h → Goes (.remoteOpArrival k) s (t.reply k { no with hit := some h })) ∧
    (∀ u, next → ¬ cut → code = 0 → t.remoteDetect k base = .ok u →
      Goes (.remoteOpArrival k) s (u.doRemote k (base + k.off.toNat)))) ∧
  (∀ (s : State) (k : Packet) (va : Nat),
    let u := s.doRemote k va
    let v := s.flushTarget k
    u.lastReply = some (v.remoteAnswer k.ctx va k.kind (if v.remoteLinked k.ctx va k.kind then k.link else 0)) ∧
    u.mem.byte = (v.performRemote k.ctx va k.kind).mem.byte ∧ (s.ownOf k = none → v = s) ∧
    (∀ o, s.ownOf k = some o → ∀ x ∈ s.targetPieces o, ∀ h ∈ v.homeOps, h ∈ s.homeOps ∧
      ((∃ g ∈ s.groups, g.op = h.op ∧ g.lsq = o.src.lsq ∧ g.tkt = o.src.tkt ∧ g.wrp = o.src.wrp) →
        h.touches x.1.sys x.1.pa x.2 = false)) ∧
    (v.findsPoison k va = true → u.mem.byte = v.mem.byte ∧ ∃ e, u.endpoint? k.ctx k.src = some e ∧ k.seq ∈ e.cut)) ∧
  (∀ (s : State) (o : RemoteOp) (p x : Xlat × Nat), o.acc = .store → s.olderAsync o.src o.op = true → p ∈ s.targetPieces o →
    x ∈ (s.enginePieces o.src o.op).2 → sameLine p x = true → s.ownWaits o = true) ∧
  (∀ (s : State) (k : Packet) (r : RemoteReply), (s.reply k r).lastReply = some r ∧
    ∀ o ∈ s.rops, (k.src = s.modn ∧ o.target = s.modn ∧ o.ctx = k.ctx ∧ o.seq = k.seq) →
      { o with answer := some r } ∈ (s.reply k r).rops) ∧
  (∀ (s : State) (ctx va : Nat) (x : Xlat) (v : DWord), s.translate ctx va .store = .ok x →
    (∀ sys a, ¬ (sys = x.sys ∧ x.pa ≤ a ∧ a < x.pa + 8) →
      (s.performRemote ctx va (.flag v)).mem.byte sys a = s.mem.byte sys a ∧
      (s.performRemote ctx va (.wake v)).mem.byte sys a = s.mem.byte sys a) ∧
    (∀ n, (s.performRemote ctx va (.get n)).mem.byte = s.mem.byte)) ∧
  (∀ (s : State) (op : Nat) (o : RemoteOp), s.rops.find? (fun o => o.op == op && o.result.isNone) = some o →
    let lost : RemoteReply := { ok := false, code := 7, cpod := 0, csys := 0, data := [], poison := [], hit := none }
    let lasts := 64 ≤ o.resends ∨ o.sent.toNat + 100000 ≤ s.time.toNat
    (∀ r, s.replies.find? (fun x => x.id == op) = none → Goes (.completionReplyArrives op (some r)) s (s.remoteReply o r)) ∧
    (lasts → Goes (.transportGiveUp op) s (s.remoteReply o lost)) ∧
    (¬ lasts → (∀ x ∈ s.rops, x.op = op → x = o) → Goes (.transportGiveUp op) s s) ∧
    (∀ l r, o.kind = .probe l → r.hit = none → s.remoteReply o r = s.passProbe o) ∧
    (∀ r h, r.hit = some h → s.remoteReply o r = s.trapRemote o (o.conflict h) ∧ (o.conflict h).cause = 8 ∧
      (o.conflict h).other = h.2.wrp ∧ (o.conflict h).otherTkt = h.2.tkt) ∧
    (∀ r v, r.hit = none → r.ok = false → o.kind = .flag v → s.remoteReply o r =
      (({ s.remoteFailed o r.code with rops := (s.remoteFailed o r.code).rops.filter (fun x => x.op != o.op) } : State).groupReply
        o.grp false 0 s.time s.time).freeRemote o) ∧
    (∀ r v, r.hit = none → r.ok = true → o.kind = .flag v → s.remoteReply o r =
      (({ s with rops := s.rops.filter (fun x => x.op != o.op) } : State).groupReply o.grp (o.target == s.modn) (r.cpod - 40)
        r.cpod r.csys).freeRemote o)) ∧
  ∀ (s : State) (ctx peer : Nat), ((∀ e, s.endpoint? ctx peer = some e → e.fetching = false) →
    Goes (.endpointContextFetch ctx peer) s s) ∧
    ∀ e, s.endpoint? ctx peer = some e → e.fetching = true → ∃ u, Goes (.endpointContextFetch ctx peer) s u ∧
    u.endpoint? ctx peer = some { e with cached := true, fetching := false } ∧
    ((s.endpoints.filter Endpoint.cached).length ≤ 512 → (u.endpoints.filter Endpoint.cached).length ≤ 512) ∧
    u = { s with endpoints := u.endpoints }

/-- 10_ordering.md:R226 to R229; 11_isa_memory.md:R250, R252; 16_isolation.md:R313; 17_prog_copyin.md:R318: an engine performs one
sector of a copy and counts it down, once the warp's operations that come before it let it; a sector that meets an uncorrectable
error counts down with `ERR`, one whose Csys the host link reports with that report (10_ordering.md:R218); a sector that finds
another allocation, or a generation that it does not admit, is dropped. The security engine judges a confidential copy by its slot,
compares and raises the mark in one step, and writes the status word, those of a path in the order in which it issued them.
Where the spec leaves a point open, the model's choice is stated: log 7, log 10, log 57, log 59. -/
def Obligations.EngineEvents : Prop :=
  (∀ (s : State) (op k : Nat) (o : CopyOp), s.copies.find? (fun o => o.op == op) = some o → k ∈ o.todo →
    (o.gcm = none ∨ o.data ≠ none) →
    let cut := fun o : CopyOp => { o with todo := o.todo.filter (· != k) }
    let r := s.copySector o k
    let left := fun u : State => (updIf (fun o : CopyOp => o.op == op) cut u.copies).filter (fun o => o.todo != [])
    (s.copyWaits o = false → Goes (.engineSectorReport op k) s
      (({ r.2 with copies := left r.2 } : State).sectorDone o.src o.bar op r.1)) ∧
    (s.copyWaits o = true → Goes (.engineSectorReport op k) s s) ∧
    (∀ core, s.sectorError op core k = ({ s with copies := left s } : State).sectorDone o.src o.bar op
      { fate := .failed, cpod := some s.time, times := none }) ∧
    ∀ (d : SecDone) (x : Bool × DWord × DWord × DWord), d.times = some x →
      let u := s.report o.src.lsq o.src.tkt o.bar 1 d.fate d.cpod
      s.sectorDone o.src o.bar op d =
        if d.link then u.queueReply op true x.1 x.2.1 x.2.2.1 x.2.2.2 else u.groupReply op x.1 x.2.1 x.2.2.1 x.2.2.2) ∧
  (∀ (s : State) (lsq tkt off : Nat) (gens : List Nat) (data : List Byte) (mark : Bool) (b : Block) (g : Grid),
    s.block? lsq tkt = some b → s.grid? lsq = some g →
    let here := b.res = .resident ∧ ∃ c n, b.cores[off / g.rec_.scr]? = some c ∧ gens[off / g.rec_.scr]? = some n ∧
      n = (match c.old with | some k => k | none => c.gen)
    let d := s.engineScratch lsq tkt gens off data mark
    (here → d.2 = s.updBlock lsq tkt (fun b => b.spWrite g.rec_.scr off data mark) ∧
      d.1.fate = (if mark then .poisoned else .landed) ∧ d.1.cpod = some s.time) ∧
    (¬ here → d.2 = s ∧ d.1.fate = .dropped ∧ d.1.cpod = none)) ∧
  (∀ (s : State) (op : Nat) (o : CopyOp) (p : GcmPar), s.copies.find? (fun o => o.op == op) = some o → o.gcm = some p → o.data = none →
    s.gcmFirst o = true →
    let x := s.engineRead o.src o.ctx o.from_ 0 (o.len + 16)
    let row := gcmRow (nth s.sec.slots p.ksl KeySlot.empty) o.ctx p o.len x.1 x.2.1
    let t := { x.2.2 with sec := { x.2.2.sec with slots := updAt x.2.2.sec.slots p.ksl (fun k => { k with mark := row.2.1 }) } }
    let u := (t.engineScratch o.src.lsq o.src.tkt o.gens (16 * p.sto) (leBytes 4 row.1) false).2
    (∀ d, row.2.2 = some d → Goes (.gcmEngineJudge op) s
      { u with copies := updIf (fun o : CopyOp => o.op == op) (fun o => { o with data := some d }) u.copies }) ∧
    (row.2.2 = none → Goes (.gcmEngineJudge op) s (o.todo.foldl (fun t _ =>
      t.sectorDone o.src o.bar op { fate := .failed, cpod := none, times := none })
      { u with copies := u.copies.filter (fun o => o.op != op) }))) ∧
  (∀ (s : State) (o : CopyOp), s.gcmFirst o = true ↔ ∀ x ∈ s.copies, x.gcm ≠ none → x.data = none →
    x.src.lsq = o.src.lsq → x.src.tkt = o.src.tkt → x.src.wrp = o.src.wrp → x.src.handler = o.src.handler →
    x.path &&& o.path ≠ 0 → o.op ≤ x.op) ∧
  (∀ (k : KeySlot) (ctx len : Nat) (p : GcmPar) (src : List Byte) (poison : Bool),
    let own := k.bound = true ∧ k.ctx = ctx ∧ k.holds = true
    let fresh := k.mark.toNat < p.ctr.toNat
    let plain := gcmOpen (leBytes 32 k.key.toNat) (beBytes 4 p.fix.toNat ++ beBytes 8 p.ctr.toNat) (src.take len) (src.drop len)
    (¬ own → gcmRow k ctx p len src poison = (3, k.mark, none)) ∧
    (own → ¬ fresh → gcmRow k ctx p len src poison = (2, k.mark, none)) ∧
    (own → fresh → poison = true → gcmRow k ctx p len src poison = (1, p.ctr, none)) ∧
    (own → fresh → poison = false → src.length = len + 16 → plain = none → gcmRow k ctx p len src poison = (1, p.ctr, none)) ∧
    (∀ d, own → fresh → poison = false → src.length = len + 16 → plain = some d →
      gcmRow k ctx p len src poison = (0, p.ctr, some d))) ∧
  ∀ (s : State) (op core k : Nat) (o : CastOp) (t : CastTarget), s.casts.find? (fun o => o.op == op) = some o →
    o.targets.find? (fun t => t.core == core) = some t → k ∈ t.todo →
    let p := sectorPiece o.dst o.len k
    let x := s.engineRead o.src o.ctx o.from_ p.1 p.2
    let cut := fun t : CastTarget => { t with todo := t.todo.filter (· != k) }
    let left := (updIf (fun o : CastOp => o.op == op) (fun o =>
      { o with targets := updIf (fun t : CastTarget => t.core == core) cut o.targets }) x.2.2.casts).filter
      (fun o => o.targets.any (fun t => t.todo != []))
    let u : State := { x.2.2 with casts := left }
    let fate : SecFate := if x.2.1 then .poisoned else .landed
    (u.castHit o t = none → Goes (.mcastSectorArrival op core k) s
      (u.sectorDone o.src o.bar op { fate := .dropped, cpod := none, times := none })) ∧
    (∀ b g q, u.castHit o t = some (b, g, q) → x.1.length = p.2 → Goes (.mcastSectorArrival op core k) s
      (((u.updBlock b.lsq b.tkt (fun b => b.spWrite g.rec_.scr (q * g.rec_.scr + o.dst + p.1) x.1 x.2.1)).report b.lsq b.tkt
        (o.rbar.map (· + q * g.rec_.scr)) 1 fate (some u.time)).sectorDone o.src o.bar op
          { fate := fate, cpod := some u.time, times := none })) ∧
    (∀ b g q, u.castHit o t = some (b, g, q) → x.1.length < p.2 → Goes (.mcastSectorArrival op core k) s
      ((u.report b.lsq b.tkt (o.rbar.map (· + q * g.rec_.scr)) 1 .failed (some u.time)).sectorDone o.src o.bar op
          { fate := .failed, cpod := some u.time, times := none }))

/-- 07_isa_matrix.md:R189, R192, R193, R196; 01_device.md:R14; 05_numbers.md:R154; 13_progress.md:R271; 02_state.md:R47, R48, R49:
an issued matrix operation retires when its turn on its tile has come and no group of its handle is missing: its groups are
accumulated in order, element by element, and its signers' counters fall; a fetch goes on as far as its rows translate, and one that
they stop accumulates the groups before, and its last signer traps, both only while all four matrix groups of the core run. The
operations of a killed block retire too, and one whose fetch stops is over with its tile. A core grants tiles, and a partition
extended registers, to the oldest request that it can grant; compaction holds the warps that it is to move until they are at rest,
then moves their storage, and changes no register.
Where the spec leaves a point open, the model's choice is stated: log 9, log 12, log 24, log 55. -/
def Obligations.CoreEvents : Prop :=
  (∀ (s : State) (op : Nat) (b : Block) (g : Grid) (m : MmaOp), s.findMma op = some (b, g, m) → b.mmaFirst m = true →
    let runs := cget s.groupsDown m.core = 0
    let retired := fun b : Block => { b with mmas := b.mmas.filter (fun x => x.op != op) }
    let u := s.mmaAdvance b g m (m.rec_.w.imm.toNat % 2 ^ 16 / 16 - m.prog)
    (b.res ≠ .saved → m.rec_.missing = 0 → runs → Goes (.mmaRetire op) s (m.signers.foldl
      (fun s k => s.updRef { lsq := b.lsq, tkt := b.tkt, wrp := k.wrp, lane := 0, handler := k.wrp == 128 } (fun w => w.lower k.ctr))
      (u.updBlock b.lsq b.tkt retired))) ∧
    ((b.res = .saved ∨ m.rec_.missing ≠ 0 ∨ ¬ runs) → Goes (.mmaRetire op) s s) ∧
    ((b.res = .saved ∨ m.rec_.missing = 0) → Goes (.handleFetchFault op) s s) ∧
    (b.res = .killed → m.rec_.missing ≠ 0 →
      (s.fetchFault g.rec_.ctx m.rec_ = none → Goes (.handleFetchFault op) s (s.fetchOn b g m)) ∧
      ∀ t, s.fetchFault g.rec_.ctx m.rec_ = some t → Goes (.handleFetchFault op) s (s.updBlock b.lsq b.tkt retired)) ∧
    ∀ w, b.res = .resident → b.refWarp? m.last = some w → w.stopped = false → m.rec_.missing ≠ 0 →
      let k := m.rec_.rows.length
      (s.fetchFault g.rec_.ctx m.rec_ = none → Goes (.handleFetchFault op) s (s.fetchOn b g m)) ∧
      ∀ t p, s.fetchFault g.rec_.ctx m.rec_ = some t → w.path? m.last.lane = some p → p.park = .mma op →
        (runs → Goes (.handleFetchFault op) s (((s.mmaAdvance b g m (k - m.prog)).takeTrap m.last
          { t with mask := p.mask, prog := k }).updRef m.last (fun w => w.parkAt m.last.lane (.mma op)))) ∧
        (¬ runs → Goes (.handleFetchFault op) s s)) ∧
  (∀ (s : State) (core ctx : Nat) (m : MmaRec),
    let x := s.fetchHandle core ctx m
    (m.missing = 0 → x = (m, s)) ∧ (∃ l, x.1 = { m with rows := m.rows ++ l }) ∧
    (x.1.missing ≠ 0 → (x.2.fetchFault ctx x.1).isSome = true)) ∧
  (∀ (t : Tile) (int sat poison : Bool) (as bs : List (List Machine.Num)) (i j : Nat), as.length = 64 → bs.length = 64 → i < 64 → j < 64 →
    cget (t.addGroup int sat as bs poison).el (64 * i + j) =
      groupElement int sat (cget t.el (64 * i + j)) (as.getD i []) (bs.getD j [])) ∧
  (∀ (s : State) (core part : Nat) (b : Block) (w : Warp) (lane a n spot o : Nat) (g : Grid),
    (oldestOf ((s.tileWaiters core).filter (fun x => s.tileGrantable core x.1)) = some (b, w, lane, a, o) →
      Goes (.tileGrant core) s (s.updBlock b.lsq b.tkt (fun b =>
        let judge := fun w : Warp => { w with paths := w.paths.map (fun p => match p.park with
          | .aget x _ => if x = a then { p with park := .run } else p
          | _ => p) }
        ({ b with cores := updIf (fun c => c.core == core) (fun c => c.bindTile a) b.cores
                  warps := updIf (fun w => w.core == core) judge b.warps
                  handler := b.handler.map (fun x => if x.warp.core = core then { x with warp := judge x.warp } else x) } : Block).updRef
            { lsq := b.lsq, tkt := b.tkt, wrp := w.idx, lane := 0, handler := w.idx == 128 } (fun w => w.advance lane)))) ∧
    (oldestOf ((s.extWaiters core part).filter (fun x => s.extCovered core part x.1 x.2.2.2.1)) = some (b, w, lane, n, o) →
      s.extSpot core part n = some spot → s.grid? b.lsq = some g →
      Goes (.extregGrant core part) s (s.updWarp b.lsq b.tkt w.idx (fun w =>
        (w.takeExt g.rec_.base n spot).advance lane))) ∧
    let wanted := s.wantedSeats
    (s.compact wanted core part = none → Goes (.compaction core part) s s) ∧
    ∀ u, s.compact wanted core part = some u → Goes (.compaction core part) s u ∧
      let moved := fun w : Warp => { w with baseAt := 0, extAt := 0, hold := false }
      let freed := fun w : Warp => { w with hold := false }
      let all := fun (f : Warp → Warp) (b : Block) => { b with warps := b.warps.map f }
      u.blocks.map (all moved) = s.blocks.map (all moved) ∧ u = { s with blocks := u.blocks } ∧
      ((∃ x ∈ s.warpsOn core part, x.2.hold = true ∧ (x.2.atRest = false ∨ x.2.busy ≠ [])) →
        u.blocks.map (all freed) = s.blocks.map (all freed))) ∧
  ∀ (l : List (Block × Warp × Nat × Nat × Nat)) (x : Block × Warp × Nat × Nat × Nat), oldestOf l = some x →
    x ∈ l ∧ ∀ y ∈ l, earlier y x = false

/-- 13_progress.md:R272, R275, R276; 03_encoding.md:R82: a partition that is not frozen chooses at most two ready paths of its own,
one if it takes a P-form word of a warp, and they issue next, the referee's path first and on one slot (01_device.md:R13); a line
that arrives thaws its partition; a core receives the phase counters of its mesh neighbours in each grid.
Where the spec leaves a point open, the model's choice is stated: log 8. -/
def Obligations.IssueEvents : Prop :=
  ∀ (s : State) (core part : Nat),
    let key := 12 * core + part
    let c := s.choose core part
    (s.slots = [] → key ∉ s.frozen → Goes (.issueSelect core part) s
      { s.noteChoice (s.readyOn core part) c with slots := c.map Cand.r, scan := key + 1 }) ∧
    ((s.slots ≠ [] ∨ key ∈ s.frozen) → Goes (.issueSelect core part) s s) ∧
    c.length ≤ 2 ∧ (∀ x ∈ c, x ∈ s.readyOn core part ∨ x ∈ s.refereeOn core part) ∧
    (∀ x ∈ c, s.pForm x = true → x.r.handler = false → c.length = 1) ∧
    (c.filter (fun x => x.r.handler)).length ≤ 1 ∧ (s.refereeOn core part ≠ [] → ∃ x ∈ c, x.r.handler = true) ∧
    (c = [] → ∀ x ∈ s.readyOn core part, x.w.pass = true) ∧
    Goes (.icacheLineArrives core part) s { s with frozen := s.frozen.filter (fun k => k != key) } ∧
    ∃ u, Goes (.phaseCounterExchange core) s u ∧ u = { s with grids := u.grids } ∧
      u.grids.map (fun g : Grid => { g with seen := [] }) = s.grids.map (fun g : Grid => { g with seen := [] }) ∧
      ∀ (k : Nat) (g : Grid), s.grids[k]? = some g → ∃ h : Grid, u.grids[k]? = some h ∧
        (∀ n ∈ g.neighbours core, cget h.seen (144 * core + n) = cget g.phase n) ∧
        ∀ j, (∀ n ∈ g.neighbours core, j ≠ 144 * core + n) → cget h.seen j = cget g.seen j

/-- 18_recovery.md:R319, R320, R322, R323; 20_isa_system.md:R357; 22_attach.md:R388; 04_isa_core.md:R125: the referee of a core
takes the trap raised first, of those of one time that of the lowest logical warp index. A translation fault of kind 2, 5 or 6 is
escalated to the host; a user-class trap of a grid with a handler starts the handler at its entry, with the parameter pointer in
`s0` and `s1`; any other kills the block with its cause, and so does a trap of a handler. While a handler runs on the core no other
trap is taken. The causes of records are 1 to 9, as StepKeepsTrapCauses states.
Where the spec leaves a point open, the model's choice is stated: log 33, log 44, log 56, log 58, log 61. -/
def Obligations.RefereeActs : Prop :=
  (∀ (s : State) (core : Nat), ∃ u, exec (.refereeTakeTrap core) s = .next u) ∧
  (∀ (s : State) (core : Nat) (b : Block) (w : Warp) (t : TrapRec) (g : Grid), s.activeOn core = none →
    firstRaised ((s.trapsOf core).filter (fun x => !mustWait x)) = some (b, w, t) → s.grid? b.lsq = some g →
    s.block? b.lsq b.tkt = some b → b.warp? w.idx = some w →
    let r : Ref := { lsq := b.lsq, tkt := b.tkt, wrp := w.idx, lane := 0, handler := false }
    let fault := t.cause = 4 ∧ (t.sub = 2 ∨ t.sub = 5 ∨ t.sub = 6)
    let user := 6 ≤ t.cause ∧ t.cause ≤ 9 ∧ g.rec_.hnd ≠ 0
    (fault → s.att.ring = none → exec (.refereeTakeTrap core) s = .next (s.killBlock b.lsq b.tkt w.idx 4)) ∧
    (fault → s.att.ring ≠ none → ∃ u z, exec (.refereeTakeTrap core) s = .next u ∧ u.warpAt r = some z ∧ z.holder = .firmware b.lsq b.tkt ∧
      z.trap = w.trap ∧ u.att.escal = s.att.escal ++ [{ ctx := s.ctxOf b.lsq, frame := b.frame, wrp := w.idx, reply := none }]) ∧
    (user → ∃ u z a, exec (.refereeTakeTrap core) s = .next u ∧ u.warpAt r = some z ∧ z.holder = .handler ∧ z.trap = w.trap ∧
      (u.block? b.lsq b.tkt).bind Block.handler = some a ∧ a.trapped = w.idx ∧ a.firmware = false ∧ a.warp.core = w.core ∧
      a.warp.paths = [Path.at 1 g.rec_.hnd] ∧ a.warp.live = 1 ∧ a.warp.v = [] ∧
      cget a.warp.s 0 = g.rec_.par.extractLsb' 0 32 ∧ cget a.warp.s 1 = g.rec_.par.extractLsb' 32 32) ∧
    (1 ≤ t.cause → t.cause ≤ 9 → ¬ fault → ¬ user → exec (.refereeTakeTrap core) s = .next ((s.noteConsumed g.rec_.ctx t).killBlock b.lsq b.tkt w.idx t.cause))) ∧
  (∀ (s : State) (core : Nat) (b : Block) (a : Activation), s.activeOn core = some (b, a) →
    (∀ t, a.firmware = false → a.warp.trap = some t →
      exec (.refereeTakeTrap core) s = .next
        ((s.noteConsumed (s.ctxOf b.lsq) t).killBlockFor b.lsq b.tkt a.trapped t.cause (some a.warp))) ∧
    ((a.firmware = true ∨ a.warp.trap = none) → exec (.refereeTakeTrap core) s = .next s)) ∧
  ∀ (l : List (Block × Warp × TrapRec)) (x : Block × Warp × TrapRec), firstRaised l = some x →
    x ∈ l ∧ ∀ y ∈ l, x.2.2.order < y.2.2.order ∨
      (x.2.2.order = y.2.2.order ∧ x.1.tkt * 128 + x.2.1.idx ≤ y.1.tkt * 128 + y.2.1.idx)

/-- 13_progress.md:R268, R269, R278; 02_state.md:R35, R49; 14_isa_sync.md:R291, R292; 18_recovery.md:R327, R328;
04_isa_core.md:R124: a grid's next block starts with every register of R35 at its value; an ended warp gives up its registers and
its slot, or, where its block has a deposit, its extended block; a block ends when its round is over without a deposit, or killed,
once nothing of it is under way, no issued matrix operation either (07_isa_matrix.md:R184), and its deferred float atomics are
applied before (10_ordering.md:R224); a round with deposits starts their entries again in the order of keys, 32 to a warp, as R292
lays them out, once no matrix operation and no fetch of a handle is under way (R293); a block at rest is saved, once its generations
have advanced and no sector carries an old one, and a saved one restored; and a grid launched inside another leaves with its
completion store.
Where the spec leaves a point open, the model's choice is stated: log 9, log 13, log 22, log 26, log 56, log 65. -/
def Obligations.BlockEvents : Prop :=
  (∀ (s : State) (lsq org f : Nat) (g : Grid) (seats : List Seat), s.grid? lsq = some g →
    s.myTurn g = true → s.placeAt g (org % 16, org / 16 % 16) = some (none, seats) → s.freeFrame g.rec_.ctx = some f →
    ∃ u b, Goes (.blockDispatch lsq org) s u ∧ u.blocks = s.blocks ++ [b] ∧ b.lsq = lsq ∧ b.tkt = g.nextTkt ∧ b.frame = f ∧
      b.res = .resident ∧ b.cores.map BlockCore.core = g.coresAt (org % 16, org / 16 % 16) ∧
      b.warps.map Warp.idx = seats.map Seat.idx ∧
      (∀ w ∈ b.warps, w.paths = [Path.at 0xFFFFFFFF g.rec_.ent] ∧ w.live = 0xFFFFFFFF ∧ w.v = [] ∧ w.p = [] ∧ w.tags = [] ∧
        (∀ k, cget w.s k = if k = 0 then g.rec_.par.extractLsb' 0 32 else if k = 1 then g.rec_.par.extractLsb' 32 32 else 0) ∧
        w.sqd = 5 ∧ w.prec = List.replicate 32 52 ∧ w.fenv = List.replicate 32 0 ∧ w.ckpt = List.replicate 32 g.rec_.ent ∧
        w.cnt = List.replicate 12 0 ∧ w.ext = 0 ∧ w.wctc = 0 ∧ w.wctp = 0 ∧ w.wcts = 0) ∧
      ∃ h, u.grid? lsq = some h ∧ h = { g with nextTkt := g.nextTkt + 1 }) ∧
  (∀ (s : State) (r : Ref) (b : Block) (g : Grid), s.block? r.lsq r.tkt = some b → s.grid? r.lsq = some g →
    (∀ w, b.warp? r.wrp = some w → b.res = .resident → w.ended = true → w.quiet = true → w.released = false →
      let kept := b.huddle ≠ []
      (¬ kept → Goes (.warpRelease r) s (s.updWarp r.lsq r.tkt r.wrp (fun w =>
        { w with ext := 0, v := [], tags := [], released := true }))) ∧
      (kept → w.ext ≠ 0 → Goes (.warpRelease r) s (s.updWarp r.lsq r.tkt r.wrp (fun w => w.dropExt g.rec_.base)))) ∧
    (s.atomsDue b = true → Goes (.blockEnd r) s (s.endInterval r.lsq r.tkt)) ∧
    (s.atomsDue b = true → b.huddle ≠ [] → Goes (.huddleRoundEnd r) s (s.endInterval r.lsq r.tkt)) ∧
    (s.atomsDue b = false → (s.blockOps b = true ∨ s.inbound b = true ∨ b.mmas ≠ []) → Goes (.blockEnd r) s s) ∧
    (s.atomsDue b = false → s.blockOps b = false → s.inbound b = false → b.mmas = [] → b.res = .killed →
      Goes (.blockEnd r) s (s.removeBlock b)) ∧
    (s.atomsDue b = false → s.blockOps b = false → s.inbound b = false → b.mmas = [] → s.roundOver b = true → b.huddle = [] →
      Goes (.blockEnd r) s ((s.endInterval r.lsq r.tkt).removeBlock b)) ∧
    let fetched := ∀ c ∈ b.cores, ∀ k ∈ c.scrums, ∀ m, k.pend = some m → m.missing ≠ 0 → s.fetchFault (s.ctxOf b.lsq) m ≠ none
    (s.atomsDue b = false → (s.roundOver b = false ∨ s.blockOps b = true ∨ b.mmas ≠ [] ∨ ¬ fetched) →
      Goes (.huddleRoundEnd r) s s) ∧
    (s.atomsDue b = false → s.roundOver b = true → b.huddle ≠ [] → s.blockOps b = false → b.mmas = [] → fetched → ∀ l,
      let es := runs32 128 (sortHuddle b.huddle)
      s.roundSeats b g es.length = some l → ∃ u x, Goes (.huddleRoundEnd r) s u ∧ u.block? r.lsq r.tkt = some x ∧ x.huddle = [] ∧ x.hudCont = none ∧ x.round = b.round + 1 ∧
        x.warps = (l.zip es).map (fun y => Warp.ofRun y.1 g.rec_.par (b.hudCont.getD 0) y.2)) ∧
    (b.res = .resident → b.saving = true → (∀ w ∈ b.warps, w.atRest = true) → (∀ a, b.handler = some a → a.warp.atRest = true) →
      b.drained = true →
      (b.advanced = false → Goes (.blockSave r) s (s.advanceGens b)) ∧
      (b.advanced = true → s.inbound b = true → Goes (.blockSave r) s s) ∧
      (b.advanced = true → s.inbound b = false → Goes (.blockSave r) s ((s.saveBlock b g).endPreempt g.rec_.ctx b.frame))) ∧
    (∀ c org seats, c.tkt = r.tkt → s.myTurn g = true → s.placeAt g (org % 16, org / 16 % 16) = some (some c, seats) →
      Goes (.blockRestore r org) s (s.restoreBlock c g (org % 16, org / 16 % 16) seats))) ∧
  (∀ (b : Block) (g : Grid) (k : Nat) (x : Seat), b.keptSeat g k = some x →
    x.idx = k ∧ (b.cores[k % b.cores.length]?).map BlockCore.core = some x.core ∧
    ∃ w ∈ b.warps, w.released = false ∧ w.core = x.core ∧ w.part = x.part ∧ w.baseAt = x.baseAt) ∧
  (∀ (s : State) (b : Block),
    let u := s.removeBlock b
    u.block? b.lsq b.tkt = none ∧
    (∀ g, s.grid? b.lsq = some g → u.grid? b.lsq = some { g with ended := g.ended + 1, wctp := tmax g.wctp b.wctp }) ∧
    ((b.cores.map BlockCore.core).Nodup → b.res ≠ .saved → ∀ k, cget u.gens k =
      if k ∈ (b.cores.filter (fun c => c.old.isNone)).map BlockCore.core then cget s.gens k + 1 else cget s.gens k)) ∧
  (∀ (s : State) (g : Grid) (o : Nat × Nat) (b : Block) (l : List Seat), s.savedAt false g o = some (b, l) →
    b ∈ s.savedOf g ∧ s.savedSeats false g o b = some l ∧
    ∀ x ∈ s.savedOf g, (s.savedSeats false g o x).isSome = true → b.tkt ≤ x.tkt) ∧
  (∀ l : List HudEntry, (sortHuddle l).Perm l ∧
    (sortHuddle l).Pairwise (fun a b => a.key < b.key ∨ (a.key = b.key ∧ (a.wrp < b.wrp ∨ (a.wrp = b.wrp ∧ a.lane ≤ b.lane)))) ∧
    (l.length ≤ 4096 → (runs32 128 l).flatten = l ∧ ∀ r ∈ runs32 128 l, r.length ≤ 32)) ∧
  (∀ (x : Seat) (par cont : DWord) (es : List HudEntry) (j : Nat), es.length ≤ 32 → j < 32 →
    let w := Warp.ofRun x par cont es
    w.live.getLsbD j = decide (j < es.length) ∧ w.paths = [Path.at w.live cont] ∧
    ∀ e, es[j]? = some e → cget w.v j = e.payload.extractLsb' 0 32 ∧ cget w.v (32 + j) = e.payload.extractLsb' 32 32 ∧
      cget w.v (64 + j) = BitVec.ofNat 32 e.key) ∧
  ∀ (s : State) (lsq : Nat) (g : Grid), s.grid? lsq = some g →
    let out : State := { s with grids := s.grids.filter (fun x => x.lsq != lsq) }
    let left : State := { s.keepLog g with grids := s.grids.filter (fun x => x.lsq != lsq) }
    (s.partEnded g = false → Goes (.gridCompletion lsq) s s) ∧
    (s.partEnded g = true → g.qix = none → Goes (.gridCompletion lsq) s (out.completionStore g.rec_.ctx g.cwa
      (if g.killCode = 0 then g.cwv else BitVec.ofNat 64 (2 ^ 63 + (0x100 + g.killCode))) lsq lsq)) ∧
    (s.partEnded g = true → g.qix ≠ none → g.closing = true → s.finishes g = false → Goes (.gridCompletion lsq) s left) ∧
    (s.partEnded g = true → g.qix ≠ none → (g.closing = false ∨ s.finishes g = true) → Goes (.gridCompletion lsq) s s)

/-- 13_progress.md:R261, R263, R264, R266: the front end offers each fetch of a round of 36 to a level, level p in p + 1 of them,
and takes the highest level that has a pending queue where that one has none, and of the level the first queue at or after `Rot[p]`,
wrapping at 4,096 (with the pending queues listed in ascending order, which StepKeepsPendingOrder states). A fetch disables an
overrun queue, clears the pending bit of an empty one, and otherwise takes the entry at `HEAD`: it is launched or refused, with code
12 where the record cannot be read, before code 1 for its fields. None comes during pod formation (22_attach.md:R386).
Where the spec leaves a point open, the model's choice is stated: log 18, log 19, log 21, log 62. -/
def Obligations.QueueFetches : Prop :=
  (∀ (s : State) (t p q : Nat), s.front.table = some t → s.nextFetch t = some (p, q) →
    (s.att.form ≠ none → Goes .queueFetch s s) ∧
    (s.att.form = none → Goes .queueFetch s (({ s with front := { s.front with
      rot := updAt s.front.rot p (fun _ => (q + 1) % 4096), round := (s.front.round + 1) % 36 } } : State).fetchQueue t q)) ∧
    q ∈ s.front.pending ∧ (s.mem.queueDesc t q).getLsbD 161 = true ∧ bits (s.mem.queueDesc t q) 168 3 = p ∧
    (s.pendingAt t (offeredLevel s.front.round) ≠ [] → p = offeredLevel s.front.round) ∧
    (s.pendingAt t (offeredLevel s.front.round) = [] → ∀ k, p < k → k < 8 → s.pendingAt t k = []) ∧
    ((∃ k ∈ s.pendingAt t p, nth s.front.rot p 0 ≤ k) → nth s.front.rot p 0 ≤ q) ∧
    (s.QueueInv → (∀ k ∈ s.pendingAt t p, nth s.front.rot p 0 ≤ k → q ≤ k) ∧
      ((∀ k ∈ s.pendingAt t p, k < nth s.front.rot p 0) → ∀ k ∈ s.pendingAt t p, q ≤ k))) ∧
  (∀ (s : State) (t p k : Nat), k ∈ s.pendingAt t p ↔
    k ∈ s.front.pending ∧ (s.mem.queueDesc t k).getLsbD 161 = true ∧ bits (s.mem.queueDesc t k) 168 3 = p) ∧
  (∀ (s : State) (t p q : Nat), s.front.table = some t → s.att.form = none → s.QueueInv →
    let on := fun p k => k ∈ s.front.pending ∧ (s.mem.queueDesc t k).getLsbD 161 = true ∧ bits (s.mem.queueDesc t k) 168 3 = p
    let offered := offeredLevel s.front.round
    let rot := nth s.front.rot p 0
    (p = offered ∨ ((∀ k, ¬ on offered k) ∧ ∀ k n, p < n → ¬ on n k)) → on p q →
    ((rot ≤ q ∧ ∀ k, on p k → rot ≤ k → q ≤ k) ∨ ((∀ k, on p k → k < rot) ∧ ∀ k, on p k → q ≤ k)) →
    Goes .queueFetch s (({ s with front := { s.front with
      rot := updAt s.front.rot p (fun _ => (q + 1) % 4096), round := (s.front.round + 1) % 36 } } : State).fetchQueue t q)) ∧
  (∀ (s : State), (s.front.table = none ∨ s.att.form ≠ none ∨ (∃ t, s.front.table = some t ∧
      ∀ k ∈ s.front.pending, (s.mem.queueDesc t k).getLsbD 161 = false)) → Goes .queueFetch s s) ∧
  (∀ p, p < 8 → ((List.range 36).filter (fun k => offeredLevel k == p)).length = p + 1) ∧
  ∀ (s : State) (t q : Nat),
    let d := (s.mem.queueDesc t q).toNat
    let ahead := (d % 2 ^ 32 + 2 ^ 32 - d / 2 ^ 32 % 2 ^ 32) % 2 ^ 32
    let head := d / 2 ^ 32 % 2 ^ 32
    let size := 2 ^ (d / 2 ^ 172 % 2 ^ 4)
    let ctx := d / 2 ^ 162 % 2 ^ 6
    let drop := fun s : State => { s with front := { s.front with pending := s.front.pending.filter (· != q) } }
    let moved := s.writeDesc t q 4 (leBytes 4 ((head + 1) % 2 ^ 32))
    let moved := if ahead = 1 then drop moved else moved
    let va := d / 2 ^ 192 % 2 ^ 64 + 32 * (head % size)
    (size < ahead → s.fetchQueue t q =
      (((drop s).writeDesc t q 20 [BitVec.ofNat 8 (d / 2 ^ 160 % 2 ^ 8 - 2)]).writeDesc t q 16 [11]).postEvent ctx 3 11
        (BitVec.ofNat 64 (t + 64 * q)) (BitVec.ofNat 64 q) 0 0 0 s.modn) ∧
    (ahead = 0 → s.fetchQueue t q = drop s) ∧
    (ahead ≠ 0 → ahead ≤ size → (s.ctxDesc ctx).getLsbD 64 = true → s.readHome ctx va 32 = none →
      s.fetchQueue t q = (moved.noteRead ctx va 32).refuseQueue t q
        (moved.queueLaunch (s.mem.queueDesc t q) 0) 12) ∧
    (ahead ≠ 0 → ahead ≤ size → (s.ctxDesc ctx).getLsbD 64 = false →
      s.fetchQueue t q = moved.refuseQueue t q (moved.queueLaunch (s.mem.queueDesc t q) 0) 6) ∧
    (∀ l, ahead ≠ 0 → ahead ≤ size → (s.ctxDesc ctx).getLsbD 64 = true → s.readHome ctx va 32 = some l →
      entryOk (s.mem.queueDesc t q) (leNat l) = false →
      let x := moved.queueLaunch (s.mem.queueDesc t q) (leNat l)
      let code := if moved.readHome ctx x.lra.toNat 256 = none then 12 else 1
      s.fetchQueue t q = ((moved.noteRead ctx va 32).noteRecord ctx x.lra code).refuseQueue t q
        { x with cwa := x.cwa.filter (fun a => a.toNat % 8 == 0) } code) ∧
    (∀ l, ahead ≠ 0 → ahead ≤ size → (s.ctxDesc ctx).getLsbD 64 = true → s.readHome ctx va 32 = some l →
      entryOk (s.mem.queueDesc t q) (leNat l) = true →
      let x := moved.queueLaunch (s.mem.queueDesc t q) (leNat l)
      let y := (moved.noteRead ctx va 32).launchAll x
      s.fetchQueue t q = if y.1 = 0 then y.2 else y.2.refuseQueue t q x y.1)

/-- 01_device.md:R14, R17, R20, R23, R24; 18_recovery.md:R323, R325; 22_attach.md:R381, R383: a correctable error is counted, an
uncorrectable one poisons its sector and is counted and logged, and an address that does not exist faults; the power pool, which the
cap diminishes first, is lent in steps of 25 W to domains at their budgets, and a clock moves in steps of 100 MHz, down where its
die draws more than its budget and its loan, and while the module is over its cap one falls and none rises; an exchange of pod time,
over a port that is UP, moves `TIME` by one count at most; a port that changes state is reported to every context that exists, by an
event of type 5 whose `AUX` is free, at the place that R329 gives an event; and an idle core is gated or ungated.
Where the spec leaves a point open, the model's choice is stated: log 37, log 38, log 45, log 58. -/
def Obligations.DeviceEvents : Prop :=
  (∀ (s : State) (pa : Nat),
    let st := pa / 4096 % 8
    let e : UncEvent := { t := s.time, pa := pa / 32 * 32, stack := st, kind := 1, ctx := 255 }
    let log := fun (a : Attach) (e : UncEvent) =>
      { a with errLog := (a.errLog ++ [e]).drop (a.errLog.length - 255), uncTotal := a.uncTotal + 1 }
    (pa < 2 ^ 39 → Goes (.eccErrorDetected pa true 1) s
      { s with att := { s.att with corrected := updAt s.att.corrected st (· + 1) } }) ∧
    (pa < 2 ^ 39 → ∃ u, Goes (.eccErrorDetected pa false 1) s u ∧ u.mem.poisoned false pa = true ∧
      (∀ sys a, sys = true ∨ a / 32 ≠ pa / 32 → u.mem.poisoned sys a = s.mem.poisoned sys a) ∧
      (∀ sys a, u.mem.byte sys a = s.mem.byte sys a) ∧
      u.att = log { s.att with uncorrected := updAt s.att.uncorrected st (· + 1), detected := updAt s.att.detected st (· + 1) } e) ∧
    (∀ ok, 2 ^ 39 ≤ pa → exec (.eccErrorDetected pa ok 1) s = .fault .noSuchAddress) ∧
    (∃ u, Goes (.eccErrorDetected pa false 2) s u ∧ u.mem.poisoned true pa = true ∧
      u.att = log s.att { e with stack := 255, kind := 2 }) ∧
    Goes (.eccErrorDetected pa false 3) s { s with att := log s.att { e with stack := 255, kind := 3 } } ∧
    ∀ k, k ≠ 1 → Goes (.eccErrorDetected pa true k) s s) ∧
  (∀ (s : State) (p : Power) (clk0 clk1 : Nat),
    let budget := fun d : Nat => nth [600, 600, 480, 300] d 0
    let loan := fun d : Nat => nth p.loans d 0
    let draw := fun d : Nat => nth p.draws d 0
    let lends := p.loans.length = 4 ∧ p.loans.foldl (· + ·) 0 ≤ 200 - min 200 (2200 - s.att.cap) ∧ (∀ n ∈ p.loans, n % 25 = 0) ∧
      ∀ d, d < 4 → loan d ≠ 0 → budget d ≤ draw d
    let above := s.att.cap < p.draws.foldl (· + ·) 0 + 20
    let clocks := ∀ d, d < 2 →
      let new := nth [clk0, clk1] d 0
      let old := nth s.att.clk d 0
      600 ≤ new ∧ new ≤ 1500 ∧ new % 100 = 0 ∧
        (budget d + loan d < draw d → new < old ∨ (new = 600 ∧ old ≤ 600)) ∧
        (draw d ≤ budget d + loan d → above → new ≤ old) ∧ (draw d ≤ budget d + loan d → ¬ above → old ≤ new)
    let falls := above → clk0 < nth s.att.clk 0 0 ∨ clk1 < nth s.att.clk 1 0 ∨ (nth s.att.clk 0 0 ≤ 600 ∧ nth s.att.clk 1 0 ≤ 600)
    let good := p.draws.length = 4 ∧ lends ∧ clocks ∧ falls
    (good → Goes (.powerAdjust p clk0 clk1) s { s with att := { s.att with loans := p.loans, clk := [clk0, clk1] } }) ∧
    (¬ good → Goes (.powerAdjust p clk0 clk1) s s)) ∧
  (∀ (s : State) (k : Nat),
    let up := ∃ p ∈ s.att.ports, p = .up ∨ p = .up4 ∨ p = .up2
    let may := s.att.dst ≠ .reset ∧ s.att.dst ≠ .scrub ∧ up ∧ s.att.exch.toNat + 1000 ≤ s.time.toNat ∧ k ≤ 1 ∧
      (k = 1 → s.quad.lone = false ∧ s.att.slewed.toNat + 10000 ≤ s.time.toNat)
    let t := s.time + BitVec.ofNat 64 k
    (may → Goes (.timeDiscipline k) s
      { s with time := t, att := { s.att with exch := t, slewed := if k = 1 then t else s.att.slewed } }) ∧
    (¬ may → Goes (.timeDiscipline k) s s)) ∧
  (∀ (s : State) (port state : Nat) (p old : PortState), PortState.ofCode state = some p → s.att.ports[port]? = some old →
    let t : State := { s with fresh := s.fresh + 1, att := { s.att with
      ports := updAt s.att.ports port (fun _ => p), portErrors := updAt s.att.portErrors port (· + 1) } }
    (p = old → Goes (.portStateChange port state) s s) ∧
    (p ≠ old → ∃ u, Goes (.portStateChange port state) s u ∧
      u = (List.range 64).foldl (fun v c => v.postEvent c 5 port 0 (Config.portErrorClass s.fresh) 0 0 0 s.modn) t ∧
      u.att.ports = t.att.ports ∧ u.att.portErrors = t.att.portErrors ∧
      ∀ c, c < 64 → c < s.ctxs.length →
        let x := nth s.ctxs c CtxEnt.absent
        let y := nth u.ctxs c CtxEnt.absent
        ((s.ctxDesc c).getLsbD 64 = false → y = x) ∧
        ((s.ctxDesc c).getLsbD 64 = true → (y.written = x.written + 1 ∧ y.lost = 0) ∨ (y.written = x.written ∧ y.lost = x.lost + 1)))) ∧
  (∀ (s : State) (c typ code lsq tkt wrp mdl : Nat) (adr aux : DWord), c < s.ctxs.length →
    let x := nth s.ctxs c CtxEnt.absent
    let at_ := x.desc.toNat / 2 ^ 384 % 2 ^ 64 + 64 * (x.written % 2 ^ (8 + x.desc.toNat / 2 ^ 68 % 2 ^ 4))
    let full := 2 ^ (8 + x.desc.toNat / 2 ^ 68 % 2 ^ 4) ≤ x.written - x.taken
    let u := s.postEvent c typ code adr aux lsq tkt wrp mdl
    (x.desc.getLsbD 64 = false → u = s) ∧
    (∀ y, x.desc.getLsbD 64 = true → ¬ full → s.translate c at_ .store = .ok y → s.mem.unreachable y.sys y.pa = false →
      u.mem.bytes y.sys y.pa 64 = leBytes 64 (eventEntry s.time adr aux lsq tkt wrp mdl x.lost x.written code typ) ∧
      nth u.ctxs c CtxEnt.absent = { x with written := x.written + 1, lost := 0 }) ∧
    (x.desc.getLsbD 64 = true → (full ∨ ∀ y, s.translate c at_ .store = .ok y → s.mem.unreachable y.sys y.pa = true) →
      nth u.ctxs c CtxEnt.absent = { x with lost := x.lost + 1, lostTotal := x.lostTotal + 1 } ∧ u.mem = s.mem)) ∧
  ∀ (s : State) (core n : Nat), core < 144 → n ≤ 4 →
    let idle := ∀ b ∈ s.blocks, b.res ≠ .saved → b.coreAt core = none
    (idle → Goes (.corePowerGating core true n) s { s with gated := cset s.gated core 1, groupsDown := cset s.groupsDown core 4 }) ∧
    (¬ idle → Goes (.corePowerGating core true n) s s) ∧
    Goes (.corePowerGating core false n) s
      { s with gated := cset s.gated core 0, groupsDown := cset s.groupsDown core (BitVec.ofNat 3 n) }

/-- 22_attach.md:R374, R375, R382, R384, R386; 16_isolation.md:R309, R310, R312, R315: a host access reads or writes device memory
in READY, and in confidential mode, with the TEE indication and the interface in RUN, for the session's context; a register write
changes its register, and in confidential mode is dropped and counted, but for the session ring's doorbell; a reset begins in RESET
with the state of R384 and the end of the initialisation leaves memory zero; a scrub leaves every store zero and the mode of its
cause; a session that hears no heartbeat in its interval is scrubbed; the host learns the measurements, the firmware's revision
among them, as a session opens, and as a scrub fails (01_device.md:R21); and pod formation, which needs a port that is UP and no
warp, sets `TIME`, `MODN` and the replica, or times out, the session's time without a heartbeat staying over the step.
Where the spec leaves a point open, the model's choice is stated: log 2, log 35, log 36, log 42, log 43, log 57. -/
def Obligations.AttachmentEvents : Prop :=
  (∀ (s : State) (pa len : Nat) (data : List Byte) (tee : Bool),
    let open_ := s.sec.confidential = false
    let running := nth s.sec.tdisp s.sec.ctx .unlocked = .run
    let serves := fun (n : Nat) (acc : Acc) => tee = true ∧ running ∧ ∃ l, s.translateRange s.sec.ctx pa n acc = .ok l
    let read := Goes (.hostMemoryAccess (.read pa len tee)) s
    let write := Goes (.hostMemoryAccess (.write pa data tee)) s
    (s.att.dst ≠ .ready → read s ∧ write s) ∧
    (s.att.dst = .ready → open_ → pa + len ≤ 2 ^ 39 → ∃ u, read u ∧ u.att.lastRead = s.mem.bytes false pa len ∧
      (u.att.lastPoison = true ↔ 0 < len ∧ ∃ k, pa < 32 * k + 32 ∧ 32 * k < pa + len ∧ s.mem.poisoned false (32 * k) = true) ∧
      u = { s with att := { s.att with lastRead := u.att.lastRead, lastPoison := u.att.lastPoison } }) ∧
    (s.att.dst = .ready → ¬ open_ → ¬ serves len .load → read
      { s with att := { s.att with lastRead := List.replicate len 0xFF, lastPoison := false } }) ∧
    (s.att.dst = .ready → ¬ open_ → serves len .load → read { s with att := { s.att with
      lastRead := (s.homeRead s.sec.ctx pa len).1, lastPoison := (s.homeRead s.sec.ctx pa len).2 } }) ∧
    (s.att.dst = .ready → ¬ open_ → ¬ serves data.length .store → write s) ∧
    (s.att.dst = .ready → ¬ open_ → serves data.length .store → write (s.homeStoreVa none s.sec.ctx pa data false)) ∧
    (s.att.dst = .ready → open_ → 2 ^ 39 < pa + len → exec (.hostMemoryAccess (.read pa len tee)) s = .fault .noSuchAddress) ∧
    (s.att.dst = .ready → open_ → pa + data.length ≤ 2 ^ 39 → ∃ u, write u ∧ ∀ sys a, u.mem.byte sys a =
      if sys = false ∧ pa ≤ a ∧ a < pa + data.length then data.getD (a - pa) 0 else s.mem.byte sys a) ∧
    (s.att.dst = .ready → open_ → 2 ^ 39 < pa + data.length →
      exec (.hostMemoryAccess (.write pa data tee)) s = .fault .noSuchAddress)) ∧
  (∀ (s : State) (v : BitVec 64), s.att.dst ≠ .scrub →
    let idle := s.att.cdb = s.att.cci
    let set := fun (off : Nat) (a : Attach) => Goes (.registerWrite off v) s { s with att := a }
    (s.sec.confidential = true → ∀ off, off ≠ Config.sessionDoorbell → Goes (.registerWrite off v) s
      { s with sec := { s.sec with dropped := s.sec.dropped + 1 } }) ∧
    (s.sec.confidential = true → Goes (.registerWrite Config.sessionDoorbell v) s { s with sec := { s.sec with doorbell := v } }) ∧
    (s.sec.confidential = false → idle → set 0x10 { s.att with crb := v } ∧ set 0x18 { s.att with crs := v.toNat % 16 }) ∧
    (s.sec.confidential = false → ¬ idle → set 0x10 s.att ∧ set 0x18 s.att) ∧
    (s.sec.confidential = false → set 0x20 { s.att with cdb := v.setWidth 32 }) ∧
    (∃ u, Goes (.ncnWrite v) s u ∧ u.att.ncn = v.setWidth 32 ∧ (s.sec.confidential = false → Goes (.registerWrite 0x30 v) s u))) ∧
  (∀ s : State, ∃ u, Goes .coldReset s u ∧ u.att.dst = .reset ∧ u.blocks = [] ∧ u.grids = [] ∧ u.groups = [] ∧ u.homeOps = [] ∧
    u.ctxs = List.replicate 64 CtxEnt.absent ∧ u.sec = { Security.reset with scrubFailed := s.sec.scrubFailed } ∧ u.quad = State.reset.quad ∧ u.front = FrontEnd.reset ∧
    (∀ a, u.mem.byte true a = s.mem.byte true a)) ∧
  (∀ s : State,
    let stuck := s.sec.scrubFailed = true ∧ s.sec.lastScrub ≠ 0
    (¬ stuck → s.att.dst = .init → ∃ u, Goes (.readyReached true) s u ∧ u.att.dst = .ready ∧
      ∀ a, u.mem.byte false a = 0 ∧ u.mem.poisoned false a = false) ∧
    (¬ stuck → (s.att.dst = .reset ∨ s.att.dst = .init) → ∃ u, Goes (.readyReached false) s u ∧ u.att.dst = .failed ∧ u.mem = s.mem) ∧
    (s.att.dst = .reset → Goes (.readyReached true) s s) ∧ (stuck → ∀ ok, Goes (.readyReached ok) s s)) ∧
  (∀ (s : State) (ok : Bool), s.att.dst = .scrub → ∃ u, Goes (.scrubComplete ok) s u ∧
    u.att.dst = (if ok then .ready else .reset) ∧ (∀ a, u.mem.byte false a = 0) ∧ (∀ a, u.mem.byte true a = s.mem.byte true a) ∧
    u.blocks = [] ∧ u.time = 0 ∧ u.sec.confidential = (ok && s.sec.scrub == 1) ∧ u.sec.lastScrub = s.sec.scrub ∧
    u.sec.tdisp = List.replicate 64 (if ok = true ∧ s.sec.scrub = 1 then .locked else .unlocked) ∧
    u.sec.scrubFailed = !ok ∧ u.sec.session = false ∧
    (ok = false → u.sec.measured = some { confidential := false, revision := Config.revision, lastScrub := s.sec.scrub, scrubFailed := true
                                          wasRunning := s.sec.wasRunning }) ∧ ∀ k ∈ u.sec.slots, k.holds = false ∧ k.key = 0) ∧
  (∀ (s : State) (n : Nat),
    let may := s.att.dst = .ready ∧ s.sec.scrubFailed = false ∧ 1 ≤ n ∧ n ≤ 600
    let late := s.sec.session = true ∧ s.sec.interval * 10 ^ 9 < (s.time - s.sec.lastBeat).toNat
    let c := Config.sessionCtx s.fresh % 64
    (may → Goes (.spdmSessionSetup n) s { s with fresh := s.fresh + 1, sec := { s.sec with
      session := true, interval := n, lastBeat := s.time, ctx := c
      tdisp := if s.sec.confidential then updAt s.sec.tdisp c (fun _ => .run) else s.sec.tdisp
      measured := some { confidential := s.sec.confidential, revision := Config.revision, lastScrub := s.sec.lastScrub
                         scrubFailed := s.sec.scrubFailed, wasRunning := s.sec.wasRunning } } }) ∧
    (¬ may → Goes (.spdmSessionSetup n) s s) ∧ (¬ late → Goes .heartbeatLoss s s) ∧
    (late → ∃ u, Goes .heartbeatLoss s u ∧ u.att.dst = .scrub ∧ u.sec.scrub = 3 ∧ u.sec.session = false ∧ u.blocks = [] ∧
      u.grids = [])) ∧
  ∀ (s : State) (t : BitVec 64) (f : Formation), s.att.form = some f →
    let first := (List.range 64).find? (fun m => f.mask.getLsbD m) = some f.number
    let meets := s.blocks = [] ∧ s.grids = [] ∧ ∃ p ∈ s.att.ports, p = .up ∨ p = .up4 ∨ p = .up2
    (¬ meets → Goes (.podFormationComplete t) s s) ∧
    (meets → ∃ u, Goes (.podFormationComplete t) s u ∧ u.time = (if first then s.time else t) ∧
      u.time - u.sec.lastBeat = s.time - s.sec.lastBeat ∧ u.modn = f.number ∧ u.att.form = none ∧
      u.quad.rep = { members := (List.range 64).map (fun m => if f.mask.getLsbD m then .member else .absent)
                     grids := [], rows := [], seq := 0, digest := 0, suspects := [] } ∧
      u.quad.osq = 0 ∧ u.quad.interval = 2 ^ (4 + f.code) ∧ u.quad.lone = false) ∧
    (f.started.toNat + 10 ^ 9 ≤ s.time.toNat → Goes .formPodTimeout s (({ s with att := { s.att with form := none } } : State).complete 7 0)) ∧
    (s.time.toNat < f.started.toNat + 10 ^ 9 → Goes .formPodTimeout s s)

/-- 19_quadrille.md:R336, R337, R338, R339, R340, R349, R350, R351: an event raised takes the module's T and the next `OSQ`, and the
module holds it at once. A heartbeat whose events are all held raises the heard time of its sender; one is sent every 500 ns. The
next event of an origin is held, unless it is stamped above a cut. A part that has ended raises FINISH and leaves; a module silent
for 20 µs is suspected once, and cut with a quorum of suspicions below H′, once its events at or below the cut are held. The higher of
two modules that lost each other drops its replica when it hears the other. In a scrub nothing comes in and nothing goes out
(16_isolation.md:R312, R315). The majority of a sequence is its largest group of reports,
or of equal ones the group with the lowest member: a module outside it halts, and one inside raises FENCE for every other.
Where the spec leaves a point open, the model's choice is stated: log 16, log 56. -/
def Obligations.QuadrilleEvents : Prop :=
  (∀ (s : State) (e : QEvent),
    let x := ({ e with stt := s.time, osq := s.quad.osq + 1, orm := s.modn } : QEvent).toBits
    s.raise e = { s with quad := { s.quad with
      osq := s.quad.osq + 1, recvOsq := updAt s.quad.recvOsq s.modn (fun _ => s.quad.osq + 1), received := s.quad.received ++ [x] } }) ∧
  (∀ (s : State) (h : Heartbeat) (x : BitVec 512) (j : JoinStep), s.att.dst = .scrub → Goes (.quadrilleHeartbeatReceive h) s s ∧
    Goes .quadrilleHeartbeatSend s s ∧ Goes (.eventReceive x) s s ∧ Goes (.joinProcedure j) s s) ∧
  (∀ (s : State) (h : Heartbeat), s.att.dst ≠ .scrub → h.src ≠ s.modn → h.src < 64 → s.inPod s.modn = true → s.inPod h.src = true →
    s.quad.heard.length = 64 → s.quad.lastRecv.length = 64 → s.quad.beats = [] → s.quad.reports = [] → h.digestSeq = 0 →
    ∃ u, Goes (.quadrilleHeartbeatReceive h) s u ∧
      nth u.quad.lastRecv h.src 0 = (if h.src ∈ s.quad.fetch.map Prod.fst then nth s.quad.lastRecv h.src 0 else s.time) ∧
      (h.osq ≤ nth s.quad.recvOsq h.src 0 → u.quad.beats = [] ∧
        ∀ m, m < 64 → nth u.quad.heard m 0 = if m = h.src then tmax (nth s.quad.heard m 0) h.sent else nth s.quad.heard m 0) ∧
      (nth s.quad.recvOsq h.src 0 < h.osq → u.quad.beats = [h] ∧ u.quad.heard = s.quad.heard)) ∧
  (∀ (s : State) (h : Heartbeat), s.att.dst ≠ .scrub → s.isMember s.modn = true → s.quad.lone = false → s.quad.rep.memberCount = 1 → h.src < s.modn →
    s.modn < 64 → h.src ∈ s.quad.known → s.inPod h.src = false → Goes (.quadrilleHeartbeatReceive h) s s.dropReplica) ∧
  (∀ s : State,
    let beat : Heartbeat :=
      { src := s.modn, sent := s.time, osq := s.quad.osq, digestSeq := s.quad.ownReport.1, digest := s.quad.ownReport.2 }
    let due := ∀ b, s.quad.lastBeat = some b → b.sent.toNat + 500 ≤ s.time.toNat
    (s.att.dst ≠ .scrub → s.inPod s.modn = true → due → Goes .quadrilleHeartbeatSend s { s with quad := { s.quad with lastBeat := some beat } }) ∧
    (¬ (s.inPod s.modn = true ∧ due) → Goes .quadrilleHeartbeatSend s s)) ∧
  (∀ (s : State) (x : BitVec 512),
    let e := QEvent.ofBits x
    let next := e.orm ≠ s.modn ∧ s.inPod s.modn = true ∧ s.att.dst ≠ .scrub ∧ e.osq = nth s.quad.recvOsq e.orm 0 + 1
    let above := ∃ c, s.quad.cut.find? (fun c => c.1 == e.orm) = some c ∧ c.2.toNat < e.stt.toNat
    (¬ next → Goes (.eventReceive x) s s) ∧
    (next → ∃ u, Goes (.eventReceive x) s u ∧ u.quad.recvOsq = updAt s.quad.recvOsq e.orm (fun _ => e.osq) ∧
      (e.orm ∉ s.quad.fetch.map Prod.fst → u.quad.lastRecv = updAt s.quad.lastRecv e.orm (fun _ => s.time)) ∧
      (e.orm ∈ s.quad.fetch.map Prod.fst → u.quad.lastRecv = s.quad.lastRecv) ∧
      (above → u.quad.received = s.quad.received) ∧ (¬ above → u.quad.received = s.quad.received ++ [x]) ∧
      ∀ b ∈ u.quad.beats, nth u.quad.recvOsq b.src 0 < b.osq)) ∧
  (∀ (s : State) (lsq k : Nat) (g : Grid), s.grid? lsq = some g → g.qix = some k →
    let due := s.partEnded g = true ∧ s.mayRaise = true ∧ g.silent = false
    let t := s.raise { stt := 0, typ := 2, grx := k, ctx := g.rec_.ctx, flg := g.killCode != 0, val := BitVec.ofNat 64 g.killCode }
    (due → Goes (.finishRaise lsq) s { t.keepLog g with grids := s.grids.filter (fun x => x.lsq != lsq) }) ∧
    (¬ due → Goes (.finishRaise lsq) s s)) ∧
  (∀ (s : State) (m : Nat),
    let due := s.mayRaise = true ∧ s.isMember m = true ∧ m ≠ s.modn ∧ m ∉ s.quad.raisedSuspect ∧
      (nth s.quad.lastRecv m 0).toNat + 20000 ≤ s.time.toNat
    let t := s.raise { stt := 0, typ := 6, sbj := m, val := nth s.quad.heard m 0 }
    (due → Goes (.suspectRaise m) s { t with quad := { t.quad with raisedSuspect := s.quad.raisedSuspect ++ [m] } }) ∧
    (¬ due → Goes (.suspectRaise m) s s)) ∧
  (∀ (s : State) (m : Nat), s.silent m = true ↔ m ≠ s.modn ∧ (m ∈ s.quad.raisedSuspect ∨
    (nth s.quad.lastRecv m 0).toNat + 20000 ≤ s.time.toNat)) ∧
  (∀ (s : State) (m : Nat) (h : DWord), s.isMember m = true → m ≠ s.modn → (∀ x ∈ s.quad.cut, x.1 ≠ m) →
    s.leastHeard (s.quad.rep.memberList.filter (fun k => k != m && !s.silent k)) = some h →
    let q := (s.quad.rep.memberCount - 1) / 2 + 1
    let l := s.suspicionsBelow m h
    let cut := maxT ((l.take q).map Suspicion.val)
    (l.length < q → Goes (.memberCut m) s s) ∧
    (q ≤ l.length → ∃ u, Goes (.memberCut m) s u ∧ u.quad.rep = s.quad.rep ∧
      (nth s.quad.heard m 0 < cut → (m, cut) ∈ u.quad.fetch ∧ u.quad.cut = s.quad.cut ∧ u.quad.received = s.quad.received) ∧
      (cut ≤ nth s.quad.heard m 0 → u.quad.cut = (m, cut) :: s.quad.cut ∧ (∀ x ∈ u.quad.fetch, x.1 ≠ m) ∧
        ∀ x, x ∈ u.quad.received ↔ x ∈ s.quad.received ∧
          ¬ ((QEvent.ofBits x).orm = m ∧ cut.toNat < (QEvent.ofBits x).stt.toNat)))) ∧
  (∀ (q : Quad) (n : Nat) (v : BitVec 256), q.majority n = some v →
    let count := fun w => (q.rep.memberList.filter (fun m => q.reportOf m n == some w)).length
    ∀ m ∈ q.rep.memberList, ∃ w, q.reportOf m n = some w ∧ count w ≤ count v ∧
      (count w = count v → w = v ∨ ∃ k ∈ q.rep.memberList, k < m ∧ q.reportOf k n = some v)) ∧
  ∀ (s : State) (n : Nat) (v : BitVec 256), s.quad.majority n = some v → s.isMember s.modn = true → s.quad.halted = false →
    let u := s.compareAt n
    (s.quad.reportOf s.modn n ≠ some v → u.quad.halted = true ∧ u.quad.pendRows = [] ∧ u.quad.received = s.quad.received ∧
      (∀ b ∈ u.blocks, ∀ g ∈ s.grids, g.lsq = b.lsq → b.res = .killed) ∧ ∀ g ∈ u.grids, g.qix ≠ none → g.silent = true) ∧
    (s.quad.reportOf s.modn n = some v →
      let out := s.quad.rep.memberList.filter (fun m => s.quad.reportOf m n != some v)
      u.blocks = s.blocks ∧ u.quad.received = s.quad.received ++ (out.zip (List.range out.length)).map (fun x => ({
        stt := s.time, osq := s.quad.osq + 1 + x.2, orm := s.modn, typ := 8, sbj := x.1, val := BitVec.ofNat 64 n } : QEvent).toBits))

/-- 01_device.md:R26; 13_progress.md:R275; 19_quadrille.md:R343, R345, R349, R352, R353; 22_attach.md:R386: a module enacts its rows
in order: a row that is written launches its part, or raises FINISH with 0x80 plus the code of what stops it; the rows of a grid
that is placed again take back its parts; a row that BLOCK removes pre-empts its blocks and those of the grids launched inside it,
and one that a fault or a loss removes kills them. A halted module enacts none, and a module that forms a pod only what ends blocks.
A joiner kills its blocks and steps `TIME` once, loads its sponsor's snapshot, and is announced and admitted by its sponsor; what it
read of the replica stays as the last delivery left it (20_isa_system.md:R371).
Where the spec leaves a point open, the model's choice is stated: log 16, log 20, log 34, log 56. -/
def Obligations.RowsAndJoins : Prop :=
  (∀ (s : State) (c : RowChange) (rest : List RowChange), s.quad.pendRows = c :: rest →
    let t : State := { s with quad := { s.quad with pendRows := rest } }
    let part := fun g : Grid => g ∈ s.grids ∧ g.qix = some c.gix ∧ g.closing = false
    let mine := fun b : Block => b.lsq ∈ s.partFamily c.gix
    let may := s.att.form = none ∧ s.quad.halted = false
    let fails := fun code : Nat =>
      let p := (t.noteRecord c.grid.ctx c.grid.lra code).postEvent c.grid.ctx 2 code c.grid.lra 0 0 0 0 s.modn
      let e : QEvent := { stt := 0, typ := 2, grx := c.gix, ctx := c.grid.ctx, flg := true, val := BitVec.ofNat 64 (0x80 + code) }
      Goes (.rowEnact c.row) s (if s.mayRaise then p.raise e else p)
    let exists_ := (s.ctxDesc c.grid.ctx).getLsbD 64
    (∀ row, row ≠ c.row → Goes (.rowEnact row) s s) ∧
    (let fam := s.partFamily c.gix
     let in_ := fun g : Grid => ∃ l ∈ fam, g.parent = some l
     (∀ g, part g → g.lsq ∈ fam) ∧ (∀ k ∈ fam, ∃ g ∈ s.grids, g.lsq = k ∧ (part g ∨ in_ g)) ∧
      (s.grids.Pairwise (fun g h => g.parent ≠ some h.lsq) → ∀ g ∈ s.grids, in_ g → g.lsq ∈ fam)) ∧
    (s.att.form ≠ none → c.kind ≠ .kill → c.kind ≠ .discard → c.kind ≠ .lost → Goes (.rowEnact c.row) s s) ∧
    (s.att.form = none → s.quad.halted = true → Goes (.rowEnact c.row) s t) ∧
    (may → c.kind = .finished → Goes (.rowEnact c.row) s t) ∧
    (may → c.kind = .start → exists_ = false → fails 6) ∧
    (may → c.kind = .start → exists_ = true → t.readHome c.grid.ctx c.grid.lra.toNat 256 = none → fails 12) ∧
    (∀ d, may → c.kind = .start → exists_ = true → t.readHome c.grid.ctx c.grid.lra.toNat 256 = some d →
      let r : LaunchRec := { LaunchRec.ofBytes d with par := c.grid.par, grdw := c.grid.sgw, grdh := c.grid.sgh }
      let code := firstCode (t.checkRec c.grid.ctx .row r)
      (code ≠ 0 → fails code) ∧
      (code = 0 → ∃ u g, Goes (.rowEnact c.row) s u ∧ u.grids = s.grids ++ [g] ∧ g.lsq = s.front.nextLsq ∧ g.qix = some c.gix ∧
        g.rx = c.entry.x0 ∧ g.ry = c.entry.y0 ∧ g.nextTkt = 0 ∧ g.rec_.par = c.grid.par)) ∧
    (∀ p rest', may → c.kind = .restore → s.partsOf c.gix = p :: rest' →
      ∃ u, Goes (.rowEnact c.row) s u ∧ u.blocks = s.blocks ∧ u.grids = s.grids.map (fun g =>
        if g.lsq ∈ s.partFamily c.gix then
          { g with held := false, rx := c.entry.x0 + (g.rx - p.rx), ry := c.entry.y0 + (g.ry - p.ry), phase := [], seen := [] }
        else g)) ∧
    (may → c.kind = .restore → s.partsOf c.gix = [] → Goes (.rowEnact c.row) s t) ∧
    (may → c.kind = .preempt → ∃ u, Goes (.rowEnact c.row) s u ∧
      (∀ b ∈ s.blocks, mine b → b.res = .resident → ({ b with saving := true } : Block) ∈ u.blocks) ∧
      (∀ b ∈ s.blocks, ¬ (mine b ∧ b.res = .resident) → b ∈ u.blocks) ∧
      ∀ g ∈ u.grids, g.lsq ∈ s.partFamily c.gix → g.held = true) ∧
    (s.quad.halted = false → c.kind = .kill ∨ c.kind = .discard ∨ c.kind = .lost → ∃ u, Goes (.rowEnact c.row) s u ∧
      (∀ b ∈ u.blocks, mine b → b.res = .killed) ∧ (∀ b ∈ s.blocks, ¬ mine b → b ∈ u.blocks) ∧
      ∀ g ∈ u.grids, g.qix = some c.gix → g.closing = true)) ∧
  (∀ (s : State) (t : BitVec 64) (num : Nat), s.att.dst ≠ .scrub →
    (s.mayJoin = false → Goes (.joinProcedure (.begin_ t num)) s s) ∧
    (s.mayJoin = true → ∃ u, Goes (.joinProcedure (.begin_ t num)) s u ∧ u.time = (if s.quad.stepped then s.time else t) ∧
      u.modn = (if s.quad.lone then num else s.modn) ∧ 
      u.time - u.sec.lastBeat = s.time - s.sec.lastBeat ∧
      u.quad.rep = { s.quad.rep with members := List.replicate 64 .absent, suspects := [] } ∧
      u.quad.known = (if s.quad.lone then [] else s.quad.known) ∧ u.quad.halted = false ∧ u.quad.lone = false ∧
      u.quad.received = [] ∧ u.quad.pendRows = [] ∧ u.quad.stepped = true ∧ u.quad.stranded = false ∧
      (∀ g ∈ u.grids, g.silent = true ∧ g.cwa = none) ∧
      (∀ b ∈ u.blocks, (∃ g ∈ s.grids, g.lsq = b.lsq) → b.res = .killed))) ∧
  (∀ (s : State) (r : Replica) (osqs ever : List Nat) (n : Nat), s.att.dst ≠ .scrub →
    let may := s.isMember s.modn = false ∧ s.quad.lone = false ∧ s.quad.stepped = true
    (¬ may → Goes (.joinProcedure (.snapshot r osqs n ever)) s s) ∧
    (may → ∃ u, Goes (.joinProcedure (.snapshot r osqs n ever)) s u ∧
      u.quad.rep = r ∧ u.quad.recvOsq = osqs ∧ u.quad.interval = n ∧ u.quad.received = [] ∧ u.quad.compared = r.seq ∧
      u.quad.heard = List.replicate 64 0 ∧
      (∀ m, m ∈ u.quad.known ↔ m < 64 ∧ (nth r.members m .absent ≠ .absent ∨ m ∈ ever ∨ m ∈ s.quad.known)) ∧
      ∀ x n, x ∈ s.quad.subs → x.dps = some n → (x ∈ u.quad.subs ↔ ∃ g ∈ r.grids, g.2.dps = n ∧ g.2.orm = s.modn ∧
        g.2.gst ≠ .done ∧ g.2.gst ≠ .faulted))) ∧
  (∀ s : State, s.att.dst ≠ .scrub →
    let inside := s.isMember s.modn = true ∧ s.quad.halted = false
    (s.quad.lone = false → s.isMember s.modn = true → Goes (.joinProcedure .lost) s s.dropReplica) ∧
    (s.quad.lone = true ∨ s.isMember s.modn = false → Goes (.joinProcedure .lost) s s) ∧
    s.dropReplica.quad.rep = { s.quad.rep with members := List.replicate 64 .absent, suspects := [] } ∧
    (inside → Goes (.joinProcedure .noSponsor) s s) ∧
    (¬ inside → Goes (.joinProcedure .noSponsor) s { s with quad := { s.quad with stranded := true } })) ∧
  ∀ (s : State) (m n skew : Nat), s.att.dst ≠ .scrub → s.mayRaise = true →
    let st := nth s.quad.rep.members m .absent
    let freed := m ∈ s.att.releases
    let may := (st = .absent ∧ (freed ∨ m ∈ s.quad.known)) ∨ (st = .fenced ∧ freed) ∨ st = .joining
    let same := st = .joining ∧ ∃ d, s.quad.reportOf m n = some d ∧ (s.quad.majors.find? (fun x => x.1 == n)).map Prod.snd = some d
    (may → skew ≤ 10 → Goes (.joinProcedure (.sponsor0 m skew)) s
      (s.raise { stt := 0, typ := 7, sbj := m, val := if freed then 1 else 0 })) ∧
    (¬ may ∨ 10 < skew → Goes (.joinProcedure (.sponsor0 m skew)) s s) ∧
    (same → Goes (.joinProcedure (.sponsor1 m n)) s
      (s.raise { stt := 0, typ := 7, sbj := m, flg := true, val := BitVec.ofNat 64 n })) ∧
    (¬ same → Goes (.joinProcedure (.sponsor1 m n)) s s)

/-- 19_quadrille.md:R341, R342, R343, R348, R350: the event delivered next is the first held one in the order of stamp, origin and
sequence, below the horizon. Each delivery raises the sequence by 1 and folds the event and the changed rows into the digest. Each
type has its effect on the tables, and an event that breaks its condition has none. A lost or fenced module's grids are queued again
or faulted, and each member posts its notice. A host's RELEASE is used up as its module becomes a MEMBER (R352). A grid that this
module submitted is known by its delivery position, and its end stores the completion word while the module is a MEMBER. -/
def Sys2Proof.Claims.Deliveries : Prop :=
  (∀ (s : State) (x : BitVec 512), s.nextEvent = some x →
    let e := QEvent.ofBits x
    let goes := fun (n : Nat) (i : Instr) => e.typ = n → Goes i s (s.deliver x)
    x ∈ s.quad.received ∧ (∀ y ∈ s.quad.received, (QEvent.ofBits y).before e = false) ∧
    (∃ h, s.horizon = some h ∧ e.stt.toNat < h.toNat) ∧
    goes 1 .deliverSubmit ∧ goes 2 .deliverFinish ∧ goes 3 .deliverBlock ∧ goes 4 .deliverUnblock ∧ goes 5 .deliverCancel ∧
    goes 6 .deliverSuspect ∧ goes 7 .deliverJoin ∧ goes 8 .deliverFence) ∧
  (∀ s : State, s.att.form ≠ none → s.nextEvent = none) ∧
  (∀ (s : State) (osq : Nat) (dps : Option Nat) (fail : Option DWord) (x : Submission), (∀ y ∈ s.quad.subs, y.osq = osq → y.dps = dps → y = x) →
    let rest := s.quad.subs.filter (fun y => !(y.osq == osq && y.dps == dps))
    let t : State := { s with quad := { s.quad with subs := rest } }
    (x ∉ s.quad.subs → s.endSubmission osq dps fail = s) ∧
    (x ∈ s.quad.subs → x.osq = osq → x.dps = dps → s.endSubmission osq dps fail =
      if s.isMember s.modn then t.completionStore x.ctx x.cwa (fail.getD x.cwv) 0 osq else t)) ∧
  (∀ (s : State) (x : BitVec 512),
    let u := s.deliver x
    u.quad.rep.seq = s.quad.rep.seq + 1 ∧ u.quad.log.head? = some x ∧
    u.quad.rep.digest = sha3 (leBytes 32 s.quad.rep.digest.toNat ++ leBytes 64 x.toNat ++ rowsChanged s.quad.rep.rows u.quad.rep.rows)) ∧
  (∀ (s : State) (e : QEvent) (n : Nat),
    let u := s.applyEvent e n
    (e.typ = 0 ∨ 8 < e.typ → u = s) ∧
    (∀ k, e.typ = 1 → s.quad.rep.freeGrid = some k → u.quad.rep.rows = s.quad.rep.rows ∧
      u.qgrid? k = some { gst := .queued, dps := n, pri := e.pri, gc := e.gc, gw := e.gw, gh := e.gh, skp := 0, rst := e.rst, ctx := e.ctx
                          orm := e.orm, lra := e.lra, par := e.val, sgw := e.sgw, sgh := e.sgh, gng := [], hsv := false, fin := 0
                          osq := e.osq }) ∧
    (∀ x ∈ s.quad.subs, e.typ = 1 → e.orm = s.modn → s.quad.rep.freeGrid ≠ none → x.osq = e.osq → x.dps = none →
      { x with dps := some n } ∈ u.quad.subs) ∧
    (e.typ = 1 → s.quad.rep.freeGrid = none → u.quad.rep = s.quad.rep) ∧
    (∀ g, 2 ≤ e.typ → e.typ ≤ 5 → s.qgrid? e.grx = some g → g.ctx ≠ e.ctx → u = s) ∧
    (2 ≤ e.typ → e.typ ≤ 5 → s.qgrid? e.grx = none → u = s) ∧
    (∀ g, s.qgrid? e.grx = some g → g.ctx = e.ctx →
      let row := fun m => ∃ r ∈ s.quad.rep.rows, r.2.grx = e.grx ∧ r.2.mdn = m
      let takes := (g.gst = .placed ∨ g.gst = .blocked) ∧ (row e.orm ∨ e.orm ∈ g.gng)
      let fin := g.fin ||| ((1 : DWord) <<< e.orm)
      let gone := ∀ r, r ∈ u.quad.rep.rows ↔ r ∈ s.quad.rep.rows ∧ r.2.grx ≠ e.grx
      (e.typ = 2 → ¬ takes → u = s) ∧
      (e.typ = 2 → takes → e.flg = false →
        (∀ r, r ∈ u.quad.rep.rows ↔ r ∈ s.quad.rep.rows ∧ ¬ (r.2.grx = e.grx ∧ r.2.mdn = e.orm)) ∧
        ((∀ m ∈ g.gng, fin.getLsbD m = true) → u.qgrid? e.grx = some { g with fin := fin, gst := .done }) ∧
        (¬ (∀ m ∈ g.gng, fin.getLsbD m = true) → u.qgrid? e.grx = some { g with fin := fin })) ∧
      (e.typ = 2 → takes → e.flg = true → gone ∧ u.qgrid? e.grx = some { g with gst := .faulted }) ∧
      (e.typ = 3 → (g.gst = .queued ∨ g.gst = .placed) → gone ∧
        u.qgrid? e.grx = some { g with gst := .blocked, hsv := g.hsv || g.gst == .placed }) ∧
      (e.typ = 3 → g.gst ≠ .queued → g.gst ≠ .placed → u = s) ∧
      (e.typ = 4 → g.gst = .blocked → u.qgrid? e.grx = some { g with gst := .queued }) ∧ (e.typ = 4 → g.gst ≠ .blocked → u = s) ∧
      (e.typ = 5 → (g.gst = .done ∨ g.gst = .faulted) → u.qgrid? e.grx = none) ∧
      (e.typ = 5 → g.gst ≠ .done → g.gst ≠ .faulted → gone ∧ u.qgrid? e.grx = some { g with gst := .faulted })) ∧
    (s.quad.rep.members.length = 64 → e.sbj < 64 →
      let old := nth s.quad.rep.members e.sbj .absent
      let new := fun st => nth u.quad.rep.members e.sbj .absent = st
      let mine := s.quad.rep.suspects.filter (fun x => x.subject == e.sbj)
      let again := ∃ x ∈ mine, x.by_ = e.orm
      let q := (s.quad.rep.memberCount - 1) / 2 + 1
      (e.typ = 6 → (old ≠ .member ∨ e.sbj = e.orm ∨ again) → u = s) ∧
      (e.typ = 6 → old = .member → e.sbj ≠ e.orm → ¬ again →
        (mine.length + 1 < q → u.quad.rep.suspects = s.quad.rep.suspects ++ [{ by_ := e.orm, subject := e.sbj, val := e.val }] ∧
          new .member) ∧
        (q ≤ mine.length + 1 → new .absent ∧ u.quad.cut.head? = some (e.sbj, maxT (mine.map Suspicion.val ++ [e.val])))) ∧
      (e.typ = 7 → e.flg = false → (old = .absent ∨ (old = .fenced ∧ e.val = 1)) → new .joining) ∧
      (e.typ = 7 → e.flg = true → old = .joining → new .member ∧ ∀ k, k ∈ u.att.releases ↔ k ∈ s.att.releases ∧ k ≠ e.sbj) ∧
      (e.typ = 7 → e.flg = false → u.att.releases = s.att.releases) ∧
      (e.typ = 8 → old = .member → new .fenced ∧ u.quad.cut.head? = some (e.sbj, e.stt)) ∧
      (e.typ = 8 → old ≠ .member → u = s))) ∧
  (∀ (s : State) (m reason : Nat) (st : MemberState) (cut : DWord), s.quad.rep.grids = [] → st ≠ .member →
    let member := s.isMember s.modn = true ∧ m ≠ s.modn
    ∃ v : State, v = { s with quad := v.quad } ∧ (¬ member → s.lose m reason st cut = v) ∧
      (member → s.lose m reason st cut = (List.range 64).foldl (fun v c =>
        v.postEvent c 7 (if reason = 1 then 5 else 4) 0 0 0 0 0 m) v)) ∧
  ∀ (s : State) (m reason : Nat) (st : MemberState) (cut : DWord) (k : Nat) (g : GridEntry),
    (s.quad.rep.grids.map Prod.fst).Nodup → (k, g) ∈ s.quad.rep.grids →
    let u := s.lose m reason st cut
    let hit := (∃ r ∈ s.quad.rep.rows, r.2.grx = k ∧ r.2.mdn = m) ∨ (g.hsv = true ∧ m ∈ g.gng)
    (¬ hit → u.qgrid? k = some g) ∧
    (hit → (∀ r ∈ u.quad.rep.rows, r.2.grx ≠ k) ∧
      (g.rst = true → u.qgrid? k = some { g with gst := .queued, skp := 0, fin := 0, hsv := false }) ∧
      (g.rst = false → u.qgrid? k = some { g with gst := .faulted })) ∧
    ∀ x, x ∈ u.quad.received ↔ x ∈ s.quad.received ∧
      ¬ ((QEvent.ofBits x).orm = m ∧ cut.toNat < (QEvent.ofBits x).stt.toNat)

/-- 19_quadrille.md:R344, R346: a candidate is a member, in need for a grid with saved blocks, with a free aligned position;
candidates come by free cores and then by module. The pass takes the queued grids by priority and then by delivery: a grid that too
few modules or rows can take is skipped, and holds back all after it from its 65th pass; any other is placed on the first
candidates. -/
def Sys2Proof.Claims.PlacementPass : Prop :=
  (∀ (r : Replica) (m w h : Nat) (p : Nat × Nat), 0 < w → 0 < h → r.position m w h = some p →
    let free := fun p : Nat × Nat => p.1 % w = 0 ∧ p.2 % h = 0 ∧ p.1 + w ≤ 12 ∧ p.2 + h ≤ 12 ∧
      ∀ c ∈ rectCores p.1 p.2 w h, c ∉ r.occupied m
    free p ∧ ∀ q, free q → p.2 < q.2 ∨ (p.2 = q.2 ∧ p.1 ≤ q.1)) ∧
  (∀ (r : Replica) (g : GridEntry) (need : List Nat),
    let l := r.candidates g need
    let free := fun m => 144 - (r.occupied m).length
    (∀ m, m ∈ l ↔ m < 64 ∧ nth r.members m .absent = .member ∧ (g.hsv = true → m ∈ need) ∧
      (r.position m (g.gw + 1) (g.gh + 1)).isSome) ∧
    l.Pairwise (fun a b => free b < free a ∨ (free a = free b ∧ a < b))) ∧
  ∀ (s : State) (gix : Nat) (rest : List Nat) (g : GridEntry), s.qgrid? gix = some g → g.gst = .queued →
    let need := if g.hsv then g.gng.filter (fun m => !g.fin.getLsbD m) else []
    let n := if g.hsv then need.length else g.gc
    let cand := s.quad.rep.candidates g need
    let short := cand.length < n ∨ 4096 - s.quad.rep.rows.length < n
    (short → g.skp = 64 → s.passOver (gix :: rest) = s) ∧
    (short → g.skp ≠ 64 → ∃ u : State, s.passOver (gix :: rest) = u.passOver rest ∧ u.qgrid? gix = some { g with skp := g.skp + 1 } ∧
      u.quad.rep.rows = s.quad.rep.rows) ∧
    (¬ short → ∃ u : State, s.passOver (gix :: rest) = u.passOver rest ∧
      u.qgrid? gix = some { g with gst := .placed, skp := 0, gng := if g.hsv then g.gng else cand.take n } ∧
      ∀ r ∈ s.quad.rep.rows, r ∈ u.quad.rep.rows)

namespace Sys2Proof.Machine

/-- The command set: code, command, and the bits of the parameter words that 22_attach.md:R379 names. -/
def commandTable : List (Nat × Instr × List Nat) :=
  let w := 2 ^ 64 - 1
  [(0x01, .stateSummary, [w, w]), (0x02, .ctxCreate, [63, w]), (0x03, .ctxDestroy, [63]), (0x04, .queueTable, [w]),
   (0x05, .exportTable, [w]), (0x06, .window, [63 + 256]), (0x07, .invalidate, [63, w, w]),
   (0x08, .submit, [63 + 256, w, w, w]), (0x09, .block, [63, 1023]), (0x0A, .unblock, [63, 1023]), (0x0B, .cancel, [63, 1023]),
   (0x0C, .preempt, [63, 1023]), (0x0D, .kill, [63, 1023]), (0x0E, .notifyRing, [w, 15]), (0x0F, .formPod, [w, w, 1023]),
   (0x10, .release, [63, 15]), (0x11, .powerCap, [65535]), (0x12, .errorLog, [w, w]), (0x13, .faultReply, [63, 1023, 127 + 256]),
   (0x20, .keyLoad, [15, w, w, w, w]), (0x21, .keyBind, [15 + 63 * 256, w]), (0x22, .keyUnbind, [15]), (0x23, .heartbeat, []),
   (0x24, .fabricKey, [w, w, w, w]), (0x25, .trustedRange, [w, w]), (0x26, .enterConfidential, []), (0x27, .leaveConfidential, [])]

/-- The service cores, READY, have taken a command with this code and with no reserved bit set, and no other is at work. -/
def Taken (s : State) (c : Cmd) (code : Nat) : Prop :=
  s.att.cmd = some c ∧ c.opc = code ∧ c.known = true ∧ c.bad = false ∧ s.cmdBusy = false ∧ s.att.dst = .ready ∧
    ∀ x ∈ commandTable, x.1 = code → c.clean x.2.2 = true

end Sys2Proof.Machine

/-- 22_attach.md:R376, R377, R378, R384: an unknown code completes with status 1, a reserved bit that is set with status 2, an entry
that was poisoned or could not be read with status 6, and in FAILED every command with status 5. The completion, with result, `TAG`
and status, is written at its place in the ring, `CCI` advances, and nothing else of memory changes. -/
def Obligations.CommandRefusals : Prop :=
  (∀ (s : State) (c : Cmd) (code : Nat) (i : Instr) (masks : List Nat), (code, i, masks) ∈ commandTable →
    s.att.cmd = some c → c.opc = code → c.known = true → c.bad = false → s.cmdBusy = false →
    (s.att.dst = .failed → Goes i s (s.complete 5 0)) ∧
    (s.att.dst = .ready → c.clean masks = false → Goes i s (s.complete 2 0))) ∧
  (∀ (s : State) (c : Cmd), s.att.cmd = some c →
    (c.known = true ↔ c.entry.toNat % 2 ^ 16 ∈ (commandTable.map Prod.fst).filter (fun k => c.secured || decide (k < 0x20))) ∧
    (c.known = false ∨ c.bad = true → s.att.dst = .failed → Goes .unknownCommand s (s.complete 5 0)) ∧
    (c.bad = true → s.att.dst = .ready → Goes .unknownCommand s (s.complete 6 0)) ∧
    (c.known = false → c.bad = false → s.att.dst = .ready → Goes .unknownCommand s (s.complete 1 0))) ∧
  ∀ (s : State) (c : Cmd) (status result : Nat), s.att.cmd = some c → status < 2 ^ 32 → result < 2 ^ 64 →
    let u := s.complete status result
    let v := result * 2 ^ 64 + c.entry.toNat / 2 ^ 32 % 2 ^ 16 * 2 ^ 32 + status
    let at_ := s.att.crb.toNat + 64 * 2 ^ s.att.crs + 16 * (s.att.cci.toNat % 2 ^ s.att.crs)
    u.att.cmd = none ∧ u.att.last.toNat = v ∧ u.att.cci = (if c.ring then s.att.cci + 1 else s.att.cci) ∧
    ∀ sys a, u.mem.byte sys a = if c.ring = true ∧ sys = true ∧ at_ ≤ a ∧ a < at_ + 16
      then BitVec.ofNat 8 (v / 2 ^ (8 * (a - at_)) % 256) else s.mem.byte sys a

/-- 22_attach.md:R377, R378, R379, R380, R381, R382, R384; 16_isolation.md:R299, R300, R305, R306, R308; 13_progress.md:R260;
21_prog_pod.md:R373; 18_recovery.md:R321, R327: each command of the plain ring completes with the status of what forbids it, or has
its effect before its completion; reading a descriptor leaves what the security unit and the error log note of it. A KILL completes
once its grid's blocks have ended and its FINISH is formed. A CTX-DESTROY kills the context's grids, and once all of them have left
it drops the rest of the context. A lower cap cuts the loans to the pool that it leaves.
Where the spec leaves a point open, the model's choice is stated: log 27, log 30, log 34, log 39, log 40, log 41, log 58. -/
def Obligations.PlainCommands : Prop :=
  ∀ (s : State) (c : Cmd),
    let ctx := bits c.entry 64 6
    let frame := bits c.entry 128 10
    let w := fun k : Nat => bits c.entry (64 * k) 64
    let does := fun (code : Nat) (i : Instr) (p : Prop) (u : State) => Taken s c code → p → Goes i s u
    let bad := fun (code : Nat) (i : Instr) (st : Nat) (p : Prop) => does code i p (s.complete st 0)
    let has := s.hasCtx ctx = true
    let report := fun (code : Nat) (i : Instr) (data : List Byte) =>
      bad code i 3 (w 1 % 4096 ≠ 0) ∧ does code i (w 1 % 4096 = 0 ∧ w 2 < data.length) (s.complete 3 data.length) ∧
      does code i (w 1 % 4096 = 0 ∧ data.length ≤ w 2) ((s.homeStore none true (w 1) data false).complete 0 data.length)
    report 0x01 .stateSummary s.summary ∧
    report 0x12 .errorLog (s.errSection ++ leBytes 8 s.att.uncTotal ++ s.att.errLog.flatMap UncEvent.bytes) ∧
    (let d := BitVec.ofNat 512 (s.mem.nat true (w 2) 64)
     let readable := ∀ o ∈ [0, 32], s.mem.poisoned true (w 2 + o) = false ∧ s.mem.unreachable true (w 2 + o) = false
     let ok := w 2 % 64 = 0 ∧ ¬ has ∧ readable
     bad 0x02 .ctxCreate 3 (w 2 % 64 ≠ 0) ∧ bad 0x02 .ctxCreate 4 (w 2 % 64 = 0 ∧ has) ∧
     let read := s.deviceRead (w 2)
     does 0x02 .ctxCreate (w 2 % 64 = 0 ∧ ¬ has ∧ ¬ readable) (read.complete 6 0) ∧
     does 0x02 .ctxCreate (ok ∧ descStatus d ≠ 0) (read.complete (descStatus d) 0) ∧ (∃ sec att, read = { s with sec := sec, att := att }) ∧
     does 0x02 .ctxCreate (ok ∧ descStatus d = 0)
       (({ read with ctxs := updAt s.ctxs ctx (fun x => ({ x with desc := d, taken := x.written, marked := [] } : CtxEnt)) } : State).complete 0 0)) ∧
    bad 0x03 .ctxDestroy 4 (s.att.destroying = none ∧ ¬ has) ∧
    (Taken s c 0x03 → s.att.destroying = none → has → ∃ u, Goes .ctxDestroy s u ∧ u.att.cmd = some c ∧ u.hasCtx ctx = false ∧
      u.att.destroying = some ctx ∧ u.mem.locks = s.mem.locks ∧ u.invals = s.invals ∧
      (∀ b ∈ u.blocks, (∃ g ∈ s.grids, g.lsq = b.lsq ∧ g.rec_.ctx = ctx) → b.res = .killed) ∧
      (∀ g ∈ u.grids, g.rec_.ctx = ctx → g.cwa = none) ∧ ∀ x ∈ u.quad.subs, x.ctx ≠ ctx) ∧
    (∀ k,
      let empty := (∀ b ∈ s.blocks, s.ctxOf b.lsq ≠ k) ∧ ∀ g ∈ s.grids, g.rec_.ctx ≠ k
      does 0x03 .ctxDestroy (s.att.destroying = some k ∧ ¬ empty) s ∧
      (Taken s c 0x03 → s.att.destroying = some k → empty → ∃ u, Goes .ctxDestroy s u ∧ u.att.cmd = some c ∧ u.att.destroying = none ∧
        (∃ v ∈ u.invals, v.ctx = k ∧ v.units = 0 ∧ v.group = none ∧ v.waits = s.ctxOps k) ∧
        (∀ x ∈ u.sec.slots, x.bound = true → x.ctx ≠ k) ∧ (∀ x ∈ u.mem.tlb, x.ctx = k → 2 ^ 56 ≤ x.page * 2 ^ x.bits) ∧
        (∀ x ∈ u.mem.l1, x.ctx ≠ k) ∧ (∀ x ∈ u.mem.locks, x.1 ≠ k) ∧
        ∀ t, s.exportTable = some t → s.front.table = none →
          u.mem.byte false (t + 32 * k) = (s.mem.byte false (t + 32 * k) &&& 0xFE))) ∧
    (let base := w 1
     bad 0x04 .queueTable 3 (base % 2 ^ 18 ≠ 0 ∨ 2 ^ 39 ≤ base) ∧
     does 0x04 .queueTable (base % 2 ^ 18 = 0 ∧ base < 2 ^ 39)
       (({ s with front := { s.front with table := some base, pending := [] } } : State).complete 0 0) ∧
     bad 0x05 .exportTable 3 (base % 2048 ≠ 0 ∨ 2 ^ 39 ≤ base) ∧
     does 0x05 .exportTable (base % 2048 = 0 ∧ base < 2 ^ 39) (({ s with exportTable := some base } : State).complete 0 0)) ∧
    bad 0x06 .window 4 (s.exportTable = none ∨ ¬ has) ∧
    (∀ t, Taken s c 0x06 → s.exportTable = some t → has → ∃ u : State, Goes .window s (u.complete 0 0) ∧ u.att = s.att ∧
      ∀ sys a, u.mem.byte sys a = if sys = false ∧ a = t + 32 * ctx
        then (s.mem.byte false a &&& 0xFE) ||| BitVec.ofNat 8 (bits c.entry 72 1) else s.mem.byte sys a) ∧
    (let ok := w 2 % 65536 = 0 ∧ w 2 < 2 ^ 56 ∧ (w 3 = 0 → w 2 = 0)
     bad 0x07 .invalidate 3 (¬ ok) ∧ bad 0x07 .invalidate 4 (ok ∧ ¬ has) ∧
     does 0x07 .invalidate (ok ∧ has) ((s.dropFor ctx (w 2) (w 3)).startInval none ctx (w 2) (w 3) (s.ctxOps ctx))) ∧
    (let l : Launch :=
       { ctx := ctx, lra := BitVec.ofNat 64 (w 2), target := .pod, cwa := if w 3 = 0 then none else some (BitVec.ofNat 64 (w 3))
         cwv := BitVec.ofNat 64 (w 4), rst := c.entry.getLsbD 72 }
     let ok := w 2 % 256 = 0 ∧ w 3 % 8 = 0
     bad 0x08 .submit 3 (¬ ok) ∧ bad 0x08 .submit 4 (ok ∧ ¬ has) ∧
     does 0x08 .submit (ok ∧ has ∧ s.mayRaise = true)
       ((s.submit l).2.2.complete 0 ((s.submit l).2.1 % 2 ^ 32 + (s.submit l).1 * 2 ^ 32)) ∧
     does 0x08 .submit (ok ∧ has ∧ s.mayRaise = false) ((s.reportRefusal l 13 0).complete 0 (13 * 2 ^ 32))) ∧
    (let about := fun (code : Nat) (i : Instr) (typ : Nat) => bad code i 4 (¬ has) ∧ bad code i 5 (has ∧ s.mayRaise = false) ∧
       does code i (has ∧ s.mayRaise = true)
         ((s.raise { stt := 0, typ := typ, grx := frame, ctx := ctx }).complete 0 ((s.quad.osq + 1) % 2 ^ 32))
     about 0x09 .block 3 ∧ about 0x0A .unblock 4 ∧ about 0x0B .cancel 5) ∧
    (let b := s.frameBlock ctx frame
     let gone := fun k : Nat => (∀ x ∈ s.blocks, x.lsq ≠ k) ∧
       ∀ g, s.grid? k = some g → g.qix ≠ none ∧ s.partEnded g = true ∧ s.finishes g = false
     bad 0x0C .preempt 4 (∀ x, b = some x → x.res ≠ .resident) ∧ bad 0x0D .kill 4 (s.att.killing = none ∧ b = none) ∧
     (∀ x, does 0x0C .preempt (b = some x ∧ x.res = .resident)
       (s.updBlock x.lsq x.tkt (fun y : Block => { y with saving := true }))) ∧
     (∀ x, does 0x0D .kill (s.att.killing = none ∧ b = some x)
       (let t := s.killBlock x.lsq x.tkt 0 12
        { t with att := { t.att with killing := some x.lsq } })) ∧
     ∀ k, does 0x0D .kill (s.att.killing = some k ∧ ¬ gone k) s ∧
       does 0x0D .kill (s.att.killing = some k ∧ gone k) (({ s with att := { s.att with killing := none } } : State).complete 0 0)) ∧
    (let size := bits c.entry 128 4
     let ok := w 1 % 4096 = 0 ∧ 6 ≤ size ∧ size ≤ 12
     bad 0x0E .notifyRing 3 (¬ ok) ∧
     does 0x0E .notifyRing ok ((({ s with att := { s.att with ring := some (w 1, size) } } : State).flushPosts).complete 0 0)) ∧
    (let mask := BitVec.ofNat 64 (w 2)
     let num := bits c.entry 192 6
     let code := bits c.entry 198 4
     let ok := code ≤ 6 ∧ 2 ≤ bitCount mask ∧ mask.getLsbD num = true
     let lone := s.quad.lone = true ∧ s.mayJoin = true
     let f : Formation := { ident := BitVec.ofNat 64 (w 1), mask := mask, code := code, number := num, started := s.time, cmd := c }
     bad 0x0F .formPod 3 (¬ ok) ∧ bad 0x0F .formPod 5 (ok ∧ ¬ lone) ∧
     does 0x0F .formPod (ok ∧ lone) { s with att := { s.att with form := some f } }) ∧
    (let member := s.isMember s.modn = true
     let heard := (nth s.att.ports (bits c.entry 128 4) .down).isUp = true ∧ c.answers = true
     bad 0x10 .release 5 (¬ member) ∧ bad 0x10 .release 4 (member ∧ ¬ heard) ∧
     bad 0x10 .release 5 (member ∧ heard ∧ c.held = true) ∧
     does 0x10 .release (member ∧ heard ∧ c.held = false)
       (({ s with att := { s.att with releases := insertNat ctx s.att.releases } } : State).complete 0 0)) ∧
    (let ok := 1200 ≤ w 1 ∧ w 1 ≤ 2200 ∧ w 1 % 25 = 0
     let sum := fun l : List Nat => l.foldl (· + ·) 0
     let pool := 200 - min 200 (2200 - w 1)
     bad 0x11 .powerCap 3 (¬ ok) ∧
     ∃ loans : List Nat, does 0x11 .powerCap ok (({ s with att := { s.att with cap := w 1, loans := loans } } : State).complete 0 0) ∧
       sum loans ≤ pool ∧ (sum s.att.loans ≤ pool → loans = s.att.loans) ∧ loans.length = s.att.loans.length ∧
       ∀ k, nth loans k 0 ≤ nth s.att.loans k 0) ∧
    let wrp := bits c.entry 192 7
    let no := c.entry.getLsbD 200
    let hit := fun e : Escalation => e.ctx == ctx && e.frame == frame && e.wrp == wrp && e.reply.isNone
    let note := fun e : Escalation => if hit e then { e with reply := some no } else e
    bad 0x13 .faultReply 4 (s.frameBlock ctx frame = none ∨ ∀ e ∈ s.att.escal, hit e = false) ∧
    ∀ b, let ready := s.frameBlock ctx frame = some b ∧ ∃ e ∈ s.att.escal, hit e = true
      does 0x13 .faultReply (ready ∧ b.res = .saved)
        (({ s with att := { s.att with escal := s.att.escal.map note } } : State).complete 0 0) ∧
      does 0x13 .faultReply (ready ∧ b.res ≠ .saved) ((s.actReply b wrp no).complete 0 0)

/-- 16_isolation.md:R309, R310, R313, R315; 22_attach.md:R379: the secured commands: keys are loaded, bound and erased, a heartbeat
holds the session open, the fabric key and the trusted ranges are set, and a change of mode starts the reset with scrub and
completes with it.
Where the spec leaves a point open, the model's choice is stated: log 35, log 42, log 57. -/
def Obligations.SecuredCommands : Prop :=
  ∀ (s : State) (c : Cmd),
    let w := fun k : Nat => bits c.entry (64 * k) 64
    let does := fun (code : Nat) (i : Instr) (p : Prop) (u : State) => Taken s c code → p → Goes i s u
    let bad := fun (code : Nat) (i : Instr) (st : Nat) (p : Prop) => does code i p (s.complete st 0)
    let done := fun (code : Nat) (i : Instr) (p : Prop) (x : Security) => does code i p (({ s with sec := x } : State).complete 0 0)
    let k := bits c.entry 64 4
    let slot := nth s.sec.slots k KeySlot.empty
    let put := fun x : KeySlot => { s.sec with slots := updAt s.sec.slots k (fun _ => x) }
    bad 0x20 .keyLoad 4 (slot.bound = true) ∧
    (k < s.sec.slots.length → done 0x20 .keyLoad (slot.bound = false)
      (put { slot with key := BitVec.ofNat 256 (bits c.entry 128 256), holds := true })) ∧
    (let ctx := bits c.entry 72 6
     let ok := slot.bound = false ∧ slot.holds = true ∧ s.hasCtx ctx = true
     bad 0x21 .keyBind 4 (¬ ok) ∧
     (k < s.sec.slots.length → done 0x21 .keyBind ok (put { slot with bound := true, ctx := ctx, mark := BitVec.ofNat 64 (w 2) }))) ∧
    bad 0x22 .keyUnbind 4 (slot.bound = false) ∧
    done 0x22 .keyUnbind (slot.bound = true) (put { key := 0, holds := false, bound := false, ctx := 0, mark := 0 }) ∧
    (let late := s.sec.session = true ∧ s.sec.interval * 10 ^ 9 < (s.time - s.sec.lastBeat).toNat
     done 0x23 .heartbeat (¬ late) { s.sec with lastBeat := s.time } ∧
     (Taken s c 0x23 → late → ∃ u, Goes .heartbeat s u ∧ u.att.dst = .scrub ∧ u.sec.scrub = 3 ∧ u.sec.session = false ∧ u.blocks = [])) ∧
    done 0x24 .fabricKey True { s.sec with fabricKey := some (BitVec.ofNat 256 (bits c.entry 64 256)) } ∧
    (let ok := w 1 % 2 ^ 21 = 0 ∧ w 2 % 2 ^ 21 = 0
     let l := s.sec.trusted
     bad 0x25 .trustedRange 3 (¬ ok) ∧
     bad 0x25 .trustedRange 4 (ok ∧ ((w 2 = 0 ∧ ∀ r ∈ l, r.1 ≠ w 1) ∨ (w 2 ≠ 0 ∧ 16 ≤ l.length))) ∧
     done 0x25 .trustedRange (ok ∧ w 2 = 0 ∧ ∃ r ∈ l, r.1 = w 1) { s.sec with trusted := l.filter (fun r => r.1 != w 1) } ∧
     done 0x25 .trustedRange (ok ∧ w 2 ≠ 0 ∧ l.length < 16) { s.sec with trusted := l ++ [(w 1, w 2)] }) ∧
    let change := fun (code : Nat) (i : Instr) (conf : Bool) (cause : Nat) =>
      bad code i 5 (s.sec.confidential ≠ conf ∨ s.sec.session = false) ∧
      (Taken s c code → s.sec.confidential = conf → s.sec.session = true → ∃ u, Goes i s u ∧ u.att.dst = .scrub ∧ u.att.cmd = none ∧
        u.sec.scrub = cause ∧ u.sec.session = false ∧ u.blocks = [] ∧ u.grids = [] ∧ u.time = s.time ∧
        ∀ x ∈ u.sec.tdisp, x = .unlocked)
    change 0x26 .enterConfidential false 1 ∧ change 0x27 .leaveConfidential true 2

namespace Sys2Proof.Machine

/-- A W-form word with no modifier, hint or guard, and operand positions D, A, B, C and E. -/
def plainWord (d a b c e : Opnd) (imm : Word) : W :=
  { mod := 0, d := d, a := a, b := b, c := c, e := e, g := .always, ch := .dflt, sat := false, nf := false, csel := false, imm := imm }

end Sys2Proof.Machine

/-- MODEL SANITY, by the words that the spec writes out: 03_encoding.md (the `fma` and P-form examples), 04_isa_core.md:R106,
06_isa_float.md (the saturating conversion), 07_isa_matrix.md, 11_isa_memory.md, 14_isa_sync.md, 15_prog_pingpong.md and
20_isa_system.md. -/
def Obligations.SpecWordsDecode : Prop :=
  decode 0x0000_0000_0001_FDFF_FF01_4040_0C0C_0286 = .ok (.fma (plainWord (.v 12) (.v 3) (.v 4) (.v 5) .none 0)) ∧
  decode 0x0000_0000_6401_FDFF_FFFF_EE00_0643_481C =
    .ok (.cmp { plainWord (.p 3) (.v 1) (.sel .imm) .none .none 100 with mod := 9 }) ∧
  decode 0x0000_0001_0441_FDFF_FFFF_FFF0_1C03_038A =
    .ok (.cvt { plainWord (.v 3) (.v 7) .none .none .none 0x104 with sat := true }) ∧
  decode 0x0000_0000_4001_FDFF_FFA8_2A1A_82A0_0412 =
    .ok (.mma (plainWord (.res 0) (.res 0) (.res 1) (.res 0) .none 64)) ∧
  decode 0x0000_0010_0001_FC03_FFFF_EE06_0194_0580 =
    .ok (.tcopy { plainWord (.s 20) (.s 0) (.sel .imm) .none .none 0x1000 with g := .one ⟨false, 0⟩ }) ∧
  decode 0x0000_0000_4001_FC0B_FF90_EE0A_8BFF_1680 =
    .ok (.bar { plainWord .none (.res 2) (.sel .imm) (.p 3) .none 64 with mod := 2, g := .one ⟨false, 2⟩ }) ∧
  decode 0x0000_0000_0001_FDFF_FFFF_FFF6_2984_071E = .ok (.qrow (plainWord (.s 4) (.s 10) .none .none .none 0)) ∧
  decode 0x000A_0003_FFFE_0122_0000_0007_F004_0005 = .ok (.pFormWord { hop := .add, d := .v 0, a := .reg (.v 1), g := none }
    { hop := .fmul, d := .v 2, a := .imm 0x4000, g := none })

/-- 03_encoding.md:R68, R72, R74, R79, R87, R89: the decoder reads back every well-formed instruction that has an encoding, with every
operand, guard, modifier and immediate at every value that its encoding admits. -/
def Obligations.DecodeEncode : Prop :=
  ∀ (i : Instr) (q : QWord), i.wf = true → encode i = some q → decode q = .ok i

/-- 03_encoding.md:R68, R72, R74, R79, R80, R89: what the decoder accepts is well-formed, and is the one instruction that the word
encodes: no bit of an accepted word is dropped. -/
def Obligations.EncodeDecode : Prop :=
  ∀ (i : Instr) (q : QWord), decode q = .ok i → i.wf = true ∧ encode i = some q

/-- 03_encoding.md:R58, R59, R60, R61, R65, R87, R89; 02_state.md:R56: where nothing else is due, the path of the next slot runs the
instruction that its word decodes to, and a word that decodes to nothing takes the illegal-encoding trap. At a clause boundary the
path reads the header and stands at word 1, waits while a masked counter is not zero, or traps where the header is misaligned,
cannot be fetched or is malformed. A fetch leaves only what the security unit and the error log note of it. The order in which
independent events are taken is the model's (DESIGN CHOICE, log 4).
Where the spec leaves a point open, the model's choice is stated: log 8. -/
def Obligations.StepRunsTheDecodedWord : Prop :=
  ∀ (s : State) (r : Ref) (rest : List Ref) (b : Block) (w : Warp) (p : Path), s.agenda = [] → s.att.dst = .ready →
    s.beatLost = false → s.slots = r :: rest → (∀ g ∈ s.grids, g.rec_.det = false) → s.block? r.lsq r.tkt = some b →
    b.refWarp? r = some w → w.path? r.lane = some p → w.stopped = false → b.mayIssue r = true → s.stands b r = false →
    w.stalledBut r.lane = false →
    let t : State := { s with slots := rest, cur := none }
    let va := p.hdr + BitVec.ofNat 64 (16 * p.word)
    let word := t.fetch (s.ctxOf r.lsq) va
    let read := t.noteFetch (s.ctxOf r.lsq) va
    let head := t.noteFetch (s.ctxOf r.lsq) p.hdr
    (∀ a, ∃ sec att, t.noteFetch (s.ctxOf r.lsq) a = { t with sec := sec, att := att }) ∧
    (∀ q i, p.word ≠ 0 → word = .ok q → decode q = .ok i → step s = exec i { read with cur := some r }) ∧
    (∀ q e, p.word ≠ 0 → word = .ok q → decode q = .error e →
      step s = .next (read.takeTrap r { cause := 1, sub := e.code, mask := p.mask })) ∧
    (∀ e, p.word ≠ 0 → word = .error e → step s = .next (read.takeTrap r { e with mask := p.mask })) ∧
    (p.word = 0 → t.heldBack b w r = true → step s = .next t) ∧
    (p.word = 0 → t.heldBack b w r = false → p.hdr.toNat % 16 ≠ 0 →
      step s = .next (head.takeTrap r { cause := 1, sub := 1, mask := p.mask, addr := p.hdr })) ∧
    (∀ e, p.word = 0 → t.heldBack b w r = false → p.hdr.toNat % 16 = 0 → t.fetch (s.ctxOf r.lsq) p.hdr = .error e →
      step s = .next (head.takeTrap r { e with mask := p.mask })) ∧
    (∀ h, p.word = 0 → t.heldBack b w r = false → t.fetch (s.ctxOf r.lsq) p.hdr = .ok h →
      let good := p.hdr.toNat % 16 = 0 ∧ headerOk h = true
      let waits := ∃ n, n < 12 ∧ h.getLsbD (4 + n) = true ∧ nth w.cnt n 0 ≠ 0
      (¬ good → step s = .next (head.takeTrap r { cause := 1, sub := 1, mask := p.mask, addr := p.hdr })) ∧
      (good → waits → step s = .next t) ∧
      (good → ¬ waits → step s = .next ((head.fillTlb (s.ctxOf r.lsq) p.hdr.toNat).updRef r (fun w =>
        w.updPath r.lane (fun p => ({ p with word := 1, held := h } : Path)))))) ∧
    ∀ (i : Instr) (more : List Action), step { s with agenda := .event i :: more } = exec i { s with agenda := more, cur := none }

/-- 01_device.md:R23; 16_isolation.md:R309, R313; 22_attach.md:R384, R387: right after power-on the device is in RESET, in ordinary
mode, with no session and no key, `TIME` 0, no context, no work, device memory zero and unpoisoned, the cap at 2,200 W, and the lone
replica: one member, number 0, no grid, I = 64. Nothing has trapped, and no queue is pending. The three forms that every step keeps
hold, that of memory (the model's own, 00_scope.md:R2), of trap causes and of pending queues.
Where the spec leaves a point open, the model's choice is stated: log 3. -/
def Obligations.ResetState : Prop :=
  let s := State.reset
  s.TrapInv ∧ s.QueueInv ∧ s.MemInv ∧ s.att.dst = .reset ∧ s.att.cap = 2200 ∧ (∀ x ∈ s.att.loans, x = 0) ∧ s.time = 0 ∧ s.modn = 0 ∧ s.blocks = [] ∧ s.grids = [] ∧ s.groups = [] ∧
  s.sec.confidential = false ∧ s.sec.session = false ∧ (∀ k ∈ s.sec.slots, k.holds = false ∧ k.bound = false) ∧
  (∀ c, c < 64 → s.hasCtx c = false) ∧ (∀ a, s.mem.byte false a = 0 ∧ s.mem.poisoned false a = false) ∧
  s.quad.rep.memberList = [0] ∧ s.quad.rep.grids = [] ∧ s.quad.rep.rows = [] ∧ s.quad.rep.seq = 0 ∧ s.quad.interval = 64 ∧
  s.quad.lone = true

/-- 00_scope.md:R2; 10_ordering.md:R212; THE MODEL'S OWN FORM: every step that goes on keeps memory in its canonical form, so that
equal memories are equal states, whatever instruction or event it takes. -/
def Obligations.StepKeepsMemoryCanonical : Prop := ∀ s t : State, s.MemInv → step s = .next t → t.MemInv

/-- 18_recovery.md:R320; 04_isa_core.md:R126: no step records a trap whose cause is not 1 to 9: whatever instruction or event the step
takes, a state in which every record has such a cause goes on to one. Pre-emption, cause 10, leaves no record; that is the model's
reading (DEDUCED, log 61). -/
def Obligations.StepKeepsTrapCauses : Prop := ∀ s t : State, s.TrapInv → step s = .next t → t.TrapInv

/-- 13_progress.md:R262, R264; THE MODEL'S OWN FORM: every step that goes on keeps the pending queues in ascending order, each once,
so that the first of a level in the list is the first of the rule's rotation, whatever instruction or event it takes. -/
def Obligations.StepKeepsPendingOrder : Prop := ∀ s t : State, s.QueueInv → step s = .next t → t.QueueInv

/-! ## Statements of several parts -/

/-- 04_isa_core.md:R102, R103, R107: what the integer arithmetic instructions write and raise, on 32 bits and on 64. -/
def Obligations.ArithmeticResults : Prop := Claims.IntegerResults ∧ Claims.WideResults

/-- 04_isa_core.md:R105, R106: division, remainder and comparison. -/
def Obligations.DivisionAndComparison : Prop := Claims.DivisionResults ∧ Claims.CompareResults

/-- 04_isa_core.md:R108: the bitwise instructions and the shifts. -/
def Obligations.LogicAndShifts : Prop := Claims.LogicResults ∧ Claims.ShiftResults

/-- 04_isa_core.md:R109 to R112: bit fields, bit counts, byte permutation, moves and selection. -/
def Obligations.BitsBytesAndMoves : Prop := Claims.BitFieldResults ∧ Claims.BitCounts ∧ Claims.BytePermutation ∧ Claims.Moves

/-- 02_state.md:R36 to R43; 04_isa_core.md:R114: reading and writing special registers, and their latches. -/
def Obligations.SpecialRegisters : Prop := Claims.SpecialReads ∧ Claims.LatchedHalves ∧ Claims.SpecialValues ∧ Claims.SpecialWrites

/-- 06_isa_float.md: float arithmetic, comparison and classification. -/
def Obligations.FloatResults : Prop := Claims.FloatArithmetic ∧ Claims.FloatTests

/-- 06_isa_float.md: the transcendental instructions, their special cases among them. -/
def Obligations.TranscendentalResults : Prop := Claims.Transcendentals ∧ Claims.TranscendentalSpecials

/-- 05_numbers.md, 06_isa_float.md: rounding rounds the exact value, conversions round, and the packed conversions place their
elements. -/
def Obligations.FloatConversions : Prop := Claims.RoundingIsExact ∧ Claims.Conversions ∧ Claims.PackedElements

/-- 06_isa_float.md: VF arithmetic, and the VF instructions that move values.
Where the spec leaves a point open, the model's choice is stated: log 66. -/
def Obligations.VariableFloats : Prop := Claims.VfArithmetic ∧ Claims.VfMoves

/-- 04_isa_core.md:R115, R116: a collective waits for its members or is performed.
Where the spec leaves a point open, the model's choice is stated: log 48, log 51. -/
def Obligations.CollectiveWords : Prop := Claims.CollectivesIssue ∧ Claims.CollectivesWait

/-- 04_isa_core.md:R117 to R121: what the collectives give their lanes. -/
def Obligations.CollectiveResults : Prop := Claims.VotesAndShuffles ∧ Claims.Reductions

/-- 04_isa_core.md:R122 to R124, R128: transfers, exits, meeting paths, waits and `nop`.
Where the spec leaves a point open, the model's choice is stated: log 48, log 51. -/
def Obligations.TransferWords : Prop := Claims.ControlTransfers ∧ Claims.LanesExit ∧ Claims.PathsMeet ∧ Claims.WaitsAndNops

/-- 04_isa_core.md:R125 to R127; 18_recovery.md:R319: the trap instructions, what a trap records, where a return goes on, and what
an activation of a handler leaves when it ends.
Where the spec leaves a point open, the model's choice is stated: log 64. -/
def Obligations.TrapEntryAndReturn : Prop := Claims.TrapInstructions ∧ Claims.TrapTaken ∧ Claims.TrapRecordWords ∧ Claims.TrapReturns ∧ Claims.ActivationEnds

/-- 02_state.md:R56; 03_encoding.md:R73, R87, R89: the checks of every word, and words without effect. -/
def Obligations.IssueChecks : Prop := Claims.ChecksComeFirst ∧ Claims.GuardedOff ∧ Claims.UnassignedOpcodes

/-- 07_isa_matrix.md: binding tiles, and what the tile instructions do.
Where the spec leaves a point open, the model's choice is stated: log 6, log 12. -/
def Obligations.TileWords : Prop := Claims.TileBinding ∧ Claims.TileAccess ∧ Claims.TileConversion

/-- 07_isa_matrix.md: maps, handles, scrums and `mma`.
Where the spec leaves a point open, the model's choice is stated: log 6, log 55. -/
def Obligations.MatrixWords : Prop := Claims.MapsAndScrums ∧ Claims.ScrumSigning

/-- 08_prog_head.md, 07_isa_matrix.md: the sum-tree registers.
Where the spec leaves a point open, the model's choice is stated: log 6, log 53. -/
def Obligations.SumTrees : Prop := Claims.SumTreeWords ∧ Claims.Masses ∧ Claims.TreeSums ∧ Claims.TreeTransfers

/-- 11_isa_memory.md; 10_ordering.md:R213, R216: loads.
Where the spec leaves a point open, the model's choice is stated: log 6, log 49, log 54. -/
def Obligations.LoadWords : Prop := Claims.Loads ∧ Claims.LineLoads

/-- 11_isa_memory.md; 10_ordering.md:R213; 18_recovery.md:R323: stores, and the poison that a store of a whole sector clears.
Where the spec leaves a point open, the model's choice is stated: log 6, log 54. -/
def Obligations.StoreWords : Prop := Claims.Stores ∧ Claims.StoresArePending ∧ Claims.WholeSectorsAreClean

/-- 11_isa_memory.md: scratchpad bytes, and VF elements in memory.
Where the spec leaves a point open, the model's choice is stated: log 6. -/
def Obligations.ElementAccess : Prop := Claims.ScratchBytes ∧ Claims.VfElements

/-- 11_isa_memory.md; 10_ordering.md: atomics and what they leave in memory.
Where the spec leaves a point open, the model's choice is stated: log 6, log 14, log 54. -/
def Obligations.AtomicWords : Prop := Claims.Atomics ∧ Claims.AtomicEffects

/-- 11_isa_memory.md: transfer barriers.
Where the spec leaves a point open, the model's choice is stated: log 63. -/
def Obligations.TransferBarriers : Prop := Claims.BarrierWords ∧ Claims.BarrierCounts

/-- 11_isa_memory.md: the copies of the engine and the sectors that they cover.
Where the spec leaves a point open, the model's choice is stated: log 7, log 10. -/
def Obligations.CopyEngine : Prop := Claims.CopyWords ∧ Claims.SectorsCover

/-- 11_isa_memory.md: cache control, and waiting for a word of memory.
Where the spec leaves a point open, the model's choice is stated: log 6, log 60. -/
def Obligations.CacheAndWaits : Prop := Claims.CacheControl ∧ Claims.WaitForWord

/-- 14_isa_sync.md: named barriers, yielding and extended registers.
Where the spec leaves a point open, the model's choice is stated: log 12, log 24. -/
def Obligations.BlockWaits : Prop := Claims.NamedBarriers ∧ Claims.YieldsAndExtendedRegisters

/-- 20_isa_system.md: the referee's instructions.
Where the spec leaves a point open, the model's choice is stated: log 13, log 26, log 31, log 32, log 33, log 64. -/
def Obligations.RefereeInstructions : Prop := Claims.RefereeWords ∧ Claims.SaveAndRestoreWords

/-- 19_quadrille.md: what a delivery does to the replica, and the placement pass that follows it.
Where the spec leaves a point open, the model's choice is stated: log 17. -/
def Obligations.ReplicaActs : Prop := Claims.Deliveries ∧ Claims.PlacementPass
end

