-- ==== Sys2Proof/Laws/Cells.lean ====
section
/-! SUPPORT. Sparse stores: reading after writing, and that writing keeps the canonical form. -/

namespace Sys2Proof.Machine

variable {w : Nat}

@[simp] theorem cget_nil (k : Nat) : cget ([] : Cells w) k = 0 := rfl

theorem cget_cons (j : Nat) (x : BitVec w) (r : Cells w) (k : Nat) :
    cget ((j, x) :: r) k = if j = k then x else cget r k := rfl

theorem cget_cdrop (c : Cells w) (k j : Nat) : cget (cdrop c k) j = if j = k then 0 else cget c j := by
  induction c with
  | nil => simp [cdrop]
  | cons e r ih =>
    obtain ⟨i, x⟩ := e
    by_cases h : i = k
    · subst h
      have : cdrop ((i, x) :: r) i = cdrop r i := by simp [cdrop]
      rw [this, ih, cget_cons]
      by_cases hj : j = i
      · simp [hj]
      · simp [hj, Ne.symm hj]
    · have : cdrop ((i, x) :: r) k = (i, x) :: cdrop r k := by simp [cdrop, h]
      rw [this, cget_cons, cget_cons, ih]
      by_cases hj : i = j
      · subst hj; simp [h]
      · simp [hj]

/-- Reading one key after writing one key. -/
theorem cget_cset (c : Cells w) (k : Nat) (v : BitVec w) (j : Nat) :
    cget (cset c k v) j = if j = k then v else cget c j := by
  induction c with
  | nil =>
    by_cases hv : v = 0
    · subst hv; simp [cset]
    · simp only [cset, hv, if_false, cget_cons, cget_nil]
      by_cases hj : j = k
      · simp [hj]
      · simp [hj, Ne.symm hj]
  | cons e r ih =>
    obtain ⟨i, x⟩ := e
    simp only [cset]
    split
    · rename_i hlt
      rw [cget_cons, ih, cget_cons]
      by_cases hj : i = j
      · subst hj; simp [Nat.ne_of_lt hlt]
      · simp [hj]
    · split
      · rename_i hv
        rw [cget_cdrop, hv]
      · split
        · rename_i hi
          subst hi
          rw [cget_cons, cget_cons]
          by_cases hj : i = j
          · simp [hj]
          · simp [hj, Ne.symm hj]
        · rw [cget_cons]
          by_cases hj : k = j
          · simp [hj]
          · simp [hj, Ne.symm hj]

@[simp] theorem cget_cset_same (c : Cells w) (k : Nat) (v : BitVec w) : cget (cset c k v) k = v := by
  rw [cget_cset, if_pos rfl]

theorem cget_cset_other (c : Cells w) {k j : Nat} (v : BitVec w) (h : j ≠ k) : cget (cset c k v) j = cget c j := by
  rw [cget_cset, if_neg h]

/-- Reading a key that a list of writes does not name. -/
theorem cget_csetAll_other (l : List (Nat × BitVec w)) (j : Nat) :
    ∀ c : Cells w, (∀ e ∈ l, e.1 ≠ j) → cget (csetAll c l) j = cget c j := by
  induction l with
  | nil => intros; rfl
  | cons e r ih =>
    intro c h
    obtain ⟨k, v⟩ := e
    rw [csetAll, ih _ (fun e he => h e (List.mem_cons_of_mem _ he)),
      cget_cset_other _ _ (fun hj => h (k, v) List.mem_cons_self hj.symm)]

/-- Reading a key that a list of writes names, when every write of it gives the same value. -/
theorem cget_csetAll_mem (l : List (Nat × BitVec w)) (j : Nat) (v : BitVec w) :
    ∀ c : Cells w, (∃ e ∈ l, e.1 = j) → (∀ e ∈ l, e.1 = j → e.2 = v) → cget (csetAll c l) j = v := by
  induction l with
  | nil => rintro _ ⟨_, h, _⟩ _; cases h
  | cons e r ih =>
    intro c hex hall
    obtain ⟨k, x⟩ := e
    rw [csetAll]
    by_cases hr : ∃ e ∈ r, e.1 = j
    · exact ih _ hr (fun e he => hall e (List.mem_cons_of_mem _ he))
    · have hk : k = j := by
        obtain ⟨e, he, hj⟩ := hex
        rcases List.mem_cons.1 he with rfl | he
        · exact hj
        · exact absurd ⟨e, he, hj⟩ hr
      rw [cget_csetAll_other _ _ _ (fun e he hj => hr ⟨e, he, hj⟩), hk, cget_cset_same]
      exact hall (k, x) List.mem_cons_self hk

/-! ## Consecutive keys -/

theorem cget_cells (vs : List (BitVec w)) : ∀ k j : Nat,
    cget (cells k vs) j = if k ≤ j ∧ j < k + vs.length then vs.getD (j - k) 0 else 0 := by
  induction vs with
  | nil => intro k j; simp [cells]
  | cons v vs ih =>
    intro k j
    simp only [cells]
    by_cases hk : k = j
    · subst hk
      split
      · rename_i hv; subst hv
        rw [ih]
        simp
      · simp [cget_cons]
    · have step : cget (cells (k + 1) vs) j =
          if k ≤ j ∧ j < k + (v :: vs).length then (v :: vs).getD (j - k) 0 else 0 := by
        rw [ih]
        by_cases h : k < j
        · have e : j - k = (j - (k + 1)) + 1 := by omega
          rw [e, List.getD_cons_succ]
          congr 1
          simp only [List.length_cons, eq_iff_iff]
          omega
        · rw [if_neg (by omega), if_neg (by omega)]
      split
      · exact step
      · rw [cget_cons, if_neg hk, step]

theorem cget_filter_out (c : Cells w) (k n j : Nat) :
    cget (c.filter (fun e => decide (e.1 < k ∨ k + n ≤ e.1))) j =
      if k ≤ j ∧ j < k + n then 0 else cget c j := by
  induction c with
  | nil => simp
  | cons e r ih =>
    obtain ⟨i, x⟩ := e
    by_cases h : i < k ∨ k + n ≤ i
    · rw [List.filter_cons_of_pos (by simpa using h), cget_cons, cget_cons, ih]
      by_cases hj : i = j
      · subst hj; rw [if_pos rfl, if_pos rfl, if_neg (by omega)]
      · simp [hj]
    · rw [List.filter_cons_of_neg (by simpa using h), ih, cget_cons]
      by_cases hj : i = j
      · subst hj; rw [if_pos (by omega), if_pos (by omega)]
      · simp [hj]

theorem cget_append (a b : Cells w) (j : Nat) (h : ∀ e ∈ a, e.2 ≠ 0) :
    cget (a ++ b) j = if cget a j = 0 then cget b j else cget a j := by
  induction a with
  | nil => simp
  | cons e r ih =>
    obtain ⟨i, x⟩ := e
    rw [List.cons_append, cget_cons, cget_cons]
    by_cases hj : i = j
    · have hx : x ≠ 0 := h (i, x) List.mem_cons_self
      simp only [hj, if_true, hx, if_false]
    · simp only [hj, if_false]
      exact ih (fun e he => h e (List.mem_cons_of_mem _ he))

theorem cells_ne_zero (vs : List (BitVec w)) : ∀ k : Nat, ∀ e ∈ cells k vs, e.2 ≠ 0 := by
  induction vs with
  | nil => intro k e h; cases h
  | cons v vs ih =>
    intro k e h
    simp only [cells] at h
    split at h
    · exact ih _ e h
    · rename_i hv
      rcases List.mem_cons.1 h with rfl | h
      · exact hv
      · exact ih _ e h

/-- Reading one key after writing consecutive keys. -/
theorem cget_csetMany (c : Cells w) (k : Nat) (vs : List (BitVec w)) (j : Nat) :
    cget (csetMany c k vs) j = if k ≤ j ∧ j < k + vs.length then vs.getD (j - k) 0 else cget c j := by
  induction c with
  | nil => rw [csetMany, cget_cells]; rfl
  | cons e r ih =>
    obtain ⟨i, x⟩ := e
    simp only [csetMany]
    split
    · rename_i hlt
      rw [cget_cons, ih, cget_cons]
      by_cases hj : i = j
      · subst hj
        rw [if_pos rfl, if_pos rfl, if_neg (by omega)]
      · simp [hj]
    · rw [cget_append _ _ _ (cells_ne_zero vs k), cget_cells, cget_filter_out]
      by_cases h : k ≤ j ∧ j < k + vs.length
      · simp only [h, and_self, if_true]
        split
        · rename_i h0; exact h0.symm
        · rfl
      · simp only [h, if_false, if_true]

theorem length_cgetMany (c : Cells w) : ∀ n k : Nat, (cgetMany c k n).length = n := by
  intro n
  induction n with
  | zero => intro k; rfl
  | succ n ih => intro k; simp [cgetMany, ih]

/-! ## The canonical form -/

theorem cwfFrom_mono {c : Cells w} {a b : Nat} (h : a ≤ b) (hc : cwfFrom b c = true) : cwfFrom a c = true := by
  cases c with
  | nil => rfl
  | cons e r =>
    obtain ⟨k, v⟩ := e
    simp only [cwfFrom, Bool.and_eq_true, decide_eq_true_eq] at hc ⊢
    exact ⟨⟨by omega, hc.1.2⟩, hc.2⟩

theorem cwfFrom_filter (p : Nat × BitVec w → Bool) :
    ∀ (c : Cells w) (lo : Nat), cwfFrom lo c = true → cwfFrom lo (c.filter p) = true := by
  intro c
  induction c with
  | nil => intros; rfl
  | cons e r ih =>
    obtain ⟨k, v⟩ := e
    intro lo h
    simp only [cwfFrom, Bool.and_eq_true, decide_eq_true_eq] at h
    by_cases hp : p (k, v) = true
    · rw [List.filter_cons_of_pos hp]
      simp only [cwfFrom, Bool.and_eq_true, decide_eq_true_eq]
      exact ⟨h.1, ih _ h.2⟩
    · rw [List.filter_cons_of_neg hp]
      exact cwfFrom_mono (by omega) (ih _ h.2)

theorem cwfFrom_cset (k : Nat) (v : BitVec w) :
    ∀ (c : Cells w) (lo : Nat), lo ≤ k → cwfFrom lo c = true → cwfFrom lo (cset c k v) = true := by
  intro c
  induction c with
  | nil =>
    intro lo h _
    simp only [cset]
    split
    · rfl
    · rename_i hv
      simpa [cwfFrom, h] using hv
  | cons e r ih =>
    obtain ⟨j, x⟩ := e
    intro lo h hc
    have hc' := hc
    simp only [cwfFrom, Bool.and_eq_true, decide_eq_true_eq] at hc
    simp only [cset]
    split
    · rename_i hlt
      simp only [cwfFrom, Bool.and_eq_true, decide_eq_true_eq]
      exact ⟨hc.1, ih _ hlt hc.2⟩
    · split
      · exact cwfFrom_filter _ _ _ hc'
      · rename_i hv
        split
        · rename_i hj
          subst hj
          simp only [cwfFrom, Bool.and_eq_true, decide_eq_true_eq, bne_iff_ne]
          exact ⟨⟨h, hv⟩, hc.2⟩
        · simp only [cwfFrom, Bool.and_eq_true, decide_eq_true_eq, bne_iff_ne]
          exact ⟨⟨h, hv⟩, ⟨by omega, by simpa using hc.1.2⟩, hc.2⟩

/-- Writing one key keeps the canonical form. -/
theorem cwf_cset {c : Cells w} (k : Nat) (v : BitVec w) (h : cwf c = true) : cwf (cset c k v) = true :=
  cwfFrom_cset k v c 0 (Nat.zero_le _) h

/-- Writing keys in order keeps the canonical form. -/
theorem cwf_csetAll (l : List (Nat × BitVec w)) : ∀ {c : Cells w}, cwf c = true → cwf (csetAll c l) = true := by
  induction l with
  | nil => intro c h; exact h
  | cons e r ih => intro c h; exact ih (cwf_cset _ _ h)

theorem cwfFrom_append (b : Cells w) (m : Nat) :
    ∀ (a : Cells w) (lo : Nat), lo ≤ m → cwfFrom lo a = true → (∀ e ∈ a, e.1 < m) → cwfFrom m b = true →
      cwfFrom lo (a ++ b) = true := by
  intro a
  induction a with
  | nil => intro lo h _ _ hb; exact cwfFrom_mono h hb
  | cons e r ih =>
    obtain ⟨k, v⟩ := e
    intro lo h ha hm hb
    simp only [cwfFrom, List.cons_append, Bool.and_eq_true, decide_eq_true_eq] at ha ⊢
    exact ⟨ha.1, ih _ (hm (k, v) List.mem_cons_self) ha.2 (fun e he => hm e (List.mem_cons_of_mem _ he)) hb⟩

theorem cells_lt (vs : List (BitVec w)) : ∀ k : Nat, ∀ e ∈ cells k vs, e.1 < k + vs.length := by
  induction vs with
  | nil => intro k e h; cases h
  | cons v vs ih =>
    intro k e h
    simp only [cells] at h
    simp only [List.length_cons]
    split at h
    · have := ih _ e h; omega
    · rcases List.mem_cons.1 h with rfl | h
      · simp
      · have := ih _ e h; omega

theorem cwfFrom_cells (vs : List (BitVec w)) : ∀ k : Nat, cwfFrom k (cells k vs) = true := by
  induction vs with
  | nil => intro k; rfl
  | cons v vs ih =>
    intro k
    simp only [cells]
    split
    · exact cwfFrom_mono (Nat.le_succ k) (ih _)
    · rename_i hv
      simpa [cwfFrom, ih] using hv

theorem cwfFrom_above (k n : Nat) : ∀ (c : Cells w) (lo : Nat), k ≤ lo → cwfFrom lo c = true →
    cwfFrom (k + n) (c.filter (fun e => decide (e.1 < k ∨ k + n ≤ e.1))) = true := by
  intro c
  induction c with
  | nil => intros; rfl
  | cons e r ih =>
    obtain ⟨j, x⟩ := e
    intro lo h hc
    simp only [cwfFrom, Bool.and_eq_true, decide_eq_true_eq] at hc
    by_cases hp : j < k ∨ k + n ≤ j
    · rw [List.filter_cons_of_pos (by simpa using hp)]
      simp only [cwfFrom, Bool.and_eq_true, decide_eq_true_eq]
      exact ⟨⟨by omega, hc.1.2⟩, cwfFrom_filter _ _ _ hc.2⟩
    · rw [List.filter_cons_of_neg (by simpa using hp)]
      exact ih (j + 1) (by omega) hc.2

theorem cwfFrom_csetMany (k : Nat) (vs : List (BitVec w)) :
    ∀ (c : Cells w) (lo : Nat), lo ≤ k → cwfFrom lo c = true → cwfFrom lo (csetMany c k vs) = true := by
  intro c
  induction c with
  | nil => intro lo h _; exact cwfFrom_mono h (cwfFrom_cells vs k)
  | cons e r ih =>
    obtain ⟨j, x⟩ := e
    intro lo h hc
    have hc' := hc
    simp only [cwfFrom, Bool.and_eq_true, decide_eq_true_eq] at hc
    simp only [csetMany]
    split
    · rename_i hlt
      simp only [cwfFrom, Bool.and_eq_true, decide_eq_true_eq]
      exact ⟨hc.1, ih _ hlt hc.2⟩
    · rename_i hge
      refine cwfFrom_append _ (k + vs.length) _ _ (by omega) (cwfFrom_mono h (cwfFrom_cells vs k)) (cells_lt vs k) ?_
      refine cwfFrom_above k vs.length _ k (Nat.le_refl k) ?_
      simp only [cwfFrom, Bool.and_eq_true, decide_eq_true_eq]
      exact ⟨⟨by omega, hc.1.2⟩, hc.2⟩

/-- Writing consecutive keys keeps the canonical form. -/
theorem cwf_csetMany {c : Cells w} (k : Nat) (vs : List (BitVec w)) (h : cwf c = true) :
    cwf (csetMany c k vs) = true :=
  cwfFrom_csetMany k vs c 0 (Nat.zero_le _) h

end Sys2Proof.Machine
end

