-- ==== Sys2Proof/Laws/Memory.lean ====
section
/-! SUPPORT. Memory at its home: reading a byte after writing, and that every memory operation keeps the canonical form. -/

namespace Sys2Proof.Machine

/-- Reading one byte after a write: the written byte inside the range of the same memory, the old byte elsewhere. -/
theorem Memory.byte_write (m : Memory) (sys sys' : Bool) (pa a : Nat) (data : List Byte) (mark : Bool) :
    (m.write sys pa data mark).byte sys' a =
      if sys' = sys ∧ pa ≤ a ∧ a < pa + data.length then data.getD (a - pa) 0 else m.byte sys' a := by
  cases sys <;> cases sys' <;> simp [Memory.write, Memory.byte, cget_csetMany]

/-- A byte outside a write reads as before. -/
theorem Memory.byte_write_outside (m : Memory) (sys sys' : Bool) (pa a : Nat) (data : List Byte) (mark : Bool)
    (h : ¬ (sys' = sys ∧ pa ≤ a ∧ a < pa + data.length)) :
    (m.write sys pa data mark).byte sys' a = m.byte sys' a := by
  rw [Memory.byte_write, if_neg h]

theorem Memory.write_lmax (m : Memory) (sys : Bool) (pa : Nat) (data : List Byte) (mark : Bool) :
    (m.write sys pa data mark).lmax = m.lmax := by
  cases sys <;> rfl

theorem Memory.write_tlb (m : Memory) (sys : Bool) (pa : Nat) (data : List Byte) (mark : Bool) :
    (m.write sys pa data mark).tlb = m.tlb := by
  cases sys <;> rfl

theorem Memory.write_locks (m : Memory) (sys : Bool) (pa : Nat) (data : List Byte) (mark : Bool) :
    (m.write sys pa data mark).locks = m.locks := by
  cases sys <;> rfl

theorem Memory.write_l1 (m : Memory) (sys : Bool) (pa : Nat) (data : List Byte) (mark : Bool) :
    (m.write sys pa data mark).l1 = m.l1 := by
  cases sys <;> rfl

/-- The poison marks after a store keep the canonical form. -/
theorem cwf_poisonAfter {c : Cells 1} (pa len : Nat) (mark : Bool) (h : cwf c = true) :
    cwf (poisonAfter c pa len mark) = true := by
  have key : ∀ (l : List Nat) (c : Cells 1), cwf c = true → cwf (l.foldl (fun c i =>
      if mark then cset c i 1
      else if pa ≤ 32 * i ∧ 32 * i + 32 ≤ pa + len then cset c i 0 else c) c) = true := by
    intro l
    induction l with
    | nil => intro c h; exact h
    | cons i l ih =>
      intro c h
      refine ih _ ?_
      show cwf (if mark then cset c i 1 else if pa ≤ 32 * i ∧ 32 * i + 32 ≤ pa + len then cset c i 0 else c) = true
      split
      · exact cwf_cset _ _ h
      · split
        · exact cwf_cset _ _ h
        · exact h
  exact key _ c h

theorem Memory.wf_iff (m : Memory) : m.wf = true ↔
    cwf m.dev = true ∧ cwf m.devPoison = true ∧ cwf m.host = true ∧ cwf m.hostPoison = true ∧ cwf m.lmax = true ∧
      cwf m.hostLost = true := by
  simp [Memory.wf, and_assoc]

/-- A write keeps the canonical form. -/
theorem Memory.wf_write {m : Memory} (sys : Bool) (pa : Nat) (data : List Byte) (mark : Bool) (h : m.wf = true) :
    (m.write sys pa data mark).wf = true := by
  rw [Memory.wf_iff] at h ⊢
  obtain ⟨h1, h2, h3, h4, h5⟩ := h
  cases sys
  · exact ⟨cwf_csetMany _ _ h1, cwf_poisonAfter _ _ _ h2, h3, h4, h5⟩
  · exact ⟨h1, h2, cwf_csetMany _ _ h3, cwf_poisonAfter _ _ _ h4, h5⟩

/-- A new bound of a line's leases keeps the canonical form. -/
theorem Memory.wf_lmax {m : Memory} (k : Nat) (t : DWord) (l : List L1Copy) (h : m.wf = true) :
    ({ m with l1 := l, lmax := cset m.lmax k t } : Memory).wf = true := by
  rw [Memory.wf_iff] at h ⊢
  exact ⟨h.1, h.2.1, h.2.2.1, h.2.2.2.1, cwf_cset _ _ h.2.2.2.2.1, h.2.2.2.2.2⟩

/-- A poison mark keeps the canonical form, in device memory and in host memory. -/
theorem Memory.wf_poison {m : Memory} (k : Nat) (v : BitVec 1) (h : m.wf = true) :
    ({ m with devPoison := cset m.devPoison k v } : Memory).wf = true ∧
      ({ m with hostPoison := cset m.hostPoison k v } : Memory).wf = true := by
  rw [Memory.wf_iff] at h
  constructor <;> rw [Memory.wf_iff]
  · exact ⟨h.1, cwf_cset _ _ h.2.1, h.2.2⟩
  · exact ⟨h.1, h.2.1, h.2.2.1, cwf_cset _ _ h.2.2.2.1, h.2.2.2.2⟩

/-- A fold of changes to poison marks keeps the canonical form. -/
theorem cwf_foldl_cset {v : BitVec 1} (l : List Nat) : ∀ {c : Cells 1}, cwf c = true → cwf (l.foldl (fun c k => cset c k v) c) = true := by
  induction l with
  | nil => exact fun h => h
  | cons k r ih => exact fun h => ih (cwf_cset _ _ h)

/-- Cleaning sectors keeps the canonical form, and no byte changes. -/
theorem Memory.wf_clean {m : Memory} (core : Nat) (sys : Bool) (ks : List Nat) (h : m.wf = true) :
    (m.clean core sys ks).wf = true := by
  rw [Memory.wf_iff] at h ⊢
  unfold Memory.clean
  cases sys
  · exact ⟨h.1, cwf_foldl_cset ks h.2.1, h.2.2⟩
  · exact ⟨h.1, h.2.1, h.2.2.1, cwf_foldl_cset ks h.2.2.2.1, h.2.2.2.2⟩

@[simp] theorem Memory.byte_clean (m : Memory) (core : Nat) (sys sys' : Bool) (ks : List Nat) (a : Nat) :
    (m.clean core sys ks).byte sys' a = m.byte sys' a := by
  cases sys <;> rfl

@[simp] theorem Memory.bytes_clean (m : Memory) (core : Nat) (sys sys' : Bool) (ks : List Nat) (a n : Nat) :
    (m.clean core sys ks).bytes sys' a n = m.bytes sys' a n := by
  cases sys <;> rfl

/-- The scrub of device memory keeps the canonical form. -/
theorem Memory.wf_scrub {m : Memory} (h : m.wf = true) :
    ({ m with dev := [], devPoison := [], lmax := [] } : Memory).wf = true := by
  rw [Memory.wf_iff] at h ⊢
  exact ⟨rfl, rfl, h.2.2.1, h.2.2.2.1, rfl, h.2.2.2.2.2⟩

/-- What memory keeps besides bytes, poison marks and bounds has no part in the canonical form. -/
theorem Memory.wf_of_eq {m n : Memory} (h : m.wf = true) (h1 : n.dev = m.dev) (h2 : n.devPoison = m.devPoison)
    (h3 : n.host = m.host) (h4 : n.hostPoison = m.hostPoison) (h5 : n.lmax = m.lmax) (h6 : n.hostLost = m.hostLost) :
    n.wf = true := by
  rw [Memory.wf_iff] at h ⊢
  rw [h1, h2, h3, h4, h5, h6]
  exact h

theorem Memory.reset_wf : Memory.reset.wf = true := by decide

theorem length_memoryBytes (m : Memory) (sys : Bool) (pa n : Nat) : (m.bytes sys pa n).length = n := by
  cases sys <;> simp [Memory.bytes, length_cgetMany]

end Sys2Proof.Machine
end

