-- ==== Sys2Proof/Laws/State.lean ====
section
/-! SUPPORT. What each named update of the state leaves unchanged, one lemma for each field and update, true by
unfolding; and finding a block or warp after an update. -/

namespace Sys2Proof.Machine

variable (s : State)

/-! ## `updBlock` -/

@[simp] theorem updBlock_time (l t : Nat) (f : Block → Block) : (s.updBlock l t f).time = s.time := rfl
@[simp] theorem updBlock_modn (l t : Nat) (f : Block → Block) : (s.updBlock l t f).modn = s.modn := rfl
@[simp] theorem updBlock_mem (l t : Nat) (f : Block → Block) : (s.updBlock l t f).mem = s.mem := rfl
@[simp] theorem updBlock_grids (l t : Nat) (f : Block → Block) : (s.updBlock l t f).grids = s.grids := rfl
@[simp] theorem updBlock_groups (l t : Nat) (f : Block → Block) : (s.updBlock l t f).groups = s.groups := rfl
@[simp] theorem updBlock_homeOps (l t : Nat) (f : Block → Block) : (s.updBlock l t f).homeOps = s.homeOps := rfl
@[simp] theorem updBlock_covers (l t : Nat) (f : Block → Block) : (s.updBlock l t f).covers = s.covers := rfl
@[simp] theorem updBlock_replies (l t : Nat) (f : Block → Block) : (s.updBlock l t f).replies = s.replies := rfl
@[simp] theorem updBlock_copies (l t : Nat) (f : Block → Block) : (s.updBlock l t f).copies = s.copies := rfl
@[simp] theorem updBlock_casts (l t : Nat) (f : Block → Block) : (s.updBlock l t f).casts = s.casts := rfl
@[simp] theorem updBlock_rops (l t : Nat) (f : Block → Block) : (s.updBlock l t f).rops = s.rops := rfl
@[simp] theorem updBlock_invals (l t : Nat) (f : Block → Block) : (s.updBlock l t f).invals = s.invals := rfl
@[simp] theorem updBlock_endpoints (l t : Nat) (f : Block → Block) : (s.updBlock l t f).endpoints = s.endpoints := rfl
@[simp] theorem updBlock_ctxs (l t : Nat) (f : Block → Block) : (s.updBlock l t f).ctxs = s.ctxs := rfl
@[simp] theorem updBlock_exportTable (l t : Nat) (f : Block → Block) : (s.updBlock l t f).exportTable = s.exportTable := rfl
@[simp] theorem updBlock_sec (l t : Nat) (f : Block → Block) : (s.updBlock l t f).sec = s.sec := rfl
@[simp] theorem updBlock_front (l t : Nat) (f : Block → Block) : (s.updBlock l t f).front = s.front := rfl
@[simp] theorem updBlock_att (l t : Nat) (f : Block → Block) : (s.updBlock l t f).att = s.att := rfl
@[simp] theorem updBlock_quad (l t : Nat) (f : Block → Block) : (s.updBlock l t f).quad = s.quad := rfl
@[simp] theorem updBlock_gens (l t : Nat) (f : Block → Block) : (s.updBlock l t f).gens = s.gens := rfl
@[simp] theorem updBlock_pathCpod (l t : Nat) (f : Block → Block) : (s.updBlock l t f).pathCpod = s.pathCpod := rfl
@[simp] theorem updBlock_gated (l t : Nat) (f : Block → Block) : (s.updBlock l t f).gated = s.gated := rfl
@[simp] theorem updBlock_groupsDown (l t : Nat) (f : Block → Block) : (s.updBlock l t f).groupsDown = s.groupsDown := rfl
@[simp] theorem updBlock_frozen (l t : Nat) (f : Block → Block) : (s.updBlock l t f).frozen = s.frozen := rfl
@[simp] theorem updBlock_traps (l t : Nat) (f : Block → Block) : (s.updBlock l t f).traps = s.traps := rfl
@[simp] theorem updBlock_slots (l t : Nat) (f : Block → Block) : (s.updBlock l t f).slots = s.slots := rfl
@[simp] theorem updBlock_cur (l t : Nat) (f : Block → Block) : (s.updBlock l t f).cur = s.cur := rfl
@[simp] theorem updBlock_agenda (l t : Nat) (f : Block → Block) : (s.updBlock l t f).agenda = s.agenda := rfl
@[simp] theorem updBlock_scan (l t : Nat) (f : Block → Block) : (s.updBlock l t f).scan = s.scan := rfl
@[simp] theorem updBlock_nextId (l t : Nat) (f : Block → Block) : (s.updBlock l t f).nextId = s.nextId := rfl
@[simp] theorem updBlock_fresh (l t : Nat) (f : Block → Block) : (s.updBlock l t f).fresh = s.fresh := rfl
@[simp] theorem updBlock_lastReply (l t : Nat) (f : Block → Block) : (s.updBlock l t f).lastReply = s.lastReply := rfl

/-! ## `updGrid` -/

@[simp] theorem updGrid_time (l : Nat) (f : Grid → Grid) : (s.updGrid l f).time = s.time := rfl
@[simp] theorem updGrid_modn (l : Nat) (f : Grid → Grid) : (s.updGrid l f).modn = s.modn := rfl
@[simp] theorem updGrid_mem (l : Nat) (f : Grid → Grid) : (s.updGrid l f).mem = s.mem := rfl
@[simp] theorem updGrid_blocks (l : Nat) (f : Grid → Grid) : (s.updGrid l f).blocks = s.blocks := rfl
@[simp] theorem updGrid_groups (l : Nat) (f : Grid → Grid) : (s.updGrid l f).groups = s.groups := rfl
@[simp] theorem updGrid_homeOps (l : Nat) (f : Grid → Grid) : (s.updGrid l f).homeOps = s.homeOps := rfl
@[simp] theorem updGrid_covers (l : Nat) (f : Grid → Grid) : (s.updGrid l f).covers = s.covers := rfl
@[simp] theorem updGrid_replies (l : Nat) (f : Grid → Grid) : (s.updGrid l f).replies = s.replies := rfl
@[simp] theorem updGrid_copies (l : Nat) (f : Grid → Grid) : (s.updGrid l f).copies = s.copies := rfl
@[simp] theorem updGrid_casts (l : Nat) (f : Grid → Grid) : (s.updGrid l f).casts = s.casts := rfl
@[simp] theorem updGrid_rops (l : Nat) (f : Grid → Grid) : (s.updGrid l f).rops = s.rops := rfl
@[simp] theorem updGrid_invals (l : Nat) (f : Grid → Grid) : (s.updGrid l f).invals = s.invals := rfl
@[simp] theorem updGrid_endpoints (l : Nat) (f : Grid → Grid) : (s.updGrid l f).endpoints = s.endpoints := rfl
@[simp] theorem updGrid_ctxs (l : Nat) (f : Grid → Grid) : (s.updGrid l f).ctxs = s.ctxs := rfl
@[simp] theorem updGrid_exportTable (l : Nat) (f : Grid → Grid) : (s.updGrid l f).exportTable = s.exportTable := rfl
@[simp] theorem updGrid_sec (l : Nat) (f : Grid → Grid) : (s.updGrid l f).sec = s.sec := rfl
@[simp] theorem updGrid_front (l : Nat) (f : Grid → Grid) : (s.updGrid l f).front = s.front := rfl
@[simp] theorem updGrid_att (l : Nat) (f : Grid → Grid) : (s.updGrid l f).att = s.att := rfl
@[simp] theorem updGrid_quad (l : Nat) (f : Grid → Grid) : (s.updGrid l f).quad = s.quad := rfl
@[simp] theorem updGrid_gens (l : Nat) (f : Grid → Grid) : (s.updGrid l f).gens = s.gens := rfl
@[simp] theorem updGrid_pathCpod (l : Nat) (f : Grid → Grid) : (s.updGrid l f).pathCpod = s.pathCpod := rfl
@[simp] theorem updGrid_gated (l : Nat) (f : Grid → Grid) : (s.updGrid l f).gated = s.gated := rfl
@[simp] theorem updGrid_groupsDown (l : Nat) (f : Grid → Grid) : (s.updGrid l f).groupsDown = s.groupsDown := rfl
@[simp] theorem updGrid_frozen (l : Nat) (f : Grid → Grid) : (s.updGrid l f).frozen = s.frozen := rfl
@[simp] theorem updGrid_traps (l : Nat) (f : Grid → Grid) : (s.updGrid l f).traps = s.traps := rfl
@[simp] theorem updGrid_slots (l : Nat) (f : Grid → Grid) : (s.updGrid l f).slots = s.slots := rfl
@[simp] theorem updGrid_cur (l : Nat) (f : Grid → Grid) : (s.updGrid l f).cur = s.cur := rfl
@[simp] theorem updGrid_agenda (l : Nat) (f : Grid → Grid) : (s.updGrid l f).agenda = s.agenda := rfl
@[simp] theorem updGrid_scan (l : Nat) (f : Grid → Grid) : (s.updGrid l f).scan = s.scan := rfl
@[simp] theorem updGrid_nextId (l : Nat) (f : Grid → Grid) : (s.updGrid l f).nextId = s.nextId := rfl
@[simp] theorem updGrid_fresh (l : Nat) (f : Grid → Grid) : (s.updGrid l f).fresh = s.fresh := rfl
@[simp] theorem updGrid_lastReply (l : Nat) (f : Grid → Grid) : (s.updGrid l f).lastReply = s.lastReply := rfl

/-! ## `updRef` -/

@[simp] theorem updRef_time (r : Ref) (f : Warp → Warp) : (s.updRef r f).time = s.time := rfl
@[simp] theorem updRef_modn (r : Ref) (f : Warp → Warp) : (s.updRef r f).modn = s.modn := rfl
@[simp] theorem updRef_mem (r : Ref) (f : Warp → Warp) : (s.updRef r f).mem = s.mem := rfl
@[simp] theorem updRef_grids (r : Ref) (f : Warp → Warp) : (s.updRef r f).grids = s.grids := rfl
@[simp] theorem updRef_groups (r : Ref) (f : Warp → Warp) : (s.updRef r f).groups = s.groups := rfl
@[simp] theorem updRef_homeOps (r : Ref) (f : Warp → Warp) : (s.updRef r f).homeOps = s.homeOps := rfl
@[simp] theorem updRef_covers (r : Ref) (f : Warp → Warp) : (s.updRef r f).covers = s.covers := rfl
@[simp] theorem updRef_replies (r : Ref) (f : Warp → Warp) : (s.updRef r f).replies = s.replies := rfl
@[simp] theorem updRef_copies (r : Ref) (f : Warp → Warp) : (s.updRef r f).copies = s.copies := rfl
@[simp] theorem updRef_casts (r : Ref) (f : Warp → Warp) : (s.updRef r f).casts = s.casts := rfl
@[simp] theorem updRef_rops (r : Ref) (f : Warp → Warp) : (s.updRef r f).rops = s.rops := rfl
@[simp] theorem updRef_invals (r : Ref) (f : Warp → Warp) : (s.updRef r f).invals = s.invals := rfl
@[simp] theorem updRef_endpoints (r : Ref) (f : Warp → Warp) : (s.updRef r f).endpoints = s.endpoints := rfl
@[simp] theorem updRef_ctxs (r : Ref) (f : Warp → Warp) : (s.updRef r f).ctxs = s.ctxs := rfl
@[simp] theorem updRef_exportTable (r : Ref) (f : Warp → Warp) : (s.updRef r f).exportTable = s.exportTable := rfl
@[simp] theorem updRef_sec (r : Ref) (f : Warp → Warp) : (s.updRef r f).sec = s.sec := rfl
@[simp] theorem updRef_front (r : Ref) (f : Warp → Warp) : (s.updRef r f).front = s.front := rfl
@[simp] theorem updRef_att (r : Ref) (f : Warp → Warp) : (s.updRef r f).att = s.att := rfl
@[simp] theorem updRef_quad (r : Ref) (f : Warp → Warp) : (s.updRef r f).quad = s.quad := rfl
@[simp] theorem updRef_gens (r : Ref) (f : Warp → Warp) : (s.updRef r f).gens = s.gens := rfl
@[simp] theorem updRef_pathCpod (r : Ref) (f : Warp → Warp) : (s.updRef r f).pathCpod = s.pathCpod := rfl
@[simp] theorem updRef_gated (r : Ref) (f : Warp → Warp) : (s.updRef r f).gated = s.gated := rfl
@[simp] theorem updRef_groupsDown (r : Ref) (f : Warp → Warp) : (s.updRef r f).groupsDown = s.groupsDown := rfl
@[simp] theorem updRef_frozen (r : Ref) (f : Warp → Warp) : (s.updRef r f).frozen = s.frozen := rfl
@[simp] theorem updRef_traps (r : Ref) (f : Warp → Warp) : (s.updRef r f).traps = s.traps := rfl
@[simp] theorem updRef_slots (r : Ref) (f : Warp → Warp) : (s.updRef r f).slots = s.slots := rfl
@[simp] theorem updRef_cur (r : Ref) (f : Warp → Warp) : (s.updRef r f).cur = s.cur := rfl
@[simp] theorem updRef_agenda (r : Ref) (f : Warp → Warp) : (s.updRef r f).agenda = s.agenda := rfl
@[simp] theorem updRef_scan (r : Ref) (f : Warp → Warp) : (s.updRef r f).scan = s.scan := rfl
@[simp] theorem updRef_nextId (r : Ref) (f : Warp → Warp) : (s.updRef r f).nextId = s.nextId := rfl
@[simp] theorem updRef_fresh (r : Ref) (f : Warp → Warp) : (s.updRef r f).fresh = s.fresh := rfl
@[simp] theorem updRef_lastReply (r : Ref) (f : Warp → Warp) : (s.updRef r f).lastReply = s.lastReply := rfl

/-! ## `updWarp` -/

@[simp] theorem updWarp_time (l t i : Nat) (f : Warp → Warp) : (s.updWarp l t i f).time = s.time := rfl
@[simp] theorem updWarp_modn (l t i : Nat) (f : Warp → Warp) : (s.updWarp l t i f).modn = s.modn := rfl
@[simp] theorem updWarp_mem (l t i : Nat) (f : Warp → Warp) : (s.updWarp l t i f).mem = s.mem := rfl
@[simp] theorem updWarp_grids (l t i : Nat) (f : Warp → Warp) : (s.updWarp l t i f).grids = s.grids := rfl
@[simp] theorem updWarp_groups (l t i : Nat) (f : Warp → Warp) : (s.updWarp l t i f).groups = s.groups := rfl
@[simp] theorem updWarp_homeOps (l t i : Nat) (f : Warp → Warp) : (s.updWarp l t i f).homeOps = s.homeOps := rfl
@[simp] theorem updWarp_covers (l t i : Nat) (f : Warp → Warp) : (s.updWarp l t i f).covers = s.covers := rfl
@[simp] theorem updWarp_replies (l t i : Nat) (f : Warp → Warp) : (s.updWarp l t i f).replies = s.replies := rfl
@[simp] theorem updWarp_copies (l t i : Nat) (f : Warp → Warp) : (s.updWarp l t i f).copies = s.copies := rfl
@[simp] theorem updWarp_casts (l t i : Nat) (f : Warp → Warp) : (s.updWarp l t i f).casts = s.casts := rfl
@[simp] theorem updWarp_rops (l t i : Nat) (f : Warp → Warp) : (s.updWarp l t i f).rops = s.rops := rfl
@[simp] theorem updWarp_invals (l t i : Nat) (f : Warp → Warp) : (s.updWarp l t i f).invals = s.invals := rfl
@[simp] theorem updWarp_endpoints (l t i : Nat) (f : Warp → Warp) : (s.updWarp l t i f).endpoints = s.endpoints := rfl
@[simp] theorem updWarp_ctxs (l t i : Nat) (f : Warp → Warp) : (s.updWarp l t i f).ctxs = s.ctxs := rfl
@[simp] theorem updWarp_exportTable (l t i : Nat) (f : Warp → Warp) : (s.updWarp l t i f).exportTable = s.exportTable := rfl
@[simp] theorem updWarp_sec (l t i : Nat) (f : Warp → Warp) : (s.updWarp l t i f).sec = s.sec := rfl
@[simp] theorem updWarp_front (l t i : Nat) (f : Warp → Warp) : (s.updWarp l t i f).front = s.front := rfl
@[simp] theorem updWarp_att (l t i : Nat) (f : Warp → Warp) : (s.updWarp l t i f).att = s.att := rfl
@[simp] theorem updWarp_quad (l t i : Nat) (f : Warp → Warp) : (s.updWarp l t i f).quad = s.quad := rfl
@[simp] theorem updWarp_gens (l t i : Nat) (f : Warp → Warp) : (s.updWarp l t i f).gens = s.gens := rfl
@[simp] theorem updWarp_pathCpod (l t i : Nat) (f : Warp → Warp) : (s.updWarp l t i f).pathCpod = s.pathCpod := rfl
@[simp] theorem updWarp_gated (l t i : Nat) (f : Warp → Warp) : (s.updWarp l t i f).gated = s.gated := rfl
@[simp] theorem updWarp_groupsDown (l t i : Nat) (f : Warp → Warp) : (s.updWarp l t i f).groupsDown = s.groupsDown := rfl
@[simp] theorem updWarp_frozen (l t i : Nat) (f : Warp → Warp) : (s.updWarp l t i f).frozen = s.frozen := rfl
@[simp] theorem updWarp_traps (l t i : Nat) (f : Warp → Warp) : (s.updWarp l t i f).traps = s.traps := rfl
@[simp] theorem updWarp_slots (l t i : Nat) (f : Warp → Warp) : (s.updWarp l t i f).slots = s.slots := rfl
@[simp] theorem updWarp_cur (l t i : Nat) (f : Warp → Warp) : (s.updWarp l t i f).cur = s.cur := rfl
@[simp] theorem updWarp_agenda (l t i : Nat) (f : Warp → Warp) : (s.updWarp l t i f).agenda = s.agenda := rfl
@[simp] theorem updWarp_scan (l t i : Nat) (f : Warp → Warp) : (s.updWarp l t i f).scan = s.scan := rfl
@[simp] theorem updWarp_nextId (l t i : Nat) (f : Warp → Warp) : (s.updWarp l t i f).nextId = s.nextId := rfl
@[simp] theorem updWarp_fresh (l t i : Nat) (f : Warp → Warp) : (s.updWarp l t i f).fresh = s.fresh := rfl
@[simp] theorem updWarp_lastReply (l t i : Nat) (f : Warp → Warp) : (s.updWarp l t i f).lastReply = s.lastReply := rfl

/-! ## `updOpWarp` -/

@[simp] theorem updOpWarp_time (g : OpGroup) (f : Warp → Warp) : (s.updOpWarp g f).time = s.time := rfl
@[simp] theorem updOpWarp_modn (g : OpGroup) (f : Warp → Warp) : (s.updOpWarp g f).modn = s.modn := rfl
@[simp] theorem updOpWarp_mem (g : OpGroup) (f : Warp → Warp) : (s.updOpWarp g f).mem = s.mem := rfl
@[simp] theorem updOpWarp_grids (g : OpGroup) (f : Warp → Warp) : (s.updOpWarp g f).grids = s.grids := rfl
@[simp] theorem updOpWarp_groups (g : OpGroup) (f : Warp → Warp) : (s.updOpWarp g f).groups = s.groups := rfl
@[simp] theorem updOpWarp_homeOps (g : OpGroup) (f : Warp → Warp) : (s.updOpWarp g f).homeOps = s.homeOps := rfl
@[simp] theorem updOpWarp_covers (g : OpGroup) (f : Warp → Warp) : (s.updOpWarp g f).covers = s.covers := rfl
@[simp] theorem updOpWarp_replies (g : OpGroup) (f : Warp → Warp) : (s.updOpWarp g f).replies = s.replies := rfl
@[simp] theorem updOpWarp_copies (g : OpGroup) (f : Warp → Warp) : (s.updOpWarp g f).copies = s.copies := rfl
@[simp] theorem updOpWarp_casts (g : OpGroup) (f : Warp → Warp) : (s.updOpWarp g f).casts = s.casts := rfl
@[simp] theorem updOpWarp_rops (g : OpGroup) (f : Warp → Warp) : (s.updOpWarp g f).rops = s.rops := rfl
@[simp] theorem updOpWarp_invals (g : OpGroup) (f : Warp → Warp) : (s.updOpWarp g f).invals = s.invals := rfl
@[simp] theorem updOpWarp_endpoints (g : OpGroup) (f : Warp → Warp) : (s.updOpWarp g f).endpoints = s.endpoints := rfl
@[simp] theorem updOpWarp_ctxs (g : OpGroup) (f : Warp → Warp) : (s.updOpWarp g f).ctxs = s.ctxs := rfl
@[simp] theorem updOpWarp_exportTable (g : OpGroup) (f : Warp → Warp) : (s.updOpWarp g f).exportTable = s.exportTable := rfl
@[simp] theorem updOpWarp_sec (g : OpGroup) (f : Warp → Warp) : (s.updOpWarp g f).sec = s.sec := rfl
@[simp] theorem updOpWarp_front (g : OpGroup) (f : Warp → Warp) : (s.updOpWarp g f).front = s.front := rfl
@[simp] theorem updOpWarp_att (g : OpGroup) (f : Warp → Warp) : (s.updOpWarp g f).att = s.att := rfl
@[simp] theorem updOpWarp_quad (g : OpGroup) (f : Warp → Warp) : (s.updOpWarp g f).quad = s.quad := rfl
@[simp] theorem updOpWarp_gens (g : OpGroup) (f : Warp → Warp) : (s.updOpWarp g f).gens = s.gens := rfl
@[simp] theorem updOpWarp_pathCpod (g : OpGroup) (f : Warp → Warp) : (s.updOpWarp g f).pathCpod = s.pathCpod := rfl
@[simp] theorem updOpWarp_gated (g : OpGroup) (f : Warp → Warp) : (s.updOpWarp g f).gated = s.gated := rfl
@[simp] theorem updOpWarp_groupsDown (g : OpGroup) (f : Warp → Warp) : (s.updOpWarp g f).groupsDown = s.groupsDown := rfl
@[simp] theorem updOpWarp_frozen (g : OpGroup) (f : Warp → Warp) : (s.updOpWarp g f).frozen = s.frozen := rfl
@[simp] theorem updOpWarp_traps (g : OpGroup) (f : Warp → Warp) : (s.updOpWarp g f).traps = s.traps := rfl
@[simp] theorem updOpWarp_slots (g : OpGroup) (f : Warp → Warp) : (s.updOpWarp g f).slots = s.slots := rfl
@[simp] theorem updOpWarp_cur (g : OpGroup) (f : Warp → Warp) : (s.updOpWarp g f).cur = s.cur := rfl
@[simp] theorem updOpWarp_agenda (g : OpGroup) (f : Warp → Warp) : (s.updOpWarp g f).agenda = s.agenda := rfl
@[simp] theorem updOpWarp_scan (g : OpGroup) (f : Warp → Warp) : (s.updOpWarp g f).scan = s.scan := rfl
@[simp] theorem updOpWarp_nextId (g : OpGroup) (f : Warp → Warp) : (s.updOpWarp g f).nextId = s.nextId := rfl
@[simp] theorem updOpWarp_fresh (g : OpGroup) (f : Warp → Warp) : (s.updOpWarp g f).fresh = s.fresh := rfl
@[simp] theorem updOpWarp_lastReply (g : OpGroup) (f : Warp → Warp) : (s.updOpWarp g f).lastReply = s.lastReply := rfl

/-! ## `mapPaths` -/

@[simp] theorem mapPaths_time (f : Path → Path) : (s.mapPaths f).time = s.time := rfl
@[simp] theorem mapPaths_modn (f : Path → Path) : (s.mapPaths f).modn = s.modn := rfl
@[simp] theorem mapPaths_mem (f : Path → Path) : (s.mapPaths f).mem = s.mem := rfl
@[simp] theorem mapPaths_grids (f : Path → Path) : (s.mapPaths f).grids = s.grids := rfl
@[simp] theorem mapPaths_groups (f : Path → Path) : (s.mapPaths f).groups = s.groups := rfl
@[simp] theorem mapPaths_homeOps (f : Path → Path) : (s.mapPaths f).homeOps = s.homeOps := rfl
@[simp] theorem mapPaths_covers (f : Path → Path) : (s.mapPaths f).covers = s.covers := rfl
@[simp] theorem mapPaths_replies (f : Path → Path) : (s.mapPaths f).replies = s.replies := rfl
@[simp] theorem mapPaths_copies (f : Path → Path) : (s.mapPaths f).copies = s.copies := rfl
@[simp] theorem mapPaths_casts (f : Path → Path) : (s.mapPaths f).casts = s.casts := rfl
@[simp] theorem mapPaths_rops (f : Path → Path) : (s.mapPaths f).rops = s.rops := rfl
@[simp] theorem mapPaths_invals (f : Path → Path) : (s.mapPaths f).invals = s.invals := rfl
@[simp] theorem mapPaths_endpoints (f : Path → Path) : (s.mapPaths f).endpoints = s.endpoints := rfl
@[simp] theorem mapPaths_ctxs (f : Path → Path) : (s.mapPaths f).ctxs = s.ctxs := rfl
@[simp] theorem mapPaths_exportTable (f : Path → Path) : (s.mapPaths f).exportTable = s.exportTable := rfl
@[simp] theorem mapPaths_sec (f : Path → Path) : (s.mapPaths f).sec = s.sec := rfl
@[simp] theorem mapPaths_front (f : Path → Path) : (s.mapPaths f).front = s.front := rfl
@[simp] theorem mapPaths_att (f : Path → Path) : (s.mapPaths f).att = s.att := rfl
@[simp] theorem mapPaths_quad (f : Path → Path) : (s.mapPaths f).quad = s.quad := rfl
@[simp] theorem mapPaths_gens (f : Path → Path) : (s.mapPaths f).gens = s.gens := rfl
@[simp] theorem mapPaths_pathCpod (f : Path → Path) : (s.mapPaths f).pathCpod = s.pathCpod := rfl
@[simp] theorem mapPaths_gated (f : Path → Path) : (s.mapPaths f).gated = s.gated := rfl
@[simp] theorem mapPaths_groupsDown (f : Path → Path) : (s.mapPaths f).groupsDown = s.groupsDown := rfl
@[simp] theorem mapPaths_frozen (f : Path → Path) : (s.mapPaths f).frozen = s.frozen := rfl
@[simp] theorem mapPaths_traps (f : Path → Path) : (s.mapPaths f).traps = s.traps := rfl
@[simp] theorem mapPaths_slots (f : Path → Path) : (s.mapPaths f).slots = s.slots := rfl
@[simp] theorem mapPaths_cur (f : Path → Path) : (s.mapPaths f).cur = s.cur := rfl
@[simp] theorem mapPaths_agenda (f : Path → Path) : (s.mapPaths f).agenda = s.agenda := rfl
@[simp] theorem mapPaths_scan (f : Path → Path) : (s.mapPaths f).scan = s.scan := rfl
@[simp] theorem mapPaths_nextId (f : Path → Path) : (s.mapPaths f).nextId = s.nextId := rfl
@[simp] theorem mapPaths_fresh (f : Path → Path) : (s.mapPaths f).fresh = s.fresh := rfl
@[simp] theorem mapPaths_lastReply (f : Path → Path) : (s.mapPaths f).lastReply = s.lastReply := rfl

/-! ## `takeTrap` -/

@[simp] theorem takeTrap_time (r : Ref) (v : TrapV) : (s.takeTrap r v).time = s.time := rfl
@[simp] theorem takeTrap_modn (r : Ref) (v : TrapV) : (s.takeTrap r v).modn = s.modn := rfl
@[simp] theorem takeTrap_mem (r : Ref) (v : TrapV) : (s.takeTrap r v).mem = s.mem := rfl
@[simp] theorem takeTrap_grids (r : Ref) (v : TrapV) : (s.takeTrap r v).grids = s.grids := rfl
@[simp] theorem takeTrap_groups (r : Ref) (v : TrapV) : (s.takeTrap r v).groups = s.groups := rfl
@[simp] theorem takeTrap_homeOps (r : Ref) (v : TrapV) : (s.takeTrap r v).homeOps = s.homeOps := rfl
@[simp] theorem takeTrap_covers (r : Ref) (v : TrapV) : (s.takeTrap r v).covers = s.covers := rfl
@[simp] theorem takeTrap_replies (r : Ref) (v : TrapV) : (s.takeTrap r v).replies = s.replies := rfl
@[simp] theorem takeTrap_copies (r : Ref) (v : TrapV) : (s.takeTrap r v).copies = s.copies := rfl
@[simp] theorem takeTrap_casts (r : Ref) (v : TrapV) : (s.takeTrap r v).casts = s.casts := rfl
@[simp] theorem takeTrap_rops (r : Ref) (v : TrapV) : (s.takeTrap r v).rops = s.rops := rfl
@[simp] theorem takeTrap_invals (r : Ref) (v : TrapV) : (s.takeTrap r v).invals = s.invals := rfl
@[simp] theorem takeTrap_endpoints (r : Ref) (v : TrapV) : (s.takeTrap r v).endpoints = s.endpoints := rfl
@[simp] theorem takeTrap_ctxs (r : Ref) (v : TrapV) : (s.takeTrap r v).ctxs = s.ctxs := rfl
@[simp] theorem takeTrap_exportTable (r : Ref) (v : TrapV) : (s.takeTrap r v).exportTable = s.exportTable := rfl
@[simp] theorem takeTrap_sec (r : Ref) (v : TrapV) : (s.takeTrap r v).sec = s.sec := rfl
@[simp] theorem takeTrap_front (r : Ref) (v : TrapV) : (s.takeTrap r v).front = s.front := rfl
@[simp] theorem takeTrap_att (r : Ref) (v : TrapV) : (s.takeTrap r v).att = s.att := rfl
@[simp] theorem takeTrap_quad (r : Ref) (v : TrapV) : (s.takeTrap r v).quad = s.quad := rfl
@[simp] theorem takeTrap_gens (r : Ref) (v : TrapV) : (s.takeTrap r v).gens = s.gens := rfl
@[simp] theorem takeTrap_pathCpod (r : Ref) (v : TrapV) : (s.takeTrap r v).pathCpod = s.pathCpod := rfl
@[simp] theorem takeTrap_gated (r : Ref) (v : TrapV) : (s.takeTrap r v).gated = s.gated := rfl
@[simp] theorem takeTrap_groupsDown (r : Ref) (v : TrapV) : (s.takeTrap r v).groupsDown = s.groupsDown := rfl
@[simp] theorem takeTrap_frozen (r : Ref) (v : TrapV) : (s.takeTrap r v).frozen = s.frozen := rfl
@[simp] theorem takeTrap_slots (r : Ref) (v : TrapV) : (s.takeTrap r v).slots = s.slots := rfl
@[simp] theorem takeTrap_cur (r : Ref) (v : TrapV) : (s.takeTrap r v).cur = s.cur := rfl
@[simp] theorem takeTrap_agenda (r : Ref) (v : TrapV) : (s.takeTrap r v).agenda = s.agenda := rfl
@[simp] theorem takeTrap_scan (r : Ref) (v : TrapV) : (s.takeTrap r v).scan = s.scan := rfl
@[simp] theorem takeTrap_nextId (r : Ref) (v : TrapV) : (s.takeTrap r v).nextId = s.nextId := rfl
@[simp] theorem takeTrap_fresh (r : Ref) (v : TrapV) : (s.takeTrap r v).fresh = s.fresh := rfl
@[simp] theorem takeTrap_lastReply (r : Ref) (v : TrapV) : (s.takeTrap r v).lastReply = s.lastReply := rfl

/-! ## `setAtt` -/

@[simp] theorem setAtt_time (f : Attach → Attach) : (s.setAtt f).time = s.time := rfl
@[simp] theorem setAtt_modn (f : Attach → Attach) : (s.setAtt f).modn = s.modn := rfl
@[simp] theorem setAtt_mem (f : Attach → Attach) : (s.setAtt f).mem = s.mem := rfl
@[simp] theorem setAtt_blocks (f : Attach → Attach) : (s.setAtt f).blocks = s.blocks := rfl
@[simp] theorem setAtt_grids (f : Attach → Attach) : (s.setAtt f).grids = s.grids := rfl
@[simp] theorem setAtt_groups (f : Attach → Attach) : (s.setAtt f).groups = s.groups := rfl
@[simp] theorem setAtt_homeOps (f : Attach → Attach) : (s.setAtt f).homeOps = s.homeOps := rfl
@[simp] theorem setAtt_covers (f : Attach → Attach) : (s.setAtt f).covers = s.covers := rfl
@[simp] theorem setAtt_replies (f : Attach → Attach) : (s.setAtt f).replies = s.replies := rfl
@[simp] theorem setAtt_copies (f : Attach → Attach) : (s.setAtt f).copies = s.copies := rfl
@[simp] theorem setAtt_casts (f : Attach → Attach) : (s.setAtt f).casts = s.casts := rfl
@[simp] theorem setAtt_rops (f : Attach → Attach) : (s.setAtt f).rops = s.rops := rfl
@[simp] theorem setAtt_invals (f : Attach → Attach) : (s.setAtt f).invals = s.invals := rfl
@[simp] theorem setAtt_endpoints (f : Attach → Attach) : (s.setAtt f).endpoints = s.endpoints := rfl
@[simp] theorem setAtt_ctxs (f : Attach → Attach) : (s.setAtt f).ctxs = s.ctxs := rfl
@[simp] theorem setAtt_exportTable (f : Attach → Attach) : (s.setAtt f).exportTable = s.exportTable := rfl
@[simp] theorem setAtt_sec (f : Attach → Attach) : (s.setAtt f).sec = s.sec := rfl
@[simp] theorem setAtt_front (f : Attach → Attach) : (s.setAtt f).front = s.front := rfl
@[simp] theorem setAtt_quad (f : Attach → Attach) : (s.setAtt f).quad = s.quad := rfl
@[simp] theorem setAtt_gens (f : Attach → Attach) : (s.setAtt f).gens = s.gens := rfl
@[simp] theorem setAtt_pathCpod (f : Attach → Attach) : (s.setAtt f).pathCpod = s.pathCpod := rfl
@[simp] theorem setAtt_gated (f : Attach → Attach) : (s.setAtt f).gated = s.gated := rfl
@[simp] theorem setAtt_groupsDown (f : Attach → Attach) : (s.setAtt f).groupsDown = s.groupsDown := rfl
@[simp] theorem setAtt_frozen (f : Attach → Attach) : (s.setAtt f).frozen = s.frozen := rfl
@[simp] theorem setAtt_traps (f : Attach → Attach) : (s.setAtt f).traps = s.traps := rfl
@[simp] theorem setAtt_slots (f : Attach → Attach) : (s.setAtt f).slots = s.slots := rfl
@[simp] theorem setAtt_cur (f : Attach → Attach) : (s.setAtt f).cur = s.cur := rfl
@[simp] theorem setAtt_agenda (f : Attach → Attach) : (s.setAtt f).agenda = s.agenda := rfl
@[simp] theorem setAtt_scan (f : Attach → Attach) : (s.setAtt f).scan = s.scan := rfl
@[simp] theorem setAtt_nextId (f : Attach → Attach) : (s.setAtt f).nextId = s.nextId := rfl
@[simp] theorem setAtt_fresh (f : Attach → Attach) : (s.setAtt f).fresh = s.fresh := rfl
@[simp] theorem setAtt_lastReply (f : Attach → Attach) : (s.setAtt f).lastReply = s.lastReply := rfl

/-! ## `setSec` -/

@[simp] theorem setSec_time (f : Security → Security) : (s.setSec f).time = s.time := rfl
@[simp] theorem setSec_modn (f : Security → Security) : (s.setSec f).modn = s.modn := rfl
@[simp] theorem setSec_mem (f : Security → Security) : (s.setSec f).mem = s.mem := rfl
@[simp] theorem setSec_blocks (f : Security → Security) : (s.setSec f).blocks = s.blocks := rfl
@[simp] theorem setSec_grids (f : Security → Security) : (s.setSec f).grids = s.grids := rfl
@[simp] theorem setSec_groups (f : Security → Security) : (s.setSec f).groups = s.groups := rfl
@[simp] theorem setSec_homeOps (f : Security → Security) : (s.setSec f).homeOps = s.homeOps := rfl
@[simp] theorem setSec_covers (f : Security → Security) : (s.setSec f).covers = s.covers := rfl
@[simp] theorem setSec_replies (f : Security → Security) : (s.setSec f).replies = s.replies := rfl
@[simp] theorem setSec_copies (f : Security → Security) : (s.setSec f).copies = s.copies := rfl
@[simp] theorem setSec_casts (f : Security → Security) : (s.setSec f).casts = s.casts := rfl
@[simp] theorem setSec_rops (f : Security → Security) : (s.setSec f).rops = s.rops := rfl
@[simp] theorem setSec_invals (f : Security → Security) : (s.setSec f).invals = s.invals := rfl
@[simp] theorem setSec_endpoints (f : Security → Security) : (s.setSec f).endpoints = s.endpoints := rfl
@[simp] theorem setSec_ctxs (f : Security → Security) : (s.setSec f).ctxs = s.ctxs := rfl
@[simp] theorem setSec_exportTable (f : Security → Security) : (s.setSec f).exportTable = s.exportTable := rfl
@[simp] theorem setSec_front (f : Security → Security) : (s.setSec f).front = s.front := rfl
@[simp] theorem setSec_att (f : Security → Security) : (s.setSec f).att = s.att := rfl
@[simp] theorem setSec_quad (f : Security → Security) : (s.setSec f).quad = s.quad := rfl
@[simp] theorem setSec_gens (f : Security → Security) : (s.setSec f).gens = s.gens := rfl
@[simp] theorem setSec_pathCpod (f : Security → Security) : (s.setSec f).pathCpod = s.pathCpod := rfl
@[simp] theorem setSec_gated (f : Security → Security) : (s.setSec f).gated = s.gated := rfl
@[simp] theorem setSec_groupsDown (f : Security → Security) : (s.setSec f).groupsDown = s.groupsDown := rfl
@[simp] theorem setSec_frozen (f : Security → Security) : (s.setSec f).frozen = s.frozen := rfl
@[simp] theorem setSec_traps (f : Security → Security) : (s.setSec f).traps = s.traps := rfl
@[simp] theorem setSec_slots (f : Security → Security) : (s.setSec f).slots = s.slots := rfl
@[simp] theorem setSec_cur (f : Security → Security) : (s.setSec f).cur = s.cur := rfl
@[simp] theorem setSec_agenda (f : Security → Security) : (s.setSec f).agenda = s.agenda := rfl
@[simp] theorem setSec_scan (f : Security → Security) : (s.setSec f).scan = s.scan := rfl
@[simp] theorem setSec_nextId (f : Security → Security) : (s.setSec f).nextId = s.nextId := rfl
@[simp] theorem setSec_fresh (f : Security → Security) : (s.setSec f).fresh = s.fresh := rfl
@[simp] theorem setSec_lastReply (f : Security → Security) : (s.setSec f).lastReply = s.lastReply := rfl

/-! ## `setQuad` -/

@[simp] theorem setQuad_time (f : Quad → Quad) : (s.setQuad f).time = s.time := rfl
@[simp] theorem setQuad_modn (f : Quad → Quad) : (s.setQuad f).modn = s.modn := rfl
@[simp] theorem setQuad_mem (f : Quad → Quad) : (s.setQuad f).mem = s.mem := rfl
@[simp] theorem setQuad_blocks (f : Quad → Quad) : (s.setQuad f).blocks = s.blocks := rfl
@[simp] theorem setQuad_grids (f : Quad → Quad) : (s.setQuad f).grids = s.grids := rfl
@[simp] theorem setQuad_groups (f : Quad → Quad) : (s.setQuad f).groups = s.groups := rfl
@[simp] theorem setQuad_homeOps (f : Quad → Quad) : (s.setQuad f).homeOps = s.homeOps := rfl
@[simp] theorem setQuad_covers (f : Quad → Quad) : (s.setQuad f).covers = s.covers := rfl
@[simp] theorem setQuad_replies (f : Quad → Quad) : (s.setQuad f).replies = s.replies := rfl
@[simp] theorem setQuad_copies (f : Quad → Quad) : (s.setQuad f).copies = s.copies := rfl
@[simp] theorem setQuad_casts (f : Quad → Quad) : (s.setQuad f).casts = s.casts := rfl
@[simp] theorem setQuad_rops (f : Quad → Quad) : (s.setQuad f).rops = s.rops := rfl
@[simp] theorem setQuad_invals (f : Quad → Quad) : (s.setQuad f).invals = s.invals := rfl
@[simp] theorem setQuad_endpoints (f : Quad → Quad) : (s.setQuad f).endpoints = s.endpoints := rfl
@[simp] theorem setQuad_ctxs (f : Quad → Quad) : (s.setQuad f).ctxs = s.ctxs := rfl
@[simp] theorem setQuad_exportTable (f : Quad → Quad) : (s.setQuad f).exportTable = s.exportTable := rfl
@[simp] theorem setQuad_sec (f : Quad → Quad) : (s.setQuad f).sec = s.sec := rfl
@[simp] theorem setQuad_front (f : Quad → Quad) : (s.setQuad f).front = s.front := rfl
@[simp] theorem setQuad_att (f : Quad → Quad) : (s.setQuad f).att = s.att := rfl
@[simp] theorem setQuad_gens (f : Quad → Quad) : (s.setQuad f).gens = s.gens := rfl
@[simp] theorem setQuad_pathCpod (f : Quad → Quad) : (s.setQuad f).pathCpod = s.pathCpod := rfl
@[simp] theorem setQuad_gated (f : Quad → Quad) : (s.setQuad f).gated = s.gated := rfl
@[simp] theorem setQuad_groupsDown (f : Quad → Quad) : (s.setQuad f).groupsDown = s.groupsDown := rfl
@[simp] theorem setQuad_frozen (f : Quad → Quad) : (s.setQuad f).frozen = s.frozen := rfl
@[simp] theorem setQuad_traps (f : Quad → Quad) : (s.setQuad f).traps = s.traps := rfl
@[simp] theorem setQuad_slots (f : Quad → Quad) : (s.setQuad f).slots = s.slots := rfl
@[simp] theorem setQuad_cur (f : Quad → Quad) : (s.setQuad f).cur = s.cur := rfl
@[simp] theorem setQuad_agenda (f : Quad → Quad) : (s.setQuad f).agenda = s.agenda := rfl
@[simp] theorem setQuad_scan (f : Quad → Quad) : (s.setQuad f).scan = s.scan := rfl
@[simp] theorem setQuad_nextId (f : Quad → Quad) : (s.setQuad f).nextId = s.nextId := rfl
@[simp] theorem setQuad_fresh (f : Quad → Quad) : (s.setQuad f).fresh = s.fresh := rfl
@[simp] theorem setQuad_lastReply (f : Quad → Quad) : (s.setQuad f).lastReply = s.lastReply := rfl

/-! ## `setRep` -/

@[simp] theorem setRep_time (f : Replica → Replica) : (s.setRep f).time = s.time := rfl
@[simp] theorem setRep_modn (f : Replica → Replica) : (s.setRep f).modn = s.modn := rfl
@[simp] theorem setRep_mem (f : Replica → Replica) : (s.setRep f).mem = s.mem := rfl
@[simp] theorem setRep_blocks (f : Replica → Replica) : (s.setRep f).blocks = s.blocks := rfl
@[simp] theorem setRep_grids (f : Replica → Replica) : (s.setRep f).grids = s.grids := rfl
@[simp] theorem setRep_groups (f : Replica → Replica) : (s.setRep f).groups = s.groups := rfl
@[simp] theorem setRep_homeOps (f : Replica → Replica) : (s.setRep f).homeOps = s.homeOps := rfl
@[simp] theorem setRep_covers (f : Replica → Replica) : (s.setRep f).covers = s.covers := rfl
@[simp] theorem setRep_replies (f : Replica → Replica) : (s.setRep f).replies = s.replies := rfl
@[simp] theorem setRep_copies (f : Replica → Replica) : (s.setRep f).copies = s.copies := rfl
@[simp] theorem setRep_casts (f : Replica → Replica) : (s.setRep f).casts = s.casts := rfl
@[simp] theorem setRep_rops (f : Replica → Replica) : (s.setRep f).rops = s.rops := rfl
@[simp] theorem setRep_invals (f : Replica → Replica) : (s.setRep f).invals = s.invals := rfl
@[simp] theorem setRep_endpoints (f : Replica → Replica) : (s.setRep f).endpoints = s.endpoints := rfl
@[simp] theorem setRep_ctxs (f : Replica → Replica) : (s.setRep f).ctxs = s.ctxs := rfl
@[simp] theorem setRep_exportTable (f : Replica → Replica) : (s.setRep f).exportTable = s.exportTable := rfl
@[simp] theorem setRep_sec (f : Replica → Replica) : (s.setRep f).sec = s.sec := rfl
@[simp] theorem setRep_front (f : Replica → Replica) : (s.setRep f).front = s.front := rfl
@[simp] theorem setRep_att (f : Replica → Replica) : (s.setRep f).att = s.att := rfl
@[simp] theorem setRep_gens (f : Replica → Replica) : (s.setRep f).gens = s.gens := rfl
@[simp] theorem setRep_pathCpod (f : Replica → Replica) : (s.setRep f).pathCpod = s.pathCpod := rfl
@[simp] theorem setRep_gated (f : Replica → Replica) : (s.setRep f).gated = s.gated := rfl
@[simp] theorem setRep_groupsDown (f : Replica → Replica) : (s.setRep f).groupsDown = s.groupsDown := rfl
@[simp] theorem setRep_frozen (f : Replica → Replica) : (s.setRep f).frozen = s.frozen := rfl
@[simp] theorem setRep_traps (f : Replica → Replica) : (s.setRep f).traps = s.traps := rfl
@[simp] theorem setRep_slots (f : Replica → Replica) : (s.setRep f).slots = s.slots := rfl
@[simp] theorem setRep_cur (f : Replica → Replica) : (s.setRep f).cur = s.cur := rfl
@[simp] theorem setRep_agenda (f : Replica → Replica) : (s.setRep f).agenda = s.agenda := rfl
@[simp] theorem setRep_scan (f : Replica → Replica) : (s.setRep f).scan = s.scan := rfl
@[simp] theorem setRep_nextId (f : Replica → Replica) : (s.setRep f).nextId = s.nextId := rfl
@[simp] theorem setRep_fresh (f : Replica → Replica) : (s.setRep f).fresh = s.fresh := rfl
@[simp] theorem setRep_lastReply (f : Replica → Replica) : (s.setRep f).lastReply = s.lastReply := rfl

/-! ## `pushReply` -/

@[simp] theorem pushReply_time (o : Nat) (k y : Bool) (a : Nat) : (s.pushReply o k y a).time = s.time := rfl
@[simp] theorem pushReply_modn (o : Nat) (k y : Bool) (a : Nat) : (s.pushReply o k y a).modn = s.modn := rfl
@[simp] theorem pushReply_mem (o : Nat) (k y : Bool) (a : Nat) : (s.pushReply o k y a).mem = s.mem := rfl
@[simp] theorem pushReply_blocks (o : Nat) (k y : Bool) (a : Nat) : (s.pushReply o k y a).blocks = s.blocks := rfl
@[simp] theorem pushReply_grids (o : Nat) (k y : Bool) (a : Nat) : (s.pushReply o k y a).grids = s.grids := rfl
@[simp] theorem pushReply_groups (o : Nat) (k y : Bool) (a : Nat) : (s.pushReply o k y a).groups = s.groups := rfl
@[simp] theorem pushReply_homeOps (o : Nat) (k y : Bool) (a : Nat) : (s.pushReply o k y a).homeOps = s.homeOps := rfl
@[simp] theorem pushReply_covers (o : Nat) (k y : Bool) (a : Nat) : (s.pushReply o k y a).covers = s.covers := rfl
@[simp] theorem pushReply_copies (o : Nat) (k y : Bool) (a : Nat) : (s.pushReply o k y a).copies = s.copies := rfl
@[simp] theorem pushReply_casts (o : Nat) (k y : Bool) (a : Nat) : (s.pushReply o k y a).casts = s.casts := rfl
@[simp] theorem pushReply_rops (o : Nat) (k y : Bool) (a : Nat) : (s.pushReply o k y a).rops = s.rops := rfl
@[simp] theorem pushReply_invals (o : Nat) (k y : Bool) (a : Nat) : (s.pushReply o k y a).invals = s.invals := rfl
@[simp] theorem pushReply_endpoints (o : Nat) (k y : Bool) (a : Nat) : (s.pushReply o k y a).endpoints = s.endpoints := rfl
@[simp] theorem pushReply_ctxs (o : Nat) (k y : Bool) (a : Nat) : (s.pushReply o k y a).ctxs = s.ctxs := rfl
@[simp] theorem pushReply_exportTable (o : Nat) (k y : Bool) (a : Nat) : (s.pushReply o k y a).exportTable = s.exportTable := rfl
@[simp] theorem pushReply_sec (o : Nat) (k y : Bool) (a : Nat) : (s.pushReply o k y a).sec = s.sec := rfl
@[simp] theorem pushReply_front (o : Nat) (k y : Bool) (a : Nat) : (s.pushReply o k y a).front = s.front := rfl
@[simp] theorem pushReply_att (o : Nat) (k y : Bool) (a : Nat) : (s.pushReply o k y a).att = s.att := rfl
@[simp] theorem pushReply_quad (o : Nat) (k y : Bool) (a : Nat) : (s.pushReply o k y a).quad = s.quad := rfl
@[simp] theorem pushReply_gens (o : Nat) (k y : Bool) (a : Nat) : (s.pushReply o k y a).gens = s.gens := rfl
@[simp] theorem pushReply_pathCpod (o : Nat) (k y : Bool) (a : Nat) : (s.pushReply o k y a).pathCpod = s.pathCpod := rfl
@[simp] theorem pushReply_gated (o : Nat) (k y : Bool) (a : Nat) : (s.pushReply o k y a).gated = s.gated := rfl
@[simp] theorem pushReply_groupsDown (o : Nat) (k y : Bool) (a : Nat) : (s.pushReply o k y a).groupsDown = s.groupsDown := rfl
@[simp] theorem pushReply_frozen (o : Nat) (k y : Bool) (a : Nat) : (s.pushReply o k y a).frozen = s.frozen := rfl
@[simp] theorem pushReply_traps (o : Nat) (k y : Bool) (a : Nat) : (s.pushReply o k y a).traps = s.traps := rfl
@[simp] theorem pushReply_slots (o : Nat) (k y : Bool) (a : Nat) : (s.pushReply o k y a).slots = s.slots := rfl
@[simp] theorem pushReply_cur (o : Nat) (k y : Bool) (a : Nat) : (s.pushReply o k y a).cur = s.cur := rfl
@[simp] theorem pushReply_agenda (o : Nat) (k y : Bool) (a : Nat) : (s.pushReply o k y a).agenda = s.agenda := rfl
@[simp] theorem pushReply_scan (o : Nat) (k y : Bool) (a : Nat) : (s.pushReply o k y a).scan = s.scan := rfl
@[simp] theorem pushReply_fresh (o : Nat) (k y : Bool) (a : Nat) : (s.pushReply o k y a).fresh = s.fresh := rfl
@[simp] theorem pushReply_lastReply (o : Nat) (k y : Bool) (a : Nat) : (s.pushReply o k y a).lastReply = s.lastReply := rfl

/-! ## `updCtx` -/

@[simp] theorem updCtx_time (c : Nat) (f : CtxEnt → CtxEnt) : (s.updCtx c f).time = s.time := rfl
@[simp] theorem updCtx_modn (c : Nat) (f : CtxEnt → CtxEnt) : (s.updCtx c f).modn = s.modn := rfl
@[simp] theorem updCtx_mem (c : Nat) (f : CtxEnt → CtxEnt) : (s.updCtx c f).mem = s.mem := rfl
@[simp] theorem updCtx_blocks (c : Nat) (f : CtxEnt → CtxEnt) : (s.updCtx c f).blocks = s.blocks := rfl
@[simp] theorem updCtx_grids (c : Nat) (f : CtxEnt → CtxEnt) : (s.updCtx c f).grids = s.grids := rfl
@[simp] theorem updCtx_groups (c : Nat) (f : CtxEnt → CtxEnt) : (s.updCtx c f).groups = s.groups := rfl
@[simp] theorem updCtx_homeOps (c : Nat) (f : CtxEnt → CtxEnt) : (s.updCtx c f).homeOps = s.homeOps := rfl
@[simp] theorem updCtx_covers (c : Nat) (f : CtxEnt → CtxEnt) : (s.updCtx c f).covers = s.covers := rfl
@[simp] theorem updCtx_replies (c : Nat) (f : CtxEnt → CtxEnt) : (s.updCtx c f).replies = s.replies := rfl
@[simp] theorem updCtx_copies (c : Nat) (f : CtxEnt → CtxEnt) : (s.updCtx c f).copies = s.copies := rfl
@[simp] theorem updCtx_casts (c : Nat) (f : CtxEnt → CtxEnt) : (s.updCtx c f).casts = s.casts := rfl
@[simp] theorem updCtx_rops (c : Nat) (f : CtxEnt → CtxEnt) : (s.updCtx c f).rops = s.rops := rfl
@[simp] theorem updCtx_invals (c : Nat) (f : CtxEnt → CtxEnt) : (s.updCtx c f).invals = s.invals := rfl
@[simp] theorem updCtx_endpoints (c : Nat) (f : CtxEnt → CtxEnt) : (s.updCtx c f).endpoints = s.endpoints := rfl
@[simp] theorem updCtx_exportTable (c : Nat) (f : CtxEnt → CtxEnt) : (s.updCtx c f).exportTable = s.exportTable := rfl
@[simp] theorem updCtx_sec (c : Nat) (f : CtxEnt → CtxEnt) : (s.updCtx c f).sec = s.sec := rfl
@[simp] theorem updCtx_front (c : Nat) (f : CtxEnt → CtxEnt) : (s.updCtx c f).front = s.front := rfl
@[simp] theorem updCtx_att (c : Nat) (f : CtxEnt → CtxEnt) : (s.updCtx c f).att = s.att := rfl
@[simp] theorem updCtx_quad (c : Nat) (f : CtxEnt → CtxEnt) : (s.updCtx c f).quad = s.quad := rfl
@[simp] theorem updCtx_gens (c : Nat) (f : CtxEnt → CtxEnt) : (s.updCtx c f).gens = s.gens := rfl
@[simp] theorem updCtx_pathCpod (c : Nat) (f : CtxEnt → CtxEnt) : (s.updCtx c f).pathCpod = s.pathCpod := rfl
@[simp] theorem updCtx_gated (c : Nat) (f : CtxEnt → CtxEnt) : (s.updCtx c f).gated = s.gated := rfl
@[simp] theorem updCtx_groupsDown (c : Nat) (f : CtxEnt → CtxEnt) : (s.updCtx c f).groupsDown = s.groupsDown := rfl
@[simp] theorem updCtx_frozen (c : Nat) (f : CtxEnt → CtxEnt) : (s.updCtx c f).frozen = s.frozen := rfl
@[simp] theorem updCtx_traps (c : Nat) (f : CtxEnt → CtxEnt) : (s.updCtx c f).traps = s.traps := rfl
@[simp] theorem updCtx_slots (c : Nat) (f : CtxEnt → CtxEnt) : (s.updCtx c f).slots = s.slots := rfl
@[simp] theorem updCtx_cur (c : Nat) (f : CtxEnt → CtxEnt) : (s.updCtx c f).cur = s.cur := rfl
@[simp] theorem updCtx_agenda (c : Nat) (f : CtxEnt → CtxEnt) : (s.updCtx c f).agenda = s.agenda := rfl
@[simp] theorem updCtx_scan (c : Nat) (f : CtxEnt → CtxEnt) : (s.updCtx c f).scan = s.scan := rfl
@[simp] theorem updCtx_nextId (c : Nat) (f : CtxEnt → CtxEnt) : (s.updCtx c f).nextId = s.nextId := rfl
@[simp] theorem updCtx_fresh (c : Nat) (f : CtxEnt → CtxEnt) : (s.updCtx c f).fresh = s.fresh := rfl
@[simp] theorem updCtx_lastReply (c : Nat) (f : CtxEnt → CtxEnt) : (s.updCtx c f).lastReply = s.lastReply := rfl

/-! ## `stepTime` -/

@[simp] theorem stepTime_modn (t : DWord) : (s.stepTime t).modn = s.modn := rfl
@[simp] theorem stepTime_mem (t : DWord) : (s.stepTime t).mem = s.mem := rfl
@[simp] theorem stepTime_blocks (t : DWord) : (s.stepTime t).blocks = s.blocks := rfl
@[simp] theorem stepTime_grids (t : DWord) : (s.stepTime t).grids = s.grids := rfl
@[simp] theorem stepTime_groups (t : DWord) : (s.stepTime t).groups = s.groups := rfl
@[simp] theorem stepTime_homeOps (t : DWord) : (s.stepTime t).homeOps = s.homeOps := rfl
@[simp] theorem stepTime_covers (t : DWord) : (s.stepTime t).covers = s.covers := rfl
@[simp] theorem stepTime_replies (t : DWord) : (s.stepTime t).replies = s.replies := rfl
@[simp] theorem stepTime_copies (t : DWord) : (s.stepTime t).copies = s.copies := rfl
@[simp] theorem stepTime_casts (t : DWord) : (s.stepTime t).casts = s.casts := rfl
@[simp] theorem stepTime_rops (t : DWord) : (s.stepTime t).rops = s.rops := rfl
@[simp] theorem stepTime_invals (t : DWord) : (s.stepTime t).invals = s.invals := rfl
@[simp] theorem stepTime_endpoints (t : DWord) : (s.stepTime t).endpoints = s.endpoints := rfl
@[simp] theorem stepTime_ctxs (t : DWord) : (s.stepTime t).ctxs = s.ctxs := rfl
@[simp] theorem stepTime_exportTable (t : DWord) : (s.stepTime t).exportTable = s.exportTable := rfl
@[simp] theorem stepTime_front (t : DWord) : (s.stepTime t).front = s.front := rfl
@[simp] theorem stepTime_att (t : DWord) : (s.stepTime t).att = s.att := rfl
@[simp] theorem stepTime_quad (t : DWord) : (s.stepTime t).quad = s.quad := rfl
@[simp] theorem stepTime_gens (t : DWord) : (s.stepTime t).gens = s.gens := rfl
@[simp] theorem stepTime_pathCpod (t : DWord) : (s.stepTime t).pathCpod = s.pathCpod := rfl
@[simp] theorem stepTime_gated (t : DWord) : (s.stepTime t).gated = s.gated := rfl
@[simp] theorem stepTime_groupsDown (t : DWord) : (s.stepTime t).groupsDown = s.groupsDown := rfl
@[simp] theorem stepTime_frozen (t : DWord) : (s.stepTime t).frozen = s.frozen := rfl
@[simp] theorem stepTime_traps (t : DWord) : (s.stepTime t).traps = s.traps := rfl
@[simp] theorem stepTime_slots (t : DWord) : (s.stepTime t).slots = s.slots := rfl
@[simp] theorem stepTime_cur (t : DWord) : (s.stepTime t).cur = s.cur := rfl
@[simp] theorem stepTime_agenda (t : DWord) : (s.stepTime t).agenda = s.agenda := rfl
@[simp] theorem stepTime_scan (t : DWord) : (s.stepTime t).scan = s.scan := rfl
@[simp] theorem stepTime_nextId (t : DWord) : (s.stepTime t).nextId = s.nextId := rfl
@[simp] theorem stepTime_fresh (t : DWord) : (s.stepTime t).fresh = s.fresh := rfl
@[simp] theorem stepTime_lastReply (t : DWord) : (s.stepTime t).lastReply = s.lastReply := rfl

/-! ## Fields that an update changes -/

@[simp] theorem setAtt_att (f : Attach → Attach) : (s.setAtt f).att = f s.att := rfl
@[simp] theorem setSec_sec (f : Security → Security) : (s.setSec f).sec = f s.sec := rfl
@[simp] theorem setQuad_quad (f : Quad → Quad) : (s.setQuad f).quad = f s.quad := rfl
@[simp] theorem setRep_quad (f : Replica → Replica) : (s.setRep f).quad = { s.quad with rep := f s.quad.rep } := rfl
@[simp] theorem takeTrap_traps (r : Ref) (v : TrapV) : (s.takeTrap r v).traps = s.traps + 1 := rfl
@[simp] theorem pushReply_nextId (o : Nat) (k y : Bool) (a : Nat) : (s.pushReply o k y a).nextId = s.nextId + 1 := rfl
@[simp] theorem updCtx_ctxs (c : Nat) (f : CtxEnt → CtxEnt) : (s.updCtx c f).ctxs = updAt s.ctxs c f := rfl
@[simp] theorem stepTime_time (t : DWord) : (s.stepTime t).time = t := rfl
@[simp] theorem stepTime_sec (t : DWord) :
    (s.stepTime t).sec = { s.sec with lastBeat := s.sec.lastBeat + (t - s.time) } := rfl
@[simp] theorem newId_fst : s.newId.1 = s.nextId := rfl
@[simp] theorem newId_snd : s.newId.2 = { s with nextId := s.nextId + 1 } := rfl

/-! ## Finding after an update -/

theorem find_updIf {α : Type} (p q : α → Bool) (f : α → α) (l : List α) (h : ∀ x, q (f x) = q x) :
    (updIf p f l).find? q = (l.find? q).map (fun x => if p x then f x else x) := by
  induction l with
  | nil => rfl
  | cons x r ih =>
    have hx : q (if p x then f x else x) = q x := by split <;> simp [h]
    have e : updIf p f (x :: r) = (if p x then f x else x) :: updIf p f r := rfl
    rw [e]
    by_cases hq : q x = true
    · rw [List.find?_cons_of_pos (by rw [hx]; exact hq), List.find?_cons_of_pos hq]; rfl
    · rw [List.find?_cons_of_neg (by rw [hx]; exact hq), List.find?_cons_of_neg hq, ih]

theorem length_updIf {α : Type} (p : α → Bool) (f : α → α) (l : List α) : (updIf p f l).length = l.length := by
  simp [updIf]

/-- The same block after an update that keeps the names of blocks. -/
theorem block?_updBlock_same (l t : Nat) (f : Block → Block) (hl : ∀ b, (f b).lsq = b.lsq) (ht : ∀ b, (f b).tkt = b.tkt) :
    (s.updBlock l t f).block? l t = (s.block? l t).map f := by
  have e : (s.updBlock l t f).block? l t = _ :=
    find_updIf (fun b : Block => b.lsq == l && b.tkt == t) (fun b : Block => b.lsq == l && b.tkt == t) f s.blocks
      (fun b => by rw [hl, ht])
  rw [e]
  cases h : s.blocks.find? (fun b => b.lsq == l && b.tkt == t) with
  | none => simp [State.block?, h]
  | some b =>
    have hb := List.find?_some h
    simp only [State.block?, h, Option.map_some]
    rw [if_pos hb]

/-- Another block after an update that keeps the names of blocks. -/
theorem block?_updBlock_other (l t l' t' : Nat) (f : Block → Block) (hl : ∀ b, (f b).lsq = b.lsq)
    (ht : ∀ b, (f b).tkt = b.tkt) (hne : (l', t') ≠ (l, t)) : (s.updBlock l t f).block? l' t' = s.block? l' t' := by
  have e : (s.updBlock l t f).block? l' t' = _ :=
    find_updIf (fun b : Block => b.lsq == l && b.tkt == t) (fun b : Block => b.lsq == l' && b.tkt == t') f s.blocks
      (fun b => by rw [hl, ht])
  rw [e]
  cases h : s.blocks.find? (fun b => b.lsq == l' && b.tkt == t') with
  | none => simp [State.block?, h]
  | some b =>
    have hb := List.find?_some h
    simp only [Bool.and_eq_true, beq_iff_eq] at hb
    have : ¬ (b.lsq = l ∧ b.tkt = t) := fun hh => hne (by rw [← hb.1, ← hb.2, hh.1, hh.2])
    simp [State.block?, h, this]

theorem grid?_updBlock (l t l' : Nat) (f : Block → Block) : (s.updBlock l t f).grid? l' = s.grid? l' := rfl

@[simp] theorem grid?_updRef (r : Ref) (f : Warp → Warp) (l : Nat) : (s.updRef r f).grid? l = s.grid? l := rfl

@[simp] theorem Block.updWarp_lsq (b : Block) (i : Nat) (f : Warp → Warp) : (b.updWarp i f).lsq = b.lsq := rfl
@[simp] theorem Block.updWarp_tkt (b : Block) (i : Nat) (f : Warp → Warp) : (b.updWarp i f).tkt = b.tkt := rfl

@[simp] theorem Block.updRef_lsq (b : Block) (r : Ref) (f : Warp → Warp) : (b.updRef r f).lsq = b.lsq := by
  unfold Block.updRef; split <;> rfl
@[simp] theorem Block.updRef_tkt (b : Block) (r : Ref) (f : Warp → Warp) : (b.updRef r f).tkt = b.tkt := by
  unfold Block.updRef; split <;> rfl

/-- The warp a reference names, after an update of it that keeps the warp's index. -/
theorem Block.refWarp?_updRef (b : Block) (r : Ref) (f : Warp → Warp) (h : ∀ w, (f w).idx = w.idx) :
    (b.updRef r f).refWarp? r = (b.refWarp? r).map f := by
  unfold Block.updRef Block.refWarp?
  by_cases hh : r.handler = true
  · simp only [hh, if_true]
    cases b.handler <;> rfl
  · simp only [hh]
    unfold Block.updWarp Block.warp?
    have e := find_updIf (fun w : Warp => w.idx == r.wrp) (fun w : Warp => w.idx == r.wrp) f b.warps (fun w => by rw [h])
    simp only [Bool.false_eq_true, if_false]
    rw [e]
    cases h2 : b.warps.find? (fun w => w.idx == r.wrp) with
    | none => rfl
    | some w =>
      have hw := List.find?_some h2
      simp only [Option.map_some]
      rw [if_pos hw]

/-- The warp that a reference names, after an update of it. -/
theorem warpAt_updRef (r : Ref) (f : Warp → Warp) (h : ∀ w, (f w).idx = w.idx) :
    (s.updRef r f).warpAt r = (s.warpAt r).map f := by
  unfold State.warpAt State.updRef
  rw [block?_updBlock_same s r.lsq r.tkt (fun b => b.updRef r f) (fun b => Block.updRef_lsq b r f)
    (fun b => Block.updRef_tkt b r f)]
  cases s.block? r.lsq r.tkt with
  | none => rfl
  | some b => exact Block.refWarp?_updRef b r f h

end Sys2Proof.Machine
end

