-- ==== Sys2Proof/Laws/Keeps.lean ====
section
/-! SUPPORT. The shared operations that change memory keep its canonical form, and a fold of steps that keep it keeps it. -/

namespace Sys2Proof.Machine

/-- The canonical form depends on memory alone. -/
theorem State.memInv_of_mem {s t : State} (h : s.MemInv) (e : t.mem = s.mem) : t.MemInv := by
  unfold State.MemInv; rw [e]; exact h

/-- A fold keeps the canonical form when every step of it does. -/
theorem State.memInv_foldl {α : Type} (f : State → α → State) (hf : ∀ s a, s.MemInv → (f s a).MemInv) (l : List α) :
    ∀ s : State, s.MemInv → (l.foldl f s).MemInv := by
  induction l with
  | nil => exact fun s h => h
  | cons a r ih => exact fun s h => ih _ (hf s a h)

/-- The pending bit of a store to a notify word is no part of memory. -/
@[simp] theorem State.notify_mem (s : State) (pa len : Nat) : (s.notify pa len).mem = s.mem := by
  unfold State.notify
  split
  · rfl
  · split <;> rfl

/-- The note of an access to host memory is no part of memory. -/
@[simp] theorem State.noteSys_mem (s : State) (sys : Bool) (pa : Nat) : (s.noteSys sys pa).mem = s.mem := by
  unfold State.noteSys
  split <;> rfl

/-- A change of the error log alone. -/
def State.LogOnly (s t : State) : Prop := ∃ a, t = { s with att := a }

theorem State.LogOnly.refl (s : State) : s.LogOnly s := ⟨s.att, rfl⟩

theorem State.LogOnly.trans {s t u : State} (h : s.LogOnly t) (k : t.LogOnly u) : s.LogOnly u := by
  obtain ⟨a, rfl⟩ := h
  obtain ⟨b, rfl⟩ := k
  exact ⟨b, rfl⟩

theorem State.LogOnly.mem {s t : State} (h : s.LogOnly t) : t.mem = s.mem := by obtain ⟨a, rfl⟩ := h; rfl
theorem State.LogOnly.blocks {s t : State} (h : s.LogOnly t) : t.blocks = s.blocks := by obtain ⟨a, rfl⟩ := h; rfl
theorem State.LogOnly.ctxs {s t : State} (h : s.LogOnly t) : t.ctxs = s.ctxs := by obtain ⟨a, rfl⟩ := h; rfl

/-- A fold of changes of the error log. -/
theorem State.logOnly_foldl {α : Type} (f : State → α → State) (hf : ∀ (s : State) (a : α), s.LogOnly (f s a)) (l : List α) :
    ∀ s : State, s.LogOnly (l.foldl f s) := by
  induction l with
  | nil => exact State.LogOnly.refl
  | cons a r ih => exact fun s => (hf s a).trans (ih _)

/-- Consuming poison changes the error log alone (22_attach.md:R381). -/
theorem State.consumeSector_log (s : State) (ctx : Nat) (sys : Bool) (k : Nat) : s.LogOnly (s.consumeSector ctx sys k) := by
  unfold State.consumeSector
  split
  · exact .refl s
  · simp only
    split
    · exact ⟨_, rfl⟩
    · split
      · exact ⟨_, rfl⟩
      · exact .refl s

theorem State.consume_log (s : State) (ctx : Nat) (ps : List (Xlat × Nat)) : s.LogOnly (s.consume ctx ps) :=
  State.logOnly_foldl _ (fun s _ => State.logOnly_foldl _ (fun s _ => State.consumeSector_log s ..) _ s) _ s

/-- A walk changes the error log alone. -/
theorem State.consumeWalk_log (s : State) (ctx va : Nat) : s.LogOnly (s.consumeWalk ctx va) := by
  unfold State.consumeWalk
  simp only
  split
  · split
    · exact State.consumeSector_log ..
    · exact .refl s
  · exact .refl s

theorem State.consumeWalks_log (s : State) (ctx va len : Nat) : s.LogOnly (s.consumeWalks ctx va len) :=
  State.logOnly_foldl _ (fun s _ => State.consumeWalk_log s ..) _ s

theorem State.consumeFrame_log (s : State) (b : Block) (g : Grid) (acc : Acc) : s.LogOnly (s.consumeFrame b g acc) := by
  unfold State.consumeFrame
  refine State.logOnly_foldl _ (fun s k => ?_) _ s
  exact (State.consumeWalk_log s ..).trans (State.consume_log _ ..)

/-- A change of the error log keeps the canonical form. -/
theorem State.LogOnly.memInv {s t : State} (h : s.LogOnly t) (k : s.MemInv) : t.MemInv := State.memInv_of_mem k h.mem

/-- The service cores' read of host memory keeps the canonical form. -/
theorem State.deviceRead_mem (s : State) (pa : Nat) : (s.deviceRead pa).mem = s.mem :=
  (State.logOnly_foldl _ (fun s _ => State.consumeSector_log s ..) _ _).mem.trans (State.noteSys_mem ..)

/-- A piece of a word's stores that is done keeps the canonical form and every byte. -/
theorem State.coverDone_memInv {s : State} (h : HomeOp) (k : s.MemInv) : (s.coverDone h).MemInv := Memory.wf_clean _ _ _ k

@[simp] theorem State.coverDone_byte (s : State) (h : HomeOp) (sys : Bool) (a : Nat) :
    (s.coverDone h).mem.byte sys a = s.mem.byte sys a := Memory.byte_clean ..

/-- What a store at its home leaves in memory, L1 copies and the host's copies apart. -/
theorem State.homeStore_mem (s : State) (core : Option Nat) (sys : Bool) (pa : Nat) (data : List Byte) (mark : Bool) :
    ∃ l k, (s.homeStore core sys pa data mark).mem = { s.mem.write sys pa data mark with l1 := l, hostLines := k } := by
  unfold State.homeStore
  cases sys
  · cases core <;> exact ⟨_, _, State.notify_mem _ _ _⟩
  · cases core <;> exact ⟨_, _, State.noteSys_mem _ _ _⟩

/-- Every byte after a store at its home (10_ordering.md:R213). -/
theorem State.byte_homeStore (s : State) (core : Option Nat) (sys : Bool) (pa : Nat) (data : List Byte) (mark sys' : Bool) (a : Nat) :
    (s.homeStore core sys pa data mark).mem.byte sys' a = (s.mem.write sys pa data mark).byte sys' a := by
  obtain ⟨l, k, h⟩ := s.homeStore_mem core sys pa data mark
  rw [h]; rfl

/-- A store at its home keeps the canonical form. -/
theorem State.homeStore_memInv {s : State} (core : Option Nat) (sys : Bool) (pa : Nat) (data : List Byte) (mark : Bool)
    (h : s.MemInv) : (s.homeStore core sys pa data mark).MemInv := by
  obtain ⟨l, k, e⟩ := s.homeStore_mem core sys pa data mark
  unfold State.MemInv
  rw [e]
  exact Memory.wf_of_eq (Memory.wf_write sys pa data mark h) rfl rfl rfl rfl rfl rfl

/-- A store at a virtual address keeps the canonical form. -/
theorem State.homeStoreVa_memInv {s : State} (core : Option Nat) (ctx va : Nat) (data : List Byte) (mark : Bool) (h : s.MemInv) :
    (s.homeStoreVa core ctx va data mark).MemInv := by
  unfold State.homeStoreVa
  have key : ∀ (l : List (Xlat × Nat)) (a : State × List Byte), a.1.MemInv →
      (l.foldl (fun (a : State × List Byte) p =>
        (a.1.homeStore core p.1.sys p.1.pa (a.2.take p.2) mark, a.2.drop p.2)) a).1.MemInv := by
    intro l
    induction l with
    | nil => exact fun a h => h
    | cons p r ih => exact fun a h => ih _ (State.homeStore_memInv _ _ _ _ _ h)
  exact key _ _ h

/-- The install of a translation keeps the canonical form. -/
theorem State.fillTlb_memInv {s : State} (ctx va : Nat) (h : s.MemInv) : (s.fillTlb ctx va).MemInv := by
  unfold State.fillTlb
  split
  · exact h
  · split
    · exact h
    · exact Memory.wf_of_eq h rfl rfl rfl rfl rfl rfl

/-- The installs of a range keep the canonical form. -/
theorem State.fillRange_memInv {s : State} (ctx va len : Nat) (h : s.MemInv) : (s.fillRange ctx va len).MemInv :=
  State.memInv_foldl _ (fun _ _ => State.fillTlb_memInv _ _) _ _ h

/-- The fill of a copy keeps the canonical form. -/
theorem State.fillLine_memInv {s : State} (core ctx : Nat) (x : Xlat) (h : s.MemInv) : (s.fillLine core ctx x).MemInv := by
  unfold State.fillLine
  simp only
  split
  · exact Memory.wf_of_eq h rfl rfl rfl rfl rfl rfl
  · exact Memory.wf_lmax _ _ _ h

/-- An invalidation keeps the canonical form. -/
theorem State.dropFor_memInv {s : State} (ctx va units : Nat) (h : s.MemInv) : (s.dropFor ctx va units).MemInv := by
  unfold State.dropFor State.dropRange
  split <;> exact Memory.wf_of_eq h rfl rfl rfl rfl rfl rfl

/-- An event posted to a context keeps the canonical form. -/
theorem State.postEvent_memInv {s : State} (ctx typ code : Nat) (adr aux : DWord) (lsq tkt wrp mdl : Nat) (h : s.MemInv) :
    (s.postEvent ctx typ code adr aux lsq tkt wrp mdl).MemInv := by
  unfold State.postEvent
  simp only
  split
  · exact h
  · split
    · refine State.memInv_of_mem (s := s) h ?_
      show (if _ then s.consumeWalk _ _ else s).mem = _
      split
      · exact (State.consumeWalk_log ..).mem
      · rfl
    · split
      · exact h
      · exact State.homeStore_memInv _ _ _ _ _ h

/-- A completion store keeps the canonical form. -/
theorem State.completionStore_memInv {s : State} (ctx : Nat) (cwa : Option DWord) (v : DWord) (lsq aux : Nat) (h : s.MemInv) :
    (s.completionStore ctx cwa v lsq aux).MemInv := by
  unfold State.completionStore
  split
  · exact h
  · split
    · exact h
    · split
      · exact State.postEvent_memInv _ _ _ _ _ _ _ _ _ ((State.consumeWalk_log ..).memInv h)
      · exact State.homeStore_memInv _ _ _ _ _ (State.fillTlb_memInv _ _ h)

/-- The completion of a command keeps the canonical form. -/
theorem State.complete_memInv {s : State} (status result : Nat) (h : s.MemInv) : (s.complete status result).MemInv := by
  unfold State.complete
  split
  · exact h
  · simp only
    split
    · exact State.homeStore_memInv _ _ _ _ _ h
    · exact h

/-- A kill changes no byte but those of its event. -/
@[simp] theorem State.killGrid_mem (s : State) (lsq code : Nat) : (s.killGrid lsq code).mem = s.mem := rfl

/-- A kill keeps the canonical form. -/
theorem State.killBlockFor_memInv {s : State} (lsq tkt wrp code : Nat) (wp : Option Warp) (h : s.MemInv) :
    (s.killBlockFor lsq tkt wrp code wp).MemInv := by
  unfold State.killBlockFor
  split
  · exact h
  · split
    · exact h
    · exact State.postEvent_memInv _ _ _ _ _ _ _ _ _ h

end Sys2Proof.Machine
end

