-- ==== Sys2Proof/Laws/Blocks.lean ====
section
/-! SUPPORT. Stores leave which blocks there are as it was, a save whose frame can be written leaves its block saved, and
any other, like a kill, leaves it killed. -/

namespace Sys2Proof.Machine

/-- The blocks of a state by their numbers. -/
def State.blockIds (s : State) : List (Nat × Nat) := s.blocks.map (fun b => (b.lsq, b.tkt))

@[simp] theorem State.notify_blocks (s : State) (pa len : Nat) : (s.notify pa len).blocks = s.blocks := by
  unfold State.notify
  split
  · rfl
  · split <;> rfl

@[simp] theorem State.noteSys_blocks (s : State) (sys : Bool) (pa : Nat) : (s.noteSys sys pa).blocks = s.blocks := by
  unfold State.noteSys
  split <;> rfl

@[simp] theorem State.mapWarps_blockIds (s : State) (f : Warp → Warp) : (s.mapWarps f).blockIds = s.blockIds := by
  simp [State.blockIds, State.mapWarps]

@[simp] theorem State.homeStore_blockIds (s : State) (core : Option Nat) (sys : Bool) (pa : Nat) (data : List Byte) (mark : Bool) :
    (s.homeStore core sys pa data mark).blockIds = s.blockIds := by
  have key : ∀ (m : Memory) (c : List Cover),
      (({ s with mem := m, covers := c } : State).mapWarps (Warp.wake m sys pa data.length)).blockIds = s.blockIds :=
    fun m c => State.mapWarps_blockIds _ _
  unfold State.homeStore
  cases sys
  · simpa [State.blockIds] using key _ _
  · simpa [State.blockIds] using key _ _

@[simp] theorem State.homeStoreVa_blockIds (s : State) (core : Option Nat) (ctx va : Nat) (data : List Byte) (mark : Bool) :
    (s.homeStoreVa core ctx va data mark).blockIds = s.blockIds := by
  unfold State.homeStoreVa
  have key : ∀ (l : List (Xlat × Nat)) (a : State × List Byte), (l.foldl (fun (a : State × List Byte) p =>
      (a.1.homeStore core p.1.sys p.1.pa (a.2.take p.2) mark, a.2.drop p.2)) a).1.blockIds = a.1.blockIds := by
    intro l
    induction l with
    | nil => exact fun _ => rfl
    | cons p r ih => exact fun a => (ih _).trans (State.homeStore_blockIds ..)
  exact key _ _

/-- A state holds a block of given numbers just where they are among its blocks' numbers. -/
theorem State.block?_isSome (s : State) (lsq tkt : Nat) : (s.block? lsq tkt).isSome = s.blockIds.any (fun x => x.1 == lsq && x.2 == tkt) := by
  unfold State.block? State.blockIds
  induction s.blocks with
  | nil => rfl
  | cons a r ih =>
    rw [List.map_cons, List.any_cons, List.find?_cons, ← ih]
    cases (a.lsq == lsq && a.tkt == tkt) <;> rfl

/-- The update of a block is found under its numbers. -/
theorem State.updBlock_found {s : State} {lsq tkt : Nat} (f : Block → Block) (hf : ∀ b, (f b).lsq = b.lsq ∧ (f b).tkt = b.tkt)
    (h : (s.block? lsq tkt).isSome = true) : ∃ b, (s.updBlock lsq tkt f).block? lsq tkt = some (f b) := by
  unfold State.block? State.updBlock updIf at *
  induction hl : s.blocks generalizing s with
  | nil => rw [hl] at h; cases h
  | cons a r ih =>
    rw [hl, List.find?_cons] at h
    rw [List.map_cons, List.find?_cons]
    cases ha : (a.lsq == lsq && a.tkt == tkt)
    · rw [ha] at h
      simp only [Bool.false_eq_true, if_false, ha]
      exact ih (s := { s with blocks := r }) h rfl
    · exact ⟨a, by simp only [if_true, (hf a).1, (hf a).2, ha]⟩

/-- After a kill every block of the grid is killed (18_recovery.md:R321). -/
theorem State.killGrid_killed (s : State) (lsq tkt code : Nat) {b : Block} (h : (s.killGrid lsq code).block? lsq tkt = some b) :
    b.res = .killed := by
  have hb := List.mem_of_find?_eq_some h
  have hq := List.find?_some h
  simp only [Bool.and_eq_true, beq_iff_eq] at hq
  obtain ⟨c, -, rfl⟩ := List.mem_map.1 hb
  split
  · rfl
  next hc =>
    rw [if_neg hc] at hq
    simpa [hq.1] using hc

theorem State.killBlock_killed (s : State) (lsq tkt wrp code : Nat) {b : Block}
    (h : (s.killBlock lsq tkt wrp code).block? lsq tkt = some b) : b.res = .killed := by
  unfold State.killBlock State.killBlockFor at h
  split at h
  next h0 => rw [h0] at h; cases h
  next c hc =>
    split at h
    next hk => rw [hc] at h; cases h; exact hk
    next => exact State.killGrid_killed _ _ _ _ h

/-- A block whose frame cannot be written is killed (18_recovery.md:R327, step 5). -/
theorem State.saveBlock_killed {s : State} {b x : Block} {g : Grid}
    (h : s.frameFault b g.rec_.ctx (s.frameBase g.rec_.ctx b.frame) (b.frameImage g s.fresh) = true)
    (hx : (s.saveBlock b g).block? b.lsq b.tkt = some x) : x.res = .killed := by
  unfold State.saveBlock at hx
  simp only [h, if_true] at hx
  exact State.killBlock_killed _ _ _ _ _ hx

/-- A block whose frame can be written is left saved (18_recovery.md:R327, step 5). -/
theorem State.saveBlock_saved {s : State} {b : Block} {g : Grid} (hb : (s.block? b.lsq b.tkt).isSome = true)
    (h : s.frameFault b g.rec_.ctx (s.frameBase g.rec_.ctx b.frame) (b.frameImage g s.fresh) = false) :
    ∃ x, (s.saveBlock b g).block? b.lsq b.tkt = some x ∧ x.res = .saved := by
  have key : ∀ (base : Nat) (l : List (Nat × List Byte × Bool)) (t : State),
      (l.foldl (fun s x => s.homeStoreVa none g.rec_.ctx (base + x.1) x.2.1 x.2.2) t).blockIds = t.blockIds := by
    intro base l
    induction l with
    | nil => exact fun _ => rfl
    | cons p r ih => exact fun t => (ih _).trans (State.homeStoreVa_blockIds ..)
  unfold State.saveBlock
  simp only [h, Bool.false_eq_true, if_false]
  have found := fun s' : State => State.updBlock_found (s := s') (lsq := b.lsq) (tkt := b.tkt) (fun b : Block =>
    { (b.mapPaths Path.saved) with res := .saved, saving := false, frameTag := s.fresh }) (fun _ => ⟨rfl, rfl⟩)
  refine (found _ ?_).elim fun x hx => ⟨_, hx, rfl⟩
  rw [State.block?_isSome] at hb ⊢
  have c : ∀ (t : State) (l : List CtxEnt), ({ t with ctxs := l } : State).blockIds = t.blockIds := fun _ _ => rfl
  rw [c, key]
  exact hb

end Sys2Proof.Machine
end

