-- ==== Sys2Proof/Laws/Config.lean ====
section
/-! SUPPORT. What holds of the constants whatever their values are. -/

namespace Sys2Proof

/-- Taking out one spare after another leaves one core fewer each time. -/
theorem spares_length (die : Nat) : ∀ (ks l : List Nat), ks.length ≤ l.length →
    (ks.foldl (fun l k => l.eraseIdx (Config.spare die k % l.length)) l).length = l.length - ks.length := by
  intro ks
  induction ks with
  | nil => exact fun l _ => rfl
  | cons k ks ih =>
    intro l h
    rw [List.length_cons] at h
    have hl : 0 < l.length := by omega
    have he : (l.eraseIdx (Config.spare die k % l.length)).length = l.length - 1 :=
      List.length_eraseIdx_of_lt (Nat.mod_lt _ hl)
    rw [List.foldl_cons, ih _ (by omega), he, List.length_cons]
    omega

/-- Taking out spares adds no core and keeps the order. -/
theorem spares_sublist (die : Nat) (ks : List Nat) : ∀ l : List Nat,
    (ks.foldl (fun l k => l.eraseIdx (Config.spare die k % l.length)) l).Sublist l := by
  induction ks with
  | nil => exact fun l => List.Sublist.refl l
  | cons k ks ih => exact fun l => (ih _).trans (List.eraseIdx_sublist ..)

/-- 01_device.md:R9: exactly 72 of the 80 physical cores of a compute die are enabled. -/
theorem enabled_cores (die : Nat) :
    (Config.enabled die).length = 72 ∧ (Config.enabled die).Nodup ∧ ∀ p ∈ Config.enabled die, p < 80 := by
  have h := spares_sublist die (List.range 8) (List.range 80)
  refine ⟨?_, h.nodup List.nodup_range, fun p hp => List.mem_range.1 (h.subset hp)⟩
  rw [Config.enabled, spares_length die _ _ (by simp)]
  simp

end Sys2Proof
end

