-- ==== Sys2Proof/Laws/Encoding.lean ====
section
/-! SUPPORT. What the encoder writes reads back field by field: operand codes, guards, opcodes and the W-form layout
(03_encoding.md:R68, R72, R74). -/

namespace Sys2Proof

/-- Each operation's opcode reads back. -/
theorem Op.ofOpc_opc (op : Op) : Op.ofOpc op.opc = some op := by cases op <;> rfl

/-- Each selector's code reads back. -/
theorem Sel.ofCode_code (c : Sel) : Sel.ofCode c.code = some c := by cases c <;> rfl

/-- A code in the range of the `s` registers. -/
theorem Opnd.ofCode_s (c : Nat) (h1 : ¬ c < 384) (h : c - 384 < 192) : Opnd.ofCode c = some (.s ⟨c - 384, h⟩) := by
  unfold Opnd.ofCode; rw [dif_neg h1, dif_pos h]

/-- A code in the range of the predicates. -/
theorem Opnd.ofCode_p (c : Nat) (h1 : ¬ c < 384) (h2 : ¬ c - 384 < 192) (h : c - 576 < 96) : Opnd.ofCode c = some (.p ⟨c - 576, h⟩) := by
  unfold Opnd.ofCode; rw [dif_neg h1, dif_neg h2, dif_pos h]

/-- A code in the range of the named resources. -/
theorem Opnd.ofCode_res (c : Nat) (h1 : ¬ c < 384) (h2 : ¬ c - 384 < 192) (h3 : ¬ c - 576 < 96) (h : c - 672 < 64) :
    Opnd.ofCode c = some (.res ⟨c - 672, h⟩) := by
  unfold Opnd.ofCode; rw [dif_neg h1, dif_neg h2, dif_neg h3, dif_pos h]

/-- A code in the range of the `v` registers. -/
theorem Opnd.ofCode_v (c : Nat) (h : c < 384) : Opnd.ofCode c = some (.v ⟨c, h⟩) := by
  unfold Opnd.ofCode; rw [dif_pos h]

/-- Each operand's code reads back (03_encoding.md:R74). -/
theorem Opnd.ofCode_code (o : Opnd) : Opnd.ofCode o.code = some o := by
  cases o with
  | none => rfl
  | sel c => cases c <;> rfl
  | v n => exact Opnd.ofCode_v n.val n.isLt
  | s n =>
    have := n.isLt
    have e : (384 + n.val) - 384 = n.val := by omega
    have h := Opnd.ofCode_s (384 + n.val) (by omega) (by omega)
    simp only [e] at h
    exact h
  | p n =>
    have := n.isLt
    have e : (576 + n.val) - 576 = n.val := by omega
    have h := Opnd.ofCode_p (576 + n.val) (by omega) (by omega) (by omega)
    simp only [e] at h
    exact h
  | res n =>
    have := n.isLt
    have e : (672 + n.val) - 672 = n.val := by omega
    have h := Opnd.ofCode_res (672 + n.val) (by omega) (by omega) (by omega) (by omega)
    simp only [e] at h
    exact h

/-- Each cache hint's code reads back. -/
theorem Hint.ofCode_code (c : Hint) : Hint.ofCode c.code = c := by cases c <;> rfl

/-- Each guard predicate's field reads back (03_encoding.md:R72). -/
theorem gpOf_code (g : GP) : gpOf g.code = some g := by
  obtain ⟨n, p⟩ := g
  have := p.isLt
  cases n
  · have h : p.val % 128 = p.val := by omega
    have h2 : p.val / 128 = 0 := by omega
    simp [GP.code, gpOf, h, h2]
  · have h : (128 + p.val) % 128 = p.val := by omega
    have h2 : (p.val / 128 + 1) % 2 = 1 := by omega
    simp [GP.code, gpOf, h, h2]

/-- No guard predicate has the field of an absent one. -/
theorem GP.code_ne (g : GP) : g.code ≠ 127 := by
  obtain ⟨n, p⟩ := g
  have := p.isLt
  unfold GP.code; split <;> simp <;> omega

/-- Each guard's fields read back (03_encoding.md:R72). -/
theorem Guard.ofFields_fields (g : Guard) : Guard.ofFields g.fields.1 g.fields.2.1 g.fields.2.2 = some g := by
  cases g <;> simp [Guard.fields, Guard.ofFields, gpOf_code, GP.code_ne]

/-- A W-form instruction is its operation with its word. -/
theorem Instr.ofOp_form {i : Instr} {op : Op} {w : W} (h : i.form = .w op w) : Instr.ofOp op w = i := by
  cases i <;> simp only [Instr.form, Form.w.injEq, reduceCtorEq] at h <;> obtain ⟨rfl, rfl⟩ := h <;> rfl

/-- Operand codes have ten bits. -/
theorem Opnd.code_lt (o : Opnd) : o.code < 1024 := by
  cases o <;> simp only [Opnd.code] <;> (try omega)
  case sel c => cases c <;> decide

/-- The bounds of a guard's fields. -/
theorem Guard.fields_lt (g : Guard) : g.fields.1 < 256 ∧ g.fields.2.1 < 256 ∧ g.fields.2.2 < 2 := by
  have h : ∀ x : GP, x.code < 256 := by
    intro x; unfold GP.code; have := x.p.isLt; split <;> omega
  cases g <;> simp [Guard.fields, h]

/-- Opcodes have ten bits. -/
theorem Op.opc_lt (op : Op) : op.opc < 1024 := by cases op <;> decide

/-- Cache hints have two bits. -/
theorem Hint.code_lt (c : Hint) : c.code < 4 := by cases c <;> decide

/-- The fields of a W-form word as the decoder reads them from its number (03_encoding.md:R68). -/
structure WordFields (n o m d a b c e g0 g1 gop ch nf sat cs im : Nat) : Prop where
  bit0 : n % 2 = 0
  opc : fld n 1 10 = o
  mod : fld n 11 5 = m
  d : fld n 16 10 = d
  a : fld n 26 10 = a
  b : fld n 36 10 = b
  c : fld n 46 10 = c
  e : fld n 56 10 = e
  g0 : fld n 66 8 = g0
  g1 : fld n 74 8 = g1
  gop : fld n 82 1 = gop
  ch : fld n 83 2 = ch
  nf : fld n 85 1 = nf
  sat : fld n 86 1 = sat
  cs : fld n 87 1 = cs
  im : fld n 88 32 = im
  top : fld n 120 8 = 0
  lt : n < 2 ^ 128

/-- A sum of bounded fields at their places reads back field by field. -/
theorem wordFields_sum (o m d a b c e g0 g1 gop ch nf sat cs im : Nat) (ho : o < 1024) (hm : m < 32) (hd : d < 1024) (ha : a < 1024)
  (hb : b < 1024) (hc : c < 1024) (he : e < 1024) (h0 : g0 < 256) (h1 : g1 < 256) (h2 : gop < 2) (hch : ch < 4) (hnf : nf < 2)
  (hs : sat < 2) (hcs : cs < 2) (him : im < 2 ^ 32) :
  WordFields (o * 2 + m * 2 ^ 11 + d * 2 ^ 16 + a * 2 ^ 26 + b * 2 ^ 36 + c * 2 ^ 46 + e * 2 ^ 56 + g0 * 2 ^ 66 + g1 * 2 ^ 74 + gop * 2 ^ 82 +
    ch * 2 ^ 83 + nf * 2 ^ 85 + sat * 2 ^ 86 + cs * 2 ^ 87 + im * 2 ^ 88) o m d a b c e g0 g1 gop ch nf sat cs im := by
  constructor <;> (try unfold fld) <;> omega


/-- With no breach the least sub-cause is 0. -/
theorem leastSub_all (l : List Nat) (h : ∀ x ∈ l, x = 0) : leastSub l = 0 := by
  induction l with
  | nil => rfl
  | cons a r ih =>
    have := h a (by simp); subst this
    simpa [leastSub] using ih (fun x hx => h x (by simp [hx]))

/-- THE FIELDS OF AN ENCODED WORD are those it was encoded from (03_encoding.md:R68). -/
theorem fields_encodeWNat (op : Op) (w : W) :
    WordFields (encodeWNat op w) op.opc w.mod.toNat w.d.code w.a.code w.b.code w.c.code w.e.code w.g.fields.1 w.g.fields.2.1
      w.g.fields.2.2 w.ch.code w.nf.toNat w.sat.toNat w.csel.toNat w.imm.toNat := by
  have hb : ∀ b : Bool, b.toNat < 2 := fun b => by cases b <;> decide
  obtain ⟨hg0, hg1, hg2⟩ := w.g.fields_lt
  exact wordFields_sum _ _ _ _ _ _ _ _ _ _ _ _ _ _ _ op.opc_lt w.mod.isLt w.d.code_lt w.a.code_lt w.b.code_lt w.c.code_lt w.e.code_lt
    hg0 hg1 hg2 w.ch.code_lt (hb _) (hb _) (hb _) w.imm.isLt

/-- A word whose bit 0 is 0 is W-form. -/
theorem decode_even {q : QWord} (h : q.toNat % 2 = 0) : decode q = decodeW q := by
  unfold decode; simp only [h, if_true]

/-- A word whose bit 0 is 1 is P-form. -/
theorem decode_odd {q : QWord} (h : q.toNat % 2 = 1) : decode q = decodeP q := by
  unfold decode; simp [h]

/-- The number of an encoded W-form word. -/
theorem toNat_encodeW (op : Op) (w : W) : (BitVec.ofNat 128 (encodeWNat op w)).toNat = encodeWNat op w := by
  simp only [BitVec.toNat_ofNat]; exact Nat.mod_eq_of_lt (fields_encodeWNat op w).lt

/-- Each half opcode's code reads back (03_encoding.md:R81). -/
theorem Hop.ofCode_code (h : Hop) : Hop.ofCode h.code = some h := by cases h <;> rfl

/-- Half opcodes have seven bits. -/
theorem Hop.code_lt (h : Hop) : h.code < 128 := by cases h <;> decide

/-- The fields of a half as the decoder reads them from its number (03_encoding.md:R79). -/
structure HalfFields (n hop d a gp gn im ui : Nat) : Prop where
  hop : fld n 0 7 = hop
  d : fld n 7 10 = d
  a : fld n 17 10 = a
  gp : fld n 27 7 = gp
  gn : fld n 34 1 = gn
  im : fld n 35 16 = im
  ui : fld n 51 1 = ui
  top : fld n 52 11 = 0
  lt : n < 2 ^ 63

/-- A sum of bounded fields of a half reads back field by field. -/
theorem halfFields_sum (hop d a gp gn im ui : Nat) (h1 : hop < 128) (h2 : d < 1024) (h3 : a < 1024) (h4 : gp < 128) (h5 : gn < 2)
    (h6 : im < 2 ^ 16) (h7 : ui < 2) :
    HalfFields (hop + d * 2 ^ 7 + a * 2 ^ 17 + gp * 2 ^ 27 + gn * 2 ^ 34 + im * 2 ^ 35 + ui * 2 ^ 51) hop d a gp gn im ui := by
  constructor <;> (try unfold fld) <;> omega

/-- The halves of an encoded P-form word stand at their places, with bit 0 set and bit 127 clear (03_encoding.md:R79). -/
theorem halves_sum (x y : Nat) (hx : x < 2 ^ 63) (hy : y < 2 ^ 63) :
    fld (1 + x * 2 + y * 2 ^ 64) 1 63 = x ∧ fld (1 + x * 2 + y * 2 ^ 64) 64 63 = y ∧ fld (1 + x * 2 + y * 2 ^ 64) 127 1 = 0 ∧
      (1 + x * 2 + y * 2 ^ 64) % 2 = 1 ∧ 1 + x * 2 + y * 2 ^ 64 < 2 ^ 128 := by
  unfold fld; omega

/-- The fields of an encoded half are those it was encoded from. -/
theorem fields_encodeHalf (h : Half) : ∃ a gp gn im ui, HalfFields h.encodeNat h.hop.code h.d.code a gp gn im ui ∧
    (gp, gn) = (match h.g with | none => (127, 0) | some g => (g.p.val, g.neg.toNat)) ∧
    (a, im, ui) = (match h.a with | .none => (1023, 0, 0) | .reg o => (o.code, 0, 0) | .imm v => (1023, v.toNat, 1)) := by
  have hb : ∀ b : Bool, b.toNat < 2 := fun b => by cases b <;> decide
  refine ⟨_, _, _, _, _, halfFields_sum _ _ _ _ _ _ _ h.hop.code_lt h.d.code_lt ?_ ?_ ?_ ?_ ?_, by cases h.g <;> rfl, rfl⟩
  · cases h.a with
    | none => decide
    | reg o => exact o.code_lt
    | imm v => exact (by decide : 1023 < 1024)
  · cases h.g with
    | none => decide
    | some g => have := g.p.isLt; exact Nat.lt_of_lt_of_le this (by decide)
  · cases h.g with
    | none => decide
    | some g => exact hb _
  · cases h.a with
    | none => decide
    | reg o => exact (by decide : 0 < 2 ^ 16)
    | imm v => exact v.isLt
  · cases h.a with
    | none => decide
    | reg o => exact (by decide : 0 < 2)
    | imm v => exact (by decide : 1 < 2)

end Sys2Proof
end

