-- ==== Sys2Proof/Laws/Warp.lean ====
section
/-! SUPPORT. Reading the registers, predicates and flags of a warp after they are written (02_state.md:R29, R40, R54). -/

namespace Sys2Proof.Machine

/-! ## Lanes -/

theorem mem_lanesOf {m : Word} {l : Nat} : l ∈ lanesOf m ↔ l < 32 ∧ m.getLsbD l = true := by
  simp [lanesOf]

theorem lanesOf_nodup (m : Word) : (lanesOf m).Nodup := List.Nodup.filter _ List.nodup_range

theorem lanesOf_lt {m : Word} {l : Nat} (h : l ∈ lanesOf m) : l < 32 := (mem_lanesOf.1 h).1

theorem getLsbD_foldl_or (ls : List Nat) (m : Word) (l : Nat) :
    (ls.foldl (fun m k => m ||| ((1 : Word) <<< k)) m).getLsbD l = (m.getLsbD l || (decide (l < 32) && decide (l ∈ ls))) := by
  induction ls generalizing m with
  | nil => simp
  | cons k r ih =>
    rw [List.foldl_cons, ih]
    by_cases hl : l < 32
    · have e : ((1 : Word) <<< k).getLsbD l = decide (l = k) := by
        rw [BitVec.getLsbD_shiftLeft]
        by_cases hk : l = k
        · subst hk; simp [hl]
        · by_cases hlt : l < k
          · simp [hk, hlt]
          · have : l - k ≠ 0 := by omega
            simp [hk, hl, this, BitVec.getLsbD_one]
      rw [BitVec.getLsbD_or, e]
      by_cases hk : l = k
      · subst hk; simp [hl]
      · simp [hk]
    · have e1 : m.getLsbD l = false := BitVec.getLsbD_of_ge _ _ (by omega)
      have e2 : (m ||| ((1 : Word) <<< k)).getLsbD l = false := BitVec.getLsbD_of_ge _ _ (by omega)
      rw [e1, e2]; simp [hl]

theorem getLsbD_maskOf (ls : List Nat) (l : Nat) : (maskOf ls).getLsbD l = (decide (l < 32) && decide (l ∈ ls)) := by
  unfold maskOf
  rw [getLsbD_foldl_or]
  simp

theorem lanesOf_maskBy (m : Word) (p : Nat → Bool) : lanesOf (maskBy m p) = (lanesOf m).filter p := by
  unfold maskBy
  have : ∀ l, l < 32 → ((maskOf ((lanesOf m).filter p)).getLsbD l = (m.getLsbD l && p l)) := by
    intro l hl
    rw [getLsbD_maskOf]
    simp [hl, List.mem_filter, mem_lanesOf]
  generalize maskOf ((lanesOf m).filter p) = x at this
  unfold lanesOf
  rw [List.filter_filter]
  apply List.filter_congr
  intro l hl
  rw [this l (List.mem_range.1 hl), Bool.and_comm]

theorem maskBy_eq_zero {m : Word} {p : Nat → Bool} (h : maskBy m p = 0) : ∀ l ∈ lanesOf m, p l = false := by
  intro l hl
  have hlt := lanesOf_lt hl
  have e : lanesOf (maskBy m p) = (lanesOf m).filter p := lanesOf_maskBy m p
  rw [h] at e
  have : lanesOf 0 = [] := by decide
  rw [this] at e
  by_contra hp
  have : l ∈ (lanesOf m).filter p := List.mem_filter.2 ⟨hl, by simpa using hp⟩
  rw [← e] at this
  cases this

/-! ## Lists by lane -/

theorem length_updAt {α : Type} (l : List α) (i : Nat) (f : α → α) : (updAt l i f).length = l.length := by
  induction l generalizing i with
  | nil => rfl
  | cons x r ih => cases i <;> simp [updAt, ih]

theorem nth_updAt {α : Type} (l : List α) (i j : Nat) (f : α → α) (d : α) (h : j < l.length) :
    nth (updAt l i f) j d = if i = j then f (nth l j d) else nth l j d := by
  induction l generalizing i j with
  | nil => simp at h
  | cons x r ih =>
    cases i with
    | zero =>
      cases j with
      | zero => rfl
      | succ j => simp [updAt, nth]
    | succ i =>
      cases j with
      | zero => simp [updAt, nth]
      | succ j =>
        simp only [List.length_cons, Nat.add_lt_add_iff_right] at h
        simp [updAt, nth, ih i j h]

theorem length_mapLanes {α : Type} (f : Nat → α → α) (ls : List Nat) (l : List α) :
    (mapLanes l ls f).length = l.length := by
  unfold mapLanes
  induction ls generalizing l with
  | nil => rfl
  | cons i r ih => rw [List.foldl_cons, ih, length_updAt]

/-- One entry of a per-lane list after some lanes are changed. -/
theorem nth_mapLanes {α : Type} (f : Nat → α → α) (ls : List Nat) (l : List α) (j : Nat) (d : α) (hn : ls.Nodup)
    (h : j < l.length) : nth (mapLanes l ls f) j d = if j ∈ ls then f j (nth l j d) else nth l j d := by
  unfold mapLanes
  induction ls generalizing l with
  | nil => simp
  | cons i r ih =>
    rw [List.foldl_cons, ih _ (List.nodup_cons.1 hn).2 (by rw [length_updAt]; exact h), nth_updAt _ _ _ _ _ h]
    have hi := (List.nodup_cons.1 hn).1
    by_cases hj : i = j
    · subst hj; simp [hi]
    · simp [hj, Ne.symm hj]

/-! ## Registers -/

theorem wordSum_mod (x n : Nat) :
    (List.range n).foldl (fun a j => a + (BitVec.ofNat 32 (x / 2 ^ (32 * j))).toNat * 2 ^ (32 * j)) 0 = x % 2 ^ (32 * n) := by
  induction n with
  | zero => simp [Nat.mod_one]
  | succ n ih =>
    rw [List.range_succ, List.foldl_append, ih]
    simp only [List.foldl_cons, List.foldl_nil, BitVec.toNat_ofNat]
    have e : 2 ^ (32 * (n + 1)) = 2 ^ (32 * n) * 2 ^ 32 := by rw [← Nat.pow_add]; ring_nf
    rw [e, Nat.mod_mul]
    ring

theorem foldl_sum_congr (n : Nat) (f g : Nat → Nat) (h : ∀ j, j < n → f j = g j) :
    (List.range n).foldl (fun a j => a + f j) 0 = (List.range n).foldl (fun a j => a + g j) 0 := by
  induction n with
  | zero => rfl
  | succ n ih =>
    rw [List.range_succ, List.foldl_append, List.foldl_append, ih (fun j hj => h j (by omega))]
    simp [h n (by omega)]

/-- A write of a destination register in some lanes (02_state.md:R29, R54). -/
theorem regWrite_put (a : Warp) (n : Nat) (o : Opnd) (ls : List Nat) (val : Nat → Nat) (h : ∀ l ∈ ls, l < 32) :
    RegWrite n o ls val a (a.put n o ls val) := by
  cases ls with
  | nil => exact ⟨by simp, fun _ _ => rfl, by simp, fun _ _ => rfl, by cases o <;> rfl⟩
  | cons l0 r =>
    cases o with
    | v k =>
      refine ⟨?_, ?_, ?_, ?_, rfl⟩
      · intro k' hk l hl
        cases hk
        simp only [Warp.reg, Warp.put]
        rw [← wordSum_mod (val l) n]
        apply foldl_sum_congr
        intro j hj
        congr 2
        apply cget_csetAll_mem
        · exact ⟨(32 * (k.val + j) + l, BitVec.ofNat 32 (val l / 2 ^ (32 * j))), List.mem_flatMap.2 ⟨j, List.mem_range.2 hj,
            List.mem_map.2 ⟨l, hl, rfl⟩⟩, rfl⟩
        · intro e he hk
          obtain ⟨j', _, he⟩ := List.mem_flatMap.1 he
          obtain ⟨l', hl', rfl⟩ := List.mem_map.1 he
          have h1 := h l hl
          have h2 := h l' hl'
          simp only at hk
          have hj' : j' = j := by omega
          have hll : l' = l := by omega
          simp only [hj', hll]
      · intro j hj
        simp only [Warp.put]
        apply cget_csetAll_other
        intro e he hk
        obtain ⟨j', hj', he⟩ := List.mem_flatMap.1 he
        obtain ⟨l', hl', rfl⟩ := List.mem_map.1 he
        have h2 := h l' hl'
        simp only at hk
        have hlt := List.mem_range.1 hj'
        have e1 : j % 32 = l' := by omega
        have e2 : j / 32 = k.val + j' := by omega
        rcases hj k rfl with h3 | h3
        · exact h3 (e1 ▸ hl')
        · omega
      · intro k' hk; cases hk
      · intro j _; rfl
    | s k =>
      refine ⟨?_, ?_, ?_, ?_, rfl⟩
      · intro k' hk; cases hk
      · intro j _; rfl
      · intro k' hk l hl
        cases hk
        simp only [List.head?_cons, Option.mem_def, Option.some.injEq] at hl
        subst hl
        simp only [Warp.reg, Warp.put]
        rw [← wordSum_mod (val l0) n]
        apply foldl_sum_congr
        intro j hj
        congr 2
        apply cget_csetAll_mem
        · exact ⟨(k.val + j, BitVec.ofNat 32 (val l0 / 2 ^ (32 * j))), List.mem_map.2 ⟨j, List.mem_range.2 hj, rfl⟩, rfl⟩
        · intro e he hk
          obtain ⟨j', _, rfl⟩ := List.mem_map.1 he
          simp only at hk
          have hj' : j' = j := by omega
          simp only [hj']
      · intro j hj
        simp only [Warp.put]
        apply cget_csetAll_other
        intro e he hk
        obtain ⟨j', hj', rfl⟩ := List.mem_map.1 he
        simp only at hk
        have hlt := List.mem_range.1 hj'
        have := hj k rfl
        omega
    | _ => exact ⟨by simp, fun _ _ => rfl, by simp, fun _ _ => rfl, rfl⟩

theorem put_onlyRegs (a : Warp) (n : Nat) (o : Opnd) (ls : List Nat) (val : Nat → Nat) : OnlyRegs a (a.put n o ls val) := by
  unfold OnlyRegs Warp.put
  cases ls with
  | nil => rfl
  | cons => cases o <;> rfl

@[simp] theorem put_fenv (a : Warp) (n : Nat) (o : Opnd) (ls : List Nat) (val : Nat → Nat) : (a.put n o ls val).fenv = a.fenv := by
  unfold Warp.put
  cases ls with
  | nil => rfl
  | cons => cases o <;> rfl

@[simp] theorem put_p (a : Warp) (n : Nat) (o : Opnd) (ls : List Nat) (val : Nat → Nat) : (a.put n o ls val).p = a.p := by
  unfold Warp.put
  cases ls with
  | nil => rfl
  | cons => cases o <;> rfl

@[simp] theorem put_idx (a : Warp) (n : Nat) (o : Opnd) (ls : List Nat) (val : Nat → Nat) : (a.put n o ls val).idx = a.idx := by
  unfold Warp.put
  cases ls with
  | nil => rfl
  | cons => cases o <;> rfl

/-! ## Predicates -/

/-- A write of a predicate destination. -/
theorem predWrite_putP (a : Warp) (o : Opnd) (ls : List Nat) (val : Nat → Bool) : PredWrite o ls val a (a.putP o ls val) := by
  cases o with
  | p k =>
    refine ⟨?_, ?_⟩
    · intro k' l hk hl
      cases hk
      simp only [Warp.putP, cget_cset_same]
      rw [BitVec.getLsbD_or, BitVec.getLsbD_and, BitVec.getLsbD_not, getLsbD_maskOf, getLsbD_maskOf]
      by_cases hm : l ∈ ls <;> simp [hl, hm, List.mem_filter]
    · intro j hj
      simp only [Warp.putP]
      exact cget_cset_other _ _ (hj k rfl)
  | _ => exact ⟨by simp, fun _ _ => rfl⟩

theorem putP_onlyRegs (a : Warp) (o : Opnd) (ls : List Nat) (val : Nat → Bool) : OnlyRegs a (a.putP o ls val) := by
  unfold OnlyRegs Warp.putP
  cases o <;> rfl

@[simp] theorem putP_fenv (a : Warp) (o : Opnd) (ls : List Nat) (val : Nat → Bool) : (a.putP o ls val).fenv = a.fenv := by
  unfold Warp.putP; cases o <;> rfl
@[simp] theorem putP_v (a : Warp) (o : Opnd) (ls : List Nat) (val : Nat → Bool) : (a.putP o ls val).v = a.v := by
  unfold Warp.putP; cases o <;> rfl
@[simp] theorem putP_s (a : Warp) (o : Opnd) (ls : List Nat) (val : Nat → Bool) : (a.putP o ls val).s = a.s := by
  unfold Warp.putP; cases o <;> rfl
@[simp] theorem putP_tags (a : Warp) (o : Opnd) (ls : List Nat) (val : Nat → Bool) : (a.putP o ls val).tags = a.tags := by
  unfold Warp.putP; cases o <;> rfl
@[simp] theorem putP_idx (a : Warp) (o : Opnd) (ls : List Nat) (val : Nat → Bool) : (a.putP o ls val).idx = a.idx := by
  unfold Warp.putP; cases o <;> rfl

/-! ## Flags -/

/-- Raising flags in some lanes. -/
theorem flagRaise_raiseFlags (a : Warp) (ls : List Nat) (fl : Nat → Flags) (h : ls.Nodup) : FlagRaise ls fl a (a.raiseFlags ls fl) :=
  ⟨length_mapLanes _ _ _, fun l hl => nth_mapLanes (fun l x => x ||| fl l) ls a.fenv l 0 h hl⟩

@[simp] theorem raiseFlags_v (a : Warp) (ls : List Nat) (fl : Nat → Flags) : (a.raiseFlags ls fl).v = a.v := rfl
@[simp] theorem raiseFlags_s (a : Warp) (ls : List Nat) (fl : Nat → Flags) : (a.raiseFlags ls fl).s = a.s := rfl
@[simp] theorem raiseFlags_p (a : Warp) (ls : List Nat) (fl : Nat → Flags) : (a.raiseFlags ls fl).p = a.p := rfl
@[simp] theorem raiseFlags_tags (a : Warp) (ls : List Nat) (fl : Nat → Flags) : (a.raiseFlags ls fl).tags = a.tags := rfl
@[simp] theorem raiseFlags_idx (a : Warp) (ls : List Nat) (fl : Nat → Flags) : (a.raiseFlags ls fl).idx = a.idx := rfl

theorem raiseFlags_onlyRegs (a : Warp) (ls : List Nat) (fl : Nat → Flags) : OnlyRegs a (a.raiseFlags ls fl) := rfl

theorem onlyRegs_trans {a b c : Warp} (h : OnlyRegs a b) (h' : OnlyRegs b c) : OnlyRegs a c := by
  unfold OnlyRegs at *
  rw [h', h]

/-! ## The shared effects -/

/-- What a word with a register destination and flags does to its warp. -/
theorem laneOut_spec (n : Nat) (w : W) (f : Iss → Nat → Nat × Flags) (i : Iss) (a : Warp) :
    RegWrite n w.d i.lanes (fun l => (f i l).1) a (laneOut n w f i a) ∧
      FlagRaise i.lanes (fun l => unlessNF w.nf (f i l).2) a (laneOut n w f i a) ∧
      (laneOut n w f i a).p = a.p ∧ OnlyRegs a (laneOut n w f i a) := by
  have hr := regWrite_put a n w.d i.lanes (fun l => (f i l).1) (fun l hl => lanesOf_lt hl)
  have hf := flagRaise_raiseFlags (a.put n w.d i.lanes (fun l => (f i l).1)) i.lanes
    (fun l => unlessNF w.nf (f i l).2) (lanesOf_nodup _)
  refine ⟨⟨hr.v_lanes, hr.v_rest, hr.s_value, hr.s_rest, hr.tags⟩, ?_, ?_, ?_⟩
  · simpa [FlagRaise, laneOut] using hf
  · simp [laneOut]
  · exact onlyRegs_trans (put_onlyRegs _ _ _ _ _) (raiseFlags_onlyRegs _ _ _)

/-- What a word with a predicate destination and flags does to its warp. -/
theorem predOut_spec (w : W) (f : Iss → Nat → Bool × Flags) (i : Iss) (a : Warp) :
    PredWrite w.d i.lanes (fun l => (f i l).1) a (predOut w f i a) ∧
      FlagRaise i.lanes (fun l => unlessNF w.nf (f i l).2) a (predOut w f i a) ∧
      (predOut w f i a).v = a.v ∧ (predOut w f i a).s = a.s ∧ (predOut w f i a).tags = a.tags ∧
      OnlyRegs a (predOut w f i a) := by
  have hr := predWrite_putP a w.d i.lanes (fun l => (f i l).1)
  have hf := flagRaise_raiseFlags (a.putP w.d i.lanes (fun l => (f i l).1)) i.lanes
    (fun l => unlessNF w.nf (f i l).2) (lanesOf_nodup _)
  refine ⟨hr, ?_, ?_, ?_, ?_, ?_⟩
  · simpa [FlagRaise, predOut] using hf
  · simp [predOut]
  · simp [predOut]
  · simp [predOut]
  · exact onlyRegs_trans (putP_onlyRegs _ _ _ _) (raiseFlags_onlyRegs _ _ _)

/-- A word whose meaning is a local effect with a register destination. -/
theorem laneWord_of {ins : Instr} {s : State} {i : Iss} {n : Nat} {w : W} (f : Iss → Nat → Nat × Flags)
    (h : Completes ins s i (s.updRef i.r (laneOut n w f i))) :
    LaneWord ins s i n w.d (fun l => (f i l).1) (fun l => unlessNF w.nf (f i l).2) :=
  ⟨_, h, (laneOut_spec n w f i i.warp).1, (laneOut_spec n w f i i.warp).2.1, (laneOut_spec n w f i i.warp).2.2⟩

/-- A word whose meaning is a local effect with a predicate destination. -/
theorem predWord_of {ins : Instr} {s : State} {i : Iss} {w : W} (f : Iss → Nat → Bool × Flags)
    (h : Completes ins s i (s.updRef i.r (predOut w f i))) :
    PredWord ins s i w.d (fun l => (f i l).1) (fun l => unlessNF w.nf (f i l).2) :=
  ⟨_, h, predOut_spec w f i i.warp⟩

end Sys2Proof.Machine
end

