-- ==== Sys2Proof/Laws/Issue.lean ====
section
/-! SUPPORT. Issuing a W-form word: what becomes of it once it passes the checks, when it traps, and when it has no
effect (02_state.md:R56, 03_encoding.md:R73). -/

namespace Sys2Proof.Machine

theorem issuer_eq {s : State} {w : W} {i0 : Iss} (h : s.issuing = some i0) :
    s.issuer w = some { i0 with act := maskBy i0.path.mask (fun l => i0.warp.guard w.g l) } := by
  simp [State.issuer, h]

theorem issuing_of_issuer {s : State} {w : W} {i : Iss} (h : s.issuer w = some i) :
    ∃ i0, s.issuing = some i0 ∧ i = { i0 with act := maskBy i0.path.mask (fun l => i0.warp.guard w.g l) } := by
  simp only [State.issuer, Option.map_eq_some_iff] at h
  obtain ⟨i0, h0, h1⟩ := h
  exact ⟨i0, h0, h1.symm⟩

/-- ISSUING A WORD with an issuer: its checks, then its meaning. -/
theorem issueW_eq {op : Op} {w : W} {s : State} {i : Iss} (k : Iss → State → Res) (h : s.issuer w = some i) :
    issueW op w k s = .next (finish i (
      match i.precheck op w with
      | some t => .trap s t
      | none =>
        if i.held then .stay s
        else if i.act = 0 ∧ !op.isCollective then .done s
        else k i s)) := by
  obtain ⟨i0, h0, rfl⟩ := issuing_of_issuer h
  unfold issueW
  rw [h0]
  all_goals rfl

/-- A word that issues acts by its meaning. -/
theorem issueW_issues {op : Op} {w : W} {s : State} {i : Iss} (k : Iss → State → Res) (h : Issues op w s i) :
    issueW op w k s = .next (finish i (k i s)) := by
  obtain ⟨h1, h2, h3, h4⟩ := h
  rw [issueW_eq k h1, h2]
  simp only [h3, Bool.false_eq_true, if_false]
  rw [if_neg (fun h => h4 h.1)]

/-- A word that breaks a check takes the trap of the check (02_state.md:R56). -/
theorem issueW_trap {op : Op} {w : W} {s : State} {i : Iss} {t : TrapV} (k : Iss → State → Res) (h : s.issuer w = some i)
    (ht : i.precheck op w = some t) : issueW op w k s = .next { s.takeTrap i.r t with cur := none } := by
  rw [issueW_eq k h, ht]
  rfl

/-- A word with no active lane has no effect but the advance of its path (03_encoding.md:R73). -/
theorem issueW_off {op : Op} {w : W} {s : State} {i : Iss} (k : Iss → State → Res) (h : s.issuer w = some i)
    (hp : i.precheck op w = none) (hb : i.held = false) (ha : i.act = 0) (hc : op.isCollective = false) :
    issueW op w k s = .next (s.wordDone i) := by
  rw [issueW_eq k h, hp]
  simp [hb, ha, hc, finish, State.wordDone]

theorem finish_done (i : Iss) (u : State) : finish i (.done u) = u.wordDone i := rfl

theorem finish_trap (i : Iss) (u : State) (t : TrapV) : finish i (.trap u t) = { u.takeTrap i.r t with cur := none } := rfl

/-- A word that changes only its own warp completes. -/
theorem issueW_local {op : Op} {w : W} {s : State} {i : Iss} (f : Iss → Warp → Warp) (h : Issues op w s i) :
    issueW op w (localOp f) s = .next ((s.updRef i.r (f i)).wordDone i) := by
  rw [issueW_issues _ h]; rfl

theorem issues_lanes {op : Op} {w : W} {s : State} {i : Iss} (h : Issues op w s i) : i.lanes ≠ [] := by
  intro hl
  apply h.2.2.2
  apply BitVec.eq_of_getLsbD_eq
  intro l hlt
  by_contra hc
  have : l ∈ i.lanes := mem_lanesOf.2 ⟨hlt, by simpa using hc⟩
  rw [hl] at this
  cases this

/-! ## Legal words -/

theorem leastSub_eq_zero (l : List Nat) : leastSub l = 0 ↔ ∀ x ∈ l, x = 0 := by
  induction l with
  | nil => simp [leastSub]
  | cons x r ih =>
    simp only [leastSub, List.forall_mem_cons]
    by_cases hx : x = 0
    · simp [hx, ih]
    · by_cases hr : leastSub r = 0
      · simp [hx, hr]
      · simp only [hx, hr, if_false, false_and, iff_false]
        intro hm
        have hm : min x (leastSub r) = 0 := hm
        omega

/-- A word that issues breaks no rule of its encoding or place. -/
theorem issues_subCause {op : Op} {w : W} {s : State} {i : Iss} (h : Issues op w s i) : i.subCause op w = 0 := by
  have hp := h.2.1
  unfold Iss.precheck at hp
  by_contra hc
  rw [if_pos hc] at hp
  cases hp

/-- A word that issues is a legal encoding (03_encoding.md:R89). -/
theorem issues_legal {op : Op} {w : W} {s : State} {i : Iss} (h : Issues op w s i) : w.subCause op = 0 := by
  have := (leastSub_eq_zero _).1 (issues_subCause h)
  exact this _ (by simp)

/-- The entry of a legal word, and the optional fields that it honours. -/
theorem legal_entry {op : Op} {w : W} (h : w.subCause op = 0) :
    ∃ t, entry op w.mod.toNat w.imm.toNat = some t ∧
      t.d.judge w.imm.toNat w.d = 0 ∧ t.a.judge w.imm.toNat w.a = 0 ∧ t.b.judge w.imm.toNat w.b = 0 ∧
      t.c.judge w.imm.toNat w.c = 0 ∧ t.e.judge w.imm.toNat w.e = 0 ∧ t.imm.judge w = 0 ∧ t.extra = 0 ∧
      w.ties op = 0 ∧ (w.sat = true → t.sat = true) ∧ (w.nf = true → t.nf = true) ∧ (w.csel = true → t.csel = true) := by
  unfold W.subCause at h
  cases he : entry op w.mod.toNat w.imm.toNat with
  | none => rw [he] at h; cases h
  | some t =>
    rw [he] at h
    have hz := (leastSub_eq_zero _).1 h
    refine ⟨t, rfl, hz _ (by simp), hz _ (by simp), hz _ (by simp), hz _ (by simp), hz _ (by simp), hz _ (by simp),
      hz _ (by simp), hz _ (by simp), ?_, ?_, ?_⟩
    · intro hs
      by_contra hc
      have := hz (if w.sat && !t.sat then 7 else 0) (by simp)
      simp [hs, hc] at this
    · intro hs
      by_contra hc
      have := hz (if w.nf && !t.nf then 7 else 0) (by simp)
      simp [hs, hc] at this
    · intro hs
      by_contra hc
      have := hz (if w.csel && !t.csel then 7 else 0) (by simp)
      simp [hs, hc] at this

end Sys2Proof.Machine
end

