-- ==== Sys2Proof/Laws/PerInstr.lean ====
section
/-! SUPPORT. What holds of the encoding of every instruction, one lemma for each constructor: a W-form word carries its
opcode and zeros in its reserved bits, a P-form word has bit 0 set, and an event has no word (03_encoding.md:R68, R79, R88). -/

namespace Sys2Proof.Laws.Encoding

open Sys2Proof

/-- The word of an instruction has the form of its row: bit 0 tells W-form from P-form, bits [10:1] of a W-form word hold its
opcode, the reserved bits are zero, and an event has no word. -/
def Statement (i : Instr) : Prop :=
  match i.form with
  | .w op _ => ∃ q, encode i = some q ∧ q.toNat % 2 = 0 ∧ fld q.toNat 1 10 = op.opc ∧ fld q.toNat 120 8 = 0
  | .p _ _ => ∃ q, encode i = some q ∧ q.toNat % 2 = 1 ∧ fld q.toNat 127 1 = 0
  | .bad q => encode i = some q
  | .event => encode i = none

/-- The statement for every W-form word. -/
theorem wWord (i : Instr) (op : Op) (w : W) (h : i.form = .w op w) : Statement i := by
  unfold Statement encode
  rw [h]
  have f := fields_encodeWNat op w
  exact ⟨_, rfl, by rw [toNat_encodeW]; exact ⟨f.bit0, f.opc, f.top⟩⟩

/-- The statement for an event. -/
theorem eventRow (i : Instr) (h : i.form = .event) : Statement i := by
  unfold Statement encode
  rw [h]

theorem add (w : W) : Statement (.add w) := wWord _ .add w rfl

theorem sub (w : W) : Statement (.sub w) := wWord _ .sub w rfl

theorem addc (w : W) : Statement (.addc w) := wWord _ .addc w rfl

theorem subb (w : W) : Statement (.subb w) := wWord _ .subb w rfl

theorem mul (w : W) : Statement (.mul w) := wWord _ .mul w rfl

theorem mulh (w : W) : Statement (.mulh w) := wWord _ .mulh w rfl

theorem mulw (w : W) : Statement (.mulw w) := wWord _ .mulw w rfl

theorem mad (w : W) : Statement (.mad w) := wWord _ .mad w rfl

theorem idiv (w : W) : Statement (.idiv w) := wWord _ .idiv w rfl

theorem irem (w : W) : Statement (.irem w) := wWord _ .irem w rfl

theorem min (w : W) : Statement (.min w) := wWord _ .min w rfl

theorem max (w : W) : Statement (.max w) := wWord _ .max w rfl

theorem abs (w : W) : Statement (.abs w) := wWord _ .abs w rfl

theorem neg (w : W) : Statement (.neg w) := wWord _ .neg w rfl

theorem cmp (w : W) : Statement (.cmp w) := wWord _ .cmp w rfl

theorem lea (w : W) : Statement (.lea w) := wWord _ .lea w rfl

theorem add64 (w : W) : Statement (.add64 w) := wWord _ .add64 w rfl

theorem sub64 (w : W) : Statement (.sub64 w) := wWord _ .sub64 w rfl

theorem shl64 (w : W) : Statement (.shl64 w) := wWord _ .shl64 w rfl

theorem and (w : W) : Statement (.and w) := wWord _ .and w rfl

theorem or (w : W) : Statement (.or w) := wWord _ .or w rfl

theorem xor (w : W) : Statement (.xor w) := wWord _ .xor w rfl

theorem andn (w : W) : Statement (.andn w) := wWord _ .andn w rfl

theorem orn (w : W) : Statement (.orn w) := wWord _ .orn w rfl

theorem not (w : W) : Statement (.not w) := wWord _ .not w rfl

theorem shl (w : W) : Statement (.shl w) := wWord _ .shl w rfl

theorem shr (w : W) : Statement (.shr w) := wWord _ .shr w rfl

theorem sar (w : W) : Statement (.sar w) := wWord _ .sar w rfl

theorem rol (w : W) : Statement (.rol w) := wWord _ .rol w rfl

theorem ror (w : W) : Statement (.ror w) := wWord _ .ror w rfl

theorem perm (w : W) : Statement (.perm w) := wWord _ .perm w rfl

theorem bfx (w : W) : Statement (.bfx w) := wWord _ .bfx w rfl

theorem bfi (w : W) : Statement (.bfi w) := wWord _ .bfi w rfl

theorem bfr (w : W) : Statement (.bfr w) := wWord _ .bfr w rfl

theorem popc (w : W) : Statement (.popc w) := wWord _ .popc w rfl

theorem clz (w : W) : Statement (.clz w) := wWord _ .clz w rfl

theorem ctz (w : W) : Statement (.ctz w) := wWord _ .ctz w rfl

theorem mov (w : W) : Statement (.mov w) := wWord _ .mov w rfl

theorem ldi (w : W) : Statement (.ldi w) := wWord _ .ldi w rfl

theorem ldih (w : W) : Statement (.ldih w) := wWord _ .ldih w rfl

theorem sel (w : W) : Statement (.sel w) := wWord _ .sel w rfl

theorem pand (w : W) : Statement (.pand w) := wWord _ .pand w rfl

theorem por (w : W) : Statement (.por w) := wWord _ .por w rfl

theorem pxor (w : W) : Statement (.pxor w) := wWord _ .pxor w rfl

theorem pnot (w : W) : Statement (.pnot w) := wWord _ .pnot w rfl

theorem rds (w : W) : Statement (.rds w) := wWord _ .rds w rfl

theorem wrs (w : W) : Statement (.wrs w) := wWord _ .wrs w rfl

theorem vote (w : W) : Statement (.vote w) := wWord _ .vote w rfl

theorem shfl (w : W) : Statement (.shfl w) := wWord _ .shfl w rfl

theorem red (w : W) : Statement (.red w) := wWord _ .red w rfl

theorem scan (w : W) : Statement (.scan w) := wWord _ .scan w rfl

theorem waitlt (w : W) : Statement (.waitlt w) := wWord _ .waitlt w rfl

theorem bra (w : W) : Statement (.bra w) := wWord _ .bra w rfl

theorem brx (w : W) : Statement (.brx w) := wWord _ .brx w rfl

theorem call (w : W) : Statement (.call w) := wWord _ .call w rfl

theorem ret (w : W) : Statement (.ret w) := wWord _ .ret w rfl

theorem exit (w : W) : Statement (.exit w) := wWord _ .exit w rfl

theorem trap (w : W) : Statement (.trap w) := wWord _ .trap w rfl

theorem tret (w : W) : Statement (.tret w) := wWord _ .tret w rfl

theorem trec (w : W) : Statement (.trec w) := wWord _ .trec w rfl

theorem nop (w : W) : Statement (.nop w) := wWord _ .nop w rfl

theorem fadd (w : W) : Statement (.fadd w) := wWord _ .fadd w rfl

theorem fsub (w : W) : Statement (.fsub w) := wWord _ .fsub w rfl

theorem fmul (w : W) : Statement (.fmul w) := wWord _ .fmul w rfl

theorem fma (w : W) : Statement (.fma w) := wWord _ .fma w rfl

theorem fmin (w : W) : Statement (.fmin w) := wWord _ .fmin w rfl

theorem fmax (w : W) : Statement (.fmax w) := wWord _ .fmax w rfl

theorem fneg (w : W) : Statement (.fneg w) := wWord _ .fneg w rfl

theorem fabs (w : W) : Statement (.fabs w) := wWord _ .fabs w rfl

theorem fcmp (w : W) : Statement (.fcmp w) := wWord _ .fcmp w rfl

theorem fcls (w : W) : Statement (.fcls w) := wWord _ .fcls w rfl

theorem frnd (w : W) : Statement (.frnd w) := wWord _ .frnd w rfl

theorem fscl (w : W) : Statement (.fscl w) := wWord _ .fscl w rfl

theorem fdiv (w : W) : Statement (.fdiv w) := wWord _ .fdiv w rfl

theorem fsqrt (w : W) : Statement (.fsqrt w) := wWord _ .fsqrt w rfl

theorem frcp (w : W) : Statement (.frcp w) := wWord _ .frcp w rfl

theorem frsq (w : W) : Statement (.frsq w) := wWord _ .frsq w rfl

theorem vfadd (w : W) : Statement (.vfadd w) := wWord _ .vfadd w rfl

theorem vfsub (w : W) : Statement (.vfsub w) := wWord _ .vfsub w rfl

theorem vfmul (w : W) : Statement (.vfmul w) := wWord _ .vfmul w rfl

theorem vfma (w : W) : Statement (.vfma w) := wWord _ .vfma w rfl

theorem vfdiv (w : W) : Statement (.vfdiv w) := wWord _ .vfdiv w rfl

theorem vfsqrt (w : W) : Statement (.vfsqrt w) := wWord _ .vfsqrt w rfl

theorem vfcmp (w : W) : Statement (.vfcmp w) := wWord _ .vfcmp w rfl

theorem vfmin (w : W) : Statement (.vfmin w) := wWord _ .vfmin w rfl

theorem vfmax (w : W) : Statement (.vfmax w) := wWord _ .vfmax w rfl

theorem vfneg (w : W) : Statement (.vfneg w) := wWord _ .vfneg w rfl

theorem vfabs (w : W) : Statement (.vfabs w) := wWord _ .vfabs w rfl

theorem vfcvt (w : W) : Statement (.vfcvt w) := wWord _ .vfcvt w rfl

theorem vfext (w : W) : Statement (.vfext w) := wWord _ .vfext w rfl

theorem vfrnd (w : W) : Statement (.vfrnd w) := wWord _ .vfrnd w rfl

theorem vfmov (w : W) : Statement (.vfmov w) := wWord _ .vfmov w rfl

theorem fex2 (w : W) : Statement (.fex2 w) := wWord _ .fex2 w rfl

theorem flg2 (w : W) : Statement (.flg2 w) := wWord _ .flg2 w rfl

theorem fsinp (w : W) : Statement (.fsinp w) := wWord _ .fsinp w rfl

theorem fcosp (w : W) : Statement (.fcosp w) := wWord _ .fcosp w rfl

theorem ftnh (w : W) : Statement (.ftnh w) := wWord _ .ftnh w rfl

theorem cvt (w : W) : Statement (.cvt w) := wWord _ .cvt w rfl

theorem cvtn (w : W) : Statement (.cvtn w) := wWord _ .cvtn w rfl

theorem cvtw (w : W) : Statement (.cvtw w) := wWord _ .cvtw w rfl

theorem cbdec (w : W) : Statement (.cbdec w) := wWord _ .cbdec w rfl

theorem bfly (w : W) : Statement (.bfly w) := wWord _ .bfly w rfl

theorem cbfly (w : W) : Statement (.cbfly w) := wWord _ .cbfly w rfl

theorem cmul (w : W) : Statement (.cmul w) := wWord _ .cmul w rfl

theorem twid (w : W) : Statement (.twid w) := wWord _ .twid w rfl

theorem aget (w : W) : Statement (.aget w) := wWord _ .aget w rfl

theorem aput (w : W) : Statement (.aput w) := wWord _ .aput w rfl

theorem azero (w : W) : Statement (.azero w) := wWord _ .azero w rfl

theorem ald (w : W) : Statement (.ald w) := wWord _ .ald w rfl

theorem ast (w : W) : Statement (.ast w) := wWord _ .ast w rfl

theorem ascl (w : W) : Statement (.ascl w) := wWord _ .ascl w rfl

theorem aconv (w : W) : Statement (.aconv w) := wWord _ .aconv w rfl

theorem omset (w : W) : Statement (.omset w) := wWord _ .omset w rfl

theorem thset (w : W) : Statement (.thset w) := wWord _ .thset w rfl

theorem mma (w : W) : Statement (.mma w) := wWord _ .mma w rfl

theorem mmaz (w : W) : Statement (.mmaz w) := wWord _ .mmaz w rfl

theorem kinit (w : W) : Statement (.kinit w) := wWord _ .kinit w rfl

theorem stclr (w : W) : Statement (.stclr w) := wWord _ .stclr w rfl

theorem stset (w : W) : Statement (.stset w) := wWord _ .stset w rfl

theorem stadd (w : W) : Statement (.stadd w) := wWord _ .stadd w rfl

theorem stget (w : W) : Statement (.stget w) := wWord _ .stget w rfl

theorem stpre (w : W) : Statement (.stpre w) := wWord _ .stpre w rfl

theorem sttot (w : W) : Statement (.sttot w) := wWord _ .sttot w rfl

theorem stfind (w : W) : Statement (.stfind w) := wWord _ .stfind w rfl

theorem stcut (w : W) : Statement (.stcut w) := wWord _ .stcut w rfl

theorem stcutm (w : W) : Statement (.stcutm w) := wWord _ .stcutm w rfl

theorem stq (w : W) : Statement (.stq w) := wWord _ .stq w rfl

theorem stld (w : W) : Statement (.stld w) := wWord _ .stld w rfl

theorem stst (w : W) : Statement (.stst w) := wWord _ .stst w rfl

theorem ldg (w : W) : Statement (.ldg w) := wWord _ .ldg w rfl

theorem stg (w : W) : Statement (.stg w) := wWord _ .stg w rfl

theorem ldsp (w : W) : Statement (.ldsp w) := wWord _ .ldsp w rfl

theorem stsp (w : W) : Statement (.stsp w) := wWord _ .stsp w rfl

theorem ldvf (w : W) : Statement (.ldvf w) := wWord _ .ldvf w rfl

theorem stvf (w : W) : Statement (.stvf w) := wWord _ .stvf w rfl

theorem atomg (w : W) : Statement (.atomg w) := wWord _ .atomg w rfl

theorem atomsp (w : W) : Statement (.atomsp w) := wWord _ .atomsp w rfl

theorem fence (w : W) : Statement (.fence w) := wWord _ .fence w rfl

theorem drain (w : W) : Statement (.drain w) := wWord _ .drain w rfl

theorem tcopy (w : W) : Statement (.tcopy w) := wWord _ .tcopy w rfl

theorem mcast (w : W) : Statement (.mcast w) := wWord _ .mcast w rfl

theorem tbinit (w : W) : Statement (.tbinit w) := wWord _ .tbinit w rfl

theorem tbexp (w : W) : Statement (.tbexp w) := wWord _ .tbexp w rfl

theorem tbarr (w : W) : Statement (.tbarr w) := wWord _ .tbarr w rfl

theorem tbwait (w : W) : Statement (.tbwait w) := wWord _ .tbwait w rfl

theorem tbtest (w : W) : Statement (.tbtest w) := wWord _ .tbtest w rfl

theorem lkl (w : W) : Statement (.lkl w) := wWord _ .lkl w rfl

theorem ulk (w : W) : Statement (.ulk w) := wWord _ .ulk w rfl

theorem pref (w : W) : Statement (.pref w) := wWord _ .pref w rfl

theorem rput (w : W) : Statement (.rput w) := wWord _ .rput w rfl

theorem rget (w : W) : Statement (.rget w) := wWord _ .rget w rfl

theorem ratom (w : W) : Statement (.ratom w) := wWord _ .ratom w rfl

theorem rflag (w : W) : Statement (.rflag w) := wWord _ .rflag w rfl

theorem rwake (w : W) : Statement (.rwake w) := wWord _ .rwake w rfl

theorem waitw (w : W) : Statement (.waitw w) := wWord _ .waitw w rfl

theorem bar (w : W) : Statement (.bar w) := wWord _ .bar w rfl

theorem yield (w : W) : Statement (.yield w) := wWord _ .yield w rfl

theorem phase (w : W) : Statement (.phase w) := wWord _ .phase w rfl

theorem xget (w : W) : Statement (.xget w) := wWord _ .xget w rfl

theorem xput (w : W) : Statement (.xput w) := wWord _ .xput w rfl

theorem hud (w : W) : Statement (.hud w) := wWord _ .hud w rfl

theorem qpost (w : W) : Statement (.qpost w) := wWord _ .qpost w rfl

theorem launch (w : W) : Statement (.launch w) := wWord _ .launch w rfl

theorem refrd (w : W) : Statement (.refrd w) := wWord _ .refrd w rfl

theorem refwr (w : W) : Statement (.refwr w) := wWord _ .refwr w rfl

theorem refres (w : W) : Statement (.refres w) := wWord _ .refres w rfl

theorem refstop (w : W) : Statement (.refstop w) := wWord _ .refstop w rfl

theorem refkill (w : W) : Statement (.refkill w) := wWord _ .refkill w rfl

theorem ctxsave (w : W) : Statement (.ctxsave w) := wWord _ .ctxsave w rfl

theorem ctxrest (w : W) : Statement (.ctxrest w) := wWord _ .ctxrest w rfl

theorem svc (w : W) : Statement (.svc w) := wWord _ .svc w rfl

theorem svcw (w : W) : Statement (.svcw w) := wWord _ .svcw w rfl

theorem evtpop (w : W) : Statement (.evtpop w) := wWord _ .evtpop w rfl

theorem tlbinv (w : W) : Statement (.tlbinv w) := wWord _ .tlbinv w rfl

theorem qsub (w : W) : Statement (.qsub w) := wWord _ .qsub w rfl

theorem qblk (w : W) : Statement (.qblk w) := wWord _ .qblk w rfl

theorem qunb (w : W) : Statement (.qunb w) := wWord _ .qunb w rfl

theorem qcan (w : W) : Statement (.qcan w) := wWord _ .qcan w rfl

theorem qrow (w : W) : Statement (.qrow w) := wWord _ .qrow w rfl

theorem qdig (w : W) : Statement (.qdig w) := wWord _ .qdig w rfl

theorem qseq (w : W) : Statement (.qseq w) := wWord _ .qseq w rfl

theorem qwait (w : W) : Statement (.qwait w) := wWord _ .qwait w rfl

theorem pFormWord (x y : Half) : Statement (.pFormWord x y) := by
  obtain ⟨_, _, _, _, _, fx, -, -⟩ := fields_encodeHalf x
  obtain ⟨_, _, _, _, _, fy, -, -⟩ := fields_encodeHalf y
  obtain ⟨-, -, h3, h4, h5⟩ := halves_sum _ _ fx.lt fy.lt
  refine ⟨_, rfl, ?_⟩
  rw [BitVec.toNat_ofNat, Nat.mod_eq_of_lt h5]
  exact ⟨h4, h3⟩

theorem issueSelect (core part : Nat) : Statement (.issueSelect core part) := eventRow _ rfl

theorem icacheLineArrives (core part : Nat) : Statement (.icacheLineArrives core part) := eventRow _ rfl

theorem registerWriteLands (op : Nat) : Statement (.registerWriteLands op) := eventRow _ rfl

theorem homePerformsAccess (op : Nat) : Statement (.homePerformsAccess op) := eventRow _ rfl

theorem completionReplyArrives (op : Nat) (remote : Option RemoteReply) : Statement (.completionReplyArrives op remote) := eventRow _ rfl

theorem waitTimePassed (r : Ref) : Statement (.waitTimePassed r) := eventRow _ rfl

theorem waitwDeadline (r : Ref) : Statement (.waitwDeadline r) := eventRow _ rfl

theorem qwaitDeadline (r : Ref) : Statement (.qwaitDeadline r) := eventRow _ rfl

theorem collectivePerformed (r : Ref) : Statement (.collectivePerformed r) := eventRow _ rfl

theorem mmaRetire (op : Nat) : Statement (.mmaRetire op) := eventRow _ rfl

theorem handleFetchFault (op : Nat) : Statement (.handleFetchFault op) := eventRow _ rfl

theorem tileGrant (core : Nat) : Statement (.tileGrant core) := eventRow _ rfl

theorem extregGrant (core part : Nat) : Statement (.extregGrant core part) := eventRow _ rfl

theorem compaction (core part : Nat) : Statement (.compaction core part) := eventRow _ rfl

theorem engineSectorReport (op sector : Nat) : Statement (.engineSectorReport op sector) := eventRow _ rfl

theorem gcmEngineJudge (op : Nat) : Statement (.gcmEngineJudge op) := eventRow _ rfl

theorem mcastSectorArrival (op core sector : Nat) : Statement (.mcastSectorArrival op core sector) := eventRow _ rfl

theorem remoteOpArrival (k : Packet) : Statement (.remoteOpArrival k) := eventRow _ rfl

theorem transportGiveUp (op : Nat) : Statement (.transportGiveUp op) := eventRow _ rfl

theorem pageWalkComplete (ctx : Nat) (va : BitVec 64) : Statement (.pageWalkComplete ctx va) := eventRow _ rfl

theorem invalidationComplete (op : Nat) : Statement (.invalidationComplete op) := eventRow _ rfl

theorem refereeTakeTrap (core : Nat) : Statement (.refereeTakeTrap core) := eventRow _ rfl

theorem blockSave (r : Ref) : Statement (.blockSave r) := eventRow _ rfl

theorem blockRestore (r : Ref) (org : Nat) : Statement (.blockRestore r org) := eventRow _ rfl

theorem warpRelease (r : Ref) : Statement (.warpRelease r) := eventRow _ rfl

theorem blockEnd (r : Ref) : Statement (.blockEnd r) := eventRow _ rfl

theorem huddleRoundEnd (r : Ref) : Statement (.huddleRoundEnd r) := eventRow _ rfl

theorem gridCompletion (lsq : Nat) : Statement (.gridCompletion lsq) := eventRow _ rfl

theorem queueFetch : Statement .queueFetch := eventRow _ rfl

theorem blockDispatch (lsq org : Nat) : Statement (.blockDispatch lsq org) := eventRow _ rfl

theorem phaseCounterExchange (core : Nat) : Statement (.phaseCounterExchange core) := eventRow _ rfl

theorem svcReply (r : Ref) : Statement (.svcReply r) := eventRow _ rfl

theorem eccErrorDetected (pa : Nat) (correctable : Bool) (kind : Nat) : Statement (.eccErrorDetected pa correctable kind) := eventRow _ rfl

theorem powerAdjust (pool : Power) (clk0 clk1 : Nat) : Statement (.powerAdjust pool clk0 clk1) := eventRow _ rfl

theorem timeDiscipline (slew : Nat) : Statement (.timeDiscipline slew) := eventRow _ rfl

theorem portStateChange (port state : Nat) : Statement (.portStateChange port state) := eventRow _ rfl

theorem quadrilleHeartbeatSend : Statement .quadrilleHeartbeatSend := eventRow _ rfl

theorem quadrilleHeartbeatReceive (h : Heartbeat) : Statement (.quadrilleHeartbeatReceive h) := eventRow _ rfl

theorem eventReceive (e : BitVec 512) : Statement (.eventReceive e) := eventRow _ rfl

theorem deliverSubmit : Statement .deliverSubmit := eventRow _ rfl

theorem deliverFinish : Statement .deliverFinish := eventRow _ rfl

theorem deliverBlock : Statement .deliverBlock := eventRow _ rfl

theorem deliverUnblock : Statement .deliverUnblock := eventRow _ rfl

theorem deliverCancel : Statement .deliverCancel := eventRow _ rfl

theorem deliverSuspect : Statement .deliverSuspect := eventRow _ rfl

theorem deliverJoin : Statement .deliverJoin := eventRow _ rfl

theorem deliverFence : Statement .deliverFence := eventRow _ rfl

theorem finishRaise (lsq : Nat) : Statement (.finishRaise lsq) := eventRow _ rfl

theorem suspectRaise (m : Nat) : Statement (.suspectRaise m) := eventRow _ rfl

theorem memberCut (m : Nat) : Statement (.memberCut m) := eventRow _ rfl

theorem rowEnact (row : Nat) : Statement (.rowEnact row) := eventRow _ rfl

theorem joinProcedure (j : JoinStep) : Statement (.joinProcedure j) := eventRow _ rfl

theorem hostMemoryAccess (h : HostAccess) : Statement (.hostMemoryAccess h) := eventRow _ rfl

theorem ncnWrite (v : BitVec 64) : Statement (.ncnWrite v) := eventRow _ rfl

theorem registerWrite (off : Nat) (v : BitVec 64) : Statement (.registerWrite off v) := eventRow _ rfl

theorem stateSummary : Statement .stateSummary := eventRow _ rfl

theorem ctxCreate : Statement .ctxCreate := eventRow _ rfl

theorem ctxDestroy : Statement .ctxDestroy := eventRow _ rfl

theorem queueTable : Statement .queueTable := eventRow _ rfl

theorem exportTable : Statement .exportTable := eventRow _ rfl

theorem window : Statement .window := eventRow _ rfl

theorem invalidate : Statement .invalidate := eventRow _ rfl

theorem submit : Statement .submit := eventRow _ rfl

theorem block : Statement .block := eventRow _ rfl

theorem unblock : Statement .unblock := eventRow _ rfl

theorem cancel : Statement .cancel := eventRow _ rfl

theorem preempt : Statement .preempt := eventRow _ rfl

theorem kill : Statement .kill := eventRow _ rfl

theorem notifyRing : Statement .notifyRing := eventRow _ rfl

theorem formPod : Statement .formPod := eventRow _ rfl

theorem podFormationComplete (t : BitVec 64) : Statement (.podFormationComplete t) := eventRow _ rfl

theorem formPodTimeout : Statement .formPodTimeout := eventRow _ rfl

theorem release : Statement .release := eventRow _ rfl

theorem powerCap : Statement .powerCap := eventRow _ rfl

theorem errorLog : Statement .errorLog := eventRow _ rfl

theorem faultReply : Statement .faultReply := eventRow _ rfl

theorem keyLoad : Statement .keyLoad := eventRow _ rfl

theorem keyBind : Statement .keyBind := eventRow _ rfl

theorem keyUnbind : Statement .keyUnbind := eventRow _ rfl

theorem heartbeat : Statement .heartbeat := eventRow _ rfl

theorem fabricKey : Statement .fabricKey := eventRow _ rfl

theorem trustedRange : Statement .trustedRange := eventRow _ rfl

theorem enterConfidential : Statement .enterConfidential := eventRow _ rfl

theorem leaveConfidential : Statement .leaveConfidential := eventRow _ rfl

theorem heartbeatLoss : Statement .heartbeatLoss := eventRow _ rfl

theorem scrubComplete (ok : Bool) : Statement (.scrubComplete ok) := eventRow _ rfl

theorem coldReset : Statement .coldReset := eventRow _ rfl

theorem readyReached (ok : Bool) : Statement (.readyReached ok) := eventRow _ rfl

theorem unassignedOpcode (q : QWord) : Statement (.unassignedOpcode q) := rfl

theorem unknownCommand : Statement .unknownCommand := eventRow _ rfl

theorem spdmSessionSetup (seconds : Nat) : Statement (.spdmSessionSetup seconds) := eventRow _ rfl

theorem endpointContextFetch (ctx peer : Nat) : Statement (.endpointContextFetch ctx peer) := eventRow _ rfl

theorem corePowerGating (core : Nat) (gate : Bool) (groups : Nat) : Statement (.corePowerGating core gate groups) := eventRow _ rfl

end Sys2Proof.Laws.Encoding
end

