-- ==== Sys2Proof/Laws/Words.lean ====
section
/-! SUPPORT. Every W-form instruction is the issue of its word: what holds of `issueW` holds of each of them. -/

namespace Sys2Proof.Machine

/-- Executing a W-form word is issuing it with a meaning of its own (03_encoding.md:R68). -/
theorem exec_ofOp (op : Op) (w : W) : ∃ k, ∀ s, exec (Instr.ofOp op w) s = issueW op w k s := by
  cases op with
  | add => exact ⟨_, fun s => by show execAdd w s = _; rw [execAdd]⟩
  | sub => exact ⟨_, fun s => by show execSub w s = _; rw [execSub]⟩
  | addc => exact ⟨_, fun s => by show execAddc w s = _; rw [execAddc]⟩
  | subb => exact ⟨_, fun s => by show execSubb w s = _; rw [execSubb]⟩
  | mul => exact ⟨_, fun s => by show execMul w s = _; rw [execMul]⟩
  | mulh => exact ⟨_, fun s => by show execMulh w s = _; rw [execMulh]⟩
  | mulw => exact ⟨_, fun s => by show execMulw w s = _; rw [execMulw]⟩
  | mad => exact ⟨_, fun s => by show execMad w s = _; rw [execMad]⟩
  | idiv => exact ⟨_, fun s => by show execIdiv w s = _; rw [execIdiv]⟩
  | irem => exact ⟨_, fun s => by show execIrem w s = _; rw [execIrem]⟩
  | min => exact ⟨_, fun s => by show execMin w s = _; rw [execMin]⟩
  | max => exact ⟨_, fun s => by show execMax w s = _; rw [execMax]⟩
  | abs => exact ⟨_, fun s => by show execAbs w s = _; rw [execAbs]⟩
  | neg => exact ⟨_, fun s => by show execNeg w s = _; rw [execNeg]⟩
  | cmp => exact ⟨_, fun s => by show execCmp w s = _; rw [execCmp]⟩
  | lea => exact ⟨_, fun s => by show execLea w s = _; rw [execLea]⟩
  | add64 => exact ⟨_, fun s => by show execAdd64 w s = _; rw [execAdd64]⟩
  | sub64 => exact ⟨_, fun s => by show execSub64 w s = _; rw [execSub64]⟩
  | shl64 => exact ⟨_, fun s => by show execShl64 w s = _; rw [execShl64]⟩
  | and => exact ⟨_, fun s => by show execAnd w s = _; rw [execAnd]⟩
  | or => exact ⟨_, fun s => by show execOr w s = _; rw [execOr]⟩
  | xor => exact ⟨_, fun s => by show execXor w s = _; rw [execXor]⟩
  | andn => exact ⟨_, fun s => by show execAndn w s = _; rw [execAndn]⟩
  | orn => exact ⟨_, fun s => by show execOrn w s = _; rw [execOrn]⟩
  | not => exact ⟨_, fun s => by show execNot w s = _; rw [execNot]⟩
  | shl => exact ⟨_, fun s => by show execShl w s = _; rw [execShl]⟩
  | shr => exact ⟨_, fun s => by show execShr w s = _; rw [execShr]⟩
  | sar => exact ⟨_, fun s => by show execSar w s = _; rw [execSar]⟩
  | rol => exact ⟨_, fun s => by show execRol w s = _; rw [execRol]⟩
  | ror => exact ⟨_, fun s => by show execRor w s = _; rw [execRor]⟩
  | perm => exact ⟨_, fun s => by show execPerm w s = _; rw [execPerm]⟩
  | bfx => exact ⟨_, fun s => by show execBfx w s = _; rw [execBfx]⟩
  | bfi => exact ⟨_, fun s => by show execBfi w s = _; rw [execBfi]⟩
  | bfr => exact ⟨_, fun s => by show execBfr w s = _; rw [execBfr]⟩
  | popc => exact ⟨_, fun s => by show execPopc w s = _; rw [execPopc]⟩
  | clz => exact ⟨_, fun s => by show execClz w s = _; rw [execClz]⟩
  | ctz => exact ⟨_, fun s => by show execCtz w s = _; rw [execCtz]⟩
  | mov => exact ⟨_, fun s => by show execMov w s = _; rw [execMov]⟩
  | ldi => exact ⟨_, fun s => by show execLdi w s = _; rw [execLdi]⟩
  | ldih => exact ⟨_, fun s => by show execLdih w s = _; rw [execLdih]⟩
  | sel => exact ⟨_, fun s => by show execSel w s = _; rw [execSel]⟩
  | pand => exact ⟨_, fun s => by show execPand w s = _; rw [execPand]⟩
  | por => exact ⟨_, fun s => by show execPor w s = _; rw [execPor]⟩
  | pxor => exact ⟨_, fun s => by show execPxor w s = _; rw [execPxor]⟩
  | pnot => exact ⟨_, fun s => by show execPnot w s = _; rw [execPnot]⟩
  | rds => exact ⟨_, fun s => by show execRds w s = _; rw [execRds]⟩
  | wrs => exact ⟨_, fun s => by show execWrs w s = _; rw [execWrs]⟩
  | vote => exact ⟨_, fun s => by show execVote w s = _; rw [execVote]⟩
  | shfl => exact ⟨_, fun s => by show execShfl w s = _; rw [execShfl]⟩
  | red => exact ⟨_, fun s => by show execRed w s = _; rw [execRed]⟩
  | scan => exact ⟨_, fun s => by show execScan w s = _; rw [execScan]⟩
  | waitlt => exact ⟨_, fun s => by show execWaitlt w s = _; rw [execWaitlt]⟩
  | bra => exact ⟨_, fun s => by show execBra w s = _; rw [execBra]⟩
  | brx => exact ⟨_, fun s => by show execBrx w s = _; rw [execBrx]⟩
  | call => exact ⟨_, fun s => by show execCall w s = _; rw [execCall]⟩
  | ret => exact ⟨_, fun s => by show execRet w s = _; rw [execRet]⟩
  | exit => exact ⟨_, fun s => by show execExit w s = _; rw [execExit]⟩
  | trap => exact ⟨_, fun s => by show execTrap w s = _; rw [execTrap]⟩
  | tret => exact ⟨_, fun s => by show execTret w s = _; rw [execTret]⟩
  | trec => exact ⟨_, fun s => by show execTrec w s = _; rw [execTrec]⟩
  | nop => exact ⟨_, fun s => by show execNop w s = _; rw [execNop]⟩
  | fadd => exact ⟨_, fun s => by show execFadd w s = _; rw [execFadd]⟩
  | fsub => exact ⟨_, fun s => by show execFsub w s = _; rw [execFsub]⟩
  | fmul => exact ⟨_, fun s => by show execFmul w s = _; rw [execFmul]⟩
  | fma => exact ⟨_, fun s => by show execFma w s = _; rw [execFma]⟩
  | fmin => exact ⟨_, fun s => by show execFmin w s = _; rw [execFmin]⟩
  | fmax => exact ⟨_, fun s => by show execFmax w s = _; rw [execFmax]⟩
  | fneg => exact ⟨_, fun s => by show execFneg w s = _; rw [execFneg]⟩
  | fabs => exact ⟨_, fun s => by show execFabs w s = _; rw [execFabs]⟩
  | fcmp => exact ⟨_, fun s => by show execFcmp w s = _; rw [execFcmp]⟩
  | fcls => exact ⟨_, fun s => by show execFcls w s = _; rw [execFcls]⟩
  | frnd => exact ⟨_, fun s => by show execFrnd w s = _; rw [execFrnd]⟩
  | fscl => exact ⟨_, fun s => by show execFscl w s = _; rw [execFscl]⟩
  | fdiv => exact ⟨_, fun s => by show execFdiv w s = _; rw [execFdiv]⟩
  | fsqrt => exact ⟨_, fun s => by show execFsqrt w s = _; rw [execFsqrt]⟩
  | frcp => exact ⟨_, fun s => by show execFrcp w s = _; rw [execFrcp]⟩
  | frsq => exact ⟨_, fun s => by show execFrsq w s = _; rw [execFrsq]⟩
  | vfadd => exact ⟨_, fun s => by show execVfadd w s = _; rw [execVfadd]⟩
  | vfsub => exact ⟨_, fun s => by show execVfsub w s = _; rw [execVfsub]⟩
  | vfmul => exact ⟨_, fun s => by show execVfmul w s = _; rw [execVfmul]⟩
  | vfma => exact ⟨_, fun s => by show execVfma w s = _; rw [execVfma]⟩
  | vfdiv => exact ⟨_, fun s => by show execVfdiv w s = _; rw [execVfdiv]⟩
  | vfsqrt => exact ⟨_, fun s => by show execVfsqrt w s = _; rw [execVfsqrt]⟩
  | vfcmp => exact ⟨_, fun s => by show execVfcmp w s = _; rw [execVfcmp]⟩
  | vfmin => exact ⟨_, fun s => by show execVfmin w s = _; rw [execVfmin]⟩
  | vfmax => exact ⟨_, fun s => by show execVfmax w s = _; rw [execVfmax]⟩
  | vfneg => exact ⟨_, fun s => by show execVfneg w s = _; rw [execVfneg]⟩
  | vfabs => exact ⟨_, fun s => by show execVfabs w s = _; rw [execVfabs]⟩
  | vfcvt => exact ⟨_, fun s => by show execVfcvt w s = _; rw [execVfcvt]⟩
  | vfext => exact ⟨_, fun s => by show execVfext w s = _; rw [execVfext]⟩
  | vfrnd => exact ⟨_, fun s => by show execVfrnd w s = _; rw [execVfrnd]⟩
  | vfmov => exact ⟨_, fun s => by show execVfmov w s = _; rw [execVfmov]⟩
  | fex2 => exact ⟨_, fun s => by show execFex2 w s = _; rw [execFex2]⟩
  | flg2 => exact ⟨_, fun s => by show execFlg2 w s = _; rw [execFlg2]⟩
  | fsinp => exact ⟨_, fun s => by show execFsinp w s = _; rw [execFsinp]⟩
  | fcosp => exact ⟨_, fun s => by show execFcosp w s = _; rw [execFcosp]⟩
  | ftnh => exact ⟨_, fun s => by show execFtnh w s = _; rw [execFtnh]⟩
  | cvt => exact ⟨_, fun s => by show execCvt w s = _; rw [execCvt]⟩
  | cvtn => exact ⟨_, fun s => by show execCvtn w s = _; rw [execCvtn]⟩
  | cvtw => exact ⟨_, fun s => by show execCvtw w s = _; rw [execCvtw]⟩
  | cbdec => exact ⟨_, fun s => by show execCbdec w s = _; rw [execCbdec]⟩
  | bfly => exact ⟨_, fun s => by show execBfly w s = _; rw [execBfly]⟩
  | cbfly => exact ⟨_, fun s => by show execCbfly w s = _; rw [execCbfly]⟩
  | cmul => exact ⟨_, fun s => by show execCmul w s = _; rw [execCmul]⟩
  | twid => exact ⟨_, fun s => by show execTwid w s = _; rw [execTwid]⟩
  | aget => exact ⟨_, fun s => by show execAget w s = _; rw [execAget]⟩
  | aput => exact ⟨_, fun s => by show execAput w s = _; rw [execAput]⟩
  | azero => exact ⟨_, fun s => by show execAzero w s = _; rw [execAzero]⟩
  | ald => exact ⟨_, fun s => by show execAld w s = _; rw [execAld]⟩
  | ast => exact ⟨_, fun s => by show execAst w s = _; rw [execAst]⟩
  | ascl => exact ⟨_, fun s => by show execAscl w s = _; rw [execAscl]⟩
  | aconv => exact ⟨_, fun s => by show execAconv w s = _; rw [execAconv]⟩
  | omset => exact ⟨_, fun s => by show execOmset w s = _; rw [execOmset]⟩
  | thset => exact ⟨_, fun s => by show execThset w s = _; rw [execThset]⟩
  | mma => exact ⟨_, fun s => by show execMma w s = _; rw [execMma]⟩
  | mmaz => exact ⟨_, fun s => by show execMmaz w s = _; rw [execMmaz]⟩
  | kinit => exact ⟨_, fun s => by show execKinit w s = _; rw [execKinit]⟩
  | stclr => exact ⟨_, fun s => by show execStclr w s = _; rw [execStclr]⟩
  | stset => exact ⟨_, fun s => by show execStset w s = _; rw [execStset]⟩
  | stadd => exact ⟨_, fun s => by show execStadd w s = _; rw [execStadd]⟩
  | stget => exact ⟨_, fun s => by show execStget w s = _; rw [execStget]⟩
  | stpre => exact ⟨_, fun s => by show execStpre w s = _; rw [execStpre]⟩
  | sttot => exact ⟨_, fun s => by show execSttot w s = _; rw [execSttot]⟩
  | stfind => exact ⟨_, fun s => by show execStfind w s = _; rw [execStfind]⟩
  | stcut => exact ⟨_, fun s => by show execStcut w s = _; rw [execStcut]⟩
  | stcutm => exact ⟨_, fun s => by show execStcutm w s = _; rw [execStcutm]⟩
  | stq => exact ⟨_, fun s => by show execStq w s = _; rw [execStq]⟩
  | stld => exact ⟨_, fun s => by show execStld w s = _; rw [execStld]⟩
  | stst => exact ⟨_, fun s => by show execStst w s = _; rw [execStst]⟩
  | ldg => exact ⟨_, fun s => by show execLdg w s = _; rw [execLdg]⟩
  | stg => exact ⟨_, fun s => by show execStg w s = _; rw [execStg]⟩
  | ldsp => exact ⟨_, fun s => by show execLdsp w s = _; rw [execLdsp]⟩
  | stsp => exact ⟨_, fun s => by show execStsp w s = _; rw [execStsp]⟩
  | ldvf => exact ⟨_, fun s => by show execLdvf w s = _; rw [execLdvf]⟩
  | stvf => exact ⟨_, fun s => by show execStvf w s = _; rw [execStvf]⟩
  | atomg => exact ⟨_, fun s => by show execAtomg w s = _; rw [execAtomg]⟩
  | atomsp => exact ⟨_, fun s => by show execAtomsp w s = _; rw [execAtomsp]⟩
  | fence => exact ⟨_, fun s => by show execFence w s = _; rw [execFence]⟩
  | drain => exact ⟨_, fun s => by show execDrain w s = _; rw [execDrain]⟩
  | tcopy => exact ⟨_, fun s => by show execTcopy w s = _; rw [execTcopy]⟩
  | mcast => exact ⟨_, fun s => by show execMcast w s = _; rw [execMcast]⟩
  | tbinit => exact ⟨_, fun s => by show execTbinit w s = _; rw [execTbinit]⟩
  | tbexp => exact ⟨_, fun s => by show execTbexp w s = _; rw [execTbexp]⟩
  | tbarr => exact ⟨_, fun s => by show execTbarr w s = _; rw [execTbarr]⟩
  | tbwait => exact ⟨_, fun s => by show execTbwait w s = _; rw [execTbwait]⟩
  | tbtest => exact ⟨_, fun s => by show execTbtest w s = _; rw [execTbtest]⟩
  | lkl => exact ⟨_, fun s => by show execLkl w s = _; rw [execLkl]⟩
  | ulk => exact ⟨_, fun s => by show execUlk w s = _; rw [execUlk]⟩
  | pref => exact ⟨_, fun s => by show execPref w s = _; rw [execPref]⟩
  | rput => exact ⟨_, fun s => by show execRput w s = _; rw [execRput]⟩
  | rget => exact ⟨_, fun s => by show execRget w s = _; rw [execRget]⟩
  | ratom => exact ⟨_, fun s => by show execRatom w s = _; rw [execRatom]⟩
  | rflag => exact ⟨_, fun s => by show execRflag w s = _; rw [execRflag]⟩
  | rwake => exact ⟨_, fun s => by show execRwake w s = _; rw [execRwake]⟩
  | waitw => exact ⟨_, fun s => by show execWaitw w s = _; rw [execWaitw]⟩
  | bar => exact ⟨_, fun s => by show execBar w s = _; rw [execBar]⟩
  | yield => exact ⟨_, fun s => by show execYield w s = _; rw [execYield]⟩
  | phase => exact ⟨_, fun s => by show execPhase w s = _; rw [execPhase]⟩
  | xget => exact ⟨_, fun s => by show execXget w s = _; rw [execXget]⟩
  | xput => exact ⟨_, fun s => by show execXput w s = _; rw [execXput]⟩
  | hud => exact ⟨_, fun s => by show execHud w s = _; rw [execHud]⟩
  | qpost => exact ⟨_, fun s => by show execQpost w s = _; rw [execQpost]⟩
  | launch => exact ⟨_, fun s => by show execLaunch w s = _; rw [execLaunch]⟩
  | refrd => exact ⟨_, fun s => by show execRefrd w s = _; rw [execRefrd]⟩
  | refwr => exact ⟨_, fun s => by show execRefwr w s = _; rw [execRefwr]⟩
  | refres => exact ⟨_, fun s => by show execRefres w s = _; rw [execRefres]⟩
  | refstop => exact ⟨_, fun s => by show execRefstop w s = _; rw [execRefstop]⟩
  | refkill => exact ⟨_, fun s => by show execRefkill w s = _; rw [execRefkill]⟩
  | ctxsave => exact ⟨_, fun s => by show execCtxsave w s = _; rw [execCtxsave]⟩
  | ctxrest => exact ⟨_, fun s => by show execCtxrest w s = _; rw [execCtxrest]⟩
  | svc => exact ⟨_, fun s => by show execSvc w s = _; rw [execSvc]⟩
  | svcw => exact ⟨_, fun s => by show execSvcw w s = _; rw [execSvcw]⟩
  | evtpop => exact ⟨_, fun s => by show execEvtpop w s = _; rw [execEvtpop]⟩
  | tlbinv => exact ⟨_, fun s => by show execTlbinv w s = _; rw [execTlbinv]⟩
  | qsub => exact ⟨_, fun s => by show execQsub w s = _; rw [execQsub]⟩
  | qblk => exact ⟨_, fun s => by show execQblk w s = _; rw [execQblk]⟩
  | qunb => exact ⟨_, fun s => by show execQunb w s = _; rw [execQunb]⟩
  | qcan => exact ⟨_, fun s => by show execQcan w s = _; rw [execQcan]⟩
  | qrow => exact ⟨_, fun s => by show execQrow w s = _; rw [execQrow]⟩
  | qdig => exact ⟨_, fun s => by show execQdig w s = _; rw [execQdig]⟩
  | qseq => exact ⟨_, fun s => by show execQseq w s = _; rw [execQseq]⟩
  | qwait => exact ⟨_, fun s => by show execQwait w s = _; rw [execQwait]⟩

/-- A word that breaks a check takes the trap of the check (02_state.md:R56). -/
theorem exec_trap {op : Op} {w : W} {s : State} {i : Iss} {t : TrapV} (h : s.issuer w = some i)
    (ht : i.precheck op w = some t) : exec (Instr.ofOp op w) s = .next { s.takeTrap i.r t with cur := none } :=
  (exec_ofOp op w).elim fun _ hk => (hk s).trans (issueW_trap _ h ht)

/-- A word whose guard is false in every lane of its path has no effect (03_encoding.md:R73). -/
theorem exec_off {op : Op} {w : W} {s : State} {i : Iss} (h : s.issuer w = some i) (hp : i.precheck op w = none)
    (hb : i.held = false) (ha : i.act = 0) (hc : op.isCollective = false) :
    exec (Instr.ofOp op w) s = .next (s.wordDone i) :=
  (exec_ofOp op w).elim fun _ hk => (hk s).trans (issueW_off _ h hp hb ha hc)

end Sys2Proof.Machine
end

