-- ==== Sys2Proof/Tests/Slice0.lean ====
section
/-! SUPPORT. Tests of the model: words that the spec writes out or that its field tables give, ill-formed terms, values that
the spec's examples and rules give, and, for every statement with hypotheses, a state and operands that meet them. -/

namespace Sys2Proof.Tests

open Sys2Proof Machine

set_option maxRecDepth 20000
set_option Elab.async false

/-! ## States and words for the witnesses -/

/-- The loaded program of the model, its path issuing, with its warp, block and grid changed as given. -/
def run (fw : Warp → Warp) (fb : Block → Block) (fg : Grid → Grid) : State :=
  let s := State.reset.loadWord 0
  { s with blocks := s.blocks.map (fun b => fb { b with warps := b.warps.map fw }), grids := s.grids.map fg
           slots := [], cur := some loadRef }

/-- The loaded program as it is: every register zero, all 32 lanes live, `PREC` 52. -/
def base : State := run id id id

/-- The same with its warp changed. -/
def onWarp (f : Warp → Warp) : State := run f id id

/-- The same with given `s` registers. -/
def onS (l : Cells 32) : State := onWarp (fun w => { w with s := l })

/-- The same with its core changed. -/
def onCore (f : BlockCore → BlockCore) : State := run id (fun b => { b with cores := b.cores.map f }) id

/-- Device memory of a state with some bytes written. -/
def poke (s : State) (a : Nat) (d : List Byte) : State := { s with mem := s.mem.write false a d false }

/-- The path of the issuing warp in a park state. -/
def parkedIn (p : Park) (w : Warp) : Warp := { w with paths := w.paths.map (fun q => { q with park := p }) }

/-- An operand that a class admits, in a position of its own. -/
def fill (k : Nat) (hk : k < 6) : Cls → Opnd
  | .no => .none
  | .reg _ | .src _ _ | .zsrc _ | .v _ | .vfs | .vfn => .v ⟨8 * k, by omega⟩
  | .pd | .ps => .p ⟨k, by omega⟩
  | .sreg _ | .u _ _ => .s ⟨8 * k, by omega⟩
  | .mask => .sel .ones
  | .res _ => .res ⟨0, by omega⟩
  | .opt c => fill k hk c

/-- A word of an operation with every position filled: D at 8, A at 16, B at 24, C at 32 and E at 40. -/
def word (op : Op) (m : BitVec 5) (imm : Word) : W :=
  match entry op m.toNat imm.toNat with
  | some t => { plainWord (fill 1 (by decide) t.d) (fill 2 (by decide) t.a) (fill 3 (by decide) t.b) (fill 4 (by decide) t.c)
                  (fill 5 (by decide) t.e) imm with mod := m }
  | none => plainWord .none .none .none .none .none imm

/-- One case of a witness: a word, a state that issues it, and a further hypothesis of a clause. -/
structure Case where
  op : Op
  w : W
  s : State
  more : Iss → Bool

/-- Whether a word issues in a state, and a condition holds of its issuer. -/
def Case.holds (x : Case) : Bool :=
  match x.s.issuer x.w with
  | some i => (i.precheck x.op x.w).isNone && !i.held && i.act != 0 && x.more i
  | none => false

theorem case_issues {x : Case} (h : x.holds = true) : ∃ i, Issues x.op x.w x.s i ∧ x.more i = true := by
  unfold Case.holds at h
  cases hi : x.s.issuer x.w with
  | none => rw [hi] at h; cases h
  | some i =>
    rw [hi] at h
    simp only [Bool.and_eq_true, Option.isNone_iff_eq_none, Bool.not_eq_true', bne_iff_ne, ne_eq] at h
    exact ⟨i, ⟨hi, h.1.1.1, h.1.1.2, h.1.2⟩, h.2⟩

/-- Every case of a list is one in which its word issues and its further hypothesis holds. -/
def Met (l : List Case) : Prop := ∀ x ∈ l, ∃ i, Issues x.op x.w x.s i ∧ x.more i = true

theorem met {l : List Case} (h : l.all Case.holds = true) : Met l := fun x hx => case_issues (List.all_eq_true.1 h x hx)

/-- A word of MOD 0 in the loaded program. -/
def plain_ (op : Op) : Case := ⟨op, word op 0 0, base, fun _ => true⟩

/-- A word in the loaded program. -/
def of (op : Op) (m : BitVec 5) (imm : Word) : Case := ⟨op, word op m imm, base, fun _ => true⟩

/-- Whether the accesses of a word have room. -/
def roomy (s : State) (i : Iss) (acc : Acc) (rs : List (Nat × Nat × Nat)) : Bool :=
  !i.behind acc rs s && decide (s.requests i.warp.core = 0 ∨ s.requests i.warp.core + s.pieceCount i.ctx acc rs ≤ 3072)

/-- Whether a judgment of the detector refuses with the trap of a conflict. -/
def refuses (x : Except TrapV State) : Bool := match x with | .error t => t.cause == 8 | .ok _ => false

/-- A word in a state, with a further hypothesis. -/
def when (op : Op) (m : BitVec 5) (imm : Word) (s : State) (p : W → Iss → Bool) : Case :=
  ⟨op, word op m imm, s, p (word op m imm)⟩

/-! ## Witnesses: integers, logic, moves, special registers -/

theorem witness_integer : Met ([.add, .sub, .mul, .mad, .min, .max, .abs, .neg, .mulh, .mulw, .lea, .add64, .sub64, .shl64,
    .addc, .subb, .cmp].map plain_) := met (by decide +kernel)

/-- Both rows of the division table: a divisor that is zero and one that is not. -/
theorem witness_division : Met [
    when .idiv 0 0 base (fun w i => i.int w w.b 0 == 0), when .irem 0 0 base (fun w i => i.int w w.b 0 == 0),
    when .idiv 0 0 (onWarp (fun w => { w with v := [(32 * 24, 7)] })) (fun w i => i.int w w.b 0 == 7)] := met (by decide +kernel)

theorem witness_logic : Met ([.and, .or, .xor, .andn, .orn, .not, .shl, .shr, .sar, .rol, .ror, .bfx, .bfi, .bfr, .popc, .clz,
    .ctz, .pand, .por, .pxor, .pnot].map plain_) := met (by decide +kernel)

/-- A selector without and with a reserved one. -/
theorem witness_perm : Met [
    when .perm 1 0 base (fun w i => i.lanes.all (fun l => i.src w 1 w.c l == 0)),
    when .perm 1 0 (onWarp (fun w => { w with v := [(32 * 32 + 3, 0x18)] })) (fun w i => i.src w 1 w.c 3 % 32 / 8 == 3)] :=
  met (by decide +kernel)

theorem witness_moves : Met [plain_ .mov, of .mov 3 0, plain_ .ldi, of .ldi 1 5, plain_ .ldih, plain_ .sel] := met (by decide +kernel)

/-- A trap record of a cause, on lane 0 of the loaded path. -/
def record (cause : Nat) : TrapRec :=
  { cause := cause, sub := 0, code := 0, mask := 1, hdr := 0x10000, prog := 0, word := 1, addr := 0, ckpt := 0x10000, other := 0
    otherTkt := 0, otherGngi := 0, path := 0xFFFFFFFF, access := 0, order := 0 }

/-- An activation on the block of the loaded program, with warp 0 trapped and a second clause to issue. -/
def inSlot (firmware : Bool) (ft : Warp → Warp) (fw : Warp → Warp) : State :=
  let w := Warp.start 128 0 0 0 0x10000
  let p : Path := { mask := 1, hdr := 0x10000, word := 1, held := loadHeader, park := .run }
  let s := run ft (fun b => { b with handler := some { warp := fw { w with live := 1, paths := [p] }, trapped := 0, firmware := firmware } }) id
  { s with cur := some { lsq := 1, tkt := 0, wrp := 128, lane := 0, handler := true } }

/-- The state of a user handler that acts on a warp which took the software trap. -/
def handling : State := inSlot false (fun w => { w with trap := some (record 7), stopped := true, holder := .handler }) id

/-- A word of the slot with scalar operands: D at `s8`, A at `s16`, B at `s24`, C at `s32`. -/
def slotWord (op : Op) (m : BitVec 5) (imm : Word) : W :=
  let w := word op m imm
  let sc : Opnd → Opnd := fun o => match o with
    | .v k => if h : k.val < 192 then .s ⟨k.val, h⟩ else o
    | o => o
  { w with d := sc w.d, a := sc w.a, b := sc w.b, c := sc w.c, e := sc w.e }

/-- A deterministic grid in which lane 0 has a float atomic that is held back. -/
def owing : State := run id id (fun g => { g with
  rec_ := { g.rec_ with det := true }
  detAtoms := [{ grp := 9, tkt := 0, wrp := 0, lane := 0, path := 1, hdr := 0x10000, word := 1, addr := 0, sys := false, pa := 0, op := 0, b := 0
                 sat := false, nf := false, rop := none }] })

/-- The lanes of `owing` that may still raise a flag. -/
def owes (i : Iss) : Bool := i.grid.detAtoms.any (fun a => a.tkt == i.blk.tkt && a.wrp == i.r.wrp && i.lanes.contains a.lane && !a.nf)

theorem witness_special : Met [
    when .rds 0 14 owing (fun _ => owes), when .wrs 0 14 owing (fun _ => owes), of .rds 0 14,
    of .rds 0 16, of .rds 0 20, ⟨.rds, slotWord .rds 1 16, handling, fun i => (i.trapped.bind Warp.trap).isSome⟩,
    when .wrs 0 14 base (fun w i => i.lanes.all (fun l => i.src w 1 w.a l < 128)),
    when .wrs 0 12 base (fun w i => i.src w 1 w.a 0 == 0)] := met (by decide +kernel)

/-- A write of the trapped warp's registers: held back by a float atomic of its lanes, taken, and refused. -/
theorem witness_special_trapped :
    let due : State := { handling with grids := owing.grids }
    let of_ := fun (imm : Word) (s : State) (p : Nat → Warp → Iss → Bool) => (⟨.wrs, slotWord .wrs 1 imm, s, fun i => match i.trapped with
      | some t => p (i.uni (slotWord .wrs 1 imm) 1 (slotWord .wrs 1 imm).a) t i
      | none => false⟩ : Case)
    Met [of_ 14 due (fun _ t i => i.grid.detAtoms.any (fun a => a.tkt == i.blk.tkt && a.wrp == t.idx && (lanesOf t.live).contains a.lane && !a.nf)),
      of_ 14 handling (fun x _ i => i.grid.detAtoms == [] && decide (x < 128)), of_ 12 handling (fun x _ _ => x == 0)] := met (by decide +kernel)

theorem witness_latch (w : Warp) (s : State) : (srLatch s 16 w).latchT = (srLatch s 16 w).latchT ∧
    (srLatch s 20 w).latchC = (srLatch s 20 w).latchC := ⟨rfl, rfl⟩

/-- Each writable special register of lane 0 with a value that it takes, written as it stands. -/
theorem witness_special_values :
    let w := Warp.start 0 0 0 0 0x10000
    ∀ x ∈ [(12, 5), (13, 52), (14, 0), (18, 0x10000), (19, 0)], SrWritten x.1 [0] (fun _ => x.2) w w ∧ SrTakes x.1 x.2 ∧ x.2 < 2 ^ 32 ∧
      0 < w.prec.length ∧ 0 < w.fenv.length ∧ 0 < w.ckpt.length := by
  unfold SrWritten SrTakes
  decide +kernel

/-! ## Witnesses: floats, VF, transforms -/

theorem witness_float : Met ([.fadd, .fsub, .fmul, .fma, .fdiv, .fsqrt, .fscl, .fmin, .fmax, .fneg, .fabs, .fcmp, .fcls, .frnd,
    .fex2, .flg2, .fsinp, .fcosp, .ftnh, .frcp, .frsq].map plain_) := met (by decide +kernel)

theorem witness_rounding : fmt32 ∈ [fmt32, fmt16, fmtBf16, fmt64, fmtE5m2] ∧ 0x3F800000 < 2 ^ (fmt32.eb + fmt32.p) ∧
    (decodeF fmt32 false 0x3F800000).isNan = false ∧ (∃ l, 8 ≤ l ∧ l ≤ 176 ∧ fmtVf 176 = fmtVf l) :=
  ⟨by decide, by decide, by decide, 176, by decide, by decide, rfl⟩

/-- A codebook in slot 0 and none. -/
theorem witness_conversions : Met [of .cvt 0 0x102, of .cvtn 0 0x102, of .cvtw 0 0x102,
    when .cbdec 0 0 base (fun _ i => bits (nth i.grid.rec_.fmt 0 0) 0 8 != 7),
    when .cbdec 0 0 (run id id (fun g => { g with rec_ := { g.rec_ with fmt := List.replicate 8 7 } }))
      (fun _ i => bits (nth i.grid.rec_.fmt 0 0) 0 8 == 7)] := met (by decide +kernel)

/-- Every position of a VF word heads a window of three registers that holds zero. -/
def windows : State := onWarp (fun w => { w with tags := [(8, 3), (16, 3), (20, 3), (24, 3), (28, 3), (32, 3), (36, 3)] })

/-- The clause of a VF word that completes. -/
def vfRuns (w : W) (i : Iss) : Bool := i.warp.oneK i.lanes == some 3 && i.warp.vfTagged w.a && i.warp.vfTagged w.b &&
  i.warp.vfTagged w.c && w.d.vreg % vfAlign 3 == 0 && i.lanes.all (fun l => !precPxen (i.warp.precOf l))

theorem witness_vf : Met (([.vfadd, .vfsub, .vfmul, .vfma, .vfdiv, .vfsqrt, .vfmin, .vfmax, .vfrnd, .vfneg, .vfabs, .vfmov,
    .vfcmp].map (fun op => when op 0 0 windows vfRuns)) ++ [when .vfext 8 0 windows vfRuns, when .vfcvt 0 1 windows (fun w i =>
      i.warp.oneK i.lanes == some 3 && w.d.vreg % vfAlign 3 == 0), when .vfcvt 8 1 windows (fun w i => i.warp.vfTagged w.a),
      when .vfext 0 0 windows (fun w i => i.warp.vfTagged w.a)]) := met (by decide +kernel)

/-- Sources that are no windows. -/
theorem witness_vf_illegal : Met (([.vfadd, .vfcmp, .vfneg, .vfext].map (fun op => when op 0 0 base (fun w i =>
    !i.warp.vfTagged w.a))) ++ [when .vfcvt 8 1 base (fun w i => !i.warp.vfTagged w.a)]) := met (by decide +kernel)

/-- A lane with `PXEN` set whose sum of opposites has lost its precision. -/
theorem witness_vf_precision : Met [when .vfadd 0 0 (onWarp (fun w => { w with
    tags := [(16, 3), (24, 3)], prec := List.replicate 32 (0x10000 + 52)
    v := [(32 * 16 + 0, 0x3FFF0000), (32 * 24 + 0, 0xBFFF0000)] })) (fun w i =>
      precPxen (i.warp.precOf 0) && precisionExhausted [i.vf w w.a 0, i.vf w w.b 0] ((i.vf w w.a 0).add .rne (i.vf w w.b 0)) 52 0 &&
      i.vf w w.a 0 != .zero false)] := met (by decide +kernel)

/-- Complex sources are two windows. -/
theorem witness_transforms : Met ([of .bfly 0 0, of .cmul 0 0, of .cbfly 0 0,
    when .twid 0 0 base (fun w i => i.lanes.all (fun l => i.src w 1 w.b l ≤ 20)),
    when .bfly 8 0 windows (fun w i => i.warp.oneK i.lanes == some 3 && tagged [w.a, w.b] i && (vfDst2 w.d w.e).ok 3),
    when .cmul 8 0 windows (fun w i => [w.a, w.b].all (cxTagged i) && (cxDst1 w.d).ok 3),
    when .cbfly 8 0 windows (fun w i => [w.a, w.b, w.c].all (cxTagged i) && (cxDst2 w.d w.e).ok 3),
    when .twid 8 0 windows (fun w i => i.lanes.all (fun l => i.src w 1 w.b l ≤ 20) && (cxDst1 w.d).ok 3),
    when .twid 0 0 (onWarp (fun w => { w with v := [(32 * 24 + 5, 21)] })) (fun w i => i.src w 1 w.b 5 == 21)]) := met (by decide +kernel)

/-- The narrow types of a packed conversion, E2M1 in each half; codebook scales that are a number and a NaN. -/
theorem witness_packed :
    (∀ c ∈ [2, 3, 4, 5, 6], bits (word .cvtn 0 (BitVec.ofNat 32 c)).imm 0 8 = c) ∧
    (word .cvtn 0 0x100006).imm.getLsbD 20 = true ∧ bits (word .cvtw 0 0x100006).imm 0 8 = 6 ∧
    (base.issuer (word .cbdec 0 0)).map (fun i => i.src (word .cbdec 0 0) 1 (word .cbdec 0 0).b 0 % 256) = some 0 ∧
    (let s := onWarp (fun w => { w with v := [(32 * 24, 255)] })
     (s.issuer (word .cbdec 0 0)).map (fun i => i.src (word .cbdec 0 0) 1 (word .cbdec 0 0).b 0 % 256)) = some 255 := by decide +kernel

/-! ## Witnesses: collectives, control, traps, the checks of a word -/

theorem witness_collectives : Met ([.vote, .shfl, .red, .scan].map (fun op => when op 0 0 base (fun w i =>
    (newParts op w i).all (fun n => (i.warp.colls ++ newParts op w i).all (fun o => !partsClash i.warp n o))))) := met (by decide +kernel)

/-- A part of a collective of four lanes. -/
def part (op : Op) (m : BitVec 5) : CollPart :=
  { hdr := 0x10000, word := 1, lane := 5, ord := 0, arrived := true, op := op, w := word op m 0, width := 4, named := 0xF0, val := 1, sel := 0 }

/-- A lane that arrives with another width than one that has, at its own instance, and one that meets it at another collective. -/
theorem witness_collective_clash :
    let met_ := fun (p : CollPart) => when .vote 0 0 (onWarp (fun w => { w with colls := [p] })) (fun w i =>
      (newParts .vote w i).any (fun n => (i.warp.colls ++ newParts .vote w i).any (fun o => partsClash i.warp n o)))
    let p := part .vote 0
    Met [met_ p, met_ { p with word := 2, named := 0xFFFFFFFF }] ∧
    (let n : CollPart := { p with lane := 4, named := 0xF0 }
     n.hdr = p.hdr ∧ n.word = p.word ∧ n.ord = p.ord ∧ n.lane ≠ p.lane ∧ p.named.getLsbD 4 = true ∧
     partsClash (Warp.start 0 0 0 0 0) n { p with width := 8 } = true ∧ partsClash (Warp.start 0 0 0 0 0) n p = false) :=
  ⟨met (by decide +kernel), by decide +kernel⟩

/-- The premises of each clause on what a collective gives: its operation and its MOD. -/
theorem witness_collective_results :
    (∀ op ∈ [Op.vote, .shfl, .red, .scan], (part op 0).lane < 32 ∧ (part op 0).width ∈ [2, 4, 8, 16, 32]) ∧
    (∀ m : Fin 6, (part .vote (BitVec.ofNat 5 m)).w.mod = BitVec.ofNat 5 m) ∧
    (∀ m ∈ [0, 3, 4, 5], (part .red (BitVec.ofNat 5 m)).w.mod.toNat / 8 < 2 ∧ (part .red (BitVec.ofNat 5 m)).w.mod.toNat % 8 = m) ∧
    (part .scan 0).w.mod.toNat % 4 = 0 := by decide +kernel

theorem witness_waits : Met [plain_ .nop, when .waitlt 0 1 base (fun w i => nth i.warp.cnt w.a.resIx 0 < w.imm.toNat),
    when .waitlt 0 1 (onWarp (fun w => { w with cnt := List.replicate 12 1 })) (fun w i => w.imm.toNat ≤ nth i.warp.cnt w.a.resIx 0)] :=
  met (by decide +kernel)

/-- A word whose A is a scalar pair that holds an address. -/
def toAddr (op : Op) (m : BitVec 5) : W := { word op m 0 with a := .s 8 }

/-- Targets that are the loaded clause, and one that is no clause. -/
theorem witness_transfers : Met [
    when .bra 0 0 base (fun w i => badTargets base i.ctx i.lanes (fun _ => i.path.hdr + BitVec.ofInt 64 (16 * w.imm.toInt)) == []),
    when .call 0 0 base (fun _ i => badTargets base i.ctx i.lanes (fun _ => i.path.hdr) == []),
    ⟨.brx, toAddr .brx 0, onS [(8, 0x10000)], fun i => badTargets base i.ctx i.lanes (fun _ => 0x10000) == [] && i.src (toAddr .brx 0) 2 (.s 8) 0 == 0x10000⟩,
    ⟨.ret, toAddr .ret 0, onS [(8, 0x10000)], fun i => i.src (toAddr .ret 0) 2 (.s 8) 0 == 0x10000⟩,
    ⟨.call, toAddr .call 1, onS [(8, 0x10000)], fun i => i.src (toAddr .call 1) 2 (.s 8) 0 == 0x10000⟩,
    when .bra 0 8 base (fun _ i => (firstTrap (badTargets base i.ctx i.lanes (fun _ => 0x10080))).isSome)] := met (by decide +kernel)

theorem witness_paths_meet : List.Pairwise (fun a b : Path => ¬ (a.fresh = true ∧ b.fresh = true ∧ a.hdr = b.hdr))
    [Path.at 1 0x10000, Path.at 2 0x10020] := by decide +kernel

theorem witness_exit : Met [plain_ .exit, ⟨.exit, word .exit 0 0, handling, fun i => i.r.handler⟩] := met (by decide +kernel)

/-- A checkpoint that is a clause, and one that is none. -/
theorem witness_traps : Met [of .trap 0 5, ⟨.trec, slotWord .trec 0 0, handling, fun i => i.trapped.isSome⟩,
    ⟨.tret, word .tret 0 0, handling, fun i => RetMode.ofMod 0 != .ckpt && (i.trapped.bind Warp.trap).isSome⟩,
    ⟨.tret, word .tret 2 0, handling, fun i => RetMode.ofMod 2 == .ckpt && match i.trapped with
      | some t => ckptTrap handling i.ctx t 1 == none | none => false⟩,
    ⟨.tret, word .tret 2 0, inSlot false (fun w => { w with trap := some (record 7), ckpt := [8] }) id, fun i => match i.trapped with
      | some t => (ckptTrap handling i.ctx t 1).isSome | none => false⟩] := met (by decide +kernel)

/-- A warp at a trap, for the record and for the return in each mode. -/
theorem witness_trap_record :
    let w : Warp := { Warp.start 0 0 0 0 0x10000 with trap := some (record 7) }
    (w.path? 0).isSome = true ∧ w.trap = some (record 7) ∧ (record 7).code < 2 ^ 16 ∧ (record 7).sub < 2 ^ 8 ∧ (record 7).cause < 2 ^ 8 ∧
    (w.path? (lowLane (record 7).path)).isSome = true ∧ (∃ p ∈ w.paths, p.mask.getLsbD 0 = true ∧ (record 7).mask.getLsbD 0 = true ∧
      p.mask.getLsbD 1 = true ∧ (record 7).mask.getLsbD 1 = false) ∧
    (∃ p ∈ w.paths, p.hdr = (record 7).hdr ∧ max p.word 1 = (record 7).word) ∧
    RetMode.ofMod 0 = .retry ∧ RetMode.ofMod 1 = .skip ∧ RetMode.ofMod 2 = .ckpt := by decide +kernel

/-- A word that breaks its encoding, and one that names a register beyond its warp's. -/
theorem witness_checks :
    (let w : W := { word .add 0 0 with mod := 31 }
     (base.issuer w).map (fun i => i.subCause .add w)) = some 6 ∧
    (let s := run id id (fun g => { g with rec_ := { g.rec_ with base := 1 } })
     (s.issuer (word .add 0 0)).map (fun i => i.subCause .add (word .add 0 0) == 0 && !i.r.handler &&
      (spansOf .add (word .add 0 0) i.warp i.path.mask).any (fun x => decide (8 * i.grid.rec_.base + i.warp.ext < x.1 + x.2))) =
        some true) := by decide +kernel

theorem witness_guarded_off :
    let w : W := { word .add 0 0 with g := .one ⟨false, 0⟩ }
    (base.issuer w).map (fun i => (i.precheck .add w).isNone && !i.held && i.act == 0 && !Op.add.isCollective) = some true := by
  decide +kernel

/-- Two legal halves on the loaded path, held by its warp and not; in a handler, with a half that acts and with none; and two that break
R80. -/
theorem witness_halves :
    let x : Half := { hop := .add, d := .v 0, a := .reg (.v 1), g := none }
    let y : Half := { hop := .fmul, d := .v 2, a := .imm 0x4000, g := none }
    let off := fun h : Half => { h with g := some ⟨false, 0⟩ }
    let small := run id id (fun g => { g with rec_ := { g.rec_ with base := 0 } })
    let on := fun (s : State) (p : Iss → Bool) => s.issuing.map p = some true
    pSubCause x y = 0 ∧ pSubCause (off x) (off y) = 0 ∧ pSubCause x x ≠ 0 ∧
    on base (fun i => !i.r.handler && !i.held && decide (2 < 8 * i.grid.rec_.base + i.warp.ext)) ∧
    on small (fun i => !i.r.handler && decide (8 * i.grid.rec_.base + i.warp.ext ≤ 2)) ∧
    on handling (fun i => i.r.handler && halfLanes x i != [] && halfLanes (off x) i == [] && halfLanes (off y) i == []) := by decide +kernel

/-- A word whose opcode is unassigned on the loaded path. -/
theorem witness_unassigned : base.issuing.isSome = true := by decide +kernel

/-- Warps that an activation holds, with a wait and with a result at hand, one that has trapped, and one that it does not hold. -/
theorem witness_activation_ends :
    let w := fun (h : Holder) (t : Option TrapRec) (p : Park) => ({ parkedIn p (Warp.start 0 0 0 0 0x10000) with holder := h, trap := t, stopped := true } : Warp)
    let b : Block := { loadBlock with warps := [w .handler none (.waitw false 0 0 0 none), w .handler (some (record 7)) .run,
      w .free none .run, w .handler none (.released true 0)] }
    (∀ k, k < 4 → ∃ v, b.warps[k]? = some v ∧ ∃ p, v.paths[0]? = some p) ∧
    b.warps.map (fun v => (v.holder, v.trap.isSome)) = [(.handler, false), (.handler, true), (.free, false), (.handler, false)] ∧
    b.warps.map (fun v => v.paths.map Path.park) = [[.waitw false 0 0 0 none], [.run], [.run], [.released true 0]] := by
  refine ⟨fun k hk => ?_, by decide +kernel, by decide +kernel⟩
  have : k = 0 ∨ k = 1 ∨ k = 2 ∨ k = 3 := by omega
  rcases this with rfl | rfl | rfl | rfl <;> exact ⟨_, rfl, _, rfl⟩

/-! ## Witnesses: tiles, maps, scrums, sum trees -/

/-- An issued operation on tile 0 of core 0. -/
def mmaOn : MmaOp :=
  { op := 0, core := 0, prog := 0, signers := [], last := loadRef
    rec_ := { op := .mma, w := word .mma 0 16, aDesc := 0, bDesc := 0, aFmt := 0, bFmt := 0, aSlot := 0, bSlot := 0, src := loadRef
              id := 0, rows := [] } }

/-- Tile 0 bound, poisoned or not. -/
def tiled (p : Bool) : State := onCore (fun c => { c with tiles := [(0, { el := [], poison := p })] })

/-- Nothing comes before a word on tile 0. -/
def tileFree (_ : W) (i : Iss) : Bool := i.blk.mmasOn 0 0 == [] && i.blk.placesOn 0 0 == []

/-- Tile 0 bound, with an operation on it under way. -/
def tileBusy : State := run id (fun b => { b with mmas := [mmaOn], cores := b.cores.map (fun c => { c with tiles := [(0, { el := [], poison := false })] }) }) id

theorem witness_tiles : Met [
    when .aget 0 0 (tiled false) (fun w i => i.core?.any (fun c => bound c.tiles w.d.resIx)),
    when .aget 0 0 base (fun w i => i.core?.any (fun c => !bound c.tiles w.d.resIx) && base.tileGrantable 0 i.blk && base.tileWaiters 0 == []),
    (let s : State := { onWarp (fun w => { w with paths := w.paths.flatMap (fun p => [{ p with mask := 1 }, { p with mask := 2, park := .aget 1 0 }]) })
        with nextId := 5 }
     when .aget 0 0 s (fun w i => i.core?.any (fun c => !bound c.tiles w.d.resIx) && s.tileGrantable 0 i.blk &&
      (s.tileWaiters 0).any (fun x => s.tileGrantable 0 x.1 && earlier x (i.blk, i.warp, i.r.lane, w.d.resIx, s.nextId)))),
    (let s := onCore (fun c => { c with tiles := (List.range 64).map (fun k => (k + 1, { el := [], poison := false })) })
     when .aget 0 0 s (fun w i => i.core?.any (fun c => !bound c.tiles w.d.resIx) && !s.tileGrantable 0 i.blk)),
    (let k : Scrum := { declared := 2, signed := 1, pend := some mmaOn.rec_, signers := [] }
     when .aput 0 0 (onCore (fun c => { c with tiles := [(0, { el := [], poison := false })], scrums := [k] }))) (fun _ i => i.core?.any (fun c => c.scrums.any (fun k => k.pend.isSome))),
    when .aput 0 0 (tiled false) tileFree, when .azero 0 0 (tiled false) tileFree,
    when .aput 0 0 tileBusy (fun _ i => i.blk.mmasOn 0 0 != [] && i.path.place? == none),
    when .azero 0 0 tileBusy (fun _ i => i.blk.mmasOn 0 0 != [] && i.path.place? == none),
    (let s := run (parkedIn (.tile 0 5)) (fun b => { b with mmas := [mmaOn], cores := b.cores.map (fun c => { c with tiles := [(0, { el := [], poison := false })] }) }) id
     when .azero 0 0 s (fun _ i => i.blk.mmasOn 0 0 != [] && i.path.place? == some 5)),
    (let s := run id (fun b => { b with cores := b.cores.map (fun c => { c with tiles := [(0, { el := [], poison := false })] })
                                        warps := b.warps.flatMap (fun w => [w, { w with idx := 1, paths := w.paths.map (fun p =>
        { p with park := .tile 0 3 }) }]) }) id
     when .azero 0 0 s (fun _ i => i.blk.placesOn 0 0 == [3] && i.path.place? == none))] :=
  met (by decide +kernel)

/-- Rows and columns inside a tile and one outside; a tile poisoned and one not. -/
theorem witness_tile_access :
    let out := run (fun w => { w with v := [(32 * 24, 64)] }) (fun b => { b with cores := b.cores.map (fun c =>
      { c with tiles := [(0, { el := [], poison := false })] }) }) id
    let good : W → Iss → Bool := fun w i => i.core?.isSome && tileFree w i && i.lanes.all (fun l => i.src w 1 w.b l ≤ 63 && i.src w 1 w.c l ≤ 63)
    let bad : W → Iss → Bool := fun w i => i.src w 1 w.b 0 == 64
    Met [when .ald 0 0 (tiled false) good, when .ald 0 0 (tiled true) good, when .ald 0 0 out bad, when .ast 0 0 out bad,
      when .ast 0 0 (tiled false) good, when .ascl 0 0 (tiled false) (fun w i => i.src w 1 w.b 0 == 0), when .ascl 0 0 out bad] :=
  met (by decide +kernel)

/-- Conversions of a tile to the scratchpad: completed, illegal, poisoned, outside; and to memory. -/
theorem witness_aconv :
    let ss : Cells 32 := [(24, 0x1000), (32, 256)]
    let st := fun p (l : Cells 32) => run (fun w => { w with s := l }) (fun b => { b with cores := b.cores.map (fun c =>
      { c with tiles := [(0, { el := [], poison := p })] }) }) (fun g => { g with rec_ := { g.rec_ with fmt := List.replicate 8 1 } })
    let more := fun (b n : Nat) (w : W) (i : Iss) => i.core?.isSome && i.warp.canRaise (i.counter w) && tileFree w i &&
      i.uni w (if w.mod.getLsbD 3 then 2 else 1) w.b == b && i.uni w 1 w.c == n
    Met [when .aconv 16 0 (st false ss) (more 0x1000 256), when .aconv 0 0 (st true ss) (more 0x1000 256),
      when .aconv 16 0 (st false [(24, 0x1001), (32, 256)]) (more 0x1001 256),
      when .aconv 16 0 (st false [(24, 0xFFF0), (32, 256)]) (fun w i => more 0xFFF0 256 w i && i.blk.cores.length * i.scr == 65536),
      when .aconv 24 0 (st false ss) (fun w i => more 0x1000 256 w i &&
        let rs := (List.range 64).map (fun r => (0, 0x1000 + 256 * r, 256))
        (st false ss).laneFault i.ctx .store rs == none && roomy (st false ss) i .store rs),
      when .aconv 0 0 (run (fun w => { parkedIn (.tile 0 5) w with cnt := List.replicate 12 63 }) (fun b => { b with cores := b.cores.map (fun c =>
        { c with tiles := [(0, { el := [], poison := false })] }) }) id) (fun w i => !i.warp.canRaise (i.counter w) && i.path.park == .tile 0 5 none)] := met (by decide +kernel)

/-- A well-formed map, handle and count, and ill-formed ones. -/
theorem witness_maps :
    let q := fun (s : State) (op : Op) (n : Nat) => when op 0 0 s (fun w i => i.core?.isSome && i.uni w 4 w.a == n)
    Met [q (onS [(17, 16)]) .omset (16 * 2 ^ 32), q base .omset 0, q (onS [(18, 16)]) .thset (16 * 2 ^ 64), q base .thset 0,
      when .kinit 0 0 (onS [(24, 32)]) (fun w i => i.uni w 1 w.b == 32 && i.core?.any (fun c => (nth c.scrums 0 Scrum.empty).signed == 0)),
      when .kinit 0 0 base (fun w i => i.uni w 1 w.b == 0)] := met (by decide +kernel)

/-- The state with its page at 0 a TSO page, and a copy of the loaded warp from there under way (10_ordering.md:R225). -/
def behindCopy (s : State) : State :=
  { s with
    nextId := 9
    copies := [{ op := 3, src := loadRef, ctx := 0, core := 0, from_ := .glob 0, to_ := .sp 0, len := 16, shape := none, gcm := none, bar := none
                 todo := [0], gens := [0], data := none }]
    mem := { s.mem with tlb := [{ ctx := 0, page := 0, bits := 16, pa := 0, lc := 0, tso := true, sys := false, x := false, w := true }] } }

/-- A block whose maps, handle and tile 0 are bound, with a scrum of 0 that declares `n` and holds `k` signatures of a pending word. -/
def scrumOf (n k : Nat) (pend : Option MmaRec) (fmt : QWord) : State :=
  run id (fun b => { b with cores := b.cores.map (fun c =>
    { c with tiles := [(0, { el := [], poison := false })], maps := [(0, 2 ^ 36)], handles := [(0, 2 ^ 70)]
             scrums := [{ declared := n, signed := k, pend := pend, signers := [] }] }) })
    (fun g => { g with rec_ := { g.rec_ with fmt := List.replicate 8 fmt, stg := 65536 } })

/-- The word captured of a state. -/
def captured (m : BitVec 5) (s : State) : Option MmaRec :=
  s.issuing.bind (fun i => i.core?.map (fun c => i.capture .mma (word .mma m 16) c))

/-- The first signature and a later one; the last one of the map form and of the handle form; one too many, and a captured word that
breaks a limit. -/
theorem witness_scrum :
    let more := fun (first : Bool) (ok : Bool) (w : W) (i : Iss) => match i.core? with
      | none => false
      | some c =>
        let k := nth c.scrums 0 Scrum.empty
        let r := k.pend.getD (i.capture .mma w c)
        i.warp.canRaise (i.counter w) && k.pend.isNone == first && (r.matches .mma w && k.signed + i.lanes.length ≤ k.declared &&
          (!first || i.mmaOk r)) == ok
    let p := scrumOf 64 0 none 1
    Met [when .mma 0 16 p (more true true), when .mma 0 16 (scrumOf 96 32 (captured 0 p) 1) (more false true),
      when .mmaz 0 16 p (fun _ i => i.lanes.length == 32), when .mma 0 16 (scrumOf 32 0 none 1) (more true true),
      when .mma 1 16 (scrumOf 32 0 none 1) (more true true), when .mma 0 16 (scrumOf 16 0 none 1) (more true false),
      when .mma 0 16 (scrumOf 64 0 none 0) (more true false),
      (let far := scrumOf 32 0 none 1
       let far : State := { far with blocks := far.blocks.map (fun b => { b with cores := b.cores.map (fun c => { c with handles := [(0, 2 ^ 70 + 2 ^ 50)] }) }) }
       when .mma 1 16 far (fun w i => more true true w i && i.core?.any (fun c =>
         (far.fetchHandle i.warp.core i.ctx (i.capture .mma w c)).1.missing != 0))),
      (let s := behindCopy (scrumOf 64 0 none 1)
       when .mma 1 16 s (fun w i => more true true w i && i.core?.any (fun c => i.behind .load (i.capture .mma w c).handleRows s)))] := met (by decide +kernel)

/-- A copy of 16 bytes from memory to the scratchpad of the loaded block, with the generations given. -/
def copying (gens : List Nat) (gcm : Option GcmPar) : State :=
  { base with copies := [{ op := 3, src := loadRef, ctx := 0, core := 0, from_ := .glob 0x60000, to_ := .sp 0, len := 16, shape := none
                           gcm := gcm, bar := none, todo := [0], gens := gens, data := none }] }

/-- The parameters of a confidential copy. -/
def par0 : GcmPar := { ctr := 1, fix := 0, sto := 0, ksl := 0 }

/-- A deterministic grid whose log holds another block's store to the first sector of memory. -/
def logged (s : State) : State := { s with grids := s.grids.map (fun g =>
  { g with rec_ := { g.rec_ with det := true }
           detLog := [{ gngi := 0, sector := 0, tkt := 1, wrp := 0, interval := 0, kind := 1 }] }) }

/-- The detector's judgment of the first signature of the handle form. -/
theorem witness_scrum_conflict :
    let s := logged (scrumOf 64 0 none 1)
    Met [when .mma 1 16 s (fun w i => match i.core? with
      | none => false
      | some c => match i.detectRows true (i.capture .mma w c) s with
        | .error t => t.cause == 8 && i.mmaOk (i.capture .mma w c)
        | .ok _ => false)] := met (by decide +kernel)

/-- Leaves inside the register and outside, a register poisoned and not. -/
theorem witness_trees :
    let inside := fun (w : W) (i : Iss) => i.lanes.all (fun l => i.src w 1 w.b l < 64) && (nth i.blk.trees 0 Tree.empty).poison == false
    let bad := onWarp (fun w => { w with v := [(32 * 24 + 1, 65)] })
    Met (([.stclr, .stset, .stadd, .stget, .stpre, .sttot, .stfind, .stcut, .stcutm, .stq].map (fun op => when op 0 0 base inside)) ++
      [when .stget 0 0 (run id (fun b => { b with trees := [{ leaves := [], poison := true }] }) id) (fun _ i =>
        (nth i.blk.trees 0 Tree.empty).poison), when .stget 0 0 bad (fun w i => i.src w 1 w.b 1 == 65),
       when .stpre 0 0 bad (fun w i => i.src w 1 w.b 1 == 65)]) := met (by decide +kernel)

/-- Weights of `stq` for each clause on its mass: a NaN, a negative one, −0, +infinity, one beyond a leaf of 32 bits, one that is exact and
one that is not; a scale that leaves halves. -/
theorem witness_masses :
    let x := fun v : Word => when .stq 0 0 (onWarp (fun w => { w with v := [(32 * 32, v)] })) (fun w i =>
      i.warp.src w.imm 1 (stqFmt w).oneBits w.c 0 == v.toNat && stqScale w i 0 == 0 && i.grid.leafBits == 32 && w.mod == 0)
    Met [x 0x7FC00000, x 0xBF800000, x 0x80000000, x 0x7F800000, x 0x4F800000, x 0x40400000, x 0x40200000] ∧
    RoundsTo 0xC00000 (-22) 3 ∧ RoundsTo 0xA00000 (-22) 2 ∧ RoundsTo 0x800000 9 0x100000000 ∧ 2 ^ 32 - 1 < 0x100000000 ∧
    0xC00000 % 2 ^ 22 = 0 ∧ 0xA00000 % 2 ^ 22 ≠ 0 := ⟨met (by decide +kernel), by simp [RoundsTo], by simp [RoundsTo], by simp [RoundsTo], by decide, by decide, by decide⟩

theorem witness_tree_sums :
    let t : Tree := { leaves := [(0, 3), (7, 5)], poison := false }
    cwf t.leaves = true ∧ (∀ e ∈ t.leaves, e.1 < 64) ∧ findLeaf 4 t.leaves 0 = some 7 ∧ findLeaf 8 t.leaves 0 = none := by decide

/-- Transfers of a register to and from the scratchpad and memory, and a misaligned one. -/
theorem witness_tree_transfers :
    let more := fun (a : Nat) (w : W) (i : Iss) => i.warp.canRaise (i.counter w) && i.uni w (if w.mod = 1 then 2 else 1) w.b == a &&
      64 * 2 ^ i.grid.rec_.wtl * (i.grid.leafBits / 8) == 256
    let clear := fun (acc : Acc) (w : W) (i : Iss) => more 0 w i && base.laneFault i.ctx acc [(0, 0, 256)] == none && roomy base i acc [(0, 0, 256)]
    Met [when .stld 0 0 base (more 0), when .stst 0 0 base (more 0), when .stld 1 0 base (clear .load), when .stst 1 0 base (clear .store),
      when .stld 0 0 (onS [(24, 8)]) (more 8), when .stst 0 0 (onS [(24, 8)]) (more 8)] := met (by decide +kernel)

/-- Tile 0 bound, with an `aput` of it waiting on another warp, and the loaded path in the park state given. -/
def putBehind (p : Park) : State := run id (fun b => { b with
  cores := b.cores.map (fun c => { c with tiles := [(0, { el := [], poison := false })] })
  warps := b.warps.flatMap (fun w => [parkedIn p w, parkedIn (.aput 0 3) { w with idx := 1 }]) }) id

/-- Words of each kind on a tile that an earlier `aput` is to unbind, one of them at a later place. -/
theorem witness_put_before :
    (∀ op ∈ [Op.aput, .azero, .ast, .ascl, .ald, .aconv, .mma, .mmaz], let w := word op 0 (if op = .mma ∨ op = .mmaz then 16 else 0)
      ((putBehind .run).issuer w).map (fun i => (i.subCause op w, i.r.handler, i.path.park, (if op = .ald ∨ op = .aconv then w.a.resIx else w.d.resIx),
        i.blk.putBefore i.warp.core 0 i.path)) = some (0, false, .run, 0, true)) ∧
    ((putBehind (.tile 0 5)).issuing).map (fun i => (i.path.place?, i.blk.putBefore i.warp.core 0 i.path)) = some (some 5, true) ∧
    ((putBehind (.tile 0 2)).issuing).map (fun i => (i.path.place?, i.blk.putBefore i.warp.core 0 i.path)) = some (some 2, false) := by
  decide +kernel

/-- An `aput` that waits and has its place. -/
theorem witness_put_waits : Met [
    (let s := run (parkedIn (.aput 0 5)) (fun b => { b with mmas := [mmaOn], cores := b.cores.map (fun c => { c with tiles := [(0, { el := [], poison := false })] }) }) id
     when .aput 0 0 s (fun _ i => i.blk.mmasOn 0 0 != [] && i.path.place? == some 5))] := met (by decide +kernel)

/-! ## Witnesses: loads, stores, atomics, fences -/

/-- The ranges of a global access at address 0 in every lane. -/
def zeros (i : Iss) (n : Nat) : List (Nat × Nat × Nat) := i.lanes.map (fun l => (l, 0, n))

/-- Sector 0 of the scratchpad poisoned. -/
def spPoison : State := onCore (fun c => { c with spPoison := [(0, 1)] })

/-- 3,072 requests of core 0 outstanding. -/
def crowdedCore : State := { base with groups := [{ op := 9, lsq := 2, tkt := 0, wrp := 0, ctr := none, core := 0, kind := 0, left := 3072, cpod := 0
                                                    chip := true }] }

/-- Accesses that land; that fault; that meet a conflict; that are poisoned; that lie outside; and that wait for a counter or for room. -/
theorem witness_accesses :
    let clear := fun acc (s : State) (_ : W) (i : Iss) => s.laneFault i.ctx acc (zeros i 4) == none && roomy s i acc (zeros i 4)
    let full := fun acc (_ : W) (i : Iss) => crowdedCore.laneFault i.ctx acc (zeros i 4) == none && !roomy crowdedCore i acc (zeros i 4)
    let free := fun (w : W) (i : Iss) => i.warp.canRaise (i.counter w)
    let hit := fun k acc (s : State) (_ : W) (i : Iss) => match i.detect k (s.detSectors i.ctx acc (zeros i 4)) s with
      | .error t => t.cause == 8 && s.laneFault i.ctx acc (zeros i 4) == none && roomy s i acc (zeros i 4)
      | .ok _ => false
    let far := onWarp (fun w => { w with v := [(32 * 17, 0x80)] })
    let fault := fun acc (w : W) (i : Iss) => i.src w 2 w.a 0 == 0x8000000000 && (far.laneFault i.ctx acc [(0, 0x8000000000, 4)]).isSome
    let dev : State := { base with mem := { base.mem with devPoison := [(0, 1)] } }
    Met [when .ldg 0 0 crowdedCore (full .load), when .stg 0 0 crowdedCore (full .store), when .ldg 0 0 base (clear .load base), when .stg 0 0 base (clear .store base), when .ldg 0 0 far (fault .load),
      when .stg 0 0 far (fault .store), when .ldg 0 0 (logged base) (hit 0 .load (logged base)),
      when .stg 0 0 (logged base) (hit 1 .store (logged base)),
      when .ldg 0 0 dev (fun _ i => clear .load dev (word .ldg 0 0) i && (dev.loadLanes i (zeros i 4)).2.1 == 0xFFFFFFFF),
      when .ldsp 0 0 base (fun w i => !i.blk.spPoisoned i.scr (i.src w 1 w.a 0) 4), when .stsp 0 0 base free,
      when .ldsp 0 0 spPoison (fun w i => i.blk.spPoisoned i.scr (i.src w 1 w.a 0) 4),
      when .ldsp 0 0x10000 base (fun _ i => i.blk.cores.length * i.scr == 0x10000),
      when .stsp 0 0x10000 base (fun _ i => i.blk.cores.length * i.scr == 0x10000),
      when .stg 0 0 (onWarp (fun w => { w with cnt := List.replicate 12 63 })) (fun w i => !i.warp.canRaise (i.counter w)),
      when .stsp 0 0 (onWarp (fun w => { w with cnt := List.replicate 12 63 })) (fun w i => !i.warp.canRaise (i.counter w))] :=
  met (by decide +kernel)

/-- The other long-latency words wait for their counters too. -/
theorem witness_counters_full : Met ([Op.stvf, .stld, .stst, .aconv, .atomg, .atomsp, .tcopy, .mcast, .rput, .rget, .rflag, .rwake, .qpost,
    .launch, .tlbinv, .qsub].map (fun op => when op 0 (if op = .atomg ∨ op = .atomsp then 0xC else 0)
      (run (fun w => { w with cnt := List.replicate 12 63 }) (fun b => { b with cores := b.cores.map (fun c =>
        { c with tiles := [(0, { el := [], poison := false })] }) }) id) (fun w i => !i.warp.canRaise (i.counter w)))) := met (by decide +kernel)

/-- The detector on the scratchpad of a block of two cores. -/
theorem witness_scratch_conflict :
    let s := run id (fun b => { b with cores := [BlockCore.start 0 0, BlockCore.start 1 0] }) (fun g =>
      { g with rec_ := { g.rec_ with det := true }, detLog := [{ gngi := 0, sector := 2 ^ 60, tkt := 0, wrp := 1, interval := 0, kind := 1 }] })
    Met [when .stsp 0 0 s (fun _ i => match i.detect 1 (i.detScratch (zeros i 4)) s with
      | .error t => t.cause == 8
      | .ok _ => false)] := met (by decide +kernel)

/-- A line that a copy of the core serves, one that is kept, and one of class 0. -/
theorem witness_lines :
    let s : State := { base with mem := { base.mem with l1 :=
      [{ core := 0, ctx := 0, line := 2, expiry := none, data := List.replicate 128 0, poison := [] }] } }
    let found := fun line => s.mem.l1.any (fun c => c.core == 0 && c.line == line && c.usable s.time)
    let x : Xlat := { sys := false, pa := 256, lc := 1, tso := false }
    (x.sys = false ∧ (x.lc = 1 ∨ x.lc = 2 ∨ x.lc = 3 ∨ x.lc = 7)) ∧ found (x.pa / 128) = true ∧ found 3 = false ∧
    ¬ ({ x with lc := 0 } : Xlat).lc ∈ [1, 2, 3, 7] ∧ base.homeOps = [] := by decide +kernel

theorem witness_scratch_bytes : 0 < 65536 ∧ 16 + [(1 : Byte), 2].length ≤ (loadBlock).cores.length * 65536 ∧
    17 < (loadBlock).cores.length * 65536 := by decide

/-- VF elements in both spaces, a source that is no window, and a destination that is not aligned. -/
theorem witness_vf_elements :
    let dst := fun (w : W) (i : Iss) => i.warp.oneK i.lanes == some 3 && w.d.vreg % vfAlign 3 == 0
    let src := fun (w : W) (i : Iss) => i.warp.canRaise (i.counter w) && i.warp.vfTagged w.b
    let odd : W := { word .ldvf 0 0 with d := .v 9 }
    Met [when .stvf 0 0 windows src, when .stvf 1 0 windows (fun w i => src w i && roomy windows i .store (zeros i 10)), when .stvf 0 0 base (fun w i => !i.warp.vfTagged w.b),
      when .ldvf 0 0 base dst, when .ldvf 1 0 base (fun w i => dst w i && base.laneFault i.ctx .load (zeros i 1) == none && roomy base i .load (zeros i 1) &&
        (base.loadLanes i (zeros i 1)).2.1 == 0),
      ⟨.ldvf, odd, base, fun i => i.warp.oneK i.lanes == some 3 && odd.d.vreg % vfAlign 3 != 0⟩] := met (by decide +kernel)

/-- Atomics that run in both spaces, that a deterministic grid defers or performs, and that are misaligned. -/
theorem witness_atomics :
    let det := run id id (fun g => { g with rec_ := { g.rec_ with det := true } })
    let bare := fun op : Op => ({ word op 0 1 with d := .none } : W)
    let one := onWarp (fun w => { w with v := [(32 * 16, 2)] })
    let free := fun (w : W) (i : Iss) => i.warp.canRaise (i.counter w) && i.lanes.all (fun l => i.src w 1 w.a l == 0)
    Met [when .atomg 0 0xC base (fun w i => free w i && base.laneFault i.ctx .store (zeros i 4) == none && roomy base i .store (zeros i 4)),
      when .atomsp 0 0xC base free,
      ⟨.atomg, bare .atomg, det, fun i => i.grid.rec_.det && det.laneFault i.ctx .store (zeros i 4) == none && roomy det i .store (zeros i 4)⟩,
      ⟨.atomsp, bare .atomsp, det, fun i => i.grid.rec_.det && i.lanes.all (fun l => i.src (bare .atomsp) 1 (bare .atomsp).a l == 0)⟩,
      when .atomsp 0 1 det (fun w i => i.grid.rec_.det && w.d != .none), when .atomg 0 1 det (fun w i => i.grid.rec_.det && w.d != .none),
      when .atomg 0 0xC one (fun w i => i.src w 1 w.a 0 % 4 != 0), when .atomsp 0 0xC one (fun w i => i.src w 1 w.a 0 % 4 != 0)] :=
  met (by decide +kernel)

theorem witness_atomic_effect :
    base.homeOps = [] ∧ (base.translate 0 64 .store).toOption = some { sys := false, pa := 64, lc := 0, tso := false } ∧
    base.mem.poisoned false 64 = false ∧ 12 ∈ [12, 13, 14, 15] ∧ 5 < 2 ^ (8 * atomBytes 12) := by decide +kernel

/-- One operation of the loaded warp outstanding, of the `drain` path given. -/
def pending (kind : Nat) : State := { base with groups := [{ op := 9, lsq := 1, tkt := 0, wrp := 0, ctr := none, core := 0, kind := kind
                                                             left := 1, cpod := 0, chip := true }] }

/-- Fences and drains that go on, that wait, and that were released; the pod time has passed 0. -/
theorem witness_fences :
    let late : State := { base with time := 5 }
    let p := fun (s : State) (_ : W) (i : Iss) => i.path.park == .run && s.fenceOps i.r 2 == [] && i.warp.wctp.toNat < s.time.toNat
    let rel := onWarp (parkedIn (.released true 0))
    let stalled := { late with blocks := late.blocks.map (fun b => { b with warps := b.warps.map (parkedIn (.stall none)) }) }
    let gcm := copying [0] (some par0)
    let fetching := run id (fun b => { b with mmas := [{ mmaOn with rec_ := { mmaOn.rec_ with w := word .mma 1 16, id := 9 } }] }) id
    let r := fun (_ : W) (i : Iss) => i.path.park == .released true 0
    let waits := fun (s : State) (_ : W) (i : Iss) => i.path.park == .run && s.fenceOps i.r 2 != []
    Met [of .fence 0 0, when .fence 0 0 gcm (fun _ i => i.path.park == .run && gcm.statusOps i.r == [3]),
      when .fence 1 0 fetching (fun _ i => i.path.park == .run && fetching.fenceOps i.r 1 == [9]),
      when .fence 3 0 stalled (fun _ i => i.path.park == .stall none && stalled.fenceOps i.r 3 == []), when .fence 2 0 late (p late), when .fence 2 0 (pending 0) (waits (pending 0)), when .fence 2 0 rel r,
      when .drain 0 0 base (fun _ i => i.path.park == .run), when .drain 0 0 (pending 1) (fun _ i => i.path.park == .run),
      when .drain 1 0 late (p late), when .drain 1 0 (pending 2) (waits (pending 2)), when .drain 1 0 rel r] := met (by decide +kernel)

/-- A range of one line that translates, with no store pending. -/
theorem witness_line_range : base.homeOps = [] ∧ base.covers = [] ∧ 0 < 4 ∧
    (base.translate 0 64 .load).toOption = some { sys := false, pa := 64, lc := 0, tso := false } ∧ 64 % 65536 + 4 ≤ 65536 ∧ 64 % 128 + 4 ≤ 128 := by
  decide +kernel

/-- Two lanes whose stores cover a poisoned sector between them, and the first of them alone. -/
theorem witness_whole_sector :
    let s : State := { base with mem := { base.mem with devPoison := [(2, 1)] } }
    let lane := fun a : Nat => (a, List.replicate 16 (1 : Byte))
    let ops := fun ls : List (Nat × List Byte) => (s.issuing.map (fun i => (s.issueStores i (word .stg 2 0) 0 ls false).homeOps)).getD []
    let stored := fun ls : List (Nat × List Byte) => ∀ j, j < 32 → ∃ h ∈ ops ls, h.sys = false ∧ h.pa ≤ 32 * 2 + j ∧ 32 * 2 + j < h.pa + h.data.length
    s.homeOps = [] ∧ s.covers = [] ∧ s.mem.poisoned false (32 * 2) = true ∧ stored [lane 64, lane 80] ∧ ¬ stored [lane 64] := by decide +kernel

/-- The same in scratchpad. -/
theorem witness_whole_sector_scratch :
    let b : Block := { loadBlock with cores := loadBlock.cores.map (fun c => { c with spPoison := [(0, 1)] }) }
    let lane := fun a : Nat => (a, List.replicate 16 (1 : Byte))
    let stored := fun ls : List (Nat × List Byte) => ∀ j, j < 32 → ∃ x ∈ ls, x.1 ≤ 0 / 32 * 32 + j ∧ 0 / 32 * 32 + j < x.1 + x.2.length
    0 < 64 ∧ 64 % 32 = 0 ∧ 0 < b.cores.length * 64 ∧ (∀ x ∈ [lane 0, lane 16], x.1 + x.2.length ≤ b.cores.length * 64) ∧
    b.spPoisoned 64 0 1 = true ∧ stored [lane 0, lane 16] ∧ ¬ stored [lane 0] := by decide +kernel

/-! ## Witnesses: barriers, copies, caches, remote words, waits -/

/-- A word without its optional operand C. -/
def noC (op : Op) (m : BitVec 5) (imm : Word) : W := { word op m imm with c := .none }

/-- An armed barrier at offset 0, phase 0, with nothing pending; `s24` holds `n`, the pod time is 5. -/
def armed (n : Word) (f : Warp → Warp) : State :=
  let s := run (fun w => f { w with s := if n = 0 then [] else [(24, n)] })
    (fun b => { b with cores := b.cores.map (fun c => { c with sp := [(0, 0x80)] }) }) id
  { s with time := 5 }

/-- Barriers placed, armed, of a phase that has left and that has not; misplaced or unarmed ones; a released wait. -/
theorem witness_transfer_barriers :
    let b := fun (i : Iss) => i.blk.tbar i.scr 0
    let on := fun (n : Nat) (w : W) (i : Iss) => (b i).arm && i.uni w 1 w.a == 0 && i.uni w 1 w.b == n && 16 ≤ i.blk.cores.length * i.scr
    let off := fun (_ : W) (i : Iss) => !(b i).arm
    Met [when .tbinit 0 0 (armed 1 id) (on 1), when .tbinit 0 0 base (fun w i => i.uni w 1 w.b == 0), when .tbexp 0 0 (armed 1 id) (on 1),
      when .tbexp 0 0 base off, when .tbarr 0 0 (armed 0 id) (fun _ i => (b i).arm), when .tbarr 0 0 base off,
      when .tbtest 0 0 (armed 1 id) (on 1), when .tbtest 0 0 base off, when .tbwait 0 0 base off,
      when .tbwait 0 0 (armed 1 id) (fun w i => on 1 w i && (b i).ph != 1 && (b i).lct.toNat < (armed 1 id).time.toNat),
      when .tbwait 0 0 (armed 0 id) (fun w i => on 0 w i && (b i).ph == 0 && i.path.park == .run),
      when .tbwait 0 0 (armed 0 (parkedIn (.released true 0))) (fun _ i => i.path.park == .released true 0)] := met (by decide +kernel)

/-- The premises of each clause on a change: it fits and ends the phase, it fits and does not, it does not fit. -/
theorem witness_barrier_counts :
    let b : TBar := { lct := 0, psec := 1, arld := 2, parr := 2, arm := true, gmm := false, psn := false, err := false, ph := 15 }
    (b.arld < 2 ^ 13 ∧ b.parr < 2 ^ 13 ∧ -(2 ^ 29) ≤ b.psec ∧ b.psec < 2 ^ 29 ∧ b.ph < 16) ∧ (2 ≤ b.parr ∧ b.parr = 2 ∧ b.psec = 1) ∧
    (1 ≤ b.parr ∧ b.parr ≠ 1) ∧ (¬ 3 ≤ b.parr ∧ b.parr ≠ 0) := by decide

theorem witness_copies :
    let len := onS [(24, 16)]
    let ok := fun (op : Op) (w : W) (s : State) (i : Iss) => i.warp.canRaise (i.counter w) && match op with
      | .tcopy => let o := tcopyOf w i; copyOk w i o && i.optTbOk w && placeInside i o.to_ o.rows && placeInside i o.from_ o.srcRows &&
          placeFault i s .load o.from_ o.srcRows == none && placeFault i s .store o.to_ o.rows == none
      | _ => let q := BitVec.ofNat 128 (i.uni w 4 w.a); castOk q && castInside i.grid q && i.optTbOk w &&
          placeInside i (i.place w (w.mod == 0) w.b) [(0, bits q 64 32)]
    let cast := onS [(17, 0x100), (18, 16), (24, 0x200)]
    let tc := noC .tcopy 0 0
    let detOf := fun (w : W) (s : State) (i : Iss) =>
      let o := tcopyOf w i
      i.detectAll [(0, placeSectors i s .load o.from_ o.srcRows), (1, placeSectors i s .store o.to_ o.rows)] s
    let fits := fun (w : W) (i : Iss) => let o := tcopyOf w i
      i.warp.canRaise (i.counter w) && copyOk w i o && i.optTbOk w && placeInside i o.to_ o.rows && placeInside i o.from_ o.srcRows
    let faults := fun (w : W) (s : State) (i : Iss) => let o := tcopyOf w i
      ((placeFault i s .load o.from_ o.srcRows).isSome, (placeFault i s .store o.to_ o.rows).isSome)
    let farFrom := onS [(17, 0x80), (24, 16)]
    let farTo := onS [(9, 0x80), (24, 16)]
    let farBoth := onS [(9, 0x80), (17, 0x80), (24, 16)]
    let mg := noC .mcast 1 0
    let castWords := fun (w : W) (s : State) (n : Bool) (i : Iss) => let q := BitVec.ofNat 128 (i.uni w 4 w.a)
      castOk q && castInside i.grid q && i.optTbOk w && placeInside i (i.place w (w.mod == 0) w.b) [(0, bits q 64 32)] &&
        (placeFault i s .load (i.place w (w.mod == 0) w.b) [(0, bits q 64 32)]).isNone == n
    let castDet := fun (w : W) (s : State) (i : Iss) => let q := BitVec.ofNat 128 (i.uni w 4 w.a)
      i.detectAll [(0, placeSectors i s .load (i.place w (w.mod == 0) w.b) [(0, bits q 64 32)]), (1, castSectors i s q
        ((rectCores (bits q 0 4) (bits q 4 4) (bits q 8 4 + 1) (bits q 12 4 + 1)).map (castTargetOf i s q)))] s
    let castAt := fun (l : Cells 32) => onS ([(17, 0x100), (18, 16)] ++ l)
    Met [⟨.tcopy, tc, logged len, fun i => fits tc i && faults tc (logged len) i == (false, false) && refuses (detOf tc (logged len) i)⟩,
      ⟨.tcopy, tc, len, fun i => fits tc i && faults tc len i == (false, false) && (detOf tc len i).isOk⟩,
      ⟨.tcopy, tc, farFrom, fun i => fits tc i && faults tc farFrom i == (true, false)⟩,
      ⟨.tcopy, noC .tcopy 1 0, farTo, fun i => fits (noC .tcopy 1 0) i && faults (noC .tcopy 1 0) farTo i == (false, true)⟩,
      ⟨.tcopy, noC .tcopy 2 0, farBoth, fun i => fits (noC .tcopy 2 0) i && faults (noC .tcopy 2 0) farBoth i == (true, true)⟩,
      ⟨.mcast, mg, behindCopy (castAt []), fun i => castWords mg (behindCopy (castAt [])) true i &&
        i.behind .load (placeRanges i (i.place mg (mg.mod == 0) mg.b) [(0, bits (BitVec.ofNat 128 (i.uni mg 4 mg.a)) 64 32)]) (behindCopy (castAt []))⟩,
      ⟨.mcast, noC .mcast 0 0, cast, fun i => castWords (noC .mcast 0 0) cast true i && (castDet (noC .mcast 0 0) cast i).isOk⟩,
      ⟨.mcast, mg, castAt [(25, 0x80)], fun i => castWords mg (castAt [(25, 0x80)]) false i⟩,
      ⟨.mcast, mg, logged (castAt []), fun i => castWords mg (logged (castAt [])) true i && refuses (castDet mg (logged (castAt [])) i) &&
        !(logged (castAt [])).olderAsync i.r (logged (castAt [])).nextId⟩,
      ⟨.tcopy, noC .tcopy 0 0, len, ok .tcopy (noC .tcopy 0 0) len⟩, ⟨.tcopy, noC .tcopy 2 0, len, ok .tcopy (noC .tcopy 2 0) len⟩,
      ⟨.tcopy, noC .tcopy 0 0, base, fun i => !copyOk (noC .tcopy 0 0) i (tcopyOf (noC .tcopy 0 0) i)⟩,
      ⟨.mcast, noC .mcast 0 0, cast, ok .mcast (noC .mcast 0 0) cast⟩,
      ⟨.mcast, noC .mcast 0 0, base, fun i => !castOk (BitVec.ofNat 128 (i.uni (noC .mcast 0 0) 4 (noC .mcast 0 0).a))⟩] := met (by decide +kernel)

/-- Addresses beyond what the page table maps, in `s16` and every other source of the words below. -/
def farS : State := onS [(9, 0x80), (17, 0x80), (33, 0x80)]

/-- Lines locked, held by a lock and beyond the context's quota; translations that fault. -/
theorem witness_caches :
    let lk := fun op => ({ word op 0 0 with a := .s 16 } : W)
    let clear := fun (_ : W) (i : Iss) => base.laneFault i.ctx .load (zeros i 1) == none
    let held : State := { base with mem := { base.mem with locks := [(0, 0)] } }
    let x : Xlat := { sys := false, pa := 0, lc := 0, tso := false }
    Met [when .lkl 0 0 base clear, when .ulk 0 0 base clear, of .pref 0 0, of .pref 1 0,
      ⟨.lkl, lk .lkl, farS, fun i => (farS.laneFault i.ctx .load [(0, i.src (lk .lkl) 2 (.s 16) 0, 1)]).isSome⟩,
      ⟨.ulk, lk .ulk, farS, fun i => (farS.laneFault i.ctx .load [(0, i.src (lk .ulk) 2 (.s 16) 0, 1)]).isSome⟩] ∧
    (held.lockLine 0 x).1 = true ∧ (base.lockLine 0 x).1 = false := ⟨met (by decide +kernel), by decide +kernel, by decide +kernel⟩

/-- Pod-global addresses in `s8` and `s16`, aligned or not, and other addresses. -/
theorem witness_remote :
    let pod := onS [(9, 0x1000000), (17, 0x1000000), (24, 16)]
    let odd := onS [(16, 4), (17, 0x1000000)]
    let at16 := ({ word .ratom 0 0xC with a := .s 16 } : W)
    let src := fun (w : W) (i : Iss) => i.warp.canRaise (i.counter w) && remoteLenOk (i.uni w 1 w.b) 0 && i.optTbOk w
    let none_ := fun (o : W → Opnd) (w : W) (i : Iss) => podAddr (i.uni w 2 (o w)) == none
    let det := fun s : State => ({ s with grids := s.grids.map (fun g => { g with rec_ := { g.rec_ with det := true } }) } : State)
    let float := ({ word .ratom 0 1 with a := .s 16 } : W)
    let near := fun (i : Iss) => i.lanes.all (fun l => podAddr (i.src at16 2 (.s 16) l) == some (0, 0)) && i.grid.rec_.det && !i.r.handler
    let ends := fun (get : Bool) (w : W) (s : State) (i : Iss) =>
      let p := i.place w (!w.mod.getLsbD 1) (if get then w.d else w.a)
      let rows := [(0, i.uni w 1 w.b)]
      src w i && placeInside i p rows && placeFault i s (if get then .store else .load) p rows == none &&
        (i.detect (if get then 1 else 0) (placeSectors i s (if get then .store else .load) p rows) s).isOk
    let released := fun s : State => ({ det s with blocks := s.blocks.map (fun b => { b with warps := b.warps.map (parkedIn (.released true 0)) }) } : State)
    let gone := fun (i : Iss) => near i && i.path.park == .released true 0
    let put := behindCopy (onS [(9, 0x1000000), (24, 16)])
    let get := behindCopy (onS [(17, 0x1000000), (24, 16)])
    let late := fun (get : Bool) (w : W) (s : State) (i : Iss) =>
      let p := i.place w (!w.mod.getLsbD 1) (if get then w.d else w.a)
      ends get w s i && i.behind (if get then .store else .load) (placeRanges i p [(0, i.uni w 1 w.b)]) s
    Met [⟨.ratom, at16, released pod, gone⟩, ⟨.ratom, { float with d := .none }, released pod, gone⟩,
      ⟨.rput, noC .rput 2 0, put, late false (noC .rput 2 0) put⟩, ⟨.rget, noC .rget 2 0, get, late true (noC .rget 2 0) get⟩,
      ⟨.rput, noC .rput 0 0, pod, ends false (noC .rput 0 0) pod⟩, ⟨.rget, noC .rget 0 0, pod, ends true (noC .rget 0 0) pod⟩,
      ⟨.rput, noC .rput 0 0, det pod, ends false (noC .rput 0 0) (det pod)⟩, ⟨.rget, noC .rget 0 0, det pod, ends true (noC .rget 0 0) (det pod)⟩,
      when .rflag 0 0 (det pod) (fun w i => i.grid.rec_.det && podAddr (i.uni w 2 w.a) == some (0, 0)),
      when .rwake 0 0 (det pod) (fun w i => i.grid.rec_.det && podAddr (i.uni w 2 w.a) == some (0, 0)),
      ⟨.ratom, at16, det pod, near⟩, ⟨.ratom, float, det pod, fun i => near i && float.d != .none⟩,
      ⟨.ratom, { float with d := .none }, det pod, near⟩,
      ⟨.rput, noC .rput 0 0, pod, fun i => src (noC .rput 0 0) i && podAddr (i.uni (noC .rput 0 0) 2 (.s 8)) == some (0, 0)⟩,
      ⟨.rget, noC .rget 0 0, pod, fun i => src (noC .rget 0 0) i && podAddr (i.uni (noC .rget 0 0) 2 (.s 16)) == some (0, 0)⟩,
      when .rflag 0 0 pod (fun w i => podAddr (i.uni w 2 w.a) == some (0, 0)), when .rwake 0 0 pod (fun w i => podAddr (i.uni w 2 w.a) == some (0, 0)),
      when .rput 0 0 base (none_ W.d), when .rget 0 0 base (none_ W.a), when .rflag 0 0 base (none_ W.a), when .rwake 0 0 base (none_ W.a),
      when .rflag 0 0 odd (fun w i => podAddr (i.uni w 2 w.a) == some (0, 4)), when .rwake 0 0 odd (fun w i => podAddr (i.uni w 2 w.a) == some (0, 4)),
      ⟨.ratom, at16, pod, fun i => i.lanes.all (fun l => podAddr (i.src at16 2 (.s 16) l) == some (0, 0)) && !i.grid.rec_.det⟩,
      ⟨.ratom, at16, odd, fun i => i.lanes.all (fun l => podAddr (i.src at16 2 (.s 16) l) == some (0, 4))⟩] := met (by decide +kernel)

/-- A wait that was released, that is misaligned, that faults, that holds, that is late, and that parks. -/
theorem witness_waitw :
    let late : State := { base with time := 5 }
    let reads := fun (s : State) (w : W) (i : Iss) => i.uni w 2 w.a == 0 && i.uni w 2 w.b == 0 && i.path.park == .run &&
      s.laneFault i.ctx .load [(i.lane0, 0, 8)] == none && (s.translate i.ctx 0 .load).isOk &&
      (s.fillTlb i.ctx 0).mem.nat false 0 8 == 0
    Met [when .waitw 1 0 (logged base) (fun w i => reads (logged base) w i &&
        refuses (i.detect 0 ((logged base).detSectors i.ctx .load [(i.lane0, 0, 8)]) (logged base))),
      when .waitw 1 0 (behindCopy base) (fun w i => reads (behindCopy base) w i && i.behind .load [(i.lane0, 0, 8)] (behindCopy base)),
      when .waitw 0 0 (onWarp (parkedIn (.released true 0))) (fun _ i => i.path.park == .released true 0),
      when .waitw 0 0 (onS [(16, 4)]) (fun w i => i.uni w 2 w.a == 4),
      when .waitw 0 0 farS (fun w i => (farS.laneFault i.ctx .load [(i.lane0, i.uni w 2 w.a, 8)]).isSome),
      when .waitw 1 0 base (reads base), when .waitw 0 0 late (fun w i => reads late w i && i.uni w 2 w.c == 0),
      ⟨.waitw, noC .waitw 0 0, base, reads base (noC .waitw 0 0)⟩] := met (by decide +kernel)

/-- A named barrier: legal and full, legal and not, illegal; a wait that ends, that parks, that is illegal; a released one. -/
theorem witness_named_barriers :
    let n := fun k : Word => onS [(24, k)]
    let is := fun (k : Nat) (w : W) (i : Iss) => i.uni w 1 w.b == k && i.path.park == .run && (i.barrier w).arc == 0 && i.lanes.length == 32
    let par := fun (b : Bool) (w : W) (i : Iss) => i.uni w 1 w.b == 0 && (i.barrier w).phb == false && i.warp.pred w.c i.lane0 == b
    let gcm : State := { n 32 with copies := (copying [0] (some par0)).copies }
    Met [when .bar 0 0 gcm (fun w i => is 32 w i && gcm.copies.any (fun o => o.gcm.isSome && o.data.isNone && o.src.sameWarp i.r)),
      when .bar 0 0 (n 32) (is 32), when .bar 1 0 (n 64) (is 64), when .bar 0 0 (n 64) (is 64), when .bar 0 0 base (is 0),
      when .bar 2 0 (n 4097) (is 4097), when .bar 2 0 (onWarp (fun w => { w with p := [(4, 1)] })) (par true), when .bar 2 0 base (par false),
      when .bar 0 0 (onWarp (parkedIn (.released true 0))) (fun _ i => i.path.park == .released true 0)] := met (by decide +kernel)

/-- Requests for extended registers that are granted, refused and wait. -/
theorem witness_extended :
    let st := fun (n : Word) (base_ : Nat) => run (fun w => { w with s := if n = 0 then [] else [(16, n)] }) id (fun g =>
      { g with rec_ := { g.rec_ with ext := 8, base := base_ } })
    let ok := fun (w : W) (i : Iss) => i.uni w 1 w.a == 8 && 8 ≤ i.grid.rec_.ext && i.warp.ext == 0 && !i.r.handler
    let none_ := fun (s : State) (w : W) (i : Iss) => ok w i && s.extNow i 8 == none
    Met [of .yield 0 0, when .yield 0 0 (run id id (fun g => { g with rec_ := { g.rec_ with det := true } })) (fun _ i => i.grid.rec_.det),
      when .phase 0 0 (st 1 48) (fun w i => i.uni w 1 w.a == 1), when .phase 0 0 base (fun w i => i.uni w 1 w.a == 0),
      when .xget 0 0 (st 8 40) (fun w i => ok w i && ((st 8 40).extNow i 8).isSome), when .xget 0 0 base (fun w i => i.uni w 1 w.a == 0),
      when .xget 1 0 (st 8 300) (none_ (st 8 300)), when .xget 0 0 (st 8 300) (none_ (st 8 300)),
      when .xput 0 0 (onWarp (fun w => { w with ext := 8 })) (fun _ i => i.warp.ext == 8), when .xput 0 0 base (fun _ i => i.warp.ext == 0)] :=
  met (by decide +kernel)

/-- A deterministic grid in which the loaded warp has an ordered float `ratom` to module 0 held back; the path in the state given. -/
def heldBack (s : State) (p : Park) : State :=
  { s with
    blocks := s.blocks.map (fun b => { b with warps := b.warps.map (parkedIn p) })
    grids := s.grids.map (fun g => { g with
      rec_ := { g.rec_ with det := true }
      detAtoms := [{ grp := 9, tkt := 0, wrp := 0, lane := 0, path := 1, hdr := 0x10000, word := 1, addr := 0, sys := false, pa := 0, op := 0, b := 0
                     sat := false, nf := false
                     rop := some { op := 5, grp := 9, src := loadRef, ctx := 0, target := 0, off := 0, kind := .atom 0 1 false 0 0, ordered := true
                                   after := [], seq := 0, sent := 0, resends := 0, answer := none, det := none, path := 1, act := 1, hdr := 0x10000
                                   word := 1, lane := 0, dst := none, to_ := none, len := 0, bar := none, nf := false, gens := [], result := none } }] }) }

/-- Remote words that come behind it, before and after the target's detector has accepted them; an unordered one that does not. -/
theorem witness_held_back :
    let pod := onS [(9, 0x1000000), (17, 0x1000000), (24, 16)]
    let at16 := ({ word .ratom 0 0xC with a := .s 16 } : W)
    let free := ({ at16 with d := .none } : W)
    let loose := ({ at16 with mod := 16 } : W)
    let s := heldBack pod .run
    let t := heldBack pod (.released true 0)
    let due := fun (ordered : Bool) (kind : RemoteKind) (i : Iss) => i.grid.rec_.det && i.behindHeld (i.remote 0 0 kind ordered 1)
    let at0 := fun (w : W) (o : W → Opnd) (i : Iss) => i.warp.canRaise (i.counter w) && podAddr (i.uni w 2 (o w)) == some (0, 0)
    Met [when .rflag 0 0 s (fun w i => at0 w W.a i && due true (.flag 0) i), when .rflag 0 0 t (fun w i => at0 w W.a i && due true (.flag 0) i),
      when .rwake 0 0 s (fun w i => at0 w W.a i && !due false (.wake 0) i),
      ⟨.rput, noC .rput 0 0, s, fun i => at0 (noC .rput 0 0) W.d i && due true (.put [] []) i⟩,
      ⟨.rget, noC .rget 0 0, t, fun i => at0 (noC .rget 0 0) W.a i && due true (.get 16) i⟩,
      ⟨.ratom, at16, s, due true (.atom 0 0xC false 0 0)⟩, ⟨.ratom, at16, t, due true (.atom 0 0xC false 0 0)⟩,
      ⟨.ratom, free, t, due true (.atom 0 0xC false 0 0)⟩, ⟨.ratom, loose, t, fun i => !due false (.atom 0 0xC false 0 0) i⟩] := met (by decide +kernel)

/-- An `xput` whose warp has a collective under way that writes an extended register. -/
theorem witness_xput_owed : Met [
    (let s := run (fun w => { w with ext := 8, colls := [{ part .red 0 with w := { (part .red 0).w with d := .v 320 } }] }) id (fun g =>
        { g with rec_ := { g.rec_ with base := 40 } })
     when .xput 0 0 s (fun _ i => i.warp.ext == 8 && i.warp.extOwed i.grid.rec_.base)),
    when .xput 0 0 (onWarp (fun w => { w with ext := 8, colls := [part .red 0] })) (fun _ i =>
      i.warp.ext == 8 && !i.warp.extOwed i.grid.rec_.base)] := met (by decide +kernel)

/-! ## Witnesses: work, the referee's words, system words, the Quadrille's words -/

/-- A launch record in its 256 bytes: entry 0x10000, one block of one warp, version 1, one module, base 48. -/
def recBytes : List Byte :=
  leBytes 256 (0x10000 * 2 ^ 768 + 2 ^ 688 + 2 ^ 672 + 2 ^ 664 + 2 ^ 656 + 2 ^ 648 + 48 * 2 ^ 616 + 2 ^ 596)

/-- The launch record at 0x20000, the queue table at 0x40000, the pod time 5. -/
def working : State :=
  let s := poke base 0x20000 recBytes
  { s with time := 5, front := { s.front with table := some 0x40000 } }

/-- What a judgment says: 0 for an acceptance, 256 for a cancellation, otherwise the code of the refusal. -/
def verdict : Verdict → Nat
  | .refused c => c
  | .cancelled _ => 256
  | .accepted _ _ n => n

theorem witness_work :
    let late : State := { base with time := 5 }
    let room := fun (w : W) (i : Iss) => i.warp.canRaise (i.counter w)
    let fenced := fun (s : State) (w : W) (i : Iss) => room w i && i.path.park == .run && s.fenceOps i.r 2 == [] && i.warp.wctp.toNat < s.time.toNat &&
      i.warp.wctc.toNat < s.time.toNat
    let st := fun (l : Cells 32) => ({ working with blocks := working.blocks.map (fun b => { b with warps := b.warps.map (fun w => { w with s := l }) }) } : State)
    let bad := fun (n : Int) (i : Iss) => badTargets base i.ctx i.lanes (fun _ => i.path.hdr + BitVec.ofInt 64 n)
    let marked := fun s : State => ({ s with mem := { s.mem with devPoison := [(0x10080 / 32, 1)] } } : State)
    let meets := fun (s : State) (cause : Nat) (other : Bool) (_ : W) (i : Iss) =>
      (firstTrap (badTargets s i.ctx i.lanes (fun _ => i.path.hdr + BitVec.ofInt 64 128))).map TrapV.cause == some cause &&
        (i.blk.hudCont.any (· != 0x10080)) == other
    let second := run id (fun b => { b with hudCont := some 0x10020 }) id
    Met [when .hud 0 0 base (fun _ i => bad 0 i == [] && !i.r.handler && i.blk.hudCont == none),
      when .hud 0 8 base (meets base 1 false), when .hud 0 8 second (meets second 1 true),
      when .hud 0 8 (marked base) (meets (marked base) 5 false), when .hud 0 8 (marked second) (meets (marked second) 5 true),
      when .hud 0 0 (run id (fun b => { b with hudCont := some 0x10020 }) id) (fun _ i => bad 0 i == [] && i.blk.hudCont == some 0x10020),
      when .qpost 0 0 (st [(24, 1)]) (fun w i => fenced (st []) w i && i.uni w 1 w.b == 1 && bits (working.mem.queueDesc 0x40000 0) 162 6 == i.ctx),
      when .qpost 0 0 working (fun w i => fenced working w i && i.uni w 1 w.b == 0),
      when .qpost 0 0 late (fun w i => fenced late w i && late.front.table == none),
      when .qpost 0 0 base (fun w i => room w i && i.path.park == .run && base.time == 0),
      when .launch 0 0 late (fenced late), when .launch 0 0 (st [(16, 8)]) (fun w i => fenced working w i && i.uni w 2 w.a == 8),
      when .launch 0 0 base (fun w i => room w i && i.path.park == .run && base.time == 0)] := met (by decide +kernel)

/-- A queue of the table, and launches that are refused and accepted. -/
theorem witness_launches :
    working.front.table = some 0x40000 ∧ (3 : Nat) ≤ 4095 ∧ (working.ctxDesc 1).getLsbD 64 = false ∧
    verdict (working.judge 0 0 (.inside (some 1) 0 0) 0) = 1 ∧ (working.grid? 1).isSome = true ∧
    (match working.judge 0 0x20000 (.inside (some 1) 0 0) 0 with | .accepted _ _ n => n == 0 | _ => false) = true := by decide +kernel

/-- The state of a firmware sequence on the block of the loaded program, with the block's own warp changed. -/
def firmware (ft : Warp → Warp) : State := inSlot true ft id

/-- A user handler whose selector in `s16` names warp 0 of its block. -/
def naming (ft : Warp → Warp) : State := inSlot false ft (fun w => { w with s := [(16, 0x80000000)] })

theorem witness_referee :
    let held := fun (h : Holder) (w : Warp) => ({ w with holder := h, stopped := true } : Warp)
    let trapped := fun (c : Nat) (h : Holder) (w : Warp) => ({ w with trap := some (record c), holder := h, stopped := true } : Warp)
    let c := fun (op : Op) (m : BitVec 5) (imm : Word) (s : State) (p : Warp → Bool) =>
      (⟨op, slotWord op m imm, s, fun i => match i.namedWarp s (slotWord op m imm) with
        | some (b, t) => (s.grid? b.lsq).isSome && p t
        | none => false⟩ : Case)
    let fw := trapped 7 (.firmware 1 0)
    let badCkpt := fun w => { fw w with ckpt := [8] }
    Met [c .refrd 0 0 (naming (trapped 7 .handler)) (fun t => t.trap.isSome), c .refrd 0 0 (naming id) (fun t => !t.stopped && t.trap.isNone),
      c .refwr 1 0x200 (naming (trapped 7 .handler)) (fun t => t.holder == .handler && itemWritable t loadGrid 0x200 0),
      c .refwr 1 0x200 (naming id) (fun t => t.holder == .free), c .refres 0 0 (firmware fw) (fun t => t.holder == .firmware 1 0 && t.trap.isSome),
      c .refres 2 0 (firmware badCkpt) (fun t => t.holder == .firmware 1 0 && (ckptTrap base 0 t 1).isSome),
      c .refres 0 0 (firmware (held (.firmware 1 0))) (fun t => t.holder == .firmware 1 0 && t.trap.isNone), c .refres 0 0 (firmware id) (fun t => t.holder == .free),
      c .refstop 0 0 (firmware (held (.firmware 1 0))) (fun t => t.holder == .firmware 1 0),
      c .refstop 0 0 (firmware (fun w => { w with live := 0, paths := [] })) (fun t => t.holder == .free && t.ended),
      c .refstop 0 0 (firmware (fun w => { w with paths := [Path.at 0xFFFFFFFF 0x10000] })) (fun t => t.holder == .free && !t.ended && t.atRest && t.busy == []),
      c .refstop 0 0 (firmware id) (fun t => t.holder == .free && !t.ended && !t.atRest)] := met (by decide +kernel)

/-- Selectors that name nothing, and kills by a handler and by the firmware. -/
theorem witness_referee_kills :
    let s := naming (fun w => { w with trap := some (record 7), stopped := true })
    Met [⟨.refrd, slotWord .refrd 0 0, inSlot false id id, fun i => (i.namedWarp (inSlot false id id) (slotWord .refrd 0 0)).isNone⟩,
      ⟨.refkill, slotWord .refkill 0 0, s, fun i => (i.named s 0x80000000).isSome && !i.firmware && (i.trapped.bind Warp.trap).isSome⟩,
      ⟨.refkill, slotWord .refkill 0 5, s, fun i => !i.firmware⟩,
      ⟨.refkill, slotWord .refkill 0 12, firmware id, fun i => (i.named (firmware id) 0).isSome && i.firmware⟩] ∧
    (naming id).block? 1 0 ≠ none ∧ loadBlock.res ≠ .killed := ⟨met (by decide +kernel), by decide +kernel, by decide⟩

/-- A block that the firmware holds and one that it does not, drained or not; a saved block of another grid and its origins. -/
theorem witness_saves :
    let held := firmware (fun w => { w with holder := .firmware 1 0, stopped := true })
    let deep : State := { held with ctxs := updAt held.ctxs 0 (fun c => { c with desc := c.desc ||| (2 ^ 50 : BitVec 512) <<< 320 }) }
    let busy := firmware (fun w => { w with holder := .firmware 1 0, stopped := true, busy := [7] })
    let saves := fun (s : State) (st : Bool × Bool × Bool) (i : Iss) => match i.named s 0 with
      | some (b, _) => i.firmware && b.res == .resident && (b.coreAt i.warp.core).isSome &&
          (b.drained, b.advanced, s.inbound b) == st && b.warps.all (fun t => t.holder == i.holder || t.ended)
      | none => false
    let moved := fun s : State => ({ s with blocks := s.blocks.map (fun b => { b with cores := b.cores.map (fun c =>
      { c with gen := 1, old := some 0 }) }) } : State)
    let coming : State := { moved held with copies := (copying [0] none).copies }
    let saved : Block := { loadBlock with lsq := 2, res := .saved, frame := 1 }
    let with_ : State := { held with blocks := held.blocks ++ [saved], grids := held.grids ++ [{ loadGrid with lsq := 2 }] }
    let org := fun (s : State) (n : Nat) (room : Bool) (kind : Residence) (i : Iss) => match i.named s 0x80, s.grid? 2 with
      | some (b, _), some g => i.firmware && b.res == kind && g.mayUse b.tkt (n, 0) &&
          s.blocks.all (fun x => x.res != .resident || (g.coresAt (n, 0)).all (fun c => (x.coreAt c).isNone)) &&
          (s.savedSeats false g (n, 0) b).isSome == room
      | _, _ => false
    let full : State := { with_ with grids := held.grids ++ [{ loadGrid with lsq := 2, rec_ := { loadRec with scr := 2 ^ 20 } }] }
    let away : State := { held with
      blocks := held.blocks ++ [{ loadBlock with lsq := 2, frame := 1, cores := loadBlock.cores.map (fun c => { c with core := 5 }) }]
      grids := held.grids ++ [{ loadGrid with lsq := 2 }] }
    let at1 := fun (s : State) => ({ s with blocks := s.blocks.map (fun b => { b with handler := b.handler.map (fun a =>
      { a with warp := { a.warp with s := [(16, 0x80), (24, 1)] } }) }) } : State)
    Met [⟨.ctxsave, slotWord .ctxsave 0 0, firmware id, fun i => i.warp.canRaise (i.counter (slotWord .ctxsave 0 0)) && !(saves (firmware id) (true, false, false) i)⟩,
      ⟨.ctxsave, slotWord .ctxsave 0 0, busy, saves busy (false, false, false)⟩,
      ⟨.ctxsave, slotWord .ctxsave 0 0, held, saves held (true, false, false)⟩,
      ⟨.ctxsave, slotWord .ctxsave 0 0, coming, saves coming (true, true, true)⟩,
      ⟨.ctxsave, slotWord .ctxsave 0 0, moved held, saves (moved held) (true, true, false)⟩,
      ⟨.ctxsave, slotWord .ctxsave 0 0, moved deep, fun i => saves (moved deep) (true, true, false) i && (deep.translate 0 (2 ^ 50) .store).toOption.isNone⟩,
      ⟨.ctxrest, slotWord .ctxrest 0 0, at1 with_, org (at1 with_) 1 true .saved⟩, ⟨.ctxrest, slotWord .ctxrest 0 0, at1 full, org (at1 full) 1 false .saved⟩,
      ⟨.ctxrest, slotWord .ctxrest 0 0, at1 away, org (at1 away) 1 true .resident⟩,
      ⟨.ctxrest, slotWord .ctxrest 0 0, held, fun i => (i.named held 0).isSome⟩] := met (by decide +kernel)

/-- A warp with a service call in the state given. -/
def calling (c : SvcCall) : State := { onWarp (fun w => { w with svc := c }) with time := 5 }

theorem witness_system :
    let late : State := { base with time := 5 }
    let fenced := fun (s : State) (_ : W) (i : Iss) => i.path.park == .run && s.fenceOps i.r 3 == [] && i.warp.wcts.toNat < s.time.toNat && i.warp.svc == .none
    let ring := fun (n m : Nat) (at_ : BitVec 512) => ({ base with ctxs := updAt base.ctxs 0 (fun c =>
      { c with written := n, taken := m, desc := c.desc ||| at_ <<< 384 }) } : State)
    let two := fun l : List DetAcc => let s := run id (fun b => { b with cores := [BlockCore.start 0 0, BlockCore.start 1 0] }) (fun g =>
        { g with rec_ := { g.rec_ with det := true }, detLog := l })
      ({ s with ctxs := (ring 1 0 0x30000).ctxs } : State)
    let clash := two [{ gngi := 0, sector := 2 ^ 60, tkt := 0, wrp := 1, interval := 0, kind := 1 }]
    let some_ := fun (s : State) (_ : W) (i : Iss) => decide ((nth s.ctxs i.ctx CtxEnt.absent).taken < (nth s.ctxs i.ctx CtxEnt.absent).written)
    Met [when .svc 0 0 (calling .replied) (fun _ i => i.warp.svc != .none), when .svc 0 0 late (fenced late), when .svc 0 0 base (fun _ i => i.path.park == .run),
      when .svcw 0 0 base (fun _ i => i.warp.svc == .none), when .svcw 0 0 (calling (.waiting 1 1 0)) (fun _ i => i.warp.svc == .waiting 1 1 0),
      when .svcw 0 0 (calling .replied) (fun _ i => i.warp.svc == .replied),
      when .evtpop 0 0 (onS [(16, 4)]) (fun w i => i.uni w 1 w.a == 4), of .evtpop 0 0,
      when .evtpop 0 0 (ring 1 0 (2 ^ 50)) (some_ (ring 1 0 (2 ^ 50))),
      when .evtpop 0 0 (ring 1 0 0x30000) (fun w i => some_ (ring 1 0 0x30000) w i && ((ring 1 0 0x30000).translate 0 0x30000 .load).isOk),
      when .evtpop 0 0 clash (fun w i => some_ clash w i && (clash.translate 0 0x30000 .load).isOk &&
        refuses (i.detect 1 (i.detScratch [(i.lane0, 0, 64)]) clash)),
      when .evtpop 0 0 (two []) (fun w i => some_ (two []) w i && i.detScratch [(i.lane0, 0, 64)] != [] &&
        (i.detect 1 (i.detScratch [(i.lane0, 0, 64)]) (two [])).isOk),
      of .tlbinv 0 0, when .tlbinv 0 0 (onS [(16, 4)]) (fun w i => i.uni w 2 w.a == 4),
      when .tlbinv 0 0 (onS [(16, 0x10000), (24, 1)]) (fun w i => i.uni w 2 w.a == 0x10000 && i.uni w 1 w.b == 1)] := met (by decide +kernel)

/-- Service calls in each state that the service cores answer from. -/
theorem witness_services :
    let s := fun (num : Nat) (msg : QWord) => calling (.waiting 1 num msg)
    let waits := fun (num : Nat) (msg : QWord) => (s num msg).warpAt loadRef |>.map Warp.svc
    waits 1 7 = some (.waiting 1 1 7) ∧ waits 2 8 = some (.waiting 1 2 8) ∧ waits 9 0 = some (.waiting 1 9 0) ∧
    (s 3 0).att.awaiting.find? (fun x => x.2 == 1) = none ∧ (∀ p ∈ (s 3 0).att.outbox, p.src ≠ some 1) ∧ (s 3 0).att.ring = none ∧
    ({ (s 3 0) with att := { (s 3 0).att with awaiting := [(0, 1)], ring := some (0, 6), posts := 1, ncn := 1 } } : State).att.passed 0 = true ∧
    ((s 3 0).block? 1 0).isSome = true := by decide +kernel

theorem witness_quadrille_words :
    let late : State := { base with time := 5 }
    let halted : State := { late with quad := { late.quad with halted := true } }
    let s16 := fun n : Word => ({ onS [(16, n)] with time := 5 } : State)
    let fenced := fun (s : State) (w : W) (i : Iss) => i.warp.canRaise (i.counter w) && i.path.park == .run && s.fenceOps i.r 2 == [] &&
      i.warp.wctp.toNat < s.time.toNat
    let may := fun (s : State) (b : Bool) (w : W) (i : Iss) => fenced s w i && s.mayRaise == b
    let alone := fun l : Cells 32 => ({ halted with blocks := (onS l).blocks } : State)
    Met ([when .qsub 0 0 (alone [(16, 8)]) (fun w i => may (alone [(16, 8)]) false w i && i.uni w 2 w.a == 8 && i.uni w 2 w.b == 0),
      when .qsub 0 0 (alone [(24, 4)]) (fun w i => may (alone [(24, 4)]) false w i && i.uni w 2 w.b == 4)] ++
      ([.qsub, .qblk, .qunb, .qcan].flatMap (fun op => [when op 0 0 late (may late true), when op 0 0 halted (may halted false),
        when op 0 0 base (fun _ i => i.path.park == .run), when op 0 0 (s16 0x1001) (fun w i => fenced (s16 0x1001) w i && i.uni w 1 w.a == 0x1001)])) ++
      [when .qrow 0 0 base (fun w i => i.uni w 1 w.a == 0), when .qrow 0 0 (s16 4096) (fun w i => i.uni w 1 w.a == 4096), of .qdig 0 0, of .qseq 0 0,
       when .qwait 0 0 (onWarp (parkedIn (.released true 0))) (fun _ i => i.path.park == .released true 0),
       when .qwait 0 0 base (fun w i => i.uni w 2 w.a == 0 && base.qwaitEnd false 0 (some 0) == some (0, true)),
       when .qwait 0 0 (onS [(16, 9)]) (fun w i => i.uni w 2 w.a == 9 && base.qwaitEnd false 9 (some 0) == none),
       when .qwait 1 0 base (fun w i => i.uni w 1 w.a == 0 && base.quad.osq == 0)]) := met (by decide +kernel)

/-- The premises of the clauses on what a wait of the Quadrille gives. -/
theorem witness_qwait :
    let s : State := { base with time := 5, quad := { base.quad with osq := 2, fates := [(1, .delivered 3), (2, .discarded)] } }
    0 ≤ s.quad.rep.seq ∧ s.quad.rep.seq < 1 ∧ (0 : DWord).toNat < s.time.toNat ∧ ¬ (9 : DWord).toNat < s.time.toNat ∧
    s.quad.osq < 1 + 65536 ∧ s.quad.fates.find? (fun f => f.1 == 1) = some (1, .delivered 3) ∧
    s.quad.fates.find? (fun f => f.1 == 2) = some (2, .discarded) := by decide +kernel

/-! ## Witnesses: what happens between instructions -/

/-- A context whose save area lies in mapped memory. -/
def saving : State :=
  { base with ctxs := updAt base.ctxs 0 (fun c => { c with desc := c.desc ||| (0x1000000 : BitVec 512) <<< 320 }) }

/-- A block without a warp or a tree. -/
def bare : Block := { loadBlock with warps := [], trees := [] }

/-- Its grid, with 128 bytes of scratchpad. -/
def small : Grid := { loadGrid with rec_ := { loadRec with scr := 128 } }

theorem bare_image (tag : Nat) : (bare.frameImage small tag).map (fun x => (x.1, x.2.1.length)) =
    [(0, 0x1000), (0x90000, 0x10000), (0x200000, 128)] := by
  simp [Block.frameImage, Block.firmAreas, bare, small, loadBlock, loadRec, Block.start, BlockCore.start, areaBytes, frameSp,
    length_cgetMany, List.range_one]

/-- Every area of the save of that block translates. -/
theorem witness_save_frame : ({ saving with blocks := [bare] } : State).block? 1 0 = some bare ∧ (bare.cores.map BlockCore.core).Nodup ∧
    ∀ x ∈ bare.frameImage small saving.fresh, ∃ l, saving.translateRange small.rec_.ctx
      (saving.frameBase small.rec_.ctx bare.frame + x.1) x.2.1.length .store = .ok l := by
  refine ⟨by decide +kernel, by decide, fun x hx => ?_⟩
  have hl := List.mem_map_of_mem (f := fun x : Nat × List Byte × Bool => (x.1, x.2.1.length)) hx
  rw [bare_image] at hl
  have hk : ∀ y ∈ [(0, 0x1000), (0x90000, 0x10000), (0x200000, 128)], (saving.translateRange small.rec_.ctx
      (saving.frameBase small.rec_.ctx bare.frame + y.1) y.2 .store).isOk = true := by decide +kernel
  have := hk _ hl
  cases h : saving.translateRange small.rec_.ctx (saving.frameBase small.rec_.ctx bare.frame + x.1) x.2.1.length .store with
  | ok l => exact ⟨l, rfl⟩
  | error e => rw [h] at this; cases this

/-- A frame fault depends on the places and lengths of the areas alone. -/
theorem frameFault_lengths (s : State) (b : Block) (ctx at_ : Nat) (image : List (Nat × List Byte × Bool)) :
    s.frameFault b ctx at_ image = (image.map (fun x => (x.1, x.2.1.length))).any (fun y =>
      (match s.translateRange ctx (at_ + y.1) y.2 .store with | .error _ => true | .ok _ => false) ||
      (sectorsOf y.1 y.2).any (fun k => !(s.markedIn ctx b.frame).contains k && (s.homeRead ctx (at_ + 32 * k) 32).2)) := by
  simp only [State.frameFault, List.any_map, Function.comp_def]
  all_goals rfl

/-- Nothing is read marked where nothing is marked. -/
theorem homeRead_clean (s : State) (hd : s.mem.devPoison = []) (hh : s.mem.hostPoison = []) (ctx va len : Nat) :
    (s.homeRead ctx va len).2 = false := by
  have hp : ∀ sys pa, s.mem.poisoned sys pa = false := by
    intro sys pa
    simp only [Memory.poisoned, hd, hh]
    cases sys <;> rfl
  have hf : ∀ (l : List (Xlat × Nat)) (a : List Byte × Bool), a.2 = false → (l.foldl (fun a p =>
      (a.1 ++ s.mem.bytes p.1.sys p.1.pa p.2,
       a.2 || (sectorsOf p.1.pa p.2).any (fun k => s.mem.poisoned p.1.sys (32 * k)))) a).2 = false := by
    intro l
    induction l with
    | nil => exact fun a h => h
    | cons p l ih =>
      intro a h
      exact ih _ (by simp [h, hp])
  exact hf _ _ rfl

/-- The frame of that block takes its image in mapped memory, and faults in memory that nothing maps. -/
theorem witness_frame_faults :
    let far : State := { base with ctxs := updAt base.ctxs 0 (fun c => { c with desc := c.desc ||| (2 ^ 50 : BitVec 512) <<< 320 }) }
    saving.frameFault bare 0 (saving.frameBase 0 bare.frame) (bare.frameImage small saving.fresh) = false ∧
    far.frameFault bare 0 (far.frameBase 0 bare.frame) (bare.frameImage small far.fresh) = true := by
  intro far
  have none_ : ∀ l : List Nat, (l.any fun _ => false) = false := by simp
  simp only [frameFault_lengths, bare_image, homeRead_clean saving rfl rfl, homeRead_clean far rfl rfl, Bool.and_false, none_]
  decide +kernel

theorem length_leBytes (k n : Nat) : (leBytes k n).length = k := by
  induction k generalizing n with
  | zero => rfl
  | succ k ih => rw [leBytes, List.length_cons, ih]

/-- A block that is at rest with one warp, which has left, and no tree. -/
def ending : Block :=
  { bare with lsq := 2, frame := 1, warps := [{ Warp.start 0 0 0 0 0x10000 with live := 0, paths := [], released := true }]
              cores := bare.cores.map (fun c => { c with gen := 1, old := some 0 }) }

/-- The firmware on the loaded block, and that block beside it, its save area in mapped memory. -/
def savingBare : State :=
  let s := inSlot true id (fun w => { w with s := [(16, 0x80)] })
  { s with blocks := s.blocks ++ [ending], grids := s.grids ++ [{ small with lsq := 2 }], ctxs := saving.ctxs }

theorem nothing (v : Cells 32) : bytesOf (cgetMany v 0 0) = [] := rfl

theorem ending_image (tag : Nat) : (ending.frameImage { small with lsq := 2 } tag).map (fun x => (x.1, x.2.1.length)) =
    [(0, 0x1000), (0x90000, 0x10000), (0x10000, 0x1000), (0x1000, 32), (0x200000, 128), (0x800000, 0)] := by
  simp [Block.frameImage, Block.firmAreas, ending, bare, small, loadBlock, loadRec, Block.start, BlockCore.start, areaBytes, frameSp, frameReply,
    frameVec, Warp.start, Warp.regs, nothing, length_cgetMany, length_leBytes, List.range_one]

theorem ending_fits : savingBare.frameFault ending 0 (savingBare.frameBase 0 1) (ending.frameImage { small with lsq := 2 } savingBare.fresh) = false := by
  have none_ : ∀ l : List Nat, (l.any fun _ => false) = false := by simp
  simp only [frameFault_lengths, ending_image, homeRead_clean savingBare rfl rfl, Bool.and_false, none_]
  decide +kernel

/-- A save that leaves the block saved. -/
theorem witness_saved : Met [⟨.ctxsave, slotWord .ctxsave 0 0, savingBare, fun i => (i.named savingBare 0x80).map Prod.fst == some ending &&
      i.firmware && (ending.coreAt i.warp.core).isSome && ending.warps.all Warp.ended && i.warp.canRaise (i.counter (slotWord .ctxsave 0 0))⟩] ∧
    (ending.res = .resident ∧ ending.drained = true ∧ ending.advanced = true ∧ savingBare.inbound ending = false) ∧
    (savingBare.grid? 2).isSome = true ∧
    ∃ x, (savingBare.saveBlock ending { small with lsq := 2 }).block? 2 0 = some x ∧ x.res = .saved :=
  ⟨met (by decide +kernel), by decide +kernel, by decide +kernel,
    State.saveBlock_saved (b := ending) (g := { small with lsq := 2 }) (by decide +kernel) ending_fits⟩

/-- A save whose frame lies in memory that nothing maps leaves the block unsaved. -/
theorem witness_not_saved :
    let s : State := { savingBare with ctxs := updAt base.ctxs 0 (fun c => { c with desc := c.desc ||| (2 ^ 50 : BitVec 512) <<< 320 }) }
    s.block? 2 0 = some ending ∧ s.inbound ending = false ∧ ¬ ∃ x, (s.saveBlock ending { small with lsq := 2 }).block? 2 0 = some x ∧ x.res = .saved := by
  intro s
  refine ⟨by decide +kernel, by decide +kernel, fun ⟨x, hx, hs⟩ => ?_⟩
  have hf : s.frameFault ending 0 (s.frameBase 0 1) (ending.frameImage { small with lsq := 2 } s.fresh) = true := by
    have none_ : ∀ l : List Nat, (l.any fun _ => false) = false := by simp
    simp only [frameFault_lengths, ending_image, homeRead_clean s rfl rfl, Bool.and_false, none_]
    decide +kernel
  have := State.saveBlock_killed (b := ending) (g := { small with lsq := 2 }) hf hx
  rw [this] at hs
  cases hs

/-- The loaded warp parked in a given state, at pod time 5. -/
def parked (p : Park) : State := { onWarp (parkedIn p) with time := 5 }

/-- Each wait ended and not ended; deadlines passed and not. -/
theorem witness_waits_end :
    let there := fun (p : Park) => (((parked p).block? 1 0).bind (fun b => (b.refWarp? loadRef).bind (fun w => (w.path? 0).map Path.park))) = some p ∧
      ((parked p).grid? 1).isSome = true ∧ ((parked p).awakeAt loadRef).map Path.park = some p
    (∀ p ∈ [Park.fence 0 [], .fence 0 [3], .fence 2 [], .fence 2 [9], .drain 1 [] 0, .drain 2 [] 9, .tbwait 0 0 (some 1), .tbwait 0 1 none, .waitw false 0 0 0 (some 1),
      .waitw false 0 0 0 (some 9), .qwait false 9 (some 1), .qwait false 9 (some 9)], there p) ∧
    ((parked .run).qwaitEnd false 9 (some 1)).isSome = true ∧ (0 : DWord).toNat < (parked .run).time.toNat ∧
    (loadBlock.tbar 65536 0).ph ≠ 1 ∧ (∃ x ∈ (copying [0] (some par0)).copies, x.op = 3 ∧ x.gcm ≠ none ∧ x.data = none) ∧
    (∃ x ∈ (pending 0).groups, x.op = 9) ∧
    (∃ m ∈ (run id (fun b => { b with mmas := [{ mmaOn with rec_ := { mmaOn.rec_ with w := word .mma 1 16, id := 9 } }] }) id).fetches, m.id = 9) := by
  refine ⟨by decide +kernel, by decide +kernel, by decide +kernel, by decide +kernel, ⟨_, List.mem_singleton.2 rfl, rfl, by decide, rfl⟩,
    ⟨_, List.mem_singleton.2 rfl, rfl⟩, by decide +kernel⟩

/-- A wait of a warp that is held. -/
theorem witness_waits_held :
    let s := fun p : Park => ({ onWarp (fun w => { parkedIn p w with stopped := true, holder := .handler }) with time := 5 } : State)
    ∀ p ∈ [Park.fence 0 [], .waitw false 0 0 0 (some 1), .qwait false 9 (some 1)],
      ((s p).warpAt loadRef).map (fun w => (w.stopped, (w.path? 0).map Path.park)) = some (true, some p) := by decide +kernel

/-- A store on its way, its operation with one part left, and a reply. -/
def inFlight : State :=
  { pending 0 with
    homeOps := [{ id := 3, op := 9, sys := false, pa := 64, data := [1, 2, 3, 4], mark := false, core := 0 }]
    replies := [{ id := 4, op := 9, chip := true, cchip := 5, cpod := 45, csys := 45, link := false }] }

/-- A remote atomic of the loaded path with its result. -/
def ratomDone (v : Option (DWord × Bool)) : State :=
  { base with rops := [{ op := 5, grp := 9, src := loadRef, ctx := 0, target := 1, off := 0, kind := .atom 0 0xC false 0 0, ordered := true
                         after := [], seq := 0, sent := 0, resends := 0, answer := none, det := none, path := 1, act := 1, hdr := 0x10000, word := 1
                         lane := 0, dst := some (.v 8), to_ := none, len := 0, bar := none, nf := false, gens := [], result := v }] }

theorem witness_landings :
    (inFlight.homeOps.find? (fun x => x.id == 3)).isSome = true ∧
    inFlight.homeOps.find? (fun x => x.op == 9) = inFlight.homeOps.find? (fun x => x.id == 3) ∧
    (inFlight.replies.find? (fun x => x.id == 4)).isSome = true ∧
    (∃ g, inFlight.groups.find? (fun x => x.op == 9) = some g ∧ ∀ x ∈ inFlight.groups, x.op = 9 → x = g) ∧
    (({ inFlight with replies := [{ id := 4, op := 9, chip := false, cchip := 5, cpod := 45, csys := 45, link := true }] } : State).replies.find?
      (fun x => x.id == 4)).isSome = true ∧
    (∀ v ∈ [none, some (7, false), some (7, true)], ∃ o, ((ratomDone v).rops.filter (fun x => x.grp == 9)).head? = some o ∧ o.dst = some (.v 8) ∧
      o.result = v) ∧
    (0x1000 < 2 ^ 56 ∧ (base.ctxDesc 0).getLsbD 64 = true) := by
  refine ⟨by decide +kernel, by decide +kernel, by decide +kernel, ⟨_, rfl, by decide +kernel⟩, by decide +kernel, ?_, by decide +kernel⟩
  intro v _
  exact ⟨_, rfl, rfl, rfl⟩

/-- Invalidations of a word and of a command, with and without an operation they wait for, of a context that exists and of one that is
gone. -/
theorem witness_invalidations :
    let s := fun (g : Option Nat) (w : List Nat) (c : Nat) =>
      ({ pending 0 with invals := [{ op := 7, group := g, ctx := c, va := 0, units := 1, waits := w }] } : State)
    ∀ g ∈ [none, some 9], ∀ w ∈ [[], [9]], ∀ c ∈ [0, 1], ∃ v, (s g w c).invals.find? (fun x => x.op == 7) = some v ∧ v.group = g ∧ v.waits = w ∧
      (s g w c).groups.any (fun x => w.contains x.op) = (w == [9]) ∧ ((s g w c).ctxDesc v.ctx).getLsbD 64 = (c == 0) ∧
      ((s g w c).grids.all (fun x => x.rec_.ctx != v.ctx) && (s g w c).blocks.all (fun b => (s g w c).ctxOf b.lsq != v.ctx)) = (c == 1) ∧
      (s g w c).fetches = [] := by
  intro s g hg w hw c hc
  refine ⟨_, rfl, rfl, rfl, ?_⟩
  revert g w c
  decide +kernel

/-- A store of module 0 to the open window of context 0. -/
def packet (seq : Nat) : Packet := { src := 0, ctx := 0, seq := seq, off := 0, kind := .flag 1, after := [], det := none, sealOk := false }

/-- The window of context 0: 64 KiB at 0x30000, open to module 0, with an endpoint context in the state given. -/
def window (cached : Bool) : State :=
  { poke base 0x50000 (leBytes 32 (1 + 2 ^ 28 + 0x30000 * 2 ^ 64 + 2 ^ 128)) with
    exportTable := some 0x50000, endpoints := [{ ctx := 0, peer := 0, cached := cached, fetching := false, seen := [1], next := 2 }] }

theorem witness_arrivals :
    (({ window true with att := { base.att with dst := .scrub } } : State).att.dst = .scrub ∧ (window true).att.dst ≠ .scrub) ∧
    (let s : State := { window true with endpoints := (window true).endpoints.map (fun e => { e with cut := [1] }) }
     (s.endpoint? 0 0).map Endpoint.cut = some [1] ∧ 1 ∈ ({ packet 2 with mates := [1] } : Packet).mates) ∧
    (let k : Packet := { packet 2 with kind := .atom 0 0xC false 0 0 }
     let s : State := { window true with mem := { (window true).mem with devPoison := [(0x30000 / 32, 1)] } }
     s.findsPoison k 0x30000 = true ∧ (s.endpoint? 0 0).isSome = true) ∧
    base.endpoint? 0 0 = none ∧ ((window false).endpoint? 0 0).map Endpoint.cached = some false ∧
    ((window true).endpoint? 0 0).map (fun e => (e.cached, e.seen)) = some (true, [1]) ∧ (packet 1).seq ∈ [1] ∧ (packet 2).seq ∉ [1] ∧
    (window true).remoteRefusal (packet 2) = 0 ∧ (window true).remoteRefusal { packet 2 with src := 1 } = 2 ∧
    ((window true).translate 0 0x30000 .store).isOk = true ∧ ((window true).endpoints.filter Endpoint.cached).length ≤ 512 ∧
    (9 ∈ ({ packet 2 with after := [9] } : Packet).after ∧ 9 ∉ [1]) ∧ ((window true).endpoint? 0 0).map Endpoint.fetching = some false ∧
    (({ base with endpoints := [{ ctx := 0, peer := 0, cached := false, fetching := true, seen := [], next := 0 }] } : State).endpoint? 0 0).map
      Endpoint.fetching = some true ∧ ((window true).remoteDetect (packet 2) 0x30000).isOk = true ∧
    (let k : Packet := { packet 2 with det := some { qix := none, lsq := 1, acc := { gngi := 0, sector := 0, tkt := 0, wrp := 0, interval := 0, kind := 1 } } }
     let s : State := { window true with modn := 0, grids := (window true).grids.map (fun g =>
       { g with detLog := [{ gngi := 0, sector := 2 * (0x30000 / 32), tkt := 1, wrp := 0, interval := 0, kind := 1 }] }) }
     (s.remoteDetect k 0x30000).isOk = false ∧ s.remoteRefusal k = 0) := by decide +kernel

/-- A remote flag write without its reply, and the replies that succeed and fail. -/
theorem witness_remote_replies :
    let o : RemoteOp := { op := 5, grp := 9, src := loadRef, ctx := 0, target := 1, off := 0, kind := .flag 1, ordered := true
                          after := [], seq := 0, sent := 0, resends := 0, answer := none, det := none, path := 1, act := 1, hdr := 0x10000, word := 1
                          lane := 0, dst := none, to_ := none, len := 0, bar := none, nf := false, gens := [], result := none }
    ({ o with kind := .probe [(0, 0, 4)] } : RemoteOp).kind = .probe [(0, 0, 4)] ∧
    ({ base with rops := [o] } : State).rops.find? (fun o => o.op == 5 && o.result.isNone) = some o ∧ o.kind = .flag 1 ∧
    (base.replies.find? (fun x => x.id == 5) = none ∧ 64 ≤ ({ o with resends := 64 } : RemoteOp).resends ∧
      o.sent.toNat + 100000 ≤ (100000 : DWord).toNat ∧ ¬ (64 ≤ o.resends ∨ o.sent.toNat + 100000 ≤ base.time.toNat)) ∧
    ∃ (r : RemoteReply) (h : Nat × DetAcc), r.hit = none ∧ r.ok = true ∧ ({ r with ok := false } : RemoteReply).ok = false ∧
      ({ r with hit := some h } : RemoteReply).hit = some h :=
  ⟨rfl, by decide +kernel, rfl, by decide +kernel, { ok := true, code := 0, cpod := 0, csys := 0, data := [], poison := [], hit := none },
    (0, { gngi := 0, sector := 0, tkt := 1, wrp := 0, interval := 0, kind := 1 }), rfl, rfl, rfl, rfl⟩

/-- An `rflag` of the loaded warp to its own module, of sequence number 2, to the first line of the window. -/
def ownFlag : RemoteOp :=
  { op := 5, grp := 9, src := loadRef, ctx := 0, target := 0, off := 0, kind := .flag 1, ordered := true
    after := [], seq := 2, sent := 0, resends := 0, answer := none, det := none, path := 1, act := 1, hdr := 0x10000, word := 1
    lane := 0, dst := none, to_ := none, len := 0, bar := none, nf := false, gens := [], result := none }

/-- It waits behind a copy of its warp to that line; a store of its warp is pending there; and a packet whose range does not translate. -/
theorem witness_own_operation :
    let s : State := { window true with rops := [ownFlag] }
    let o : CopyOp := { op := 3, src := loadRef, ctx := 0, core := 0, from_ := .sp 0, to_ := .glob 0x30000, len := 16, shape := none, gcm := none
                        bar := none, todo := [0], gens := [0], data := none }
    let t : State := { s with copies := [o] }
    let u : State := { s with groups := (pending 0).groups
                              homeOps := [{ id := 3, op := 9, sys := false, pa := 0x30000, data := [1, 2, 3, 4], mark := false, core := 0 }] }
    let far : State := { poke base 0x50000 (leBytes 32 (1 + 2 ^ 28 + 2 ^ 50 * 2 ^ 64 + 2 ^ 128)) with
      exportTable := some 0x50000, endpoints := (window true).endpoints }
    s.ownOf (packet 2) = some ownFlag ∧ s.ownWaits ownFlag = false ∧ (window true).ownOf (packet 2) = none ∧
    (ownFlag.acc = .store ∧ t.olderAsync loadRef 5 = true ∧ (∃ p ∈ t.targetPieces ownFlag, ∃ x ∈ (t.enginePieces loadRef 5).2, sameLine p x = true) ∧
      t.ownWaits ownFlag = true) ∧
    ((∃ x ∈ u.targetPieces ownFlag, ∃ h ∈ u.homeOps, h.touches x.1.sys x.1.pa x.2 = true) ∧ ∃ g ∈ u.groups, g.op = 9 ∧ g.lsq = 1 ∧ g.tkt = 0 ∧ g.wrp = 0) ∧
    far.remoteRefusal (packet 2) = 5 := by
  decide +kernel

/-- Two copies of one warp to the same place of memory. -/
def copiedTwice : State :=
  let o : CopyOp := { op := 3, src := loadRef, ctx := 0, core := 0, from_ := .sp 0, to_ := .glob 0x60000, len := 16, shape := none, gcm := none
                      bar := none, todo := [0], gens := [0], data := none }
  { base with copies := [{ o with op := 2 }, o] }

/-- A sector whose Csys the host link reports, and one whose Csys is known. -/
theorem witness_engine_link :
    let d : SecDone := { fate := .landed, cpod := some 5, times := some (true, 5, 5, 5) }
    d.times = some (true, 5, 5, 5) ∧ d.link = false ∧ ({ d with link := true } : SecDone).link = true := ⟨rfl, rfl, rfl⟩

theorem witness_engine :
    (∃ o, (copying [0] none).copies.find? (fun o => o.op == 3) = some o ∧ 0 ∈ o.todo ∧ o.gcm = none ∧ (copying [0] none).copyWaits o = false) ∧
    (∃ o, copiedTwice.copies.find? (fun o => o.op == 3) = some o ∧ 0 ∈ o.todo ∧ o.gcm = none ∧ copiedTwice.copyWaits o = true) ∧
    (({ BlockCore.start 0 1 with old := some 0 } : BlockCore).old = some 0) ∧
    (∀ gens ∈ [[0], [1]], ∃ b g, (copying gens none).block? 1 0 = some b ∧ (copying gens none).grid? 1 = some g ∧ b.res = .resident ∧
      (((b.cores[0 / g.rec_.scr]?).map BlockCore.gen = gens[0 / g.rec_.scr]?) ↔ gens = [0])) := by
  refine ⟨⟨_, rfl, by decide, rfl, by decide +kernel⟩, ⟨_, rfl, by decide, rfl, by decide +kernel⟩, rfl, fun gens hg => ⟨_, _, rfl, rfl, rfl, ?_⟩⟩
  revert gens
  decide +kernel

/-- A confidential copy that comes first, with a slot of another context and with its own slot. -/
theorem witness_engine_judges :
    let p := par0
    let own : KeySlot := { key := 0, holds := true, bound := true, ctx := 0, mark := 0 }
    (∃ o, (copying [0] (some p)).copies.find? (fun o => o.op == 3) = some o ∧ o.gcm = some p ∧ o.data = none ∧
      (copying [0] (some p)).gcmFirst o = true) ∧
    (own.bound = true ∧ own.ctx = 0 ∧ own.holds = true) ∧ own.mark.toNat < p.ctr.toNat ∧ ¬ (({ own with mark := 1 } : KeySlot).mark.toNat < p.ctr.toNat) ∧
    (gcmRow { own with ctx := 1 } 0 p 16 (List.replicate 32 0) false).2.2 = none ∧
    (List.replicate 32 (0 : Byte)).length = 16 + 16 := by
  refine ⟨⟨_, rfl, rfl, rfl, by decide +kernel⟩, by decide +kernel, by decide +kernel, by decide +kernel, by decide +kernel, by decide⟩

/-- Two confidential copies of one path, the first of them judged first, though the path's lowest lane has changed; and of two paths. -/
theorem witness_judged_in_order :
    let o : CopyOp := { op := 3, src := loadRef, ctx := 0, core := 0, from_ := .glob 0x60000, to_ := .sp 0, len := 16, shape := none
                        gcm := some par0, bar := none, todo := [0], gens := [0], data := none, path := 3 }
    let x : CopyOp := { o with op := 4, src := { loadRef with lane := 1 }, path := 2 }
    let s : State := { base with copies := [o, x] }
    s.gcmFirst o = true ∧ s.gcmFirst x = false ∧ s.gcmFirst { x with path := 4 } = true := by decide +kernel

/-- A multicast to the core of the loaded block, whose allocation it hits, and to one that holds another generation. -/
theorem witness_mcast :
    let t := fun gen : Nat => ({ core := 0, alloc := some (1, 0), gen := gen, todo := [0] } : CastTarget)
    let o := fun gen : Nat => ({ op := 3, src := loadRef, ctx := 0, from_ := .sp 0x100, dst := 0, len := 16, bar := none, rbar := none
                                 targets := [t gen] } : CastOp)
    let s := fun gen : Nat => ({ base with casts := [o gen] } : State)
    (s 0).casts.find? (fun o => o.op == 3) = some (o 0) ∧ (o 0).targets.find? (fun t => t.core == 0) = some (t 0) ∧ 0 ∈ (t 0).todo ∧
    (({ s 0 with casts := [{ o 0 with src := { loadRef with lsq := 7 } }] } : State).engineRead { loadRef with lsq := 7 } 0 (.sp 0x100) 0 16).1.length < 16 ∧
    ((s 0).castHit { o 0 with src := { loadRef with lsq := 7 } } (t 0)).isSome = true ∧
    ((s 0).castHit (o 0) (t 0)).isSome = true ∧ (s 1).castHit (o 1) (t 1) = none ∧
    ((s 0).engineRead loadRef 0 (.sp 0x100) 0 16).1.length = (sectorPiece 0 16 0).2 := by decide +kernel

/-! A confidential copy that the engine accepts: its tag is the one that the key gives, whatever its bytes are. -/

/-- The tag of a ciphertext. -/
def tagOf (key iv ct : List Byte) : List Byte :=
  let ks := aesKeys key
  let h := BitVec.ofNat 128 (beNat (aesBlock ks (List.replicate 16 0)))
  let g := ghash h (ct.length / 16 + 1) 0 (ct ++ beBytes 8 0 ++ beBytes 8 (8 * ct.length))
  xorBytes (beBytes 16 g.toNat) (aesBlock ks (iv ++ [0, 0, 0, 1]))

theorem gcmOpen_tagOf (key iv ct : List Byte) :
    gcmOpen key iv ct (tagOf key iv ct) = some (xorBytes ct (gcmStream (aesKeys key) iv (ct.length / 16) 2)) := by
  simp only [gcmOpen, tagOf, if_true]

/-- The tag of 16 zero bytes under the key of zeros and counter 1. -/
def zeroTag : List Byte := tagOf (leBytes 32 0) (beBytes 4 0 ++ beBytes 8 1) (List.replicate 16 0)

/-- The loaded block with 32 bytes in its scratchpad, and a copy of them. -/
def sealedIn (d : List Byte) : State :=
  { onCore (fun c => { c with sp := (List.range 32).map (fun k => (k, d.getD k 0)) }) with
    copies := [{ op := 3, src := loadRef, ctx := 0, core := 0, from_ := .sp 0, to_ := .sp 64, len := 16, shape := none
                 gcm := some par0, bar := none, todo := [0], gens := [0], data := none }] }

theorem sealed_read (d : List Byte) : ((sealedIn d).engineRead loadRef 0 (.sp 0) 0 32).1 = (List.range 32).map (fun k => d.getD k 0) := by
  rfl

theorem length_zeroTag : zeroTag.length = 16 := by decide +kernel

theorem getD_all (d : List Byte) : ∀ n, d.length = n → (List.range n).map (fun k => d.getD k 0) = d := by
  rintro n rfl
  apply List.ext_getElem (by simp)
  intro i h1 h2
  simp [List.getD_eq_getElem?_getD, h2]

theorem accepted_row (k : KeySlot) (ctx len : Nat) (p : GcmPar) (ct tag d : List Byte) (h1 : k.bound = true) (h2 : k.ctx = ctx)
    (h3 : k.holds = true) (h4 : k.mark.toNat < p.ctr.toNat) (h5 : ct.length = len) (h6 : tag.length = 16)
    (h7 : gcmOpen (leBytes 32 k.key.toNat) (beBytes 4 p.fix.toNat ++ beBytes 8 p.ctr.toNat) ct tag = some d) :
    (gcmRow k ctx p len (ct ++ tag) false).2.2 = some d := by
  have h8 : ¬ p.ctr.toNat ≤ k.mark.toNat := by omega
  subst h2 h5
  simp [gcmRow, h1, h3, h8, h6, h7]

theorem witness_engine_accepts :
    let s := sealedIn (List.replicate 16 0 ++ zeroTag)
    let p := par0
    let own : KeySlot := { key := 0, holds := true, bound := true, ctx := 0, mark := 0 }
    (s.copies.find? (fun o => o.op == 3)).map (fun o => (o.gcm, o.data, s.gcmFirst o, o.src, o.ctx, o.from_, o.len)) =
      some (some p, none, true, loadRef, 0, .sp 0, 16) ∧
    ∃ d, (gcmRow own 0 p 16 (s.engineRead loadRef 0 (.sp 0) 0 32).1 false).2.2 = some d := by
  refine ⟨rfl, xorBytes (List.replicate 16 0) (gcmStream (aesKeys (leBytes 32 0)) (beBytes 4 0 ++ beBytes 8 1) 1 2), ?_⟩
  rw [sealed_read, getD_all _ 32 (by simp [length_zeroTag])]
  exact accepted_row _ _ _ _ _ _ _ rfl rfl rfl (by decide) (by simp) length_zeroTag (gcmOpen_tagOf _ _ _)

/-! ## Witnesses: the cores and the blocks -/

/-- An operation with a handle to rows that no page maps, on tile 0. -/
def mmaFar : MmaOp := { mmaOn with rec_ := { mmaOn.rec_ with w := word .mma 1 16, aDesc := 2 ^ 50 + 2 ^ 70, aFmt := 1 } }

/-- The loaded block with an operation on tile 0. -/
def withMma (m : MmaOp) (f : Warp → Warp) : State :=
  run f (fun b => { b with mmas := [m], cores := b.cores.map (fun c => { c with tiles := [(0, { el := [], poison := false })] }) }) id

/-- The same with rows that are mapped. -/
def mmaNear : MmaOp := { mmaFar with rec_ := { mmaFar.rec_ with aDesc := 2 ^ 70 } }

/-- An operation whose turn has come and that lacks no group, groups of its core switched off or not; one whose fetch goes on, and one
whose rows fault. -/
theorem witness_matrix_events :
    (∀ m ∈ [mmaOn, mmaNear, mmaFar], ∃ b g, (withMma m (parkedIn (.mma 0))).findMma 0 = some (b, g, m) ∧ b.mmaFirst m = true ∧ b.res = .resident ∧
      (b.refWarp? m.last).map (fun w => (w.stopped, (w.path? m.last.lane).map Path.park)) = some (false, some (.mma 0)) ∧
      (m.rec_.missing == 0) = (m.rec_.w.mod == 0) ∧
      (((withMma m id).fetchFault g.rec_.ctx m.rec_).isSome = (m.rec_.aDesc == 2 ^ 50 + 2 ^ 70))) ∧
    cget (withMma mmaOn id).groupsDown 0 = 0 ∧ cget ({ withMma mmaOn id with groupsDown := [(0, 1)] } : State).groupsDown 0 ≠ 0 := by
  refine ⟨?_, by decide +kernel, by decide +kernel⟩
  intro m hm
  simp only [List.mem_cons, List.not_mem_nil, or_false] at hm
  rcases hm with rfl | rfl | rfl <;>
    refine ⟨_, _, rfl, by decide +kernel, by decide +kernel, by decide +kernel, by decide +kernel, by decide +kernel⟩

/-- Two warps of 48 granules, the first waiting for 256 extended registers: `a` and `b` are where they lie. -/
def crowded (a b : Nat) : State :=
  run (parkedIn (.xget 256 1)) (fun x => { x with warps := x.warps.flatMap (fun w =>
    [{ w with baseAt := a }, { w with idx := 1, baseAt := b, paths := w.paths.map (fun p => { p with park := .waitlt 0 1 }) }]) }) id

/-- A tile that is granted, a block of registers that is granted, a partition that is compacted and one that is not. -/
theorem witness_grants :
    let t := onWarp (parkedIn (.aget 0 1))
    let x := onWarp (parkedIn (.xget 8 1))
    ((oldestOf ((t.tileWaiters 0).filter (fun x => t.tileGrantable 0 x.1))).map (fun y => y.2.2)) = some (0, 0, 1) ∧
    ((oldestOf ((x.extWaiters 0 0).filter (fun y => x.extCovered 0 0 y.1 y.2.2.2.1))).map (fun y => y.2.2)) = some (0, 8, 1) ∧
    (x.extSpot 0 0 8).isSome = true ∧ (x.grid? 1).isSome = true ∧
    (let s := crowded 24 76; (s.compact s.wantedSeats 0 0).isSome) = true ∧ (let s := crowded 0 48; s.compact s.wantedSeats 0 0) = none ∧
    (let s : State := { crowded 24 76 with blocks := (crowded 24 76).blocks.map (fun b => { b with warps := b.warps.map (fun w =>
        { w with hold := true, busy := [7] }) }) }
     (s.warpsOn 0 0).any (fun x => x.2.hold && x.2.busy != [])) = true := by
  decide +kernel

/-- An operation of a block in each state, its handle fetched, fetching and stopped; and a core with a matrix group down. -/
theorem witness_mma_blocks :
    let m := { mmaOn with rec_ := { mmaOn.rec_ with w := word .mma 1 16, aFmt := 1 } }
    let s := fun (res : Residence) (m : MmaOp) => run id (fun b => { b with res := res, mmas := [m] }) id
    let far : MmaOp := { m with rec_ := { m.rec_ with aDesc := 2 ^ 70 + 2 ^ 50 } }
    [Residence.resident, .saved, .killed].all (fun res => [mmaOn, m, far].all (fun m =>
      ((s res m).findMma 0).map (fun x => (x.1.res, x.1.mmaFirst x.2.2)) == some (res, true))) = true ∧
    mmaOn.rec_.missing = 0 ∧ m.rec_.missing ≠ 0 ∧ ((s .killed m).fetchFault 0 m.rec_).isNone = true ∧ ((s .killed far).fetchFault 0 far.rec_).isSome = true ∧
    cget base.groupsDown 0 = 0 ∧ cget ({ base with groupsDown := [(0, 1)] } : State).groupsDown 0 ≠ 0 := by decide +kernel

/-- A partition that may choose, with a ready path and with a P-form word; a slot that is full, a frozen partition; and none ready. -/
theorem witness_issue :
    let s : State := { base with cur := none }
    let p : State := { State.reset.loadWord 0x000A_0003_FFFE_0122_0000_0007_F004_0005 with slots := [] }
    s.slots = [] ∧ 0 ∉ s.frozen ∧ (s.choose 0 0).map Cand.r = [loadRef] ∧ (p.choose 0 0).map (fun x => p.pForm x) = [true] ∧
    (State.reset.loadWord 0).slots ≠ [] ∧ (0 ∈ ({ s with frozen := [0] } : State).frozen) ∧ (State.reset.choose 0 0).length = 0 ∧
    s.grids[0]?.isSome = true ∧ (handling.refereeOn 0 0).length = 1 ∧ ((handling.choose 0 0).map (fun x => x.r.handler)) = [true] := by decide +kernel

/-- The loaded warp at a trap that no referee has taken. -/
def trappedBy (c sub : Nat) (hnd : DWord) (ring : Bool) : State :=
  let s := run (fun w => { w with trap := some { record c with sub := sub }, stopped := true }) id (fun g => { g with rec_ := { g.rec_ with hnd := hnd } })
  { s with att := { s.att with ring := if ring then some (0x1000, 6) else none } }

/-- A translation fault with and without a ring, a software trap of a grid with a handler, and another trap. -/
theorem witness_referee_acts :
    let takes := fun (s : State) => s.activeOn 0 = none ∧ (firstRaised ((s.trapsOf 0).filter (fun x => !mustWait x))).map (fun x => x.2.2.cause) =
      ((s.block? 1 0).bind (fun b => b.warp? 0)).bind (fun w => w.trap.map TrapRec.cause) ∧ (s.trapsOf 0).length = 1 ∧ (s.grid? 1).isSome = true
    (takes (trappedBy 4 2 0 false) ∧ takes (trappedBy 4 2 0 true) ∧ takes (trappedBy 7 0 0x10000 false) ∧ takes (trappedBy 1 0 0 false)) ∧
    (7 ≤ 9 ∧ (0x10000 : DWord) ≠ 0) ∧ (1 ≤ (record 1).cause ∧ (record 1).cause ≤ 9) ∧
    (handling.activeOn 0).map (fun x => (x.2.firmware, x.2.warp.trap.isNone)) = some (false, true) ∧
    ((inSlot false id (fun w => { w with trap := some (record 3), stopped := true })).activeOn 0).map (fun x => (x.2.firmware, x.2.warp.trap.isSome)) =
      some (false, true) ∧
    ((firmware id).activeOn 0).map (fun x => x.2.firmware) = some true ∧
    (firstRaised [(loadBlock, Warp.start 1 0 0 0 0, record 1), (loadBlock, Warp.start 0 0 0 0 0, record 7)]).map
      (fun x => (x.2.1.idx, x.2.2.cause)) = some (0, 7) := by
  refine ⟨⟨⟨rfl, ?_⟩, ⟨rfl, ?_⟩, ⟨rfl, ?_⟩, ⟨rfl, ?_⟩⟩, by decide, by decide, by decide +kernel, by decide +kernel, by decide +kernel, by decide +kernel⟩ <;>
    decide +kernel

/-- A grid whose first block has room at core 0. -/
def opening : State := { base with blocks := [], grids := [{ loadGrid with nextTkt := 0 }], cur := none }

/-- The loaded block with all lanes ended, at pod time 5. -/
def allEnded (f : Block → Block) : State :=
  { run (fun w => { w with live := 0, paths := [] }) f id with time := 5 }

/-- A deposit of lane 0 of warp 0. -/
def deposited (b : Block) : Block := { b with huddle := [{ key := 1, payload := 2, wrp := 0, lane := 0 }], hudCont := some 0x10000 }

/-- A block of which float atomics are held back, with all lanes ended. -/
def endOwing (f : Block → Block) : State := { allEnded f with grids := owing.grids }

/-- Blocks that start, that are at work, that are at their end, that are killed, and that have a deposit. -/
theorem witness_blocks :
    (opening.grid? 1).map (fun g => (opening.myTurn g, (opening.placeAt g (0, 0)).map (fun x => x.1.isNone), (opening.freeFrame 0).isSome)) =
      some (true, some true, true) ∧
    (((allEnded id).block? 1 0).bind (fun b => b.warp? 0)).map (fun w => (w.ended, w.quiet, w.released)) = some (true, true, false) ∧
    ((pending 0).block? 1 0).map (fun b => ((pending 0).atomsDue b, (pending 0).blockOps b)) = some (false, true) ∧
    ((allEnded id).block? 1 0).map (fun b => ((allEnded id).atomsDue b, (allEnded id).blockOps b, (allEnded id).inbound b, (allEnded id).roundOver b,
      b.huddle == [])) = some (false, false, false, true, true) ∧
    (let s := allEnded (fun b => { b with res := .killed })
     (s.block? 1 0).map (fun b => (s.atomsDue b, s.blockOps b, s.inbound b, b.res == .killed)) = some (false, false, false, true)) ∧
    (let s := allEnded deposited
     (s.block? 1 0).map (fun b => (s.atomsDue b, s.roundOver b, b.huddle == [], s.blockOps b)) = some (false, true, false, false) ∧
     (s.block? 1 0).bind (fun b => (s.grid? 1).bind (fun g => (s.roundSeats b g 1).map List.length)) = some 1 ∧
     (s.block? 1 0).bind (fun b => (s.grid? 1).bind (fun g => (b.keptSeat g 0).map Seat.idx)) = some 0 ∧
     ((pending 0).block? 1 0).map (fun b => (pending 0).roundOver b) = some false) := by decide +kernel

/-- A block that owes float atomics at its end and at the end of a round, and an ended warp with a deposit and extended registers. -/
theorem witness_block_owes :
    ((endOwing id).block? 1 0).map (endOwing id).atomsDue = some true ∧
    ((endOwing deposited).block? 1 0).map (fun b => ((endOwing deposited).atomsDue b, b.huddle == [])) = some (true, false) ∧
    ((allEnded (fun b => deposited { b with warps := b.warps.map (fun w => { w with ext := 8 }) })).block? 1 0).map (fun b =>
      (b.warps.map (fun w => (w.ended, w.quiet, w.released, w.ext)), b.huddle.map HudEntry.wrp)) = some ([(true, true, false, 8)], [0]) := by
  decide +kernel

/-- Blocks at their end and at the end of a round with a matrix operation that has not retired; a record whose fetch goes on and one
whose fetch waits for a translation. -/
theorem witness_blocks_mma :
    let busy := allEnded (fun b => { b with mmas := [mmaOn] })
    let round := allEnded (fun b => deposited { b with mmas := [mmaOn] })
    let m := { mmaOn.rec_ with w := word .mma 1 16, aFmt := 1 }
    let pend := fun m : MmaRec => allEnded (fun b => deposited { b with cores := b.cores.map (fun c =>
      { c with scrums := [{ declared := 64, signed := 32, pend := some m, signers := [] }] }) })
    let far := { m with aDesc := 2 ^ 70 + 2 ^ 50 }
    (busy.block? 1 0).map (fun b => (busy.atomsDue b, busy.blockOps b, busy.inbound b, b.mmas.length)) = some (false, false, false, 1) ∧
    (round.block? 1 0).map (fun b => (round.atomsDue b, round.roundOver b, round.blockOps b, b.huddle.length, b.mmas.length)) = some (false, true, false, 1, 1) ∧
    (m.missing ≠ 0 ∧ ((pend m).fetchFault 0 m).isNone = true ∧ far.missing ≠ 0 ∧ ((pend far).fetchFault 0 far).isSome = true) ∧
    ((pend far).block? 1 0).map (fun b => ((pend far).roundOver b, (pend far).blockOps b, (pend far).ctxOf b.lsq)) = some (true, false, 0) := by
  decide +kernel

/-- A block at rest that is to be saved, its generation advanced or not. -/
def toSave (old : Option Nat) : State :=
  run (parkedIn (.waitlt 0 1)) (fun b => { b with saving := true, cores := b.cores.map (fun c => { c with gen := 1, old := old }) }) id

/-- Blocks at rest that are to be saved, one of them with a sector on its way, and a saved one with a place to go to. -/
theorem witness_block_moves :
    (let view := fun s : State => (s.block? 1 0).map (fun b =>
        [b.res == .resident, b.saving, b.warps.all Warp.atRest, b.handler == none, b.drained, b.advanced, s.inbound b])
     view (toSave none) = some [true, true, true, true, true, false, false] ∧
     view (toSave (some 0)) = some [true, true, true, true, true, true, false] ∧
     view { toSave (some 0) with copies := (copying [0] none).copies } = some [true, true, true, true, true, true, true]) ∧
    (let s := run id (fun b => { b with res := .saved }) id
     (s.grid? 1).map (fun g => ((s.savedAt false g (0, 0)).map (fun x => x.1.tkt), s.myTurn g, (s.placeAt g (0, 0)).map (fun x => x.1.map Block.tkt))) =
       some (some 0, true, some (some 0))) := by decide +kernel

/-- A part at work, and parts that have ended: of a grid launched inside another, and of the Quadrille. -/
theorem witness_grid_ends :
    let g : Grid := { loadGrid with nextTkt := 1 }
    let s : State := { base with blocks := [], time := 5 }
    base.partEnded loadGrid = false ∧ s.partEnded g = true ∧ g.qix = none ∧ s.partEnded { g with qix := some 3, closing := true } = true ∧
    s.finishes { g with silent := true } = false ∧ s.finishes g = true ∧
    (loadBlock.cores.map BlockCore.core).Nodup ∧ loadBlock.res ≠ .saved := by decide +kernel

/-! ## Witnesses: queues, device, attachment -/

/-- A pod formation of modules 0 and 1. -/
def forming : Formation :=
  { ident := 0, mask := 3, code := 0, number := 0, started := 0
    cmd := { entry := 0, secured := false, ring := false, answers := false, held := false, bad := false } }

/-- The first port of a state UP. -/
def linked (s : State) : State := { s with att := { s.att with ports := updAt s.att.ports 0 (fun _ => .up) } }

/-- A state with a queue descriptor: NOTIFY 0, HEAD, flags and base as given, for context 0 with 2^s entries. -/
def queued (notify head size base_ : Nat) : State :=
  { poke working 0x40000 (leBytes 64 (notify + head * 2 ^ 32 + 2 * 2 ^ 160 + size * 2 ^ 172 + base_ * 2 ^ 192)) with
    front := { working.front with pending := [0] } }

theorem witness_queues :
    (queued 1 0 4 0x60000).front.table = some 0x40000 ∧ (queued 1 0 4 0x60000).nextFetch 0x40000 = some (0, 0) ∧
    (queued 1 0 4 0x60000).pendingAt 0x40000 0 = [0] ∧ nth (queued 1 0 4 0x60000).front.rot 0 0 ≤ 0 ∧
    offeredLevel (queued 1 0 4 0x60000).front.round = 7 ∧ (queued 1 0 4 0x60000).pendingAt 0x40000 7 = [] ∧
    ((queued 1 0 4 0x60000).ctxDesc 0).getLsbD 64 = true ∧ (queued 1 0 4 (2 ^ 50)).readHome 0 (2 ^ 50) 32 = none ∧
    (((queued 1 0 4 0x60000).readHome 0 0x60000 32).map (fun l => entryOk ((queued 1 0 4 0x60000).mem.queueDesc 0x40000 0) (leNat l))) = some true ∧
    bits ((queued 17 0 4 0x60000).mem.queueDesc 0x40000 0) 0 32 = 17 ∧ (queued 1 0 4 0x60000).att.form = none := by decide +kernel

/-- Entries with a reserved bit set, whose record can be read and cannot; and a pod formation under way. -/
theorem witness_queue_entries :
    let s := fun lra : Nat => poke (queued 1 0 4 0x60000) 0x60000 (leBytes 32 (lra + 2 ^ 72))
    let seen := fun lra : Nat => (((s lra).readHome 0 0x60000 32).map (fun l => entryOk ((s lra).mem.queueDesc 0x40000 0) (leNat l)),
      ((s lra).readHome 0 lra 256).isSome)
    seen 0x20000 = (some false, true) ∧ seen (2 ^ 50) = (some false, false) ∧
    ({ base with att := { base.att with form := some forming } } : State).att.form ≠ none := by decide +kernel

/-- Two queues of level 0 pending in order, where the rotation stands before the second, and behind both. -/
theorem witness_queue_order :
    let two := leBytes 64 (1 + 2 * 2 ^ 160 + 4 * 2 ^ 172 + 0x60000 * 2 ^ 192)
    let s := fun rot : Nat => ({ poke (queued 1 0 4 0x60000) 0x40040 two with front := { working.front with
      pending := [0, 1], rot := rot :: List.replicate 7 0 } } : State)
    let on := fun (rot p k : Nat) => k ∈ (s rot).front.pending ∧ ((s rot).mem.queueDesc 0x40000 k).getLsbD 161 = true ∧
      bits ((s rot).mem.queueDesc 0x40000 k) 168 3 = p
    (∀ rot ∈ [0, 1, 2], (s rot).front.pending.Pairwise (· < ·) ∧ (s rot).front.table = some 0x40000 ∧ (s rot).att.form = none ∧
      on rot 0 0 ∧ on rot 0 1 ∧ ∀ n, n < 8 → 0 < n → (s rot).pendingAt 0x40000 n = []) ∧
    [0, 1, 2].map (fun rot => (s rot).nextFetch 0x40000) = [some (0, 0), some (0, 1), some (0, 0)] ∧ nth (s 1).front.rot 0 0 = 1 ∧ nth (s 2).front.rot 0 0 = 2 := by
  decide +kernel

theorem witness_device :
    0x1000 < 2 ^ 39 ∧ (2 ^ 39 ≤ 2 ^ 39) ∧ PortState.ofCode 0 = some .down ∧ PortState.ofCode 2 ≠ some .down ∧ (PortState.ofCode 2).isSome = true ∧
    base.att.ports[0]? = some .down ∧ (0 < 144 ∧ 4 ≤ 4) ∧ (∀ b ∈ State.reset.blocks, b.res ≠ .saved → b.coreAt 0 = none) ∧
    ¬ (∀ b ∈ base.blocks, b.res ≠ .saved → b.coreAt 0 = none) := by decide +kernel

/-- A power controller that lends 25 W to a hot die and lowers its clock, one that lends more than the pool, and one that lends in other
steps; the clocks begin at 1,500 MHz. -/
theorem witness_power :
    let p := fun l : List Nat => ({ draws := [700, 600, 480, 300], loans := l } : Power)
    let a := { base.att with clk := [1500, 1500] }
    powerOk (p [25, 0, 0, 0]) 1400 1500 a = true ∧ powerOk (p [225, 0, 0, 0]) 1400 1500 a = false ∧
    powerOk (p [20, 0, 0, 0]) 1400 1500 a = false ∧ powerOk (p [25, 0, 0, 0]) 1400 1500 { a with cap := 2000 } = false ∧
    powerOk (p [25, 0, 0, 0]) 1500 1500 a = false ∧
    (let hot : Power := { draws := [600, 600, 600, 400], loans := [0, 0, 0, 0] }
     a.cap < hot.draws.foldl (· + ·) 0 + 20 ∧ powerOk hot 1500 1500 a = false ∧ powerOk hot 1400 1500 a = true) := by
  decide +kernel

/-- An exchange over a port that is UP that moves `TIME` and that does not, and one without a port. -/
theorem witness_exchange :
    let s : State := { linked base with time := 20000, quad := { base.quad with lone := false } }
    (s.att.dst ≠ .reset ∧ s.att.dst ≠ .scrub ∧ (∃ p ∈ s.att.ports, p = .up) ∧ s.att.exch.toNat + 1000 ≤ s.time.toNat ∧ s.quad.lone = false ∧
      s.att.slewed.toNat + 10000 ≤ s.time.toNat) ∧ (base.quad.lone = true ∧ ∀ p ∈ base.att.ports, p = .down) := by
  refine ⟨⟨by decide +kernel, by decide +kernel, ⟨.up, by decide +kernel, rfl⟩, by decide +kernel, by decide +kernel, by decide +kernel⟩, by decide +kernel, by decide +kernel⟩

/-- Event rings with room, full, and in memory that nothing maps; and a context that does not exist. -/
theorem witness_events :
    let s := fun (n m : Nat) (at_ : BitVec 512) => ({ base with ctxs := updAt base.ctxs 0 (fun c =>
      { c with written := n, taken := m, desc := c.desc ||| at_ <<< 384 }) } : State)
    let x := fun (n m : Nat) (at_ : BitVec 512) => nth (s n m at_).ctxs 0 CtxEnt.absent
    ((x 1 0 0x30000).desc.getLsbD 64 = true ∧ (x 1 0 0x30000).written - (x 1 0 0x30000).taken < 2 ^ 8 ∧
      ((s 1 0 0x30000).translate 0 (0x30000 + 64) .store).isOk = true) ∧ 2 ^ 8 ≤ (x 256 0 0x30000).written - (x 256 0 0x30000).taken ∧
    (({ base.mem with hostLost := [(0x30, 1)] } : Memory).unreachable true 0x30040 = true ∧ base.mem.unreachable true 0x30040 = false) ∧
    ((s 1 0 (2 ^ 50)).translate 0 (2 ^ 50 + 64) .store).isOk = false ∧ 1 < base.ctxs.length ∧ (nth base.ctxs 1 CtxEnt.absent).desc.getLsbD 64 = false := by
  decide +kernel

/-- The attachment in each state that a clause names. -/
theorem witness_attachment :
    let conf : State := { base with sec := { base.sec with confidential := true } }
    let busy : State := { base with att := { base.att with cdb := 1 } }
    let scrub : State := { base with att := { base.att with dst := .scrub } }
    let beat : State := { base with time := 2000000000, sec := { base.sec with session := true, interval := 1 } }
    let f := forming
    let tee : State := { conf with sec := { conf.sec with tdisp := List.replicate 64 .run } }
    let failing : State := { State.reset with sec := { State.reset.sec with scrubFailed := true, lastScrub := 1 } }
    let init : State := { base with att := { base.att with dst := .init } }
    let idle : State := linked { base with blocks := [], grids := [], att := { base.att with form := some { f with number := 1 } } }
    let form : State := { beat with att := { beat.att with form := some f } }
    State.reset.att.dst ≠ .ready ∧ (base.att.dst = .ready ∧ base.sec.confidential = false ∧ 64 + 32 ≤ 2 ^ 39) ∧ conf.sec.confidential = true ∧
    2 ^ 39 < 2 ^ 39 + 1 ∧ base.att.cdb = base.att.cci ∧ busy.att.cdb ≠ busy.att.cci ∧ State.reset.sec.scrubFailed = false ∧
    State.reset.att.dst = .reset ∧ scrub.att.dst = .scrub ∧ (1 ≤ 1 ∧ 1 ≤ 600) ∧ ¬ (601 ≤ 600) ∧
    (beat.sec.session = true ∧ beat.sec.interval * 10 ^ 9 < (beat.time - beat.sec.lastBeat).toNat) ∧ base.sec.session = false ∧
    form.att.form = some f ∧ f.started.toNat + 10 ^ 9 ≤ form.time.toNat ∧ base.time.toNat < f.started.toNat + 10 ^ 9 ∧
    (nth tee.sec.tdisp tee.sec.ctx .unlocked = .run ∧ (tee.translateRange tee.sec.ctx 0x10000 64 .store).isOk = true) ∧
    nth conf.sec.tdisp conf.sec.ctx .unlocked ≠ .run ∧ (failing.sec.scrubFailed = true ∧ failing.sec.lastScrub ≠ 0) ∧ init.att.dst = .init ∧
    (idle.blocks = [] ∧ idle.grids = [] ∧ .up ∈ idle.att.ports) ∧ form.blocks ≠ [] ∧
    (List.range 64).find? (fun m => f.mask.getLsbD m) = some 0 := by decide +kernel

/-- A scrub that has failed and one that has not, and a state whose session may open. -/
theorem witness_scrub_fails :
    let s : State := { base with att := { base.att with dst := .scrub }, sec := { base.sec with scrub := 1, wasRunning := true } }
    s.att.dst = .scrub ∧ s.sec.scrub = 1 ∧ (base.att.dst = .ready ∧ base.sec.scrubFailed = false) := by decide +kernel

/-- An offset other than that of the session's doorbell. -/
theorem witness_register_offset : ∃ off, off ≠ Config.sessionDoorbell := ⟨_, Nat.succ_ne_self _⟩

/-! ## Witnesses: the Quadrille's events, rows, joins and deliveries -/

/-- A pod of modules 0 and 1, formed; this is module 0. -/
def duo : State := { working with time := 30000, quad := Quad.formed 3 64 }

/-- A row change of grid 3 on this module. -/
def change (k : RowKind) (ctx : Nat) (lra : DWord) : RowChange :=
  { row := 0, kind := k, gix := 3, entry := { grx := 3, mdn := 0, x0 := 0, y0 := 0 }
    grid := { gst := .placed, dps := 1, pri := 0, gc := 1, gw := 0, gh := 0, skp := 0, rst := false, ctx := ctx, orm := 0, lra := lra
              par := 0, sgw := 1, sgh := 1, gng := [0], hsv := false, fin := 0, osq := 1 } }

/-- An event of module 1 in its 64 bytes. -/
def said (typ osq : Nat) : BitVec 512 := ({ stt := 5, osq := osq, orm := 1, typ := typ, sbj := 0 } : QEvent).toBits

/-- An event of this module in its 64 bytes, which the lone module may deliver next. -/
def own (typ : Nat) : State := { base with time := 30, quad := { base.quad with received := [({ stt := 5, osq := 1, typ := typ } : QEvent).toBits] } }

theorem witness_quadrille_events :
    let part : Grid := { loadGrid with qix := some 3, nextTkt := 1 }
    let ending : State := { duo with blocks := [], grids := [part] }
    let rep := { duo.quad with reports := [(0, 4096, 1), (1, 4096, 2)] }
    let last : State := { duo with quad := { duo.quad with rep := { duo.quad.rep with members := (List.range 64).map (fun m => if m < 3 then .member else .absent) } } }
    let l3 : Quad := { last.quad with reports := [(0, 4096, 1), (1, 4096, 2), (2, 4096, 2)] }
    (duo.att.dst ≠ .scrub ∧ ({ duo with att := { duo.att with dst := .scrub } } : State).att.dst = .scrub ∧ duo.silent 9 = true ∧ duo.silent 0 = false) ∧
    (1 ≠ duo.modn ∧ duo.inPod duo.modn = true ∧ duo.inPod 1 = true ∧ duo.quad.heard.length = 64 ∧ duo.quad.lastRecv.length = 64 ∧
      duo.quad.beats = [] ∧ duo.quad.reports = [] ∧ (0 ≤ nth duo.quad.recvOsq 1 0 ∧ nth duo.quad.recvOsq 1 0 < 5)) ∧
    (duo.quad.lastBeat = none ∧ (State.reset.inPod State.reset.modn = true) ∧ last.inPod 9 = false) ∧
    ((QEvent.ofBits (said 6 1)).orm ≠ duo.modn ∧ (QEvent.ofBits (said 6 1)).osq = nth duo.quad.recvOsq 1 0 + 1 ∧
      (QEvent.ofBits (said 6 2)).osq ≠ nth duo.quad.recvOsq 1 0 + 1 ∧ (4 : DWord).toNat < (QEvent.ofBits (said 6 1)).stt.toNat) ∧
    ((ending.grid? 1).map (fun g => (g.qix, g.closing)) = some (some 3, false) ∧ ending.mayRaise = true ∧ ending.partEnded part = true ∧
      base.partEnded part = false) ∧
    (duo.mayRaise = true ∧ duo.isMember 1 = true ∧ 1 ∉ duo.quad.raisedSuspect ∧ (nth duo.quad.lastRecv 1 0).toNat + 20000 ≤ duo.time.toNat ∧
      duo.isMember 9 = false) ∧
    (duo.leastHeard (duo.quad.rep.memberList.filter (fun k => k != 1 && !duo.silent k)) = some 30000 ∧
      (duo.suspicionsBelow 1 30000).length < (duo.quad.rep.memberCount - 1) / 2 + 1 ∧
      (({ duo with quad := { duo.quad with rep := { duo.quad.rep with suspects := [{ by_ := 0, subject := 1, val := 7 }] } } } : State).suspicionsBelow 1 30000).length = 1) ∧
    (rep.majority 4096 = some 1 ∧ l3.majority 4096 = some 2 ∧ l3.reportOf 0 4096 ≠ some 2 ∧ rep.reportOf 0 4096 = some 1 ∧ duo.quad.halted = false) := by
  decide +kernel

/-- A module that another of a pod of two has lost, heartbeats that are due and not, a part whose FINISH is silent, and an origin and a
member whose events are being fetched. -/
theorem witness_quadrille_more :
    let lost : State := { duo with modn := 1, quad := { duo.quad with known := [0], rep := { duo.quad.rep with
      members := (List.range 64).map (fun m => if m = 1 then .member else .absent) } } }
    let beat := fun t : DWord => ({ src := 0, sent := t, osq := 0, digestSeq := 0, digest := 0 } : Heartbeat)
    let beaten := fun t : DWord => ({ duo with quad := { duo.quad with lastBeat := some (beat t) } } : State)
    let part : Grid := { loadGrid with qix := some 3, nextTkt := 1 }
    let fetching : State := { duo with quad := { duo.quad with fetch := [(1, 40000)] } }
    (lost.isMember lost.modn = true ∧ lost.quad.lone = false ∧ lost.quad.rep.memberCount = 1 ∧ 0 < lost.modn ∧ lost.modn < 64 ∧
      0 ∈ lost.quad.known ∧ lost.inPod 0 = false) ∧
    ((∀ b, (beaten 29000).quad.lastBeat = some b → b.sent.toNat + 500 ≤ (beaten 29000).time.toNat) ∧
      ¬ (∀ b, (beaten 29900).quad.lastBeat = some b → b.sent.toNat + 500 ≤ (beaten 29900).time.toNat)) ∧
    ({ part with silent := true } : Grid).silent = true ∧ 1 ∈ fetching.quad.fetch.map Prod.fst ∧ 1 ∉ duo.quad.fetch.map Prod.fst ∧
    ((∀ x ∈ duo.quad.cut, x.1 ≠ 1) ∧ nth duo.quad.heard 1 0 < 7) ∧ (7 : DWord) ≤ nth ({ duo.quad with heard := List.replicate 64 9 } : Quad).heard 1 0 := by
  refine ⟨by decide +kernel, ⟨?_, ?_⟩, rfl, by decide +kernel, by decide +kernel, by decide +kernel, by decide +kernel⟩
  · rintro b ⟨⟩
    decide +kernel
  · intro h
    exact absurd (h _ rfl) (by decide +kernel)

theorem witness_rows :
    let s : State := { duo with quad := { duo.quad with pendRows := [change .start 0 0x20000] } }
    let rec_ := fun (lra : Nat) => (s.readHome 0 lra 256).map (fun d => firstCode (s.checkRec 0 .row { LaunchRec.ofBytes d with par := 0, grdw := 1, grdh := 1 }))
    s.quad.pendRows = [change .start 0 0x20000] ∧ 1 ≠ (change .start 0 0x20000).row ∧ (s.ctxDesc 0).getLsbD 64 = true ∧
    (s.ctxDesc 1).getLsbD 64 = false ∧ s.readHome 0 (2 ^ 50) 256 = none ∧ rec_ 0x20000 = some 0 ∧ rec_ 0x50000 = some 1 ∧
    (∀ k ∈ [RowKind.start, .finished, .restore, .preempt, .kill, .discard, .lost], (change k 0 0).kind = k) ∧
    (s.att.form = none ∧ s.quad.halted = false) ∧ (linked { s with att := { s.att with form := some forming } }).att.form ≠ none ∧
    ({ s with quad := { s.quad with halted := true } } : State).quad.halted = true ∧ s.partsOf 3 = [] ∧
    (({ s with grids := [{ loadGrid with qix := some 3 }, { loadGrid with lsq := 2, parent := some 1 }] } : State).partsOf 3).length = 1 ∧
    List.Pairwise (fun g h : Grid => g.parent ≠ some h.lsq) [{ loadGrid with qix := some 3 }, { loadGrid with lsq := 2, parent := some 1 }] := by
  decide +kernel

theorem witness_joins :
    let out : State := { duo with quad := { duo.quad with rep := Replica.formed 0 } }
    let freed : State := { duo with att := { duo.att with releases := [9] } }
    let joins : State := { duo with quad := { duo.quad with
      rep := { duo.quad.rep with members := updAt duo.quad.rep.members 9 (fun _ => .joining) }, reports := [(0, 8, 1), (1, 8, 1), (9, 8, 1)]
      majors := [(8, 1)] } }
    let again : State := { out with quad := { out.quad with stepped := true, subs := [{ osq := 1, dps := some 5, ctx := 0, cwa := none, cwv := 0 }] } }
    (out.att.dst ≠ .scrub ∧ nth joins.quad.rep.members 9 .absent = .joining) ∧ duo.mayJoin = false ∧ out.mayJoin = true ∧ base.mayJoin = true ∧ base.quad.lone = true ∧ out.quad.lone = false ∧ out.inPod out.modn = false ∧
    duo.mayRaise = true ∧ nth duo.quad.rep.members 9 .absent = .absent ∧ 9 ∈ freed.att.releases ∧ 9 ∉ duo.att.releases ∧ 9 ∉ duo.quad.known ∧
    (nth joins.quad.rep.members 9 .absent = .joining ∧ joins.quad.reportOf 9 8 = some 1 ∧
      (joins.quad.majors.find? (fun x => x.1 == 8)).map Prod.snd = some 1) ∧
    (out.quad.stepped = false ∧ again.quad.stepped = true ∧ again.mayJoin = true) ∧
    (again.isMember again.modn = false ∧ again.quad.lone = false ∧ again.quad.subs.length = 1) ∧ 10 ≤ 10 ∧ 10 < 11 ∧
    (duo.isMember duo.modn = true ∧ duo.quad.lone = false ∧ duo.quad.halted = false) := by decide +kernel

theorem witness_deliveries :
    (∀ n ∈ [1, 2, 3, 4, 5, 6, 7, 8], ∃ x, (own n).nextEvent = some x ∧ (QEvent.ofBits x).typ = n) ∧
    (base.quad.rep.freeGrid = some 0) ∧ base.quad.rep.members.length = 64 ∧
    ({ base with att := { base.att with form := some forming } } : State).att.form ≠ none ∧
    (let x : Submission := { osq := 1, dps := none, ctx := 0, cwa := some 64, cwv := 1 }
     let s : State := { duo with quad := { duo.quad with subs := [x] } }
     x ∈ s.quad.subs ∧ (∀ y ∈ s.quad.subs, y.osq = 1 → y.dps = none → y = x) ∧ x ∉ duo.quad.subs ∧ s.quad.rep.freeGrid ≠ none ∧
     s.isMember s.modn = true ∧ ({ s with modn := 9 } : State).isMember 9 = false) := by
  refine ⟨?_, by decide +kernel, by decide +kernel, by decide +kernel, by decide +kernel⟩
  intro n hn
  exact ⟨({ stt := 5, osq := 1, typ := n } : QEvent).toBits, by revert n; decide +kernel, by revert n; decide +kernel⟩

/-- A MEMBER and a JOINING module that deliver the loss of another. -/
theorem witness_lose_notice :
    let joins : State := { duo with quad := { duo.quad with rep := { duo.quad.rep with members := updAt duo.quad.rep.members 0 (fun _ => .joining) } } }
    duo.quad.rep.grids = [] ∧ duo.isMember duo.modn = true ∧ 1 ≠ duo.modn ∧ joins.isMember joins.modn = false ∧ MemberState.absent ≠ .member ∧
    nth joins.quad.rep.members 0 .absent = .joining := by decide +kernel

/-- The replica full of unfinished grids, and one with a grid in each state. -/
def gridsIn (n : Nat) (f : Nat → GridState) : State :=
  { duo with quad := { duo.quad with rep := { duo.quad.rep with
      grids := (List.range n).map (fun k => (k, { (change .start 0 0).grid with gst := f k, dps := k }))
      rows := [(0, { grx := 2, mdn := 0, x0 := 0, y0 := 0 })] } } }

theorem full_grids {r : Replica} (h : ∀ k ∈ List.range 1024, r.grids.any (fun g => g.1 == k) = true) (q : ∀ g ∈ r.grids, g.2.gst = .queued) :
    r.freeGrid = none := by
  have a : (List.range 1024).find? (fun k => !r.grids.any (fun g => g.1 == k)) = none := by
    rw [List.find?_eq_none]
    intro k hk
    rw [h k hk]
    decide
  have b : r.grids.filter (fun g => g.2.gst == .done || g.2.gst == .faulted) = [] := by
    rw [List.filter_eq_nil_iff]
    intro g hg
    rw [q g hg]
    decide
  unfold Replica.freeGrid
  rw [a, b]
  rfl

theorem gridsIn_any (n : Nat) (f : Nat → GridState) (k : Nat) (h : k ∈ List.range n) :
    (gridsIn n f).quad.rep.grids.any (fun g => g.1 == k) = true :=
  List.any_eq_true.2 ⟨_, List.mem_map.2 ⟨k, h, rfl⟩, beq_iff_eq.2 rfl⟩

theorem gridsIn_queued (n : Nat) (g : Nat × GridEntry) (h : g ∈ (gridsIn n (fun _ => .queued)).quad.rep.grids) : g.2.gst = .queued := by
  obtain ⟨k, _, rfl⟩ := List.mem_map.1 h
  rfl

theorem grids_full : (gridsIn 1024 (fun _ => .queued)).quad.rep.freeGrid = none := full_grids (gridsIn_any 1024 _) (gridsIn_queued 1024)

theorem witness_effects :
    let s := gridsIn 6 (fun k => nth [.queued, .queued, .placed, .blocked, .done, .faulted] k .empty)
    (gridsIn 1024 (fun _ => .queued)).quad.rep.freeGrid = none ∧
    ((s.qgrid? 2).map GridEntry.gst = some .placed ∧ (s.qgrid? 3).map GridEntry.gst = some .blocked ∧ (s.qgrid? 4).map GridEntry.gst = some .done ∧
      (s.qgrid? 1).map GridEntry.gst = some .queued ∧ (s.qgrid? 9) = none ∧ (s.qgrid? 2).map GridEntry.ctx = some 0) ∧
    (∃ r ∈ s.quad.rep.rows, r.2.grx = 2 ∧ r.2.mdn = 0) ∧ (s.quad.rep.grids.map Prod.fst).Nodup ∧ s.quad.rep.grids.any (fun g => g.1 == 2) = true ∧
    ((1 : Nat) ≠ 0 ∧ nth s.quad.rep.members 1 .absent = .member ∧ nth s.quad.rep.members 9 .absent = .absent) := by
  refine ⟨grids_full, by decide +kernel, ⟨_, List.mem_singleton.2 rfl, rfl, rfl⟩, by decide +kernel, by decide +kernel, by decide +kernel⟩

theorem witness_placement :
    let r := duo.quad.rep
    let g := { (change .start 0 0).grid with gst := .queued }
    let s : State := { duo with quad := { duo.quad with rep := { r with grids := [(3, g)] } } }
    let t : State := { duo with quad := { duo.quad with rep := { r with grids := [(3, { g with gc := 3, skp := 64 })] } } }
    r.position 0 1 1 = some (0, 0) ∧ (s.qgrid? 3).map GridEntry.gst = some .queued ∧ (s.quad.rep.candidates g []).length = 2 ∧
    (t.qgrid? 3).map (fun g => (g.gst, g.skp, decide ((t.quad.rep.candidates g []).length < g.gc))) = some (.queued, 64, true) := by decide +kernel

/-! ## Witnesses: commands -/

/-- A command of a code with its parameter words. -/
def cmd (code : Nat) (ws : List Nat) : Cmd :=
  { entry := BitVec.ofNat 512 (code + ((ws.zip (List.range 7)).map (fun x => x.1 * 2 ^ (64 * (x.2 + 1)))).foldl (· + ·) 0)
    secured := decide (0x20 ≤ code), ring := true, answers := true, held := false, bad := false }

/-- A command that the service cores have taken in a state, and a condition on the state. -/
structure CmdCase where
  code : Nat
  c : Cmd
  s : State
  more : Bool

def CmdCase.at_ (x : CmdCase) : State := { x.s with att := { x.s.att with cmd := some x.c } }

def CmdCase.holds (x : CmdCase) : Bool :=
  x.c.opc == x.code && x.c.known && !x.c.bad && !x.at_.cmdBusy && x.at_.att.dst == .ready && x.more &&
    commandTable.all (fun y => y.1 != x.code || x.c.clean y.2.2)

theorem taken {x : CmdCase} (h : x.holds = true) : Taken x.at_ x.c x.code ∧ x.more = true := by
  unfold CmdCase.holds at h
  simp only [Bool.and_eq_true, List.all_eq_true, Bool.or_eq_true, bne_iff_ne, ne_eq, beq_iff_eq, Bool.not_eq_true'] at h
  obtain ⟨⟨⟨⟨⟨⟨h1, h2⟩, h0⟩, h3⟩, h4⟩, h5⟩, h6⟩ := h
  exact ⟨⟨rfl, h1, h2, h0, h3, h4, fun y hy e => (h6 y hy).resolve_left (fun n => n e)⟩, h5⟩

/-- Every case of a list is a command that has been taken, and its condition holds. -/
def AllTaken (l : List CmdCase) : Prop := ∀ x ∈ l, Taken x.at_ x.c x.code ∧ x.more = true

theorem allTaken {l : List CmdCase} (h : l.all CmdCase.holds = true) : AllTaken l := fun x hx => taken (List.all_eq_true.1 h x hx)

/-- A descriptor in host memory at 0x100, one with a reserved bit at 0x200, and a poisoned sector at 0x300. -/
def descs : State :=
  let m := (working.mem.write true 0x100 (leBytes 64 (2 ^ 72)) false).write true 0x200 (leBytes 64 1) false
  { working with mem := m.write true 0x300 (leBytes 64 0) true }

/-- A module whose host page 5 cannot be reached. -/
def lostPage : State := { working with mem := { working.mem with hostLost := [(5, 1)] } }

/-- A module that destroys context 0. -/
def destroying (s : State) : State := { s with att := { s.att with destroying := some 0 } }

/-- A module that runs nothing. -/
def bareModule : State := { working with blocks := [], grids := [] }

/-- The loaded module with an escalation of its warp, its block in a state. -/
def escalated (r : Residence) : State :=
  let s := run id (fun b => { b with res := r }) id
  { s with att := { s.att with escal := [{ ctx := 0, frame := 0, wrp := 0, reply := none }] } }

theorem flat_length (n c : Nat) (f : Nat → List Byte) (h : ∀ k, (f k).length = c) : ((List.range n).flatMap f).length = n * c := by
  rw [List.length_flatMap, List.map_congr_left (g := fun _ => c) (fun k _ => h k)]
  simp

/-- The session's values fit in their 64 bytes wherever they lie. -/
theorem session_length (s : State) : s.sessionBytes.length = 64 := by
  simp only [State.sessionBytes, padTo, sessionField, List.length_append, List.length_replicate, length_leBytes]
  omega

/-- The state summary of the loaded module fits in 1 MiB. -/
theorem summary_fits : base.summary.length ≤ 2 ^ 20 := by
  have q : base.quadSection.length = 64 + 64 + 1024 * 128 + 4096 * 8 := by
    unfold State.quadSection
    rw [List.length_append, List.length_append, List.length_append]
    rw [flat_length 4096 8 (fun k => leBytes 8 (rowBits base.quad.rep.rows k)) (fun _ => rfl)]
    rw [flat_length 1024 128 _ (fun _ => rfl)]
    rfl
  have e : base.errSection.length = 192 + 64 + 1728 * 4 := by
    unfold State.errSection
    rw [List.length_append, List.length_append]
    rw [flat_length 1728 4 _ (fun _ => rfl)]
    rfl
  have d : base.devSection.length = 64 := by decide +kernel
  have k : base.keySection.length = 64 + 256 := by
    unfold State.keySection
    rw [List.length_append, session_length]
    rfl
  have c : base.ctxSection.length = 64 * 32 := by
    unfold State.ctxSection
    exact flat_length 64 32 _ (fun _ => rfl)
  have g : base.gridSection.length = 32 := by decide +kernel
  have z : base.queueSection.length = 0 := by decide +kernel
  unfold State.summary
  rw [List.length_append, List.length_flatten]
  simp only [List.map_cons, List.map_nil, List.sum_cons, List.sum_nil, q, e, d, k, c, g, z]
  simp [padTo, length_leBytes, directory]

theorem witness_plain_commands :
    let w := working
    let halted : State := { w with quad := { w.quad with halted := true } }
    let tabled : State := { w with exportTable := some 0x800 }
    let two := { duo with exportTable := none }
    let killing := fun k : Nat => ({ w with att := { w.att with killing := some k } } : State)
    let form := fun m n : Nat => cmd 0x0F [7, m, n]
    AllTaken ([⟨1, cmd 1 [1], w, true⟩, ⟨1, cmd 1 [], w, !w.summary.isEmpty⟩, ⟨1, cmd 1 [0, 2 ^ 20], base, true⟩,
      ⟨0x12, cmd 0x12 [1], w, true⟩, ⟨0x12, cmd 0x12 [], w, true⟩, ⟨0x12, cmd 0x12 [0, 2 ^ 20], w, true⟩,
      ⟨2, cmd 2 [1, 1], w, true⟩, ⟨2, cmd 2 [0, 0x100], w, w.hasCtx 0⟩, ⟨2, cmd 2 [1, 0x300], descs, !descs.hasCtx 1 && descs.mem.poisoned true 0x300⟩,
      ⟨2, cmd 2 [1, 0x5000], lostPage, !lostPage.hasCtx 1 && lostPage.mem.unreachable true 0x5000⟩, ⟨2, cmd 2 [1, 0x200], descs, descStatus (BitVec.ofNat 512 (descs.mem.nat true 0x200 64)) == 2⟩,
      ⟨2, cmd 2 [1, 0x100], descs, descStatus (BitVec.ofNat 512 (descs.mem.nat true 0x100 64)) == 0⟩,
      ⟨3, cmd 3 [1], w, !w.hasCtx 1⟩, ⟨3, cmd 3 [], w, w.att.destroying == none && w.hasCtx 0⟩, ⟨3, cmd 3 [], destroying w, w.blocks != []⟩,
      ⟨3, cmd 3 [], destroying bareModule, bareModule.blocks == [] && bareModule.grids == []⟩, ⟨4, cmd 4 [1], w, true⟩, ⟨4, cmd 4 [2 ^ 18], w, true⟩,
      ⟨5, cmd 5 [1], w, true⟩, ⟨5, cmd 5 [2048], w, true⟩, ⟨6, cmd 6 [256], w, w.exportTable == none⟩, ⟨6, cmd 6 [256], tabled, tabled.hasCtx 0⟩,
      ⟨7, cmd 7 [0, 1], w, true⟩, ⟨7, cmd 7 [1], w, true⟩, ⟨7, cmd 7 [0, 65536, 1], w, true⟩, ⟨8, cmd 8 [0, 1], w, true⟩, ⟨8, cmd 8 [1], w, true⟩,
      ⟨8, cmd 8 [0, 0x20000], w, w.mayRaise⟩, ⟨8, cmd 8 [0, 0x20000], halted, !halted.mayRaise⟩] ++
      [9, 10, 11].flatMap (fun k => [(⟨k, cmd k [1], w, !w.hasCtx 1⟩ : CmdCase), ⟨k, cmd k [], halted, halted.hasCtx 0 && !halted.mayRaise⟩,
        ⟨k, cmd k [], w, w.mayRaise⟩]) ++
      [⟨12, cmd 12 [0, 5], w, (w.frameBlock 0 5).isNone⟩, ⟨12, cmd 12 [], w, (w.frameBlock 0 0).any (fun x => x.res == .resident)⟩,
       ⟨13, cmd 13 [0, 5], w, w.att.killing == none⟩, ⟨13, cmd 13 [], w, w.att.killing == none && (w.frameBlock 0 0).isSome⟩,
       ⟨13, cmd 13 [], killing 1, w.blocks.any (fun x => x.lsq == 1)⟩,
       ⟨13, cmd 13 [], killing 7, w.blocks.all (fun x => x.lsq != 7) && (w.grid? 7).isNone⟩, ⟨14, cmd 14 [1, 6], w, true⟩, ⟨14, cmd 14 [4096, 6], w, true⟩,
       ⟨15, form 1 0, w, true⟩, ⟨15, form 3 1, two, !two.quad.lone⟩, ⟨15, form 3 1, w, w.quad.lone && w.mayJoin⟩,
       ⟨16, cmd 16 [9], halted, true⟩, ⟨16, { cmd 16 [9] with answers := false }, linked w, w.isMember w.modn⟩, ⟨16, cmd 16 [9], w, w.isMember w.modn⟩,
       ⟨16, { cmd 16 [9] with held := true }, linked w, (linked w).isMember w.modn⟩, ⟨16, cmd 16 [9], linked w, (linked w).isMember w.modn⟩,
       ⟨17, cmd 17 [1], w, true⟩, ⟨17, cmd 17 [1200], w, true⟩, ⟨17, cmd 17 [1200], { w with att := { w.att with loans := [25, 0, 0, 0] } }, true⟩, ⟨19, cmd 19 [], w, w.att.escal == []⟩,
       ⟨19, cmd 19 [], escalated .saved, ((escalated .saved).frameBlock 0 0).isSome⟩,
       ⟨19, cmd 19 [], escalated .resident, ((escalated .resident).frameBlock 0 0).isSome⟩]) ∧
    ({ w with quad := { w.quad with rep := Replica.formed 0 } } : State).isMember w.modn = false ∧ base.summary.length ≤ 2 ^ 20 :=
  ⟨allTaken (by decide +kernel), by decide +kernel, summary_fits⟩

theorem witness_secured_commands :
    let w := base
    let slot := fun (holds bound : Bool) => ({ w with sec := { w.sec with slots := updAt w.sec.slots 0 (fun k => { k with holds := holds, bound := bound }) } } : State)
    let ranges := fun (l : List (Nat × Nat)) => ({ w with sec := { w.sec with trusted := l } } : State)
    let mode := fun (b : Bool) => ({ w with sec := { w.sec with confidential := b, session := true } } : State)
    AllTaken [⟨0x20, cmd 0x20 [], slot true true, true⟩, ⟨0x20, cmd 0x20 [], w, true⟩, ⟨0x21, cmd 0x21 [], w, true⟩,
      ⟨0x21, cmd 0x21 [], slot true false, w.hasCtx 0⟩, ⟨0x22, cmd 0x22 [], w, true⟩, ⟨0x22, cmd 0x22 [], slot true true, true⟩,
      ⟨0x23, cmd 0x23 [], w, !w.sec.session⟩,
      ⟨0x23, cmd 0x23 [], { w with time := 2000000000, sec := { w.sec with session := true, interval := 1 } }, true⟩, ⟨0x24, cmd 0x24 [1], w, true⟩, ⟨0x25, cmd 0x25 [1], w, true⟩, ⟨0x25, cmd 0x25 [2 ^ 21], w, true⟩,
      ⟨0x25, cmd 0x25 [0, 2 ^ 21], ranges (List.replicate 16 (0, 2 ^ 21)), true⟩, ⟨0x25, cmd 0x25 [], ranges [(0, 2 ^ 21)], true⟩,
      ⟨0x25, cmd 0x25 [0, 2 ^ 21], w, decide (w.sec.trusted.length < 16)⟩, ⟨0x26, cmd 0x26 [], w, !w.sec.session⟩, ⟨0x26, cmd 0x26 [], mode false, true⟩,
      ⟨0x27, cmd 0x27 [], w, !w.sec.confidential⟩, ⟨0x27, cmd 0x27 [], mode true, true⟩] := allTaken (by decide +kernel)

theorem witness_command_refusals :
    (∀ x ∈ commandTable, (cmd x.1 []).opc = x.1 ∧ (cmd x.1 []).known = true) ∧ base.cmdBusy = false ∧ base.att.dst = .ready ∧
    (∀ x ∈ commandTable, (cmd (x.1 + 2 ^ 16) []).clean x.2.2 = false ∧ (cmd (x.1 + 2 ^ 16) []).opc = x.1) ∧ (cmd 0x14 []).known = false ∧
    (cmd 0x26 []).known = true ∧ ({ cmd 0x26 [] with secured := false } : Cmd).known = false ∧ ({ cmd 1 [] with bad := true } : Cmd).bad = true ∧
    ({ base with att := { base.att with dst := .failed } } : State).att.dst = .failed := by decide +kernel

/-! ## Witnesses: encoding, the step, memory -/

/-- A state that meets the premises of the step, with the path of the slot changed. -/
def stepping (q : QWord) (f : Path → Path) : State :=
  let s := State.reset.loadWord q
  { s with blocks := s.blocks.map (fun b => { b with warps := b.warps.map (fun w => { w with paths := w.paths.map f }) }) }

theorem witness_step :
    let nopWord := (encode (.nop (plainWord .none .none .none .none .none 0))).getD 0
    let premises := fun s : State => s.agenda = [] ∧ s.att.dst = .ready ∧ s.slots = [loadRef] ∧ (∀ g ∈ s.grids, g.rec_.det = false) ∧
      ((s.block? 1 0).map (fun b => (b.mayIssue loadRef, s.stands b loadRef))) = some (true, false) ∧
      (((s.block? 1 0).bind (fun b => b.refWarp? loadRef)).map (fun w => (w.stopped, (w.path? 0).isSome, w.stalledBut 0))) = some (false, true, false) ∧
      s.beatLost = false
    let fetched := fun s : State => s.fetch 0 0x10010
    premises (stepping nopWord id) ∧ (fetched (stepping nopWord id)).toOption = some nopWord ∧
    (decode nopWord).toOption = some (.nop (plainWord .none .none .none .none .none 0)) ∧
    premises (stepping (2 ^ 127) id) ∧ (fetched (stepping (2 ^ 127) id)).toOption = some (2 ^ 127) ∧
    (match decode 1 with | .error e => e.code == 4 | _ => false) = true ∧
    ((stepping 0 (fun p => { p with hdr := 2 ^ 50 })).fetch 0 (2 ^ 50 + 16)).toOption = none ∧
    premises (stepping nopWord (fun p => { p with word := 0 })) ∧ (stepping nopWord id).fetch 0 0x10000 = .ok loadHeader ∧
    headerOk loadHeader = true ∧ headerOk 0 = false ∧

    (((stepping 0 id).block? 1 0).bind (fun b => (b.refWarp? loadRef).map (fun w => ((stepping 0 id).heldBack b w loadRef,
      (stepping 0 id).heldBack { b with saving := true } w loadRef)))) = some (false, true) := by decide +kernel

/-- Boundaries at a header that is misaligned and at one that nothing maps. -/
theorem witness_boundaries :
    let at_ := fun a : DWord => stepping 0 (fun p => { p with word := 0, hdr := a })
    let ok := fun s : State => s.agenda = [] ∧ s.att.dst = .ready ∧ s.beatLost = false ∧ s.slots = [loadRef] ∧
      ((s.block? 1 0).bind (fun b => (b.refWarp? loadRef).map (fun w => (w.stopped, w.stalledBut 0, b.mayIssue loadRef, s.heldBack b w loadRef)))) =
        some (false, false, true, false)
    ok (at_ 0x10008) ∧ ok (at_ (2 ^ 50)) ∧ ((at_ (2 ^ 50)).fetch 0 (2 ^ 50)).toOption = none := by decide +kernel

theorem witness_encoding :
    ∃ i q, Instr.wf i = true ∧ encode i = some q ∧ decode q = .ok i :=
  ⟨.fma (plainWord (.v 12) (.v 3) (.v 4) (.v 5) .none 0), 0x0000_0000_0001_FDFF_FF01_4040_0C0C_0286, by decide +kernel, by decide +kernel,
    by decide +kernel⟩

theorem witness_traps_recorded : ∃ s t : State, s.TrapInv ∧ s.blocks ≠ [] ∧ step s = .next t := by
  refine ⟨trappedBy 1 0 0 false, ?_⟩
  refine ⟨_, ?_, by decide +kernel, rfl⟩
  unfold State.TrapInv
  decide +kernel

theorem witness_memory : ∃ s t : State, s.MemInv ∧ step s = .next t := by
  refine ⟨State.reset, ?_⟩
  exact ⟨_, by show State.reset.mem.wf = true; decide +kernel, rfl⟩

/-- A step that goes on from a state whose pending queues are in order. -/
theorem witness_pending_order : ∃ s t : State, s.QueueInv ∧ s.front.pending ≠ [] ∧ step s = .next t := by
  refine ⟨{ queued 1 0 4 0x60000 with agenda := [.tick 1] }, _, ?_, by decide +kernel, rfl⟩
  unfold State.QueueInv
  decide +kernel

/-! ## Decoding words written from the encoding tables

The words below are written from 03_encoding.md:R68 (the places of the fields), R72, R74 and R75 (operand codes and guards) and
R87 (the opcodes), or are the words that the spec writes out. -/

/-- Whether each word of a list decodes to its operation, of MOD 0 with the given IMM32 and the operands of `word`. -/
def reads (l : List (Op × Word × QWord)) : Bool := l.all (fun x => (decode x.2.2).toOption == some (Instr.ofOp x.1 (word x.1 0 x.2.1)))

/-- Group 0x0, Integer. -/
theorem decodes_integer : reads [
      (.add, 0, 0x0000_0000_0001_FDFF_FFFF_C180_4008_0000), (.sub, 0, 0x0000_0000_0001_FDFF_FFFF_C180_4008_0002),
      (.addc, 0, 0x0000_0000_0001_FDFE_4591_0180_4008_0004), (.subb, 0, 0x0000_0000_0001_FDFE_4591_0180_4008_0006),
      (.mul, 0, 0x0000_0000_0001_FDFF_FFFF_C180_4008_0008), (.mulh, 0, 0x0000_0000_0001_FDFF_FFFF_C180_4008_000A),
      (.mulw, 0, 0x0000_0000_0001_FDFF_FFFF_C180_4008_000C), (.mad, 0, 0x0000_0000_0001_FDFF_FF08_0180_4008_000E),
      (.idiv, 0, 0x0000_0000_0001_FDFF_FFFF_C180_4008_0010), (.irem, 0, 0x0000_0000_0001_FDFF_FFFF_C180_4008_0012),
      (.min, 0, 0x0000_0000_0001_FDFF_FFFF_C180_4008_0014), (.max, 0, 0x0000_0000_0001_FDFF_FFFF_C180_4008_0016),
      (.abs, 0, 0x0000_0000_0001_FDFF_FFFF_FFF0_4008_0018), (.neg, 0, 0x0000_0000_0001_FDFF_FFFF_FFF0_4008_001A),
      (.cmp, 0, 0x0000_0000_0001_FDFF_FFFF_C180_4241_001C), (.lea, 0, 0x0000_0000_0001_FDFF_FFFF_C180_4008_001E),
      (.add64, 0, 0x0000_0000_0001_FDFF_FFFF_C180_4008_0020), (.sub64, 0, 0x0000_0000_0001_FDFF_FFFF_C180_4008_0022),
      (.shl64, 0, 0x0000_0000_0001_FDFF_FFFF_C180_4008_0024)] = true := by decide +kernel

/-- Group 0x1, Logic and bit. -/
theorem decodes_logic : reads [
      (.and, 0, 0x0000_0000_0001_FDFF_FFFF_C180_4008_0080), (.or, 0, 0x0000_0000_0001_FDFF_FFFF_C180_4008_0082),
      (.xor, 0, 0x0000_0000_0001_FDFF_FFFF_C180_4008_0084), (.andn, 0, 0x0000_0000_0001_FDFF_FFFF_C180_4008_0086),
      (.orn, 0, 0x0000_0000_0001_FDFF_FFFF_C180_4008_0088), (.not, 0, 0x0000_0000_0001_FDFF_FFFF_FFF0_4008_008A),
      (.shl, 0, 0x0000_0000_0001_FDFF_FFFF_C180_4008_008C), (.shr, 0, 0x0000_0000_0001_FDFF_FFFF_C180_4008_008E),
      (.sar, 0, 0x0000_0000_0001_FDFF_FFFF_C180_4008_0090), (.rol, 0, 0x0000_0000_0001_FDFF_FFFF_C180_4008_0092),
      (.ror, 0, 0x0000_0000_0001_FDFF_FFFF_C180_4008_0094), (.perm, 0, 0x0000_0000_0001_FDFF_FFFF_C180_4008_0096),
      (.bfx, 0, 0x0000_0000_0001_FDFF_FF08_0180_4008_0098), (.bfi, 0, 0x0000_0000_0001_FDFC_2808_0180_4008_009A),
      (.bfr, 0, 0x0000_0000_0001_FDFF_FFFF_FFF0_4008_009C), (.popc, 0, 0x0000_0000_0001_FDFF_FFFF_FFF0_4008_009E),
      (.clz, 0, 0x0000_0000_0001_FDFF_FFFF_FFF0_4008_00A0), (.ctz, 0, 0x0000_0000_0001_FDFF_FFFF_FFF0_4008_00A2)] = true := by decide +kernel

/-- Group 0x2, Predicates, moves, special registers. -/
theorem decodes_moves : reads [
      (.mov, 0, 0x0000_0000_0001_FDFF_FFFF_FFF0_4008_0100), (.ldi, 0, 0x0000_0000_0001_FDFF_FFFF_FFFF_FC08_0102),
      (.ldih, 0, 0x0000_0000_0001_FDFF_FFFF_FFFF_FC08_0104), (.sel, 0, 0x0000_0000_0001_FDFF_FF91_0180_4008_0106),
      (.pand, 0, 0x0000_0000_0001_FDFF_FFFF_E439_0A41_0108), (.por, 0, 0x0000_0000_0001_FDFF_FFFF_E439_0A41_010A),
      (.pxor, 0, 0x0000_0000_0001_FDFF_FFFF_E439_0A41_010C), (.pnot, 0, 0x0000_0000_0001_FDFF_FFFF_FFF9_0A41_010E),
      (.rds, 0, 0x0000_0000_0001_FDFF_FFFF_FFFF_FC08_0110), (.wrs, 0, 0x0000_0000_0001_FDFF_FFFF_FFF0_43FF_0112)] = true := by decide +kernel

/-- Group 0x3, Lane collectives and counters. -/
theorem decodes_collectives : reads [
      (.vote, 0, 0x0000_0000_0001_FDFE_E6FF_FFF9_0808_0180), (.shfl, 0, 0x0000_0000_0001_FDFE_E6FF_C180_4008_0182),
      (.red, 0, 0x0000_0000_0001_FDFE_E6FF_FFF0_4008_0184), (.scan, 0, 0x0000_0000_0001_FDFE_E6FF_FFF0_4008_0186),
      (.waitlt, 1, 0x0000_0000_0101_FDFF_FFFF_FFFA_83FF_0188)] = true := by decide +kernel

/-- Group 0x4, Control flow and user traps. -/
theorem decodes_control : reads [
      (.bra, 0, 0x0000_0000_0001_FDFF_FFFF_FFFF_FFFF_0200), (.brx, 0, 0x0000_0000_0001_FDFF_FFFF_FFF0_43FF_0202),
      (.call, 0, 0x0000_0000_0001_FDFF_FFFF_FFFF_FC08_0204), (.ret, 0, 0x0000_0000_0001_FDFF_FFFF_FFF0_43FF_0206),
      (.exit, 0, 0x0000_0000_0001_FDFF_FFFF_FFFF_FFFF_0208), (.trap, 0, 0x0000_0000_0001_FDFF_FFFF_FFFF_FFFF_020A),
      (.tret, 0, 0x0000_0000_0001_FDFF_FFFF_FFFF_FFFF_020C), (.trec, 0, 0x0000_0000_0001_FDFF_FFFF_FFFF_FD88_020E),
      (.nop, 0, 0x0000_0000_0001_FDFF_FFFF_FFFF_FFFF_0210)] = true := by decide +kernel

/-- Group 0x5, Float. -/
theorem decodes_float : reads [
      (.fadd, 0, 0x0000_0000_0001_FDFF_FFFF_C180_4008_0280), (.fsub, 0, 0x0000_0000_0001_FDFF_FFFF_C180_4008_0282),
      (.fmul, 0, 0x0000_0000_0001_FDFF_FFFF_C180_4008_0284), (.fma, 0, 0x0000_0000_0001_FDFF_FF08_0180_4008_0286),
      (.fmin, 0, 0x0000_0000_0001_FDFF_FFFF_C180_4008_0288), (.fmax, 0, 0x0000_0000_0001_FDFF_FFFF_C180_4008_028A),
      (.fneg, 0, 0x0000_0000_0001_FDFF_FFFF_FFF0_4008_028C), (.fabs, 0, 0x0000_0000_0001_FDFF_FFFF_FFF0_4008_028E),
      (.fcmp, 0, 0x0000_0000_0001_FDFF_FFFF_C180_4241_0290), (.fcls, 0, 0x0000_0000_0001_FDFF_FFFF_FFF0_4241_0292),
      (.frnd, 0, 0x0000_0000_0001_FDFF_FFFF_FFF0_4008_0294), (.fscl, 0, 0x0000_0000_0001_FDFF_FFFF_C180_4008_0296),
      (.fdiv, 0, 0x0000_0000_0001_FDFF_FFFF_C180_4008_0298), (.fsqrt, 0, 0x0000_0000_0001_FDFF_FFFF_FFF0_4008_029A),
      (.frcp, 0, 0x0000_0000_0001_FDFF_FFFF_FFF0_4008_029C), (.frsq, 0, 0x0000_0000_0001_FDFF_FFFF_FFF0_4008_029E)] = true := by decide +kernel

/-- Group 0x6, VF. -/
theorem decodes_vf : reads [
      (.vfadd, 0, 0x0000_0000_0001_FDFF_FFFF_C180_4008_0300), (.vfsub, 0, 0x0000_0000_0001_FDFF_FFFF_C180_4008_0302),
      (.vfmul, 0, 0x0000_0000_0001_FDFF_FFFF_C180_4008_0304), (.vfma, 0, 0x0000_0000_0001_FDFF_FF08_0180_4008_0306),
      (.vfdiv, 0, 0x0000_0000_0001_FDFF_FFFF_C180_4008_0308), (.vfsqrt, 0, 0x0000_0000_0001_FDFF_FFFF_FFF0_4008_030A),
      (.vfcmp, 0, 0x0000_0000_0001_FDFF_FFFF_C180_4241_030C), (.vfmin, 0, 0x0000_0000_0001_FDFF_FFFF_C180_4008_030E),
      (.vfmax, 0, 0x0000_0000_0001_FDFF_FFFF_C180_4008_0310), (.vfneg, 0, 0x0000_0000_0001_FDFF_FFFF_FFF0_4008_0312),
      (.vfabs, 0, 0x0000_0000_0001_FDFF_FFFF_FFF0_4008_0314), (.vfcvt, 1, 0x0000_0000_0101_FDFF_FFFF_FFF0_4008_0316),
      (.vfext, 0, 0x0000_0000_0001_FDFF_FFFF_FFF0_4008_0318), (.vfrnd, 0, 0x0000_0000_0001_FDFF_FFFF_FFF0_4008_031A),
      (.vfmov, 0, 0x0000_0000_0001_FDFF_FFFF_FFF0_4008_031C)] = true := by decide +kernel

/-- Group 0x7, Conversion, transcendental, transform. -/
theorem decodes_conversion : reads [
      (.fex2, 0, 0x0000_0000_0001_FDFF_FFFF_FFF0_4008_0380), (.flg2, 0, 0x0000_0000_0001_FDFF_FFFF_FFF0_4008_0382),
      (.fsinp, 0, 0x0000_0000_0001_FDFF_FFFF_FFF0_4008_0384), (.fcosp, 0, 0x0000_0000_0001_FDFF_FFFF_FFF0_4008_0386),
      (.ftnh, 0, 0x0000_0000_0001_FDFF_FFFF_FFF0_4008_0388), (.cvt, 258, 0x0000_0001_0201_FDFF_FFFF_FFF0_4008_038A),
      (.cvtn, 258, 0x0000_0001_0201_FDFF_FFFF_FFF0_4008_038C), (.cvtw, 258, 0x0000_0001_0201_FDFF_FFFF_FFF0_4008_038E),
      (.cbdec, 0, 0x0000_0000_0001_FDFF_FFA8_0180_4008_0390), (.bfly, 0, 0x0000_0000_0001_FDFC_28FF_C180_4008_0392),
      (.cbfly, 0, 0x0000_0000_0001_FDFC_2808_0180_4008_0394), (.cmul, 0, 0x0000_0000_0001_FDFF_FFFF_C180_4008_0396),
      (.twid, 0, 0x0000_0000_0001_FDFF_FFFF_C180_4008_0398)] = true := by decide +kernel

/-- Group 0x8, Matrix and accumulator. -/
theorem decodes_matrix : reads [
      (.aget, 0, 0x0000_0000_0001_FDFF_FFFF_FFFF_FEA0_0400), (.aput, 0, 0x0000_0000_0001_FDFF_FFFF_FFFF_FEA0_0402),
      (.azero, 0, 0x0000_0000_0001_FDFF_FFFF_FFFF_FEA0_0404), (.ald, 0, 0x0000_0000_0001_FDFF_FF08_018A_8008_0406),
      (.ast, 0, 0x0000_0000_0001_FDFF_FF08_0180_42A0_0408), (.ascl, 0, 0x0000_0000_0001_FDFF_FFFF_C180_42A0_040A),
      (.aconv, 0, 0x0000_0000_0001_FDFE_A068_198A_83FF_040C), (.omset, 0, 0x0000_0000_0001_FDFF_FFFF_FFF6_42A0_040E),
      (.thset, 0, 0x0000_0000_0001_FDFF_FFFF_FFF6_42A0_0410), (.mma, 0, 0x0000_0000_0001_FDFF_FFA8_2A0A_82A0_0412),
      (.mmaz, 0, 0x0000_0000_0001_FDFF_FFA8_2A0A_82A0_0414), (.kinit, 0, 0x0000_0000_0001_FDFF_FFFF_D98F_FEA0_0416)] = true := by decide +kernel

/-- Group 0x9, Sum-tree. -/
theorem decodes_sum_tree : reads [
      (.stclr, 0, 0x0000_0000_0001_FDFF_FFFF_FFFA_83FF_0480), (.stset, 0, 0x0000_0000_0001_FDFF_FF08_018A_83FF_0482),
      (.stadd, 0, 0x0000_0000_0001_FDFF_FF08_018A_8008_0484), (.stget, 0, 0x0000_0000_0001_FDFF_FFFF_C18A_8008_0486),
      (.stpre, 0, 0x0000_0000_0001_FDFF_FFFF_C18A_8008_0488), (.sttot, 0, 0x0000_0000_0001_FDFF_FFFF_FFFA_8008_048A),
      (.stfind, 0, 0x0000_0000_0001_FDFE_45FF_C18A_8008_048C), (.stcut, 0, 0x0000_0000_0001_FDFF_FFFF_C18A_83FF_048E),
      (.stcutm, 0, 0x0000_0000_0001_FDFE_45FF_C18A_8008_0490), (.stq, 0, 0x0000_0000_0001_FDFC_2808_018A_83FF_0492),
      (.stld, 0, 0x0000_0000_0001_FDFF_FFFF_D98A_83FF_0494), (.stst, 0, 0x0000_0000_0001_FDFF_FFFF_D98A_83FF_0496)] = true := by decide +kernel

/-- Group 0xA, Memory, atomics, fences. -/
theorem decodes_memory : reads [
      (.ldg, 0, 0x0000_0000_0001_FDFF_FFFF_FFF0_4008_0500), (.stg, 0, 0x0000_0000_0001_FDFF_FFFF_C180_43FF_0502),
      (.ldsp, 0, 0x0000_0000_0001_FDFF_FFFF_FFF0_4008_0504), (.stsp, 0, 0x0000_0000_0001_FDFF_FFFF_C180_43FF_0506),
      (.ldvf, 0, 0x0000_0000_0001_FDFF_FFFF_C180_4008_0508), (.stvf, 0, 0x0000_0000_0001_FDFF_FF08_0180_43FF_050A),
      (.atomg, 12, 0x0000_0000_0C01_FDFF_FFFF_C180_4008_050C), (.atomsp, 12, 0x0000_0000_0C01_FDFF_FFFF_C180_4008_050E),
      (.fence, 0, 0x0000_0000_0001_FDFF_FFFF_FFFF_FFFF_0510), (.drain, 0, 0x0000_0000_0001_FDFF_FFFF_FFFF_FFFF_0512)] = true := by decide +kernel

/-- Group 0xB, Async copy, transaction barriers, cache control. -/
theorem decodes_copies : reads [
      (.tcopy, 0, 0x0000_0000_0001_FDFF_FF68_1986_4188_0580), (.mcast, 0, 0x0000_0000_0001_FDFF_FF68_1986_43FF_0582),
      (.tbinit, 0, 0x0000_0000_0001_FDFF_FFFF_D986_43FF_0584), (.tbexp, 0, 0x0000_0000_0001_FDFF_FFFF_D986_43FF_0586),
      (.tbarr, 0, 0x0000_0000_0001_FDFF_FFFF_FFF6_43FF_0588), (.tbwait, 0, 0x0000_0000_0001_FDFF_FFFF_D986_4008_058A),
      (.tbtest, 0, 0x0000_0000_0001_FDFC_28FF_D986_4241_058C), (.lkl, 0, 0x0000_0000_0001_FDFF_FFFF_FFF0_4241_058E),
      (.ulk, 0, 0x0000_0000_0001_FDFF_FFFF_FFF0_43FF_0590), (.pref, 0, 0x0000_0000_0001_FDFF_FFFF_FFF0_43FF_0592)] = true := by decide +kernel

/-- Group 0xC, Remote and wake. -/
theorem decodes_remote : reads [
      (.rput, 0, 0x0000_0000_0001_FDFF_FF68_1986_4188_0600), (.rget, 0, 0x0000_0000_0001_FDFF_FF68_1986_4188_0602),
      (.ratom, 12, 0x0000_0000_0C01_FDFF_FFFF_C180_4008_0604), (.rflag, 0, 0x0000_0000_0001_FDFF_FFFF_D986_43FF_0606),
      (.rwake, 0, 0x0000_0000_0001_FDFF_FFFF_D986_43FF_0608), (.waitw, 0, 0x0000_0000_0001_FDFF_FF68_1986_4241_060A)] = true := by decide +kernel

/-- Group 0xD, Synchronisation and scheduling. -/
theorem decodes_sync : reads [
      (.bar, 0, 0x0000_0000_0001_FDFF_FFFF_D98A_8241_0680), (.yield, 0, 0x0000_0000_0001_FDFF_FFFF_FFFF_FFFF_0682),
      (.phase, 0, 0x0000_0000_0001_FDFF_FFFF_FFF6_4008_0684), (.xget, 0, 0x0000_0000_0001_FDFF_FFFF_FFF6_43FF_0686),
      (.xput, 0, 0x0000_0000_0001_FDFF_FFFF_FFFF_FFFF_0688), (.hud, 0, 0x0000_0000_0001_FDFF_FFFF_C180_43FF_068A),
      (.qpost, 0, 0x0000_0000_0001_FDFF_FFFF_D986_4008_068C), (.launch, 0, 0x0000_0000_0001_FDFF_FF68_1986_4008_068E)] = true := by decide +kernel

/-- Group 0xE, System and pod. -/
theorem decodes_system : reads [
      (.refrd, 0, 0x0000_0000_0001_FDFF_FFFF_D986_4008_0700), (.refwr, 0, 0x0000_0000_0001_FDFF_FF68_1986_43FF_0702),
      (.refres, 0, 0x0000_0000_0001_FDFF_FFFF_FFF6_43FF_0704), (.refstop, 0, 0x0000_0000_0001_FDFF_FFFF_FFF6_4241_0706),
      (.refkill, 0, 0x0000_0000_0001_FDFF_FFFF_FFF6_43FF_0708), (.ctxsave, 0, 0x0000_0000_0001_FDFF_FFFF_FFF6_43FF_070A),
      (.ctxrest, 0, 0x0000_0000_0001_FDFF_FFFF_D986_43FF_070C), (.svc, 0, 0x0000_0000_0001_FDFF_FFFF_FFF6_43FF_070E),
      (.svcw, 0, 0x0000_0000_0001_FDFF_FFFF_FFFF_FD88_0710), (.evtpop, 0, 0x0000_0000_0001_FDFF_FFFF_FFF6_4241_0712),
      (.tlbinv, 0, 0x0000_0000_0001_FDFF_FFFF_D986_43FF_0714), (.qsub, 0, 0x0000_0000_0001_FDFC_2868_1986_4008_0716),
      (.qblk, 0, 0x0000_0000_0001_FDFF_FFFF_FFF6_4008_0718), (.qunb, 0, 0x0000_0000_0001_FDFF_FFFF_FFF6_4008_071A),
      (.qcan, 0, 0x0000_0000_0001_FDFF_FFFF_FFF6_4008_071C), (.qrow, 0, 0x0000_0000_0001_FDFF_FFFF_FFF6_4008_071E),
      (.qdig, 0, 0x0000_0000_0001_FDFC_28FF_FFFF_FC08_0720), (.qseq, 0, 0x0000_0000_0001_FDFF_FFFF_FFFF_FC08_0722),
      (.qwait, 0, 0x0000_0000_0001_FDFE_4568_3FF6_4008_0724)] = true := by decide +kernel
/-- Words of 06_isa_float.md, 09_prog_filter.md, 12_prog_chain.md, 14_isa_sync.md, 17_prog_copyin.md and 21_prog_pod.md. -/
theorem decodes_spec_words :
    (decode 0x0000_0000_0001_FDFF_FFFF_C040_0008_0300).toOption = some (.vfadd (plainWord (.v 8) (.v 0) (.v 4) .none .none 0)) ∧
    (decode 0x0000_0000_0001_FDFF_FFFF_C300_2010_0302).toOption = some (.vfsub (plainWord (.v 16) (.v 8) (.v 48) .none .none 0)) ∧
    (decode 0x0000_0001_0001_FDFF_FFFF_EE06_0188_1E00).toOption =
      some (.rput { plainWord (.s 8) (.s 0) (.sel .imm) .none .none 256 with mod := 3 }) ∧
    (decode 0x0000_0000_8001_FDFF_FFFF_EE0A_83FF_0680).toOption = some (.bar (plainWord .none (.res 0) (.sel .imm) .none .none 128)) ∧
    (decode 0x0000_0000_4001_FDFD_90B9_2E06_2988_5580).toOption =
      some (.tcopy { plainWord (.s 8) (.s 10) (.sel .imm) (.sel .zero) (.s 16) 64 with mod := 10 }) ∧
    (decode 0x0000_0000_0001_FC03_FFFF_FFF6_218E_0716).toOption =
      some (.qsub { plainWord (.s 14) (.s 8) .none .none .none 0 with g := .one ⟨false, 0⟩ }) := by decide +kernel

/-- A word that uses NF, G0, G1 and GOP; one that uses CH, CSEL and a negated guard; one that uses SAT and a selector. -/
theorem decodes_fields :
    (decode 0x0000_0000_0026_100F_FFFF_C180_4008_0280).toOption =
      some (.fadd { plainWord (.v 8) (.v 16) (.v 24) .none .none 0 with nf := true, g := .either ⟨false, 3⟩ ⟨true, 4⟩ }) ∧
    (decode 0x0000_0000_0090_037F_FFFF_C180_43FF_0502).toOption =
      some (.stg { plainWord .none (.v 16) (.v 24) .none .none 0 with ch := .keep, csel := true, g := .both ⟨true, 95⟩ ⟨false, 0⟩ }) ∧
    (decode 0x00FF_FFFF_FF41_FDFF_FFFF_EE00_4008_0000).toOption =
      some (.add { plainWord (.v 8) (.v 16) (.sel .imm) .none .none 0xFFFFFFFF with sat := true }) := by decide +kernel

/-- The sub-cause of a word that is no instruction; 0 for one that is. -/
def sub (q : QWord) : Nat := match decode q with | .error e => e.code | .ok _ => 0

/-- A word refused for each sub-cause that the decoder judges (03_encoding.md:R89), and a word of an unassigned opcode. -/
theorem refuses_words :
    sub 0x0100_0000_0001_FDFF_FFFF_C180_4008_0000 = 3 ∧ sub 0x0000_0000_0001_FDFF_FFFF_C180_4320_0000 = 4 ∧
    sub 0x0000_0000_0001_FDFF_FFFF_C18B_9C08_0000 = 5 ∧ sub 0x0000_0000_0101_FDFF_FFFF_C180_4008_0000 = 5 ∧
    sub 0x0000_0000_0001_FDFF_FFFF_C180_4008_3000 = 6 ∧ sub 0x0000_0000_0041_FDFF_FFFF_C180_4008_0080 = 7 ∧
    sub 0x0000_0000_0001_FD83_FFFF_C180_4008_0000 = 8 ∧ sub 0x0000_0000_0000_0DFF_FFFF_C180_4008_0000 = 8 ∧
    sub 0x0000_0000_0005_FDFF_FFFF_C180_4008_0000 = 8 ∧ sub 0x0000_0000_0001_FDFF_FFFF_C180_4408_0020 = 10 ∧
    sub 0x000A_0003_FFFE_0122_0000_0007_F004_0039 = 2 ∧ sub 0x000A_0003_FFFE_0122_0000_0007_F006_4005 = 4 ∧
    (decode 0x0000_0000_0001_FDFF_FFFF_FFFF_FFFF_0026).toOption = some (.unassignedOpcode 0x0000_0000_0001_FDFF_FFFF_FFFF_FFFF_0026) := by
  decide +kernel

/-! ## Ill-formed terms -/

/-- A term refused by each check of well-formedness, beside one that is accepted (03_encoding.md:R72, R74 to R80, R89). -/
theorem ill_formed :
    let w := plainWord (.v 8) (.v 16) (.v 24) .none .none 0
    let h := fun (d a : Fin 384) => ({ hop := .add, d := .v d, a := .reg (.v a), g := none } : Half)
    Instr.wf (.add w) = true ∧ Instr.wf (.unassignedOpcode 0) = false ∧
    Instr.subCause (.add { w with a := .p 0 }) = 4 ∧ Instr.subCause (.add { w with b := .none }) = 4 ∧ Instr.subCause (.add { w with c := .v 0 }) = 4 ∧
    Instr.subCause (.bar (plainWord .none (.res 16) (.v 0) .none .none 0)) = 4 ∧ Instr.subCause (.add { w with a := .sel .true_ }) = 5 ∧
    Instr.subCause (.add { w with imm := 1 }) = 5 ∧ Instr.subCause (.add { w with mod := 6 }) = 6 ∧ Instr.subCause (.and { w with sat := true }) = 7 ∧
    Instr.subCause (.and { w with nf := true }) = 7 ∧ Instr.subCause (.and { w with ch := .keep }) = 7 ∧ Instr.subCause (.and { w with csel := true }) = 7 ∧
    Instr.wf (.pFormWord (h 0 1) (h 2 3)) = true ∧ Instr.subCause (.pFormWord (h 2 1) (h 2 3)) = 9 ∧
    Instr.subCause (.pFormWord { h 0 1 with d := .s 4 } { h 2 3 with d := .s 4 }) = 9 ∧ Instr.subCause (.pFormWord { h 0 1 with d := .p 0 } (h 2 3)) = 4 ∧
    Instr.subCause (.add64 { w with a := .v 17 }) = 10 ∧ Instr.subCause (.and { w with mod := 2, d := .v 10 }) = 10 := by decide +kernel

/-! ## What instructions do: values that the spec gives, or that follow by hand from its rules -/

/-- What an instruction leaves in register `v[k]` of lane 0, from given `v` registers: 2^32 when it gives no next state. -/
def leaves (i : Instr) (v : Cells 32) (k : Nat) : Nat :=
  match exec i (onWarp (fun w => { w with v := v })) with
  | .next t => match t.warpAt loadRef with | some w => (cget w.v (32 * k)).toNat | none => 2 ^ 32
  | _ => 2 ^ 32

/-- What an operation of `word` leaves in `v8`, from the values of `v16`, `v24` and `v32` in lane 0. -/
def gives (op : Op) (m : BitVec 5) (imm a b c : Word) : Nat := leaves (Instr.ofOp op (word op m imm)) [(512, a), (768, b), (1024, c)] 8

/-- 04_isa_core.md:R102, R103, R105. -/
theorem test_integer :
    gives .add 0 0 0xFFFFFFFF 1 0 = 0 ∧ gives .sub 0 0 3 5 0 = 0xFFFFFFFE ∧ gives .mulh 0 0 0xFFFFFFFF 2 0 = 0xFFFFFFFF ∧
    gives .mulh 1 0 0xFFFFFFFF 2 0 = 1 ∧ gives .mad 0 0 3 4 5 = 17 ∧ gives .idiv 0 0 0xFFFFFFF9 2 0 = 0xFFFFFFFD ∧
    gives .irem 0 0 0xFFFFFFF9 2 0 = 0xFFFFFFFF ∧ gives .idiv 1 0 7 0 0 = 0xFFFFFFFF ∧ gives .min 0 0 0xFFFFFFFF 1 0 = 0xFFFFFFFF ∧
    gives .max 0 0 0xFFFFFFFF 1 0 = 1 := by decide +kernel

/-- 04_isa_core.md:R108, R109 (its example), R110, R111. -/
theorem test_bits :
    gives .andn 0 0 0xFF 0x0F 0 = 0xF0 ∧ gives .orn 0 0 1 0xFFFFFFF0 0 = 0xF ∧ gives .shl 0 0 1 32 0 = 0 ∧ gives .sar 0 0 0x80000000 40 0 = 0xFFFFFFFF ∧
    gives .rol 0 0 0x80000001 33 0 = 3 ∧ gives .ror 0 0 1 1 0 = 0x80000000 ∧ gives .perm 0 0x443 0x44332211 0 0 = 0x11223344 ∧
    gives .bfx 2 0x0404 0xF0 0 0 = 0xFFFFFFFF ∧ gives .bfx 3 0x0404 0xF0 0 0 = 0xF ∧ gives .bfi 2 0x0404 0 0xA 0 = 0xA0 ∧ gives .bfr 0 0 1 0 0 = 0x80000000 ∧
    gives .popc 0 0 0xFF 0 0 = 8 ∧ gives .clz 0 0 0 0 0 = 32 ∧ gives .ctz 0 0 8 0 0 = 3 := by decide +kernel

/-- Binary32 results by hand: 1.5 + 2.25, 1.5 × 2 + 0.25, 1 ÷ 3 and √2 to nearest even (06_isa_float.md:R159, R165). -/
theorem test_float :
    gives .fadd 0 0 0x3FC00000 0x40100000 0 = 0x40700000 ∧ gives .fma 0 0 0x3FC00000 0x40000000 0x3E800000 = 0x40500000 ∧
    gives .fdiv 0 0 0x3F800000 0x40400000 0 = 0x3EAAAAAB ∧ gives .fsqrt 0 0 0x40000000 0 0 = 0x3FB504F3 ∧ gives .fneg 0 0 0 0 0 = 0x80000000 := by
  decide +kernel

/-- The worked conversions of 06_isa_float.md: 1,000.0 to E4M3 with and without `SAT`, and the four of `cvtn`. -/
theorem test_conversions :
    let c := fun sat => leaves (.cvt { plainWord (.v 3) (.v 7) .none .none .none 0x104 with sat := sat }) [(224, 0x447A0000)] 3
    c true = 0x7E ∧ c false = 0x7F ∧
    leaves (.cvtn (plainWord (.v 9) (.v 4) .none .none .none 0x104)) [(128, 0x3FC00000), (160, 0xBE99999A), (192, 0x43FA0000)] 9 = 0x007FAA3C := by
  decide +kernel

/-- The examples of 06_isa_float.md:R179: k = 3 and k = 2 of 2^3. -/
theorem test_twiddles :
    let t := fun (k : Word) r => leaves (.twid (plainWord (.v 8) (.v 16) (.v 24) .none .none 0)) [(512, k), (768, 3)] r
    t 3 8 = 0xBF3504F3 ∧ t 3 9 = 0xBF3504F3 ∧ t 2 8 = 0 ∧ t 2 9 = 0xBF800000 := by decide +kernel

/-- 1.5 at L = 52 as a window of three limbs (05_numbers.md), copied by `vfmov`; and widened from an immediate by adding zero. -/
theorem test_vf :
    let s := fun i k => (match exec i (onWarp (fun w => { w with v := [(512, 0x3FFF8000)], tags := [(16, 3)] })) with
      | .next t => (t.warpAt loadRef).map (fun w => ((cget w.v (32 * k)).toNat, (cget w.tags 8).toNat))
      | _ => none)
    s (.vfmov (plainWord (.v 8) (.v 16) .none .none .none 0)) 8 = some (0x3FFF8000, 3) ∧
    s (.vfadd (plainWord (.v 8) (.v 16) (.sel .zero) .none .none 0)) 8 = some (0x3FFF8000, 3) ∧
    s (.vfadd (plainWord (.v 8) (.sel .imm) (.sel .zero) .none .none 0x3FC00000)) 8 = some (0x3FFF8000, 3) := by decide +kernel

/-- The bytes of the `fma` word as 03_encoding.md writes them, from the lowest address. -/
theorem test_bytes :
    leBytes 16 0x0000_0000_0001_FDFF_FF01_4040_0C0C_0286 =
      [0x86, 0x02, 0x0C, 0x0C, 0x40, 0x40, 0x01, 0xFF, 0xFF, 0xFD, 0x01, 0x00, 0x00, 0x00, 0x00, 0x00] ∧
    decodeTableWord 128 0x0000_0000_0001_FDFF_FF01_4040_0C0C_0286 = some (.fma (plainWord (.v 12) (.v 3) (.v 4) (.v 5) .none 0)) := by decide +kernel

/-- A word placed for the fetch is run by the next step: `ldi` of 5 into `v8` (04_isa_core.md:R112). -/
theorem test_fetch :
    (match step (State.reset.withFetchWord 128 ((encode (.ldi (word .ldi 0 5))).getD 0).toNat) with
      | .next t => (t.warpAt loadRef).map (fun w => (cget w.v 256).toNat)
      | _ => none) = some 5 := by decide +kernel

end Sys2Proof.Tests
end

section
/-! ## O31. The shared operations of the state

Every operation either leaves memory alone (`_mem`) or changes it through one of the writes of `Sys2Proof/Laws/Memory.lean`, which
keep the canonical form (`_wf`). The lemmas speak of `s.mem.wf = true`, which is what `State.MemInv` says, so that `simp` joins the
two kinds. -/

namespace Sys2Proof.Machine

variable {s : State}

/-! ### Operations that leave memory alone -/

@[simp] theorem State.logFabric_mem (s : State) (pa : Nat) : (s.logFabric pa).mem = s.mem := State.LogOnly.mem ⟨_, rfl⟩
@[simp] theorem State.queueReply_mem (s : State) (op : Nat) (link chip : Bool) (c p y : DWord) :
    (s.queueReply op link chip c p y).mem = s.mem := rfl
@[simp] theorem State.startGroup_mem (s : State) (i : Iss) (w : W) (kind : Nat) (chip : Bool) (left : Nat) :
    (s.startGroup i w kind chip left).2.mem = s.mem := rfl
@[simp] theorem Iss.updBlk_mem (i : Iss) (s : State) (f : Block → Block) : (i.updBlk s f).mem = s.mem := rfl

/-- A fold leaves memory alone when every step of it does. -/
theorem State.mem_foldl {α : Type} (f : State → α → State) (hf : ∀ s a, (f s a).mem = s.mem) (l : List α) :
    ∀ s : State, (l.foldl f s).mem = s.mem := by
  induction l with
  | nil => exact fun _ => rfl
  | cons a r ih => exact fun s => (ih _).trans (hf s a)

@[simp] theorem State.trapLate_mem (s : State) (r : Ref) (t : TrapV) (path : Word) (hdr : DWord) (word : Nat) :
    (s.trapLate r t path hdr word).mem = s.mem := by
  unfold State.trapLate
  split <;> rfl

@[simp] theorem State.consumeSector_mem (s : State) (ctx : Nat) (sys : Bool) (k : Nat) : (s.consumeSector ctx sys k).mem = s.mem :=
  (State.consumeSector_log ..).mem

@[simp] theorem State.consume_mem (s : State) (ctx : Nat) (ps : List (Xlat × Nat)) : (s.consume ctx ps).mem = s.mem :=
  (State.consume_log ..).mem

@[simp] theorem State.consumeWalk_mem (s : State) (ctx va : Nat) : (s.consumeWalk ctx va).mem = s.mem := (State.consumeWalk_log ..).mem

@[simp] theorem State.consumeWalks_mem (s : State) (ctx va len : Nat) : (s.consumeWalks ctx va len).mem = s.mem :=
  (State.consumeWalks_log ..).mem

@[simp] theorem State.consumeFrame_mem (s : State) (b : Block) (g : Grid) (acc : Acc) : (s.consumeFrame b g acc).mem = s.mem :=
  (State.consumeFrame_log ..).mem

@[simp] theorem State.deviceRead_mem_eq (s : State) (pa : Nat) : (s.deviceRead pa).mem = s.mem := State.deviceRead_mem ..

/-- The accesses to host memory that some pieces are leave memory alone. -/
@[simp] theorem State.noteSysAll_mem (s : State) (ps : List (Xlat × Nat)) :
    (ps.foldl (fun s x => s.noteSys x.1.sys x.1.pa) s).mem = s.mem :=
  State.mem_foldl _ (fun s _ => State.noteSys_mem s _ _) _ s

@[simp] theorem State.noteRead_mem (s : State) (ctx va len : Nat) : (s.noteRead ctx va len).mem = s.mem := by
  simp [State.noteRead]

@[simp] theorem State.noteFetch_mem (s : State) (ctx : Nat) (va : DWord) : (s.noteFetch ctx va).mem = s.mem := by
  unfold State.noteFetch
  split <;> simp

@[simp] theorem State.notePath_mem (s : State) (g : OpGroup) : (s.notePath g).mem = s.mem := by
  unfold State.notePath
  split <;> rfl

@[simp] theorem State.closeGroup_mem (s : State) (op : Nat) : (s.closeGroup op).mem = s.mem := by
  unfold State.closeGroup
  split
  · split <;> simp
  · rfl

@[simp] theorem State.groupReply_mem (s : State) (op : Nat) (chip : Bool) (c p y : DWord) :
    (s.groupReply op chip c p y).mem = s.mem := by
  unfold State.groupReply
  split <;> simp

@[simp] theorem State.groupDone_mem (s : State) (op : Nat) : (s.groupDone op).mem = s.mem := by
  simp [State.groupDone]

@[simp] theorem State.cutGroup_mem (s : State) (op : Nat) : (s.cutGroup op).mem = s.mem := by
  simp [State.cutGroup]

@[simp] theorem State.killGrids_mem (s : State) (code : Nat) {α : Type} (f : α → Nat) (l : List α) :
    (l.foldl (fun s g => s.killGrid (f g) code) s).mem = s.mem :=
  State.mem_foldl _ (fun s _ => State.killGrid_mem s _ _) _ s

/-! ### The writes of memory, as `simp` uses them -/

/-- A fold keeps the canonical form when every step of it does. -/
theorem State.wf_foldl {α : Type} {f : State → α → State} {l : List α} (h : s.mem.wf = true)
    (hf : ∀ s a, s.mem.wf = true → (f s a).mem.wf = true) : (l.foldl f s).mem.wf = true :=
  State.memInv_foldl f hf l s h

/-- The same for a fold that carries more than a state: `g` is where the state stands. -/
theorem State.wf_foldl_at {α β : Type} (g : β → State) {f : β → α → β} {l : List α} {b : β} (h : (g b).mem.wf = true)
    (hf : ∀ b a, (g b).mem.wf = true → (g (f b a)).mem.wf = true) : (g (l.foldl f b)).mem.wf = true :=
  List.foldlRecOn l f (motive := fun b => (g b).mem.wf = true) h (fun b hb a _ => hf b a hb)

theorem State.wf_ite {c : Prop} [Decidable c] {a b : State} (ha : a.mem.wf = true) (hb : b.mem.wf = true) :
    (if c then a else b).mem.wf = true := by
  split <;> assumption

@[simp] theorem State.homeStore_wf (core : Option Nat) (sys : Bool) (pa : Nat) (data : List Byte) (mark : Bool)
    (h : s.mem.wf = true) : (s.homeStore core sys pa data mark).mem.wf = true := State.homeStore_memInv _ _ _ _ _ h

@[simp] theorem State.homeStoreVa_wf (core : Option Nat) (ctx va : Nat) (data : List Byte) (mark : Bool) (h : s.mem.wf = true) :
    (s.homeStoreVa core ctx va data mark).mem.wf = true := State.homeStoreVa_memInv _ _ _ _ _ h

@[simp] theorem State.coverDone_wf (o : HomeOp) (h : s.mem.wf = true) : (s.coverDone o).mem.wf = true := State.coverDone_memInv o h

@[simp] theorem State.fillTlb_wf (ctx va : Nat) (h : s.mem.wf = true) : (s.fillTlb ctx va).mem.wf = true := State.fillTlb_memInv _ _ h

@[simp] theorem State.fillRange_wf (ctx va len : Nat) (h : s.mem.wf = true) : (s.fillRange ctx va len).mem.wf = true :=
  State.fillRange_memInv _ _ _ h

@[simp] theorem State.fillLine_wf (core ctx : Nat) (x : Xlat) (h : s.mem.wf = true) : (s.fillLine core ctx x).mem.wf = true :=
  State.fillLine_memInv _ _ _ h

@[simp] theorem State.dropFor_wf (ctx va units : Nat) (h : s.mem.wf = true) : (s.dropFor ctx va units).mem.wf = true :=
  State.dropFor_memInv _ _ _ h

@[simp] theorem State.postEvent_wf (ctx typ code : Nat) (adr aux : DWord) (lsq tkt wrp mdl : Nat) (h : s.mem.wf = true) :
    (s.postEvent ctx typ code adr aux lsq tkt wrp mdl).mem.wf = true := State.postEvent_memInv _ _ _ _ _ _ _ _ _ h

@[simp] theorem State.completionStore_wf (ctx : Nat) (cwa : Option DWord) (v : DWord) (lsq aux : Nat) (h : s.mem.wf = true) :
    (s.completionStore ctx cwa v lsq aux).mem.wf = true := State.completionStore_memInv _ _ _ _ _ h

@[simp] theorem State.complete_wf (status result : Nat) (h : s.mem.wf = true) : (s.complete status result).mem.wf = true :=
  State.complete_memInv _ _ h

@[simp] theorem State.killBlockFor_wf (lsq tkt wrp code : Nat) (wp : Option Warp) (h : s.mem.wf = true) :
    (s.killBlockFor lsq tkt wrp code wp).mem.wf = true := State.killBlockFor_memInv _ _ _ _ _ h

@[simp] theorem State.killBlock_wf (lsq tkt wrp code : Nat) (h : s.mem.wf = true) : (s.killBlock lsq tkt wrp code).mem.wf = true :=
  State.killBlockFor_wf _ _ _ _ _ h

/-! ### Copies in the L1, loads and pending stores -/

@[simp] theorem State.trimL1_wf (core : Nat) (h : s.mem.wf = true) : (s.trimL1 core).mem.wf = true := h

@[simp] theorem State.trimCores_wf (cores : List Nat) (h : s.mem.wf = true) : (s.trimCores cores).mem.wf = true :=
  State.wf_foldl h (fun _ _ => State.trimL1_wf _)

@[simp] theorem State.dropCopies_wf (cores : List Nat) (h : s.mem.wf = true) : (s.dropCopies cores).mem.wf = true := h

@[simp] theorem State.forgetLines_wf (core : Nat) (sys : Bool) (pa len : Nat) (h : s.mem.wf = true) :
    (s.forgetLines core sys pa len).mem.wf = true := by
  unfold State.forgetLines
  split <;> exact h

@[simp] theorem State.loadLine_wf (core ctx : Nat) (x : Xlat) (len : Nat) (h : s.mem.wf = true) :
    (s.loadLine core ctx x len).2.2.mem.wf = true := by
  unfold State.loadLine
  simp only
  split
  · split <;> simp [h]
  · simp [h]

@[simp] theorem State.performHome_wf (o : HomeOp) (h : s.mem.wf = true) : (s.performHome o).mem.wf = true := by
  simp [State.performHome, h]

@[simp] theorem State.flushOwn_wf (r : Ref) (x : Xlat) (len : Nat) (h : s.mem.wf = true) : (s.flushOwn r x len).mem.wf = true :=
  State.wf_foldl h (fun _ _ => State.performHome_wf _)

@[simp] theorem State.loadRange_wf (r : Ref) (core ctx va len : Nat) (h : s.mem.wf = true) :
    (s.loadRange r core ctx va len).2.2.mem.wf = true := by
  unfold State.loadRange
  simp only
  split
  on_goal 1 => rw [State.consume_mem]
  all_goals
    refine State.wf_foldl_at (fun a : List Byte × Bool × State => a.2.2) ?_ (fun _ _ ha => ?_)
    · exact State.fillRange_wf _ _ _ h
    · exact State.loadLine_wf _ _ _ _ (State.flushOwn_wf _ _ _ ha)

end Sys2Proof.Machine
end

section
/-! ## O31. Issuing a word: the outcomes, and the meanings that several words share -/

namespace Sys2Proof.Machine

variable {s : State}

/-- An outcome whose next state, if there is one, has memory in canonical form. -/
@[simp] def Out.MemInv : Out → Prop
  | .next t => t.mem.wf = true
  | .fault _ | .refused _ => True

/-- What a meaning says about its path, with memory in canonical form. -/
@[simp] def Res.MemInv : Res → Prop
  | .done t | .stay t | .trap t _ | .moved t => t.mem.wf = true

/-- A meaning that keeps memory in canonical form, whichever path issues. -/
def KeepsMem (k : Iss → State → Res) : Prop := ∀ (i : Iss) (s : State), s.mem.wf = true → (k i s).MemInv

theorem finish_wf (i : Iss) {r : Res} (h : r.MemInv) : (finish i r).mem.wf = true := by
  cases r <;> exact h

/-- ISSUING A WORD keeps memory in canonical form when its meaning does: a check, a wait and a word without lanes leave it alone. -/
theorem issueW_memInv {op : Op} {w : W} {k : Iss → State → Res} (hk : KeepsMem k) (h : s.mem.wf = true) :
    Out.MemInv (issueW op w k s) := by
  unfold issueW
  split
  · trivial
  · refine finish_wf _ ?_
    split
    · exact h
    · split
      · exact h
      · split
        · exact h
        · exact hk _ _ h

/-! ### Shared meanings -/

theorem Out.memInv_ite {c : Prop} [Decidable c] {a b : Out} (ha : Out.MemInv a) (hb : Out.MemInv b) :
    Out.MemInv (if c then a else b) := by
  split <;> assumption

theorem Res.memInv_ite {c : Prop} [Decidable c] {a b : Res} (ha : a.MemInv) (hb : b.MemInv) : (if c then a else b).MemInv := by
  split <;> assumption

theorem keepsMem_ite {c : Prop} [Decidable c] {k k' : Iss → State → Res} (hk : KeepsMem k) (hk' : KeepsMem k') :
    KeepsMem (if c then k else k') := by
  split <;> assumption

@[simp] theorem localOp_memInv (f : Iss → Warp → Warp) (i : Iss) (s : State) : (localOp f i s).MemInv ↔ s.mem.wf = true := by
  simp [localOp]

theorem keepsMem_localOp {f : Iss → Warp → Warp} : KeepsMem (localOp f) :=
  fun i s h => (localOp_memInv f i s).2 h

@[simp] theorem Iss.stall_memInv (i : Iss) (why : Option Nat) (h : s.mem.wf = true) : (i.stall why s).MemInv := by
  unfold Iss.stall
  split <;> exact h

theorem keepsMem_withCounter {w : W} {k : Iss → State → Res} (hk : KeepsMem k) : KeepsMem (withCounter w k) := by
  intro i s h
  unfold withCounter
  split
  · exact hk i s h
  · exact Iss.stall_memInv _ _ h

theorem keepsMem_withRoom {acc : Acc} {rs : List (Nat × Nat × Nat)} {k : Iss → State → Res} (hk : KeepsMem k) :
    KeepsMem (withRoom acc rs k) := by
  intro i s h
  unfold withRoom
  simp only
  split
  · exact hk i s h
  · exact Iss.stall_memInv _ _ h

theorem keepsMem_inOrder {acc : Acc} {p : Place} {rows : List (Nat × Nat)} {k : Iss → State → Res} (hk : KeepsMem k) :
    KeepsMem (inOrder acc p rows k) := by
  intro i s h
  unfold inOrder
  split
  · exact Iss.stall_memInv _ _ h
  · exact hk i s h

theorem keepsMem_afterFence {scope : Nat} {k : Iss → State → Res} (hk : KeepsMem k) : KeepsMem (afterFence scope k) := by
  intro i s h
  unfold afterFence
  cases i.path.park
  case released => exact hk i s h
  case run | stall =>
    simp only
    split
    · exact hk i s h
    · exact h
  all_goals exact h

theorem keepsMem_tilePlaced {park : Nat → Park} {a : Nat} {k : Iss → State → Res} (hk : KeepsMem k) :
    KeepsMem (tilePlaced park a k) := by
  intro i s h
  unfold tilePlaced
  split
  · exact hk i s h
  · split <;> exact h

theorem keepsMem_tileOrdered {a : Nat} {k : Iss → State → Res} (hk : KeepsMem k) : KeepsMem (tileOrdered a k) :=
  keepsMem_tilePlaced hk

/-! ### The conflict detector -/

/-- The detector notes an access in the grid alone. -/
theorem Iss.detect_wf {i : Iss} {kind : Nat} {ss : List (Nat × Nat × Nat)} {t : State} (e : i.detect kind ss s = .ok t)
    (h : s.mem.wf = true) : t.mem.wf = true := by
  unfold Iss.detect at e
  split at e
  · cases e; exact h
  · split at e
    · cases e; exact h
    · simp only at e
      split at e
      · cases e
      · cases e; exact h

theorem Iss.detectAll_wf {i : Iss} {ks : List (Nat × List (Nat × Nat × Nat))} {t : State} (e : i.detectAll ks s = .ok t)
    (h : s.mem.wf = true) : t.mem.wf = true := by
  unfold Iss.detectAll at e
  split at e
  next x hx =>
    obtain ⟨k, -, rfl⟩ := List.mem_map.1 (List.mem_of_find?_eq_some hx)
    exact Iss.detect_wf e h
  next =>
    cases e
    refine State.wf_foldl h (fun u k hu => ?_)
    split
    next v ev => exact Iss.detect_wf ev hu
    next => exact hu

theorem Iss.detectRows_wf {i : Iss} {first : Bool} {m : MmaRec} {t : State} (e : i.detectRows first m s = .ok t)
    (h : s.mem.wf = true) : t.mem.wf = true := by
  unfold Iss.detectRows at e
  split at e
  · exact Iss.detect_wf e h
  · cases e; exact h

end Sys2Proof.Machine
end

section
/-! ## O31. Words on registers and their flow of control: they change their own warp -/

namespace Sys2Proof.Machine

variable {s : State}

theorem execPerm_memInv (w : W) (h : s.mem.wf = true) : Out.MemInv (execPerm w s) := by
  refine issueW_memInv (fun i s h => ?_) h
  simp only
  split <;> exact h

theorem rdsOwn_memInv (w : W) (i : Iss) (h : s.mem.wf = true) : (rdsOwn w i s).MemInv := by
  unfold rdsOwn
  simp only
  split <;> exact h

theorem rdsTw_memInv (w : W) (i : Iss) (h : s.mem.wf = true) : (rdsTw w i s).MemInv := by
  unfold rdsTw
  split
  · exact h
  · split
    all_goals
      simp only
      split <;> exact h

theorem execRds_memInv (w : W) (h : s.mem.wf = true) : Out.MemInv (execRds w s) := by
  refine issueW_memInv (fun i s h => ?_) h
  split
  · exact rdsOwn_memInv w i h
  · exact rdsTw_memInv w i h

theorem wrsOwn_memInv (w : W) (i : Iss) (h : s.mem.wf = true) : (wrsOwn w i s).MemInv := by
  unfold wrsOwn
  simp only
  split_ifs <;> exact h

theorem wrsTw_memInv (w : W) (i : Iss) (h : s.mem.wf = true) : (wrsTw w i s).MemInv := by
  unfold wrsTw
  split
  · exact h
  · simp only
    split_ifs <;> exact h

theorem execWrs_memInv (w : W) (h : s.mem.wf = true) : Out.MemInv (execWrs w s) := by
  refine issueW_memInv (fun i s h => ?_) h
  split
  · exact wrsOwn_memInv w i h
  · exact wrsTw_memInv w i h

theorem keepsMem_collective {op : Op} {w : W} : KeepsMem (collective op w) := by
  intro i s h
  unfold collective
  simp only
  split <;> exact h

theorem execWaitlt_memInv (w : W) (h : s.mem.wf = true) : Out.MemInv (execWaitlt w s) := by
  refine issueW_memInv (fun i s h => ?_) h
  simp only
  split <;> exact h

theorem keepsMem_transferOp {target : Iss → Nat → DWord} {pre : Iss → Warp → Warp} : KeepsMem (transferOp target pre) := by
  intro i s h
  unfold transferOp
  split <;> exact h

theorem execExit_memInv (w : W) (h : s.mem.wf = true) : Out.MemInv (execExit w s) := by
  refine issueW_memInv (fun i s h => ?_) h
  split <;> exact h

theorem execTrec_memInv (w : W) (h : s.mem.wf = true) : Out.MemInv (execTrec w s) := by
  refine issueW_memInv (fun i s h => ?_) h
  split <;> exact h

theorem execTret_memInv (w : W) (h : s.mem.wf = true) : Out.MemInv (execTret w s) := by
  refine issueW_memInv (fun i s h => ?_) h
  split
  · exact h
  · split
    · exact h
    · simp only
      split <;> exact h

theorem execTrap_memInv (w : W) (h : s.mem.wf = true) : Out.MemInv (execTrap w s) := issueW_memInv (fun _ _ h => h) h

theorem execNop_memInv (w : W) (h : s.mem.wf = true) : Out.MemInv (execNop w s) := issueW_memInv (fun _ _ h => h) h

theorem execPFormWord_memInv (x y : Half) (h : s.mem.wf = true) : Out.MemInv (execPFormWord x y s) := by
  unfold execPFormWord
  split
  · trivial
  · refine finish_wf _ ?_
    split_ifs <;> exact h

theorem execUnassignedOpcode_memInv (q : BitVec 128) (h : s.mem.wf = true) : Out.MemInv (execUnassignedOpcode q s) := by
  unfold execUnassignedOpcode
  split
  · trivial
  · exact finish_wf _ h

/-! ### Variable floats and transforms -/

theorem keepsMem_vfWrite {w : W} {srcOk : Iss → Bool} {d : VfDst} {f : Iss → Nat → VfOut} : KeepsMem (vfWrite w srcOk d f) := by
  intro i s h
  unfold vfWrite
  split
  · exact h
  · simp only
    split_ifs <;> exact h

theorem keepsMem_vfOp {w : W} {srcs : List Opnd} {f : Iss → Nat → VfOut} : KeepsMem (vfOp w srcs f) := keepsMem_vfWrite

theorem keepsMem_vfCopy {w : W} {f : Nat → Nat → Nat} : KeepsMem (vfCopy w f) := by
  intro i s h
  unfold vfCopy
  simp only
  split <;> exact h

theorem keepsMem_xf32 {w : W} {ds : List Opnd} {f : Iss → Nat → List FRes} : KeepsMem (xf32 w ds f) := keepsMem_localOp

theorem execCbdec_memInv (w : W) (h : s.mem.wf = true) : Out.MemInv (execCbdec w s) := by
  refine issueW_memInv (fun i s h => ?_) h
  split <;> exact h

theorem execVfcmp_memInv (w : W) (h : s.mem.wf = true) : Out.MemInv (execVfcmp w s) := by
  refine issueW_memInv (fun i s h => ?_) h
  split <;> exact h

theorem execVfcvt_memInv (w : W) (h : s.mem.wf = true) : Out.MemInv (execVfcvt w s) := by
  refine issueW_memInv (fun i s h => ?_) h
  split
  · exact keepsMem_vfWrite i s h
  · split <;> exact h

theorem execVfext_memInv (w : W) (h : s.mem.wf = true) : Out.MemInv (execVfext w s) := by
  refine issueW_memInv (fun i s h => ?_) h
  split
  · split <;> exact h
  · exact keepsMem_vfOp i s h

theorem execBfly_memInv (w : W) (h : s.mem.wf = true) : Out.MemInv (execBfly w s) :=
  issueW_memInv (keepsMem_ite keepsMem_xf32 keepsMem_vfWrite) h

theorem execCbfly_memInv (w : W) (h : s.mem.wf = true) : Out.MemInv (execCbfly w s) :=
  issueW_memInv (keepsMem_ite keepsMem_xf32 keepsMem_vfWrite) h

theorem execCmul_memInv (w : W) (h : s.mem.wf = true) : Out.MemInv (execCmul w s) :=
  issueW_memInv (keepsMem_ite keepsMem_xf32 keepsMem_vfWrite) h

theorem execTwid_memInv (w : W) (h : s.mem.wf = true) : Out.MemInv (execTwid w s) := by
  refine issueW_memInv (fun i s h => ?_) h
  simp only
  split_ifs
  · exact h
  · exact keepsMem_xf32 i s h
  · exact keepsMem_vfWrite i s h

end Sys2Proof.Machine
end

section
/-! ## O31. Loads, stores and atomics -/

namespace Sys2Proof.Machine

variable {s : State}

/-! ### Pending stores -/

@[simp] theorem State.pushStores_mem (s : State) (op core : Nat) (mark : Bool) (ps : List (Xlat × List Byte)) :
    (s.pushStores op core mark ps).mem = s.mem := by
  unfold State.pushStores
  refine State.mem_foldl _ (fun _ _ => ?_) _ s
  rfl

@[simp] theorem State.issueStores_wf (i : Iss) (w : W) (kind : Nat) (ls : List (Nat × List Byte)) (mark : Bool)
    (h : s.mem.wf = true) : (s.issueStores i w kind ls mark).mem.wf = true := by
  have filled : (ls.foldl (fun s x => s.fillRange i.ctx x.1 x.2.length) s).mem.wf = true :=
    State.wf_foldl h (fun _ _ => State.fillRange_wf _ _ _)
  have flushed : ∀ ps : List (Xlat × List Byte), (ps.foldl (fun s p => s.flushOwn i.r p.1 p.2.length)
      (ls.foldl (fun s x => s.fillRange i.ctx x.1 x.2.length) s)).mem.wf = true :=
    fun _ => State.wf_foldl filled (fun _ _ => State.flushOwn_wf _ _ _)
  unfold State.issueStores
  simp only
  split <;> simp [flushed]

/-! ### Lanes that load and store -/

@[simp] theorem State.loadLanes_wf (i : Iss) (rs : List (Nat × Nat × Nat)) (h : s.mem.wf = true) :
    (s.loadLanes i rs).2.2.mem.wf = true :=
  State.wf_foldl_at (fun a : List (Nat × List Byte) × Word × State => a.2.2) h (fun _ _ ha => State.loadRange_wf _ _ _ _ _ ha)

theorem keepsMem_globalLoad {rs : List (Nat × Nat × Nat)} {land : (Nat → List Byte) → Warp → Warp} :
    KeepsMem (globalLoad rs land) := by
  intro i s h
  unfold globalLoad
  split
  · exact h
  · refine keepsMem_withRoom (fun i s h => ?_) i s h
    split
    · exact h
    next t e =>
      have ht := State.loadLanes_wf i rs (Iss.detect_wf e h)
      simp only
      split <;> exact ht

theorem keepsMem_scratchLoad {rs : List (Nat × Nat × Nat)} {land : (Nat → List Byte) → Warp → Warp} :
    KeepsMem (scratchLoad rs land) := by
  intro i s h
  unfold scratchLoad
  split
  · exact h
  · split
    · exact h
    next t e =>
      have ht := Iss.detect_wf e h
      simp only
      split <;> exact ht

theorem keepsMem_globalStore {w : W} {ls : List (Nat × Nat × List Byte)} {after : Warp → Warp} :
    KeepsMem (globalStore w ls after) := by
  intro i s h
  unfold globalStore
  split
  · exact h
  · refine keepsMem_withRoom (fun i s h => ?_) i s h
    split
    · exact h
    next t e => exact State.issueStores_wf _ _ _ _ _ (Iss.detect_wf e h)

theorem keepsMem_scratchStore {ls : List (Nat × Nat × List Byte)} {after : Warp → Warp} : KeepsMem (scratchStore ls after) := by
  intro i s h
  unfold scratchStore
  split
  · exact h
  · split
    · exact h
    next t e => exact (Iss.detect_wf e h :)

theorem execLdg_memInv (w : W) (h : s.mem.wf = true) : Out.MemInv (execLdg w s) :=
  issueW_memInv (fun i => keepsMem_globalLoad i) h

theorem execStg_memInv (w : W) (h : s.mem.wf = true) : Out.MemInv (execStg w s) :=
  issueW_memInv (keepsMem_withCounter fun i => keepsMem_globalStore i) h

theorem execLdsp_memInv (w : W) (h : s.mem.wf = true) : Out.MemInv (execLdsp w s) :=
  issueW_memInv (fun i => keepsMem_scratchLoad i) h

theorem execStsp_memInv (w : W) (h : s.mem.wf = true) : Out.MemInv (execStsp w s) :=
  issueW_memInv (keepsMem_withCounter fun i => keepsMem_scratchStore i) h

theorem execLdvf_memInv (w : W) (h : s.mem.wf = true) : Out.MemInv (execLdvf w s) := by
  refine issueW_memInv (fun i s h => ?_) h
  split
  · exact h
  · split
    · exact h
    · simp only
      split
      · split
        · exact h
        · exact keepsMem_globalLoad i s h
      · split
        · exact h
        · exact keepsMem_scratchLoad i s h

theorem execStvf_memInv (w : W) (h : s.mem.wf = true) : Out.MemInv (execStvf w s) := by
  refine issueW_memInv (keepsMem_withCounter (fun i s h => ?_)) h
  split
  · exact h
  · simp only
    split
    · exact keepsMem_globalStore i s h
    · exact keepsMem_scratchStore i s h

/-! ### Atomics -/

theorem atomAtHome_wf (w : W) (i : Iss) (g : Nat) (a : AtomRun × State) (l addr : Nat) (h : a.2.mem.wf = true) :
    (atomAtHome w i g a l addr).2.mem.wf = true := by
  unfold atomAtHome
  split
  · exact h
  · exact h
  · simp only
    split <;> simp [h]

theorem atomEnd_memInv (w : W) (i : Iss) (acc : Nat) (addr : Nat → Nat) (a : AtomRun) (h : s.mem.wf = true) :
    (atomEnd w i acc addr a s).MemInv := by
  unfold atomEnd
  split <;> exact h

theorem execAtomg_memInv (w : W) (h : s.mem.wf = true) : Out.MemInv (execAtomg w s) := by
  refine issueW_memInv (keepsMem_withCounter (fun i s h => ?_)) h
  simp only
  split
  · exact h
  · split
    · exact h
    · refine keepsMem_withRoom (fun i s h => ?_) i s h
      split
      · exact h
      next t e =>
        have ht := Iss.detect_wf e h
        have filled : ∀ rs : List (Nat × Nat × Nat), (rs.foldl (fun s x => s.fillRange i.ctx x.2.1 x.2.2) t).mem.wf = true :=
          fun _ => State.wf_foldl ht (fun _ _ => State.fillRange_wf _ _ _)
        split
        · exact filled _
        · refine atomEnd_memInv _ _ _ _ _ ?_
          split
          on_goal 1 => rw [State.cutGroup_mem]
          all_goals exact State.wf_foldl_at (fun a : AtomRun × State => a.2) (filled _) (fun _ _ ha => atomAtHome_wf _ _ _ _ _ _ ha)

theorem execAtomsp_memInv (w : W) (h : s.mem.wf = true) : Out.MemInv (execAtomsp w s) := by
  refine issueW_memInv (keepsMem_withCounter (fun i s h => ?_)) h
  simp only
  split
  · exact h
  · split
    · exact h
    next t e => exact atomEnd_memInv _ _ _ _ _ (Iss.detect_wf e h :)

/-! ### Fences and drains -/

theorem keepsMem_parkUntil {k : Park} : KeepsMem (parkUntil k) := by
  intro i s h
  unfold parkUntil
  cases i.path.park
  case run | stall => exact Res.memInv_ite h h
  all_goals exact h

theorem execFence_memInv (w : W) (h : s.mem.wf = true) : Out.MemInv (execFence w s) :=
  issueW_memInv (fun i s => keepsMem_parkUntil i s) h

theorem execDrain_memInv (w : W) (h : s.mem.wf = true) : Out.MemInv (execDrain w s) := by
  refine issueW_memInv (fun i s h => ?_) h
  simp only
  split <;> exact keepsMem_parkUntil i s h

end Sys2Proof.Machine
end

section
/-! ## O31. Matrix operations and sum trees -/

namespace Sys2Proof.Machine

variable {s : State}

theorem execAget_memInv (w : W) (h : s.mem.wf = true) : Out.MemInv (execAget w s) := by
  refine issueW_memInv (fun i s h => ?_) h
  simp only
  split
  · exact h
  · split
    · exact h
    · split <;> exact h

theorem execAput_memInv (w : W) (h : s.mem.wf = true) : Out.MemInv (execAput w s) := by
  refine issueW_memInv (fun i s h => ?_) h
  simp only
  split
  · exact h
  · split
    · exact h
    · refine keepsMem_tilePlaced (fun i s h => ?_) i s h
      exact h

theorem execAzero_memInv (w : W) (h : s.mem.wf = true) : Out.MemInv (execAzero w s) :=
  issueW_memInv (keepsMem_tileOrdered fun _ _ h => h) h

theorem execAld_memInv (w : W) (h : s.mem.wf = true) : Out.MemInv (execAld w s) := by
  refine issueW_memInv (keepsMem_tileOrdered (fun i s h => ?_)) h
  split
  · exact h
  · simp only
    split_ifs
    · exact h
    · exact h
    · exact keepsMem_localOp i s h

theorem execAst_memInv (w : W) (h : s.mem.wf = true) : Out.MemInv (execAst w s) := by
  refine issueW_memInv (keepsMem_tileOrdered (fun i s h => ?_)) h
  split <;> exact h

theorem execAscl_memInv (w : W) (h : s.mem.wf = true) : Out.MemInv (execAscl w s) := by
  refine issueW_memInv (keepsMem_tileOrdered (fun i s h => ?_)) h
  simp only
  split <;> exact h

theorem execAconv_memInv (w : W) (h : s.mem.wf = true) : Out.MemInv (execAconv w s) := by
  refine issueW_memInv (keepsMem_withCounter (keepsMem_tileOrdered (fun i s h => ?_))) h
  split
  · exact h
  · extract_lets
    refine Res.memInv_ite h (Res.memInv_ite h (Res.memInv_ite ?_ (Res.memInv_ite h (Res.memInv_ite h ?_))))
    · extract_lets
      split
      · exact h
      · refine keepsMem_withRoom (fun i s h => ?_) i s h
        split
        · exact h
        next t e => exact State.issueStores_wf _ _ _ _ _ (Iss.detect_wf e h)
    · split
      · exact h
      next t e => exact (Iss.detect_wf e h :)

theorem execOmset_memInv (w : W) (h : s.mem.wf = true) : Out.MemInv (execOmset w s) := by
  refine issueW_memInv (fun i s h => ?_) h
  simp only
  split <;> exact h

theorem execThset_memInv (w : W) (h : s.mem.wf = true) : Out.MemInv (execThset w s) := by
  refine issueW_memInv (fun i s h => ?_) h
  simp only
  split <;> exact h

theorem execKinit_memInv (w : W) (h : s.mem.wf = true) : Out.MemInv (execKinit w s) := by
  refine issueW_memInv (fun i s h => ?_) h
  split
  · exact h
  · simp only
    split <;> exact h

/-! ### Fetching a handle -/

theorem State.fetchGroup_wf (core ctx : Nat) (m : MmaRec) (h : s.mem.wf = true) : (s.fetchGroup core ctx m).2.mem.wf = true :=
  State.wf_foldl_at (fun a : List (List Byte × Bool) × State => a.2) h (fun _ _ ha => State.loadRange_wf _ _ _ _ _ ha)

theorem State.fetchGroups_wf (core ctx n : Nat) : ∀ {s : State} (m : MmaRec), s.mem.wf = true →
    (s.fetchGroups core ctx n m).2.mem.wf = true := by
  induction n with
  | zero => exact fun _ h => h
  | succ n ih =>
    intro s m h
    unfold State.fetchGroups
    split
    · exact h
    · exact ih _ (State.fetchGroup_wf _ _ _ h)

@[simp] theorem State.fetchHandle_wf (core ctx : Nat) (m : MmaRec) (h : s.mem.wf = true) :
    (s.fetchHandle core ctx m).2.mem.wf = true := State.fetchGroups_wf _ _ _ _ h

theorem keepsMem_mmaSign {op : Op} {w : W} : KeepsMem (mmaSign op w) := by
  intro i s h
  unfold mmaSign
  split
  · exact h
  · refine Res.memInv_ite h (Res.memInv_ite h (Res.memInv_ite (Iss.stall_memInv _ _ h) ?_))
    split
    · exact h
    next t e =>
      have ht := Iss.detectRows_wf e h
      extract_lets id named x rec_ fetched ctr sg counted set
      have hfetched : fetched.mem.wf = true := State.fetchHandle_wf _ _ _ ht
      clear_value fetched
      exact Res.memInv_ite hfetched (Res.memInv_ite hfetched hfetched)

theorem keepsMem_signWord {op : Op} {w : W} : KeepsMem (signWord op w) := by
  intro i s h
  unfold signWord
  split
  · exact h
  · exact h
  · exact keepsMem_withCounter keepsMem_mmaSign i s h

/-! ### Performing a matrix operation -/

@[simp] theorem State.mmaAdvance_mem (s : State) (b : Block) (gr : Grid) (m : MmaOp) (n : Nat) : (s.mmaAdvance b gr m n).mem = s.mem := by
  unfold State.mmaAdvance
  simp only
  split <;> rfl

theorem execMmaRetire_memInv (op : Nat) (h : s.mem.wf = true) : Out.MemInv (execMmaRetire op s) := by
  unfold execMmaRetire
  split
  · exact h
  · split
    · exact h
    · refine State.wf_foldl ?_ (fun _ _ hs => hs)
      simpa using h

theorem State.fetchOn_wf (b : Block) (g : Grid) (m : MmaOp) (h : s.mem.wf = true) : (s.fetchOn b g m).mem.wf = true := by
  unfold State.fetchOn
  simp only
  split <;> exact State.fetchHandle_wf _ _ _ h

theorem State.fetchPending_wf (b : Block) (c : BlockCore) (g : Grid) (m : MmaRec) (h : s.mem.wf = true) :
    (s.fetchPending b c g m).mem.wf = true := State.fetchHandle_wf _ _ _ h

theorem execHandleFetchFault_memInv (op : Nat) (h : s.mem.wf = true) : Out.MemInv (execHandleFetchFault op s) := by
  unfold execHandleFetchFault
  split
  · split
    · exact State.fetchPending_wf _ _ _ _ h
    · exact h
  · split
    · exact h
    · split
      · simp only [Out.MemInv]
        split
        · exact h
        · exact State.fetchOn_wf _ _ _ h
      · split
        · exact h
        · split
          · exact h
          · split
            · exact State.fetchOn_wf _ _ _ h
            · exact h
            · split
              · exact h
              · simpa using h

theorem execTileGrant_memInv (core : Nat) (h : s.mem.wf = true) : Out.MemInv (execTileGrant core s) := by
  unfold execTileGrant
  split <;> exact h

/-! ### Sum trees -/

theorem keepsMem_treeOp {w : W} {words : Nat} {bad : Iss → Nat → Bool} {f : Iss → LaneOp} : KeepsMem (treeOp w words bad f) := by
  intro i s h
  unfold treeOp
  simp only
  split_ifs <;> exact h

theorem execStclr_memInv (w : W) (h : s.mem.wf = true) : Out.MemInv (execStclr w s) := issueW_memInv (fun _ _ h => h) h

theorem execStld_memInv (w : W) (h : s.mem.wf = true) : Out.MemInv (execStld w s) := by
  refine issueW_memInv (keepsMem_withCounter (fun i s h => ?_)) h
  refine Res.memInv_ite h (Res.memInv_ite ?_ (Res.memInv_ite h ?_))
  · split
    · exact h
    · refine keepsMem_withRoom (fun i s h => ?_) i s h
      split
      · exact h
      next t e => exact State.loadRange_wf _ _ _ _ _ (Iss.detect_wf e h)
  · split
    · exact h
    next t e => exact (Iss.detect_wf e h :)

theorem execStst_memInv (w : W) (h : s.mem.wf = true) : Out.MemInv (execStst w s) := by
  refine issueW_memInv (keepsMem_withCounter (fun i s h => ?_)) h
  refine Res.memInv_ite h (Res.memInv_ite ?_ (Res.memInv_ite h ?_))
  · split
    · exact h
    · refine keepsMem_withRoom (fun i s h => ?_) i s h
      split
      · exact h
      next t e => exact State.issueStores_wf _ _ _ _ _ (Iss.detect_wf e h)
  · split
    · exact h
    next t e => exact (Iss.detect_wf e h :)

end Sys2Proof.Machine
end

section
/-! ## O31. Transfer barriers, the copy engine, multicast and cache control -/

namespace Sys2Proof.Machine

variable {s : State}

/-! ### Transfer barriers -/

theorem execTbinit_memInv (w : W) (h : s.mem.wf = true) : Out.MemInv (execTbinit w s) :=
  issueW_memInv (fun _ _ h => Res.memInv_ite h h) h

theorem execTbexp_memInv (w : W) (h : s.mem.wf = true) : Out.MemInv (execTbexp w s) :=
  issueW_memInv (fun _ _ h => Res.memInv_ite h h) h

theorem execTbarr_memInv (w : W) (h : s.mem.wf = true) : Out.MemInv (execTbarr w s) :=
  issueW_memInv (fun _ _ h => Res.memInv_ite h h) h

theorem execTbwait_memInv (w : W) (h : s.mem.wf = true) : Out.MemInv (execTbwait w s) := by
  refine issueW_memInv (fun i s h => Res.memInv_ite h ?_) h
  cases i.path.park
  case released => exact h
  all_goals exact Res.memInv_ite h (Res.memInv_ite h h)

theorem execTbtest_memInv (w : W) (h : s.mem.wf = true) : Out.MemInv (execTbtest w s) :=
  issueW_memInv (fun _ _ h => Res.memInv_ite h h) h

theorem execWaitTimePassed_memInv (r : Ref) (h : s.mem.wf = true) : Out.MemInv (execWaitTimePassed r s) := by
  unfold execWaitTimePassed
  split
  · split
    · split
      · split <;> exact h
      · exact h
    · exact h
  · exact h

/-! ### What an engine reads, stores and reports -/

@[simp] theorem State.report_wf (lsq tkt : Nat) (bar : Option Nat) (n : Nat) (f : SecFate) (cpod : Option DWord)
    (h : s.mem.wf = true) : (s.report lsq tkt bar n f cpod).mem.wf = true := by
  unfold State.report
  split
  · split <;> simp [h]
  · exact h

@[simp] theorem State.engineRead_wf (r : Ref) (ctx : Nat) (p : Place) (off len : Nat) (h : s.mem.wf = true) :
    (s.engineRead r ctx p off len).2.2.mem.wf = true := by
  unfold State.engineRead
  split
  · split <;> exact h
  · have read : ∀ ps : List (Xlat × Nat), ∀ va n : Nat, (ps.foldl (fun s x =>
        ((s.flushOwn r x.1 x.2).noteSys x.1.sys x.1.pa).forgetLines (s.coreOf r) x.1.sys x.1.pa x.2)
          (s.consumeWalks ctx va n)).mem.wf = true :=
      fun _ _ _ => State.wf_foldl (by simpa using h) (fun _ _ hs => State.forgetLines_wf _ _ _ _ (by simp [hs]))
    exact State.wf_ite (by rw [State.consume_mem]; exact read _ _ _) (read _ _ _)

@[simp] theorem State.engineStore_wf (r : Ref) (ctx core va : Nat) (data : List Byte) (mark : Bool) (h : s.mem.wf = true) :
    (s.engineStore r ctx core va data mark).2.mem.wf = true := by
  unfold State.engineStore
  split <;> simp [h]

@[simp] theorem State.engineScratch_mem (s : State) (lsq tkt : Nat) (gens : List Nat) (off : Nat) (data : List Byte) (mark : Bool) :
    (s.engineScratch lsq tkt gens off data mark).2.mem = s.mem := by
  unfold State.engineScratch
  split
  · simp only
    split <;> rfl
  · rfl

@[simp] theorem State.sectorDone_wf (src : Ref) (bar : Option Nat) (op : Nat) (d : SecDone) (h : s.mem.wf = true) :
    (s.sectorDone src bar op d).mem.wf = true := by
  unfold State.sectorDone
  simp only
  split
  · split <;> simp [h]
  · simp [h]

/-! ### Copies -/

theorem shapeByte_wf (o : CopyOp) (q : QWord) (c p : Nat) (h : s.mem.wf = true) : (shapeByte s o q c p).2.2.mem.wf = true := by
  unfold shapeByte
  simp only
  split <;> simp [h]

theorem shapeBytes_wf (o : CopyOp) (q : QWord) (c at_ len : Nat) (h : s.mem.wf = true) :
    (shapeBytes s o q c at_ len).2.2.mem.wf = true :=
  State.wf_foldl_at (fun a : List Byte × Bool × State => a.2.2) h (fun _ _ ha => shapeByte_wf _ _ _ _ ha)

/-- The state after a sector's bytes have been taken from where a copy has them: its shape, its judged data or its source. -/
theorem State.copySource_wf (o : CopyOp) (row at_ len : Nat) (h : s.mem.wf = true) :
    (match o.shape, o.data with
      | some q, _ => shapeBytes s o q row at_ len
      | none, some d => ((d.drop at_).take len, false, s)
      | none, none => s.engineRead o.src o.ctx o.from_ at_ len).2.2.mem.wf = true := by
  split
  · exact shapeBytes_wf _ _ _ _ _ h
  · exact h
  · exact State.engineRead_wf _ _ _ _ _ h

@[simp] theorem State.copySector_wf (o : CopyOp) (k : Nat) (h : s.mem.wf = true) : (s.copySector o k).2.mem.wf = true := by
  unfold State.copySector
  extract_lets row rg p x
  have hx : x.2.2.mem.wf = true := State.copySource_wf o row p.1 p.2 h
  split
  · exact hx
  · split
    · rw [State.engineScratch_mem]; exact hx
    · exact State.engineStore_wf _ _ _ _ _ _ hx

@[simp] theorem State.copyDone_wf (o : CopyOp) (sector : Nat) (d : SecDone) (h : s.mem.wf = true) :
    (s.copyDone o sector d).mem.wf = true := State.sectorDone_wf _ _ _ _ h

theorem execEngineSectorReport_memInv (op sector : Nat) (h : s.mem.wf = true) : Out.MemInv (execEngineSectorReport op sector s) := by
  unfold execEngineSectorReport
  split
  · exact h
  · split
    · exact h
    · simp [h]

@[simp] theorem placeFill_wf (i : Iss) (acc : Acc) (p : Place) (rows : List (Nat × Nat)) (h : s.mem.wf = true) :
    (placeFill i s acc p rows).2.mem.wf = true := by
  unfold placeFill
  split
  · exact h
  · exact State.wf_foldl h (fun _ _ => State.fillRange_wf _ _ _)

theorem keepsMem_startCopy {w : W} {o : CopyOp} : KeepsMem (startCopy w o) := by
  intro i s h
  unfold startCopy
  split
  · exact h
  · split
    · exact h
    · exact h
    · exact h
    · split
      · exact h
      next t e => exact placeFill_wf _ _ _ _ (placeFill_wf _ _ _ _ (Iss.detectAll_wf e h))

theorem execTcopy_memInv (w : W) (h : s.mem.wf = true) : Out.MemInv (execTcopy w s) :=
  issueW_memInv (keepsMem_withCounter (fun i s h => Res.memInv_ite h (keepsMem_startCopy i s h))) h

/-! ### Multicast -/

theorem execMcast_memInv (w : W) (h : s.mem.wf = true) : Out.MemInv (execMcast w s) := by
  refine issueW_memInv (keepsMem_withCounter (fun i s h => Res.memInv_ite h ?_)) h
  split
  · exact h
  · refine keepsMem_inOrder (fun i s h => ?_) i s h
    extract_lets ts
    split
    · exact h
    next t e => exact placeFill_wf _ _ _ _ (Iss.detectAll_wf e h)

@[simp] theorem State.castArrive_wf (o : CastOp) (t : CastTarget) (sector : Nat) (data : Option (List Byte × Bool))
    (h : s.mem.wf = true) : (s.castArrive o t sector data).mem.wf = true := by
  unfold State.castArrive
  simp only
  split
  · simp [h]
  · cases data <;> simp [h]

theorem execMcastSectorArrival_memInv (op core sector : Nat) (h : s.mem.wf = true) :
    Out.MemInv (execMcastSectorArrival op core sector s) := by
  unfold execMcastSectorArrival
  split
  · exact h
  · split
    · exact h
    · split
      · exact h
      · simp [h]

theorem State.sectorError_wf (op core sector : Nat) (h : s.mem.wf = true) : (s.sectorError op core sector).mem.wf = true := by
  unfold State.sectorError
  split
  · split <;> simp [h]
  · split
    · split <;> simp [h]
    · exact h
  · exact h

theorem execGcmEngineJudge_memInv (op : Nat) (h : s.mem.wf = true) : Out.MemInv (execGcmEngineJudge op s) := by
  unfold execGcmEngineJudge
  split
  · exact h
  · split
    · exact h
    · split
      · exact h
      · simp only
        split
        · simp [h]
        · exact State.wf_foldl (by simp [h]) (fun _ _ => State.sectorDone_wf _ _ _ _)

/-! ### Cache control -/

theorem State.lockLine_wf (ctx : Nat) (x : Xlat) (h : s.mem.wf = true) : (s.lockLine ctx x).2.mem.wf = true := by
  unfold State.lockLine
  simp only
  split_ifs <;> exact h

theorem execLkl_memInv (w : W) (h : s.mem.wf = true) : Out.MemInv (execLkl w s) := by
  refine issueW_memInv (fun i s h => ?_) h
  split
  · exact h
  · refine State.wf_foldl_at (fun a : List Nat × State => a.2) h (fun a l ha => ?_)
    split
    · exact State.lockLine_wf _ _ ha
    · exact ha

theorem execUlk_memInv (w : W) (h : s.mem.wf = true) : Out.MemInv (execUlk w s) := by
  refine issueW_memInv (fun i s h => ?_) h
  split <;> exact h

theorem execPref_memInv (w : W) (h : s.mem.wf = true) : Out.MemInv (execPref w s) := by
  refine issueW_memInv (fun i s h => Res.memInv_ite h (State.wf_foldl h (fun t l ht => ?_))) h
  split
  · exact State.wf_ite ht (State.fillLine_wf _ _ _ (State.fillTlb_wf _ _ ht))
  · exact ht

end Sys2Proof.Machine
end

section
/-! ## O31. Remote operations -/

namespace Sys2Proof.Machine

variable {s : State}

/-! ### Sending -/

@[simp] theorem State.updEndpoint_mem (s : State) (ctx peer : Nat) (f : Endpoint → Endpoint) :
    (s.updEndpoint ctx peer f).mem = s.mem := by
  unfold State.updEndpoint
  split <;> rfl

@[simp] theorem State.sendRemote_mem (s : State) (o : RemoteOp) : (s.sendRemote o).mem = s.mem := by
  simp [State.sendRemote]

@[simp] theorem State.issueRemote_mem (s : State) (i : Iss) (w : W) (kind : Nat) (chip : Bool) (left : Nat) (os : List RemoteOp) :
    (s.issueRemote i w kind chip left os).2.mem = s.mem :=
  State.mem_foldl _ (fun s _ => State.sendRemote_mem s _) os _

@[simp] theorem State.askDetectors_mem (s : State) (i : Iss) (kind : Nat) (rs : List (Nat × Nat × Nat × Nat)) :
    (s.askDetectors i kind rs).2.mem = s.mem :=
  State.mem_foldl _ (fun s _ => State.sendRemote_mem s _) _ _

theorem Iss.awaitRemote_memInv (i : Iss) {x : Nat × State} (h : x.2.mem.wf = true) : (i.awaitRemote x).MemInv := h

theorem Iss.sent_memInv (i : Iss) {x : Nat × State} (h : x.2.mem.wf = true) : (i.sent x).MemInv :=
  Res.memInv_ite (i.awaitRemote_memInv h) h

theorem Iss.goRemote_memInv (i : Iss) (w : W) (kind : Nat) (chip : Bool) (left det : Nat) (o : RemoteOp) (h : s.mem.wf = true) :
    (i.goRemote w kind chip left det o s).MemInv := by
  unfold Iss.goRemote
  split
  · exact i.sent_memInv (by simpa using h)
  · split
    · exact i.awaitRemote_memInv (by simpa using h)
    · exact h

theorem execRput_memInv (w : W) (h : s.mem.wf = true) : Out.MemInv (execRput w s) := by
  refine issueW_memInv (keepsMem_withCounter (fun i s h => ?_)) h
  extract_lets n src
  split
  · exact h
  · split
    · exact h
    · split
      · exact h
      · refine keepsMem_inOrder (fun i s h => ?_) i s h
        split
        · exact h
        next t e =>
          exact Iss.goRemote_memInv _ _ _ _ _ _ _ (State.engineRead_wf _ _ _ _ _ (placeFill_wf _ _ _ _ (Iss.detect_wf e h)))

theorem execRget_memInv (w : W) (h : s.mem.wf = true) : Out.MemInv (execRget w s) := by
  refine issueW_memInv (keepsMem_withCounter (fun i s h => ?_)) h
  extract_lets n dst
  split
  · exact h
  · split
    · exact h
    · split
      · exact h
      · refine keepsMem_inOrder (fun i s h => ?_) i s h
        split
        · exact h
        next t e => exact Iss.goRemote_memInv _ _ _ _ _ _ _ (placeFill_wf _ _ _ _ (Iss.detect_wf e h))

theorem execRatom_memInv (w : W) (h : s.mem.wf = true) : Out.MemInv (execRatom w s) := by
  refine issueW_memInv (keepsMem_withCounter (fun i s h => ?_)) h
  refine Res.memInv_ite h (Res.memInv_ite ?_ (Res.memInv_ite ?_ (Res.memInv_ite ?_ ?_)))
  · exact i.awaitRemote_memInv (by simpa using h)
  · exact h
  · exact h
  · exact i.awaitRemote_memInv (by simpa using h)

theorem keepsMem_remoteWord {kind : Iss → RemoteKind} {ordered : Bool} {det : Nat} {w : W} :
    KeepsMem (remoteWord kind ordered det w) := by
  refine keepsMem_withCounter (fun i s h => ?_)
  split
  · exact h
  · split
    · exact h
    · exact Iss.goRemote_memInv _ _ _ _ _ _ _ h

/-! ### `waitw` -/

theorem State.observed_wf (i : Iss) (a : Nat) (h : s.mem.wf = true) : (s.observed i a).mem.wf = true := by
  unfold State.observed
  split
  · exact h
  · exact State.forgetLines_wf _ _ _ _ h

theorem execWaitw_memInv (w : W) (h : s.mem.wf = true) : Out.MemInv (execWaitw w s) := by
  refine issueW_memInv (fun i s h => ?_) h
  extract_lets a cmp dl go
  have hgo : ∀ (t : State) (b : Bool), t.mem.wf = true → (go t b).MemInv := fun t _ ht => State.observed_wf i a ht
  split
  · exact hgo _ _ h
  · split
    · exact h
    · split
      · exact h
      · exact h
      · split
        · exact Iss.stall_memInv _ _ h
        · split
          · exact h
          next t e =>
            have ht := Iss.detect_wf e h
            refine Res.memInv_ite (hgo _ _ ?_) (Res.memInv_ite (hgo _ _ ?_) ?_) <;> simp [ht]

theorem execWaitwDeadline_memInv (r : Ref) (h : s.mem.wf = true) : Out.MemInv (execWaitwDeadline r s) := by
  unfold execWaitwDeadline
  split
  · split
    · simpa using h
    · exact h
  · exact h

/-! ### Homes and replies -/

theorem execHomePerformsAccess_memInv (op : Nat) (h : s.mem.wf = true) : Out.MemInv (execHomePerformsAccess op s) := by
  unfold execHomePerformsAccess
  split
  · exact h
  · split
    · split
      · exact State.performHome_wf _ h
      · exact h
    · exact h

@[simp] theorem State.remoteFailed_wf (o : RemoteOp) (code : Nat) (h : s.mem.wf = true) : (s.remoteFailed o code).mem.wf = true :=
  State.postEvent_wf _ _ _ _ _ _ _ _ _ h

@[simp] theorem State.dropRemote_mem (s : State) (o : RemoteOp) : (s.dropRemote o).mem = s.mem := by
  simp [State.dropRemote]

@[simp] theorem State.trapRemote_mem (s : State) (o : RemoteOp) (t : TrapV) : (s.trapRemote o t).mem = s.mem := by
  simp [State.trapRemote]

@[simp] theorem State.freeRemote_mem (s : State) (o : RemoteOp) : (s.freeRemote o).mem = s.mem := by
  unfold State.freeRemote
  split <;> rfl

@[simp] theorem State.passProbe_mem (s : State) (o : RemoteOp) : (s.passProbe o).mem = s.mem := by
  unfold State.passProbe
  simp only
  split <;> rfl

@[simp] theorem State.logGet_mem (s : State) (ctx : Nat) (to_ : Place) (off : Nat) : (s.logGet ctx to_ off).mem = s.mem := by
  unfold State.logGet
  split
  · simp
  · split <;> simp

@[simp] theorem State.getSector_wf (o : RemoteOp) (to_ : Place) (r : RemoteReply) (k : Nat) (h : s.mem.wf = true) :
    (s.getSector o to_ r k).mem.wf = true := by
  unfold State.getSector
  refine State.sectorDone_wf _ _ _ _ ?_
  have logged : ∀ (c : Bool) (n : Nat), (if c then s.logGet o.ctx to_ n else s).mem.wf = true :=
    fun _ _ => State.wf_ite (by simpa using h) h
  cases to_
  · rw [State.engineScratch_mem]; exact logged _ _
  · exact State.engineStore_wf _ _ _ _ _ _ (logged _ _)

end Sys2Proof.Machine
end

section
/-! ## O31. Remote operations: their outcomes, and what the target performs -/

namespace Sys2Proof.Machine

variable {s : State}

/-! ### Outcomes -/

@[simp] theorem State.remoteOutcome_wf (o : RemoteOp) (r : RemoteReply) (h : s.mem.wf = true) : (s.remoteOutcome o r).mem.wf = true := by
  unfold State.remoteOutcome
  extract_lets gone held hold here failed put got
  have hgone : ∀ t : State, (gone t).mem = t.mem := fun _ => rfl
  have hhold : ∀ (t : State) (v : DWord) (p : Bool), (hold t v p).mem = t.mem := by
    intro t v p
    simp only [hold]
    split <;> rfl
  have hfailed : failed.mem.wf = true := State.remoteFailed_wf _ _ h
  split
  · simpa using h
  · split
    · split
      · simp [put, hgone, hfailed]
      · rw [State.freeRemote_mem]
        exact State.wf_foldl (by simp [hgone, hfailed]) (fun t _ ht => by simpa using ht)
      · simp [hhold, hfailed]
      · simp [hgone, hfailed]
    · split
      · simp only [State.freeRemote_mem, State.groupReply_mem]
        exact State.wf_foldl (by simpa [hgone] using h) (fun _ _ => State.report_wf _ _ _ _ _ _)
      · simp only [State.freeRemote_mem]
        exact State.wf_foldl (by simpa [hgone, got] using h) (fun _ _ => State.getSector_wf _ _ _ _)
      · refine State.wf_ite (by simpa using h) (State.wf_ite ?_ ?_) <;> simpa [hhold] using h
      · simpa [hgone] using h

@[simp] theorem State.remoteReply_wf (o : RemoteOp) (r : RemoteReply) (h : s.mem.wf = true) : (s.remoteReply o r).mem.wf = true := by
  unfold State.remoteReply
  split <;> simp [h]

theorem execCompletionReplyArrives_memInv (op : Nat) (remote : Option RemoteReply) (h : s.mem.wf = true) :
    Out.MemInv (execCompletionReplyArrives op remote s) := by
  unfold execCompletionReplyArrives
  split
  · simpa using h
  · exact h
  · split <;> simp [h]

theorem execTransportGiveUp_memInv (op : Nat) (h : s.mem.wf = true) : Out.MemInv (execTransportGiveUp op s) := by
  unfold execTransportGiveUp
  split <;> simp [h]

theorem execRegisterWriteLands_memInv (op : Nat) (h : s.mem.wf = true) : Out.MemInv (execRegisterWriteLands op s) := by
  unfold execRegisterWriteLands
  simp only
  split
  · exact h
  · split
    · exact h
    · split
      · exact h
      · split <;> simpa using h

/-! ### Arrivals -/

@[simp] theorem State.detTake_mem (s : State) (src : Nat) (d : DetTag) (l : List DetAcc) : (s.detTake src d l).mem = s.mem := by
  unfold State.detTake
  split <;> rfl

/-- The target's detector notes an access outside memory. -/
theorem State.remoteDetect_wf {k : Packet} {base : Nat} {t : State} (e : s.remoteDetect k base = .ok t) (h : s.mem.wf = true) :
    t.mem.wf = true := by
  unfold State.remoteDetect at e
  split at e
  · cases e; exact h
  · simp only at e
    split at e
    · cases e
    · cases e; simpa using h

@[simp] theorem State.performRemote_wf (ctx va : Nat) (kind : RemoteKind) (h : s.mem.wf = true) :
    (s.performRemote ctx va kind).mem.wf = true := by
  unfold State.performRemote
  extract_lets t rmw
  have ht : t.mem.wf = true := State.fillRange_wf _ _ _ h
  have hrmw : ∀ (n : Nat) (f : Nat → Nat), (rmw n f).mem.wf = true := by
    intro n f
    simp only [rmw]
    split <;> simp [ht]
  clear_value rmw
  split
  · exact ht
  · rw [State.noteSysAll_mem]; exact ht
  · refine State.wf_foldl ht (fun u k hu => ?_)
    dsimp only
    split
    · exact hu
    · exact State.homeStore_wf _ _ _ _ _ hu
  · exact hrmw _ _
  · exact hrmw _ _
  · split
    · exact ht
    · exact State.wf_ite (by simpa using ht) (hrmw _ _)

@[simp] theorem State.remotePoison_mem (s : State) (ctx va : Nat) (kind : RemoteKind) : (s.remotePoison ctx va kind).mem = s.mem := by
  unfold State.remotePoison
  split
  · refine State.mem_foldl _ (fun u k => ?_) _ s
    split <;> simp
  · simp
  · simp
  · rfl

@[simp] theorem State.reply_mem (s : State) (k : Packet) (r : RemoteReply) : (s.reply k r).mem = s.mem := rfl

@[simp] theorem State.noteCut_mem (s : State) (k : Packet) : (s.noteCut k).mem = s.mem := State.updEndpoint_mem ..

@[simp] theorem State.forgetOwn_wf (k : Packet) (va : Nat) (h : s.mem.wf = true) : (s.forgetOwn k va).mem.wf = true := by
  unfold State.forgetOwn
  split
  · exact h
  · exact State.wf_foldl h (fun _ _ => State.forgetLines_wf _ _ _ _)

@[simp] theorem State.flushTarget_wf (k : Packet) (h : s.mem.wf = true) : (s.flushTarget k).mem.wf = true := by
  unfold State.flushTarget
  split
  · exact h
  · exact State.wf_foldl h (fun _ _ => State.flushOwn_wf _ _ _)

theorem State.doRemote_wf (k : Packet) (va : Nat) (h : s.mem.wf = true) : (s.doRemote k va).mem.wf = true := by
  have done : ((((s.flushTarget k).performRemote k.ctx va k.kind).remotePoison k.ctx va k.kind).forgetOwn k va).mem.wf = true :=
    State.forgetOwn_wf _ _ (by simp [h])
  unfold State.doRemote
  rw [State.reply_mem]
  exact State.wf_ite (by simpa using done) done

theorem State.judgeRemote_wf (k : Packet) (h : s.mem.wf = true) : (s.judgeRemote k).mem.wf = true := by
  unfold State.judgeRemote
  simp only
  split
  · simpa using h
  · split
    · exact State.wf_ite (by simpa using h) h
    · split
      · exact h
      next t e => exact State.doRemote_wf _ _ (State.remoteDetect_wf e h)

@[simp] theorem State.acceptRemote_wf (k : Packet) (h : s.mem.wf = true) : (s.acceptRemote k).mem.wf = true :=
  State.judgeRemote_wf k (by simpa using h)

theorem execRemoteOpArrival_memInv (k : Packet) (h : s.mem.wf = true) : Out.MemInv (execRemoteOpArrival k s) := by
  unfold execRemoteOpArrival
  split
  · exact h
  · split
    · simpa using h
    · simp only
      split <;> simp [h]

theorem execEndpointContextFetch_memInv (ctx peer : Nat) (h : s.mem.wf = true) : Out.MemInv (execEndpointContextFetch ctx peer s) := by
  unfold execEndpointContextFetch
  split
  · exact h
  · split <;> exact h

/-! ### Deferred float atomics -/

@[simp] theorem State.poisonAtom_mem (s : State) (g : Grid) (a : DetAtom) : (s.poisonAtom g a).mem = s.mem := by
  simp [State.poisonAtom]

@[simp] theorem State.sendLate_wf (o : RemoteOp) (h : s.mem.wf = true) : (s.sendLate o).mem.wf = true := by
  unfold State.sendLate
  simp only
  split
  · simpa using h
  · split <;> simp [h]

theorem State.applyDetAtom_wf (g : Grid) (x : State × List Nat) (a : DetAtom) (h : x.1.mem.wf = true) :
    (State.applyDetAtom g x a).1.mem.wf = true := by
  unfold State.applyDetAtom
  simp only
  split
  · exact h
  · exact State.wf_ite (State.sendLate_wf _ h) (by simpa using h)
  · split
    · exact h
    · split <;> simp [h]

@[simp] theorem State.endInterval_wf (lsq tkt : Nat) (h : s.mem.wf = true) : (s.endInterval lsq tkt).mem.wf = true := by
  unfold State.endInterval
  split
  · exact h
  · exact State.wf_foldl_at (fun x : State × List Nat => x.1) h (fun _ _ => State.applyDetAtom_wf _ _ _)

theorem execPageWalkComplete_memInv (ctx : Nat) (va : BitVec 64) (h : s.mem.wf = true) : Out.MemInv (execPageWalkComplete ctx va s) := by
  unfold execPageWalkComplete
  split <;> simp [h]

@[simp] theorem State.startInval_mem (s : State) (group : Option Nat) (ctx va units : Nat) (waits : List Nat) :
    (s.startInval group ctx va units waits).mem = s.mem := rfl

end Sys2Proof.Machine
end

section
/-! ## O31. Blocks and grids -/

namespace Sys2Proof.Machine

variable {s : State}

theorem execBlockDispatch_memInv (lsq org : Nat) (h : s.mem.wf = true) : Out.MemInv (execBlockDispatch lsq org s) := by
  unfold execBlockDispatch
  split
  · exact h
  · split
    · exact h
    · split
      · exact State.trimCores_wf _ (s := State.updGrid _ _ _) h
      · exact h

theorem execWarpRelease_memInv (r : Ref) (h : s.mem.wf = true) : Out.MemInv (execWarpRelease r s) := by
  unfold execWarpRelease
  split
  · split
    · split <;> exact h
    · exact h
  · exact h

@[simp] theorem State.removeBlock_mem (s : State) (b : Block) : (s.removeBlock b).mem = s.mem := by
  unfold State.removeBlock
  split <;> rfl

theorem execBlockEnd_memInv (r : Ref) (h : s.mem.wf = true) : Out.MemInv (execBlockEnd r s) := by
  unfold execBlockEnd
  split
  · exact h
  · split_ifs <;> simp [h]

theorem execHuddleRoundEnd_memInv (r : Ref) (h : s.mem.wf = true) : Out.MemInv (execHuddleRoundEnd r s) := by
  unfold execHuddleRoundEnd
  split
  · split
    · exact State.endInterval_wf _ _ h
    · split
      · exact h
      · exact State.endInterval_wf _ _ h
  · exact h

/-! ### Save and restore -/

@[simp] theorem State.endPreempt_wf (ctx frame : Nat) (h : s.mem.wf = true) : (s.endPreempt ctx frame).mem.wf = true := by
  unfold State.endPreempt
  split
  · split <;> simp [h]
  · exact h

@[simp] theorem State.advanceGens_mem (s : State) (b : Block) : (s.advanceGens b).mem = s.mem := rfl

/-- The pieces of a frame that are stored one after another. -/
theorem State.storeImage_wf (ctx base : Nat) (l : List (Nat × List Byte × Bool)) (h : s.mem.wf = true) :
    (l.foldl (fun s x => s.homeStoreVa none ctx (base + x.1) x.2.1 x.2.2) s).mem.wf = true :=
  State.wf_foldl h (fun _ _ => State.homeStoreVa_wf _ _ _ _ _)

@[simp] theorem State.saveBlock_wf (b : Block) (g : Grid) (h : s.mem.wf = true) : (s.saveBlock b g).mem.wf = true := by
  unfold State.saveBlock
  extract_lets base image tag stored
  have hs : stored.mem.wf = true := State.storeImage_wf (s := { s with fresh := s.fresh + 1 }) _ _ _ h
  refine State.wf_ite (State.killBlock_wf _ _ _ _ (by simpa using h)) ?_
  rw [updBlock_mem]
  exact hs

theorem execBlockSave_memInv (r : Ref) (h : s.mem.wf = true) : Out.MemInv (execBlockSave r s) := by
  unfold execBlockSave
  split
  · split_ifs <;> simp [h]
  · exact h

@[simp] theorem State.actReply_wf (b : Block) (wrp : Nat) (decline : Bool) (h : s.mem.wf = true) :
    (s.actReply b wrp decline).mem.wf = true := by
  unfold State.actReply
  simp only
  split <;> simp [h]

/-- A predicate of a restored block that the four parts of a restore keep: reading the frame, killing a refused block, seating the block
and acting on the replies recorded. It is stated of the function `f` as a whole, since the kernel, asked to compare `restoreBlock` of a
state with its body, would evaluate the frame that the block comes from. -/
theorem State.restoreBlock_ind {Q : State → Prop} {f : State → Block → Grid → Nat × Nat → List Seat → State}
    (hf : f = State.restoreBlock) (b : Block) (g : Grid) (o : Nat × Nat) (seats : List Seat)
    (hread : Q ((s.framePieces b g .load).foldl (fun s x => s.noteSys x.1.sys x.1.pa) s))
    (hkill : ∀ t, Q t → Q ((t.consumeFrame b g .load).killBlock b.lsq b.tkt 0 11))
    (hplace : ∀ t b', Q t →
      Q (((t.updBlock b.lsq b.tkt (fun _ => b')).dropCopies (g.coresAt o)).trimCores (g.coresAt o)))
    (hreply : ∀ t (b' : Block) (l : List Escalation), Q t → Q (l.foldl (fun s e =>
      match e.reply with
      | some d => s.actReply b' e.wrp d
      | none => s) t)) : Q (f s b g o seats) := by
  delta State.restoreBlock at hf
  subst hf
  beta_reduce
  extract_lets read
  have hread : Q read := hread
  clear_value read
  split
  · exact hkill _ hread
  · exact hreply _ _ _ (hplace _ _ hread)

@[simp] theorem State.restoreBlock_wf (b : Block) (g : Grid) (o : Nat × Nat) (seats : List Seat) (h : s.mem.wf = true) :
    (s.restoreBlock b g o seats).mem.wf = true := by
  refine State.restoreBlock_ind (Q := fun t => t.mem.wf = true) rfl b g o seats ?_
    (fun t ht => State.killBlock_wf _ _ _ _ (by simpa using ht))
    (fun t b' ht => State.trimCores_wf _ (State.dropCopies_wf _ ht))
    (fun t b' l ht => State.wf_foldl ht (fun t e ht => ?_))
  · rw [State.noteSysAll_mem]
    exact h
  · split
    · exact State.actReply_wf _ _ _ ht
    · exact ht

theorem execBlockRestore_memInv (r : Ref) (org : Nat) (h : s.mem.wf = true) : Out.MemInv (execBlockRestore r org s) := by
  unfold execBlockRestore
  split
  · exact h
  · split
    · split
      · exact State.restoreBlock_wf _ _ _ _ h
      · exact h
    · exact h

/-! ### Extended registers and compaction -/

theorem execExtregGrant_memInv (core part : Nat) (h : s.mem.wf = true) : Out.MemInv (execExtregGrant core part s) := by
  unfold execExtregGrant
  split
  · exact h
  · split <;> exact h

/-- A compaction moves registers, not memory. -/
theorem State.compact_mem {wanted : List Seat} {core part : Nat} {t : State} (e : s.compact wanted core part = some t) :
    t.mem = s.mem := by
  unfold State.compact at e
  extract_lets ws held ks at e
  split at e
  · cases e; rfl
  · split at e
    · cases e
    · obtain ⟨room, -, rfl⟩ := Option.map_eq_some_iff.1 e
      rfl

theorem execCompaction_memInv (core part : Nat) (h : s.mem.wf = true) : Out.MemInv (execCompaction core part s) := by
  unfold execCompaction
  cases e : s.compact s.wantedSeats core part
  case none => exact h
  case some t =>
    show t.mem.wf = true
    rw [State.compact_mem e]; exact h

/-! ### Grids -/

@[simp] theorem State.keepLog_mem (s : State) (g : Grid) : (s.keepLog g).mem = s.mem := by
  unfold State.keepLog
  split
  · rfl
  · split <;> rfl

@[simp] theorem State.removeGrid_mem (s : State) (lsq : Nat) : (s.removeGrid lsq).mem = s.mem := rfl

theorem execGridCompletion_memInv (lsq : Nat) (h : s.mem.wf = true) : Out.MemInv (execGridCompletion lsq s) := by
  unfold execGridCompletion
  split
  · exact h
  · split_ifs <;> simp [h]

end Sys2Proof.Machine
end

section
/-! ## O31. The Quadrille: the pod's replica stands outside memory, and what it posts and completes is stored -/

namespace Sys2Proof.Machine

variable {s : State}

@[simp] theorem State.raise_mem (s : State) (e : QEvent) : (s.raise e).mem = s.mem := rfl
@[simp] theorem State.dropAway_mem (s : State) (gix dps : Nat) : (s.dropAway gix dps).mem = s.mem := rfl
@[simp] theorem State.setGrid_mem (s : State) (gix : Nat) (g : GridEntry) : (s.setGrid gix g).mem = s.mem := rfl
@[simp] theorem State.dropReplica_mem (s : State) : s.dropReplica.mem = s.mem := rfl

@[simp] theorem State.pend_mem (s : State) (cs : List RowChange) : (s.pend cs).mem = s.mem := by
  unfold State.pend
  split <;> rfl

@[simp] theorem State.discardSaved_mem (s : State) (gix : Nat) (g : GridEntry) (kind : RowKind) :
    (s.discardSaved gix g kind).mem = s.mem := by
  unfold State.discardSaved
  split <;> simp

@[simp] theorem State.joined_mem (s : State) (m : Nat) : (s.joined m).mem = s.mem := by
  unfold State.joined
  simp only
  split <;> rfl

@[simp] theorem State.notice_wf (ctx code aux mdl : Nat) (h : s.mem.wf = true) : (s.notice ctx code aux mdl).mem.wf = true :=
  State.postEvent_wf _ _ _ _ _ _ _ _ _ h

@[simp] theorem State.noticeAll_wf (code mdl : Nat) (h : s.mem.wf = true) : (s.noticeAll code mdl).mem.wf = true :=
  State.wf_foldl h (fun _ _ => State.notice_wf _ _ _ _)

@[simp] theorem State.dropRows_wf (gix : Nat) (g : GridEntry) (kind : RowKind) (only : Option Nat) (h : s.mem.wf = true) :
    (s.dropRows gix g kind only).mem.wf = true := by
  unfold State.dropRows
  exact State.wf_ite (State.wf_foldl (by simpa using h) (fun _ _ => State.notice_wf _ _ _ _)) (by simpa using h)

@[simp] theorem State.endSubmission_wf (osq : Nat) (dps : Option Nat) (fail : Option DWord) (h : s.mem.wf = true) :
    (s.endSubmission osq dps fail).mem.wf = true := by
  unfold State.endSubmission
  split
  · exact h
  · exact State.wf_ite (State.completionStore_wf _ _ _ _ _ (by simpa using h)) (by simpa using h)

@[simp] theorem State.faultGrid_wf (gix : Nat) (g : GridEntry) (value : DWord) (h : s.mem.wf = true) :
    (s.faultGrid gix g value).mem.wf = true := by
  have dropped := State.dropRows_wf gix g .kill none h
  unfold State.faultGrid
  exact State.wf_ite (by simp [dropped]) (by simp [dropped])

@[simp] theorem State.loseGrid_wf (m reason gix : Nat) (g : GridEntry) (h : s.mem.wf = true) :
    (s.loseGrid m reason gix g).mem.wf = true := by
  unfold State.loseGrid
  split
  · exact h
  · split <;> simp [h]

@[simp] theorem State.lose_wf (m reason : Nat) (st : MemberState) (cut : DWord) (h : s.mem.wf = true) :
    (s.lose m reason st cut).mem.wf = true := by
  have lost : ∀ (t : State) (l : List (Nat × GridEntry)), t.mem.wf = true →
      (l.foldl (fun s g => s.loseGrid m reason g.1 g.2) t).mem.wf = true :=
    fun _ _ ht => State.wf_foldl ht (fun _ _ => State.loseGrid_wf _ _ _ _)
  unfold State.lose
  exact State.wf_ite (State.noticeAll_wf _ _ (lost _ _ h)) (lost _ _ h)

@[simp] theorem State.suspected_wf (e : QEvent) (h : s.mem.wf = true) : (s.suspected e).mem.wf = true := by
  unfold State.suspected
  exact State.wf_ite h (State.wf_ite (State.lose_wf _ _ _ _ h) h)

@[simp] theorem State.finished_wf (e : QEvent) (g : GridEntry) (h : s.mem.wf = true) : (s.finished e g).mem.wf = true := by
  have dropped := State.dropRows_wf e.grx g .finished (some e.orm) h
  unfold State.finished
  exact State.wf_ite (State.wf_ite (State.endSubmission_wf _ _ _ dropped) dropped) dropped

@[simp] theorem State.applyEvent_wf (e : QEvent) (n : Nat) (h : s.mem.wf = true) : (s.applyEvent e n).mem.wf = true := by
  unfold State.applyEvent
  extract_lets onGrid mem
  have hgrid : ∀ k : GridEntry → State, (∀ g, (k g).mem.wf = true) → (onGrid k).mem.wf = true := by
    intro k hk
    simp only [onGrid]
    split
    · exact State.wf_ite (hk _) h
    · exact h
  clear_value onGrid
  split
  · split
    · exact State.wf_ite h h
    · exact State.wf_ite (by simp [h]) h
  · exact hgrid _ (fun g => State.wf_ite h (State.wf_ite (State.faultGrid_wf _ _ _ h) (State.finished_wf _ _ h)))
  · exact hgrid _ (fun g => State.wf_ite (by simp [h]) h)
  · exact hgrid _ (fun g => State.wf_ite h h)
  · exact hgrid _ (fun g => State.wf_ite h (State.faultGrid_wf _ _ _ h))
  · exact State.wf_ite (State.suspected_wf _ h) h
  · exact State.wf_ite (State.wf_ite h h) (State.wf_ite (by simpa using h) h)
  · exact State.wf_ite (State.lose_wf _ _ _ _ h) h
  · exact h

/-! ### Placement, digests and delivery -/

@[simp] theorem State.addRow_wf (gix : Nat) (g : GridEntry) (m : Nat) (h : s.mem.wf = true) : (s.addRow gix g m).mem.wf = true := by
  unfold State.addRow
  simp only
  split
  · exact State.wf_ite (by simp [h]) h
  · exact h

theorem State.passOver_wf (l : List Nat) : ∀ {s : State}, s.mem.wf = true → (s.passOver l).mem.wf = true := by
  induction l with
  | nil => exact fun h => h
  | cons gix rest ih =>
    intro s h
    unfold State.passOver
    split
    · exact ih h
    · refine State.wf_ite (State.wf_ite h (ih h)) (ih ?_)
      exact State.wf_foldl h (fun _ _ => State.addRow_wf _ _ _)

@[simp] theorem State.placementPass_wf (h : s.mem.wf = true) : s.placementPass.mem.wf = true := State.passOver_wf _ h

@[simp] theorem State.halt_mem (s : State) : s.halt.mem = s.mem :=
  (State.killGrids_mem s 12 Grid.lsq s.grids :)

@[simp] theorem State.raiseAll_mem (s : State) (f : Nat → QEvent) (l : List Nat) : (l.foldl (fun s m => s.raise (f m)) s).mem = s.mem :=
  State.mem_foldl _ (fun s m => State.raise_mem s (f m)) _ s

@[simp] theorem State.compareAt_mem (s : State) (n : Nat) : (s.compareAt n).mem = s.mem := by
  unfold State.compareAt
  split
  · rfl
  · simp only
    split_ifs <;> simp

@[simp] theorem State.compareReports_mem (s : State) : s.compareReports.mem = s.mem :=
  State.mem_foldl _ State.compareAt_mem _ s

@[simp] theorem State.deliver_wf (x : BitVec 512) (h : s.mem.wf = true) : (s.deliver x).mem.wf = true := by
  unfold State.deliver
  extract_lets e old n fate src rep taken applied placed d noted
  have htaken : taken.mem.wf = true := h
  have happlied : applied.mem.wf = true := State.wf_ite htaken (State.applyEvent_wf _ _ htaken)
  have hnoted : noted.mem.wf = true := State.placementPass_wf happlied
  exact State.wf_ite (by simpa using hnoted) hnoted

theorem deliverType_memInv (typ : Nat) (h : s.mem.wf = true) : Out.MemInv (deliverType typ s) := by
  unfold deliverType
  split
  · exact h
  · simp only
    split <;> simp [h]

/-! ### Heartbeats, events from other modules, suspicion and joining -/

theorem execQuadrilleHeartbeatReceive_memInv (b : Heartbeat) (h : s.mem.wf = true) :
    Out.MemInv (execQuadrilleHeartbeatReceive b s) := by
  unfold execQuadrilleHeartbeatReceive
  refine Out.memInv_ite h (Out.memInv_ite h (Out.memInv_ite h ?_))
  show (State.compareReports _).mem.wf = true
  rw [State.compareReports_mem]
  exact State.wf_ite h h

theorem execQuadrilleHeartbeatSend_memInv (h : s.mem.wf = true) : Out.MemInv (execQuadrilleHeartbeatSend s) := by
  unfold execQuadrilleHeartbeatSend
  exact Out.memInv_ite h h

theorem execEventReceive_memInv (x : BitVec 512) (h : s.mem.wf = true) : Out.MemInv (execEventReceive x s) := by
  unfold execEventReceive
  extract_lets e
  split
  · exact h
  · exact State.wf_ite h h

theorem execSuspectRaise_memInv (m : Nat) (h : s.mem.wf = true) : Out.MemInv (execSuspectRaise m s) := by
  unfold execSuspectRaise
  split <;> exact h

theorem execMemberCut_memInv (m : Nat) (h : s.mem.wf = true) : Out.MemInv (execMemberCut m s) := by
  unfold execMemberCut
  split
  · exact h
  · simp only
    split <;> exact h

@[simp] theorem State.killAll_mem (s : State) : s.killAll.mem = s.mem :=
  (State.killGrids_mem s 12 Grid.lsq s.grids :)

theorem execJoinProcedure_memInv (j : JoinStep) (h : s.mem.wf = true) : Out.MemInv (execJoinProcedure j s) := by
  unfold execJoinProcedure
  split
  · exact h
  · cases j
    case begin_ =>
      simp only
      split
      · exact h
      · simpa using h
    all_goals
      simp only
      split <;> exact h

end Sys2Proof.Machine
end

section
/-! ## O31. Launches, queues and rows -/

namespace Sys2Proof.Machine

variable {s : State}

/-! ### Launches -/

/-- A law of its own so that no proof compares the logs: those of a launch's prologue are a whole run of the model. -/
@[simp] theorem State.withLogs_mem (s : State) (sec : Security) (att : Attach) :
    ({ s with sec := sec, att := att } : State).mem = s.mem := rfl

@[simp] theorem State.noteRecord_mem (s : State) (ctx : Nat) (lra : DWord) (code : Nat) : (s.noteRecord ctx lra code).mem = s.mem :=
  State.mem_foldl _ (fun s _ => State.noteRead_mem s _ _ _) _ s

@[simp] theorem State.launchSeen_mem (s : State) (l : Launch) (k : Nat) : (s.launchSeen l k).mem = s.mem := by
  unfold State.launchSeen
  split
  · rfl
  · split
    · simp only [State.noteRecord_mem]
    · extract_lets r c t p
      split
      · exact State.noteRecord_mem s _ _ _
      · exact (State.withLogs_mem t _ _).trans (State.noteRecord_mem s _ _ _)

@[simp] theorem State.seenAll_mem (s : State) (l : Launch) (vs : List Verdict) : (s.seenAll l vs).mem = s.mem := by
  refine State.mem_foldl _ (fun s k => ?_) _ s
  split
  · exact State.launchSeen_mem s l k
  · rfl

@[simp] theorem State.addGrid_mem (s : State) (g : Grid) : (s.addGrid g).mem = s.mem := rfl

@[simp] theorem State.accept_mem (s : State) (l : Launch) (r : LaunchRec) (tables : List (Nat × Cells 32)) :
    (s.accept l r tables).mem = s.mem := by
  unfold State.accept
  cases l.target with
  | pod => rfl
  | inside lsq x y =>
    simp only
    split <;> simp
  | row => rfl

@[simp] theorem State.carryOut_wf (l : Launch) (v : Verdict) (h : s.mem.wf = true) : (s.carryOut l v).mem.wf = true := by
  cases v <;> simp [State.carryOut, h]

theorem State.oneLaunch_wf (l : Launch) (k : Nat) (h : s.mem.wf = true) : (s.oneLaunch l k).2.2.mem.wf = true :=
  State.carryOut_wf _ _ (by simpa using h)

theorem State.repeats_wf (l : Launch) (n : Nat) : ∀ {s : State} (k : Nat), s.mem.wf = true → (s.repeats l n k).2.mem.wf = true := by
  induction n with
  | zero => exact fun _ h => h
  | succ n ih =>
    intro s k h
    unfold State.repeats
    extract_lets x
    have hx : x.2.2.mem.wf = true := State.oneLaunch_wf l k h
    split
    · exact hx
    · exact ih _ hx

@[simp] theorem State.launchAll_wf (l : Launch) (h : s.mem.wf = true) : (s.launchAll l).2.mem.wf = true := by
  unfold State.launchAll
  extract_lets x
  have hx : x.2.2.mem.wf = true := State.oneLaunch_wf l 0 h
  split
  · exact hx
  · exact State.repeats_wf _ _ _ hx

@[simp] theorem State.reportRefusal_wf (l : Launch) (code queue : Nat) (h : s.mem.wf = true) :
    (s.reportRefusal l code queue).mem.wf = true := by
  simp [State.reportRefusal, h]

@[simp] theorem State.submit_wf (l : Launch) (h : s.mem.wf = true) : (s.submit l).2.2.mem.wf = true := by
  unfold State.submit
  extract_lets vs
  split
  · simp [h]
  · exact State.wf_foldl (by simpa using h) (fun _ _ => State.carryOut_wf _ _)

/-! ### Queues -/

@[simp] theorem State.writeDesc_wf (table q off : Nat) (d : List Byte) (h : s.mem.wf = true) :
    (s.writeDesc table q off d).mem.wf = true := State.homeStore_wf _ _ _ _ _ h

@[simp] theorem State.refuseQueue_wf (table q : Nat) (l : Launch) (code : Nat) (h : s.mem.wf = true) :
    (s.refuseQueue table q l code).mem.wf = true := by
  simp [State.refuseQueue, h]

theorem State.fetchQueue_wf (table q : Nat) (h : s.mem.wf = true) : (s.fetchQueue table q).mem.wf = true := by
  unfold State.fetchQueue
  extract_lets d ntf head ahead size ctx off overrun at_ entry moved taken
  have hover : overrun.mem.wf = true := State.writeDesc_wf _ _ _ _ (State.writeDesc_wf _ _ _ _ h)
  have hmoved : moved.mem.wf = true := State.writeDesc_wf _ _ _ _ h
  clear_value overrun entry moved
  have htaken : taken.mem.wf = true := State.wf_ite hmoved hmoved
  clear_value taken
  refine State.wf_ite (State.postEvent_wf _ _ _ _ _ _ _ _ _ hover) (State.wf_ite h ?_)
  split
  · exact State.wf_ite (State.refuseQueue_wf _ _ _ _ (by simpa using htaken)) (State.refuseQueue_wf _ _ _ _ htaken)
  · extract_lets e x code y
    have hy : y.2.mem.wf = true := State.launchAll_wf _ (by simpa using htaken)
    exact State.wf_ite (State.refuseQueue_wf _ _ _ _ (by simpa using htaken))
      (State.wf_ite hy (State.refuseQueue_wf _ _ _ _ hy))

theorem execQueueFetch_memInv (h : s.mem.wf = true) : Out.MemInv (execQueueFetch s) := by
  unfold execQueueFetch
  split
  · exact Out.memInv_ite h (State.fetchQueue_wf _ _ h)
  · exact h

/-! ### Rows -/

@[simp] theorem State.updParts_mem (s : State) (gix : Nat) (f : Grid → Grid) : (s.updParts gix f).mem = s.mem := rfl

@[simp] theorem State.killParts_mem (s : State) (gix : Nat) (silent : Bool) : (s.killParts gix silent).mem = s.mem := by
  simp [State.killParts]

theorem State.startPart_wf (c : RowChange) (h : s.mem.wf = true) : (s.startPart c).mem.wf = true := by
  unfold State.startPart
  extract_lets g fail
  have hfail : ∀ (t : State) (code : Nat), t.mem.wf = true → (fail t code).mem.wf = true := by
    intro t code ht
    refine State.wf_ite ?_ ?_ <;> simp [ht]
  clear_value fail
  refine State.wf_ite (hfail _ _ h) ?_
  split
  · exact hfail _ _ h
  · refine State.wf_ite (hfail _ _ h) ?_
    simp [h]

@[simp] theorem State.preemptParts_mem (s : State) (gix : Nat) : (s.preemptParts gix).mem = s.mem := rfl

@[simp] theorem State.placeParts_mem (s : State) (gix x y : Nat) : (s.placeParts gix x y).mem = s.mem := by
  unfold State.placeParts
  split <;> rfl

theorem execRowEnact_memInv (row : Nat) (h : s.mem.wf = true) : Out.MemInv (execRowEnact row s) := by
  unfold execRowEnact
  split
  · exact h
  · next c rest _ =>
    refine Out.memInv_ite h (Out.memInv_ite h ?_)
    cases c.kind with
    | start => exact State.startPart_wf _ h
    | _ => simp [h]

theorem execFinishRaise_memInv (lsq : Nat) (h : s.mem.wf = true) : Out.MemInv (execFinishRaise lsq s) := by
  unfold execFinishRaise
  split
  · exact h
  · split
    · exact h
    · refine Out.memInv_ite h ?_
      simpa using h

end Sys2Proof.Machine
end

section
/-! ## O31. Synchronisation, system words and services -/

namespace Sys2Proof.Machine

variable {s : State}

/-! ### Barriers, extended registers and the huddle -/

theorem State.setBarrier_wf (i : Iss) (w : W) (old new : Barrier) (h : s.mem.wf = true) : (s.setBarrier i w old new).mem.wf = true :=
  State.wf_ite h (State.wf_ite (State.endInterval_wf _ _ h) h)

theorem keepsMem_barArrive {wait : Bool} {w : W} : KeepsMem (barArrive wait w) := by
  intro i s h
  unfold barArrive
  extract_lets b n m ops b' updated
  have hset : updated.mem.wf = true := State.setBarrier_wf _ _ _ _ (by simpa using h)
  clear_value updated
  refine Res.memInv_ite h (Res.memInv_ite h (Res.memInv_ite ?_ hset))
  simpa using hset

theorem keepsMem_barWait {w : W} : KeepsMem (barWait w) := by
  intro i s h
  exact Res.memInv_ite h (Res.memInv_ite h h)

theorem execBar_memInv (w : W) (h : s.mem.wf = true) : Out.MemInv (execBar w s) := by
  refine issueW_memInv (fun i s h => ?_) h
  cases i.path.park
  case released | bar => exact h
  all_goals exact Res.memInv_ite (keepsMem_barWait i s h) (keepsMem_barArrive i s h)

theorem execYield_memInv (w : W) (h : s.mem.wf = true) : Out.MemInv (execYield w s) :=
  issueW_memInv (fun _ _ h => Res.memInv_ite h h) h

theorem execPhase_memInv (w : W) (h : s.mem.wf = true) : Out.MemInv (execPhase w s) :=
  issueW_memInv (fun _ _ h => Res.memInv_ite h h) h

theorem execXget_memInv (w : W) (h : s.mem.wf = true) : Out.MemInv (execXget w s) := by
  refine issueW_memInv (fun i s h => ?_) h
  refine Res.memInv_ite h ?_
  simp only
  split
  · exact h
  · exact Res.memInv_ite h h

theorem execXput_memInv (w : W) (h : s.mem.wf = true) : Out.MemInv (execXput w s) :=
  issueW_memInv (fun _ _ h => Res.memInv_ite h (Res.memInv_ite h h)) h

theorem execHud_memInv (w : W) (h : s.mem.wf = true) : Out.MemInv (execHud w s) := by
  refine issueW_memInv (fun i s h => ?_) h
  simp only
  split
  · exact Res.memInv_ite h h
  · exact Res.memInv_ite h h

/-! ### Creating work -/

theorem State.postQueue_wf (i : Iss) (w : W) (table q n : Nat) (h : s.mem.wf = true) : (s.postQueue i w table q n).2.mem.wf = true := by
  simp [State.postQueue, h]

theorem execQpost_memInv (w : W) (h : s.mem.wf = true) : Out.MemInv (execQpost w s) := by
  refine issueW_memInv (keepsMem_withCounter (keepsMem_afterFence (fun i s h => ?_))) h
  simp only
  split
  · exact h
  · refine Res.memInv_ite h ?_
    rw [Res.MemInv, updRef_mem]
    exact State.postQueue_wf _ _ _ _ _ h

theorem execLaunch_memInv (w : W) (h : s.mem.wf = true) : Out.MemInv (execLaunch w s) := by
  refine issueW_memInv (keepsMem_withCounter (keepsMem_afterFence (fun i s h => ?_))) h
  extract_lets lra cw l x answered
  have hx : x.2.mem.wf = true := State.launchAll_wf _ h
  clear_value x
  have hanswered : answered.mem.wf = true := State.wf_ite hx (State.completionStore_wf _ _ _ _ _ hx)
  refine Res.memInv_ite h ?_
  simpa using hanswered

/-! ### Service calls and posts -/

theorem execSvc_memInv (w : W) (h : s.mem.wf = true) : Out.MemInv (execSvc w s) := by
  refine issueW_memInv (fun i s h => Res.memInv_ite h ?_) h
  refine keepsMem_afterFence (fun i s h => ?_) i s h
  exact h

theorem execSvcw_memInv (w : W) (h : s.mem.wf = true) : Out.MemInv (execSvcw w s) := by
  refine issueW_memInv (fun i s h => ?_) h
  split <;> exact h

@[simp] theorem State.svcAnswer_wf (r : Ref) (v : Nat) (h : s.mem.wf = true) : (s.svcAnswer r v).mem.wf = true := by
  unfold State.svcAnswer
  extract_lets land landed
  have hlanded : landed.mem.wf = true := by simpa [landed] using h
  clear_value landed
  split
  · exact hlanded
  · refine State.wf_ite hlanded ?_
    split
    · exact hlanded
    · exact State.homeStoreVa_wf _ _ _ _ _ hlanded

@[simp] theorem State.writePost_wf (base sz : Nat) (p : Post) (h : s.mem.wf = true) : (s.writePost base sz p).mem.wf = true := by
  unfold State.writePost
  extract_lets n e written
  have hwritten : written.mem.wf = true := State.wf_ite h (State.homeStore_wf _ _ _ _ _ h)
  clear_value written
  exact hwritten

/-- The posts written out one after another. The proof speaks of `MemInv`: its definition keeps the kernel from computing the memories of
the states that it compares. -/
@[simp] theorem State.flushPosts_wf (h : s.mem.wf = true) : s.flushPosts.mem.wf = true := by
  change s.flushPosts.MemInv
  unfold State.flushPosts
  split
  · exact h
  · refine State.memInv_foldl _ (fun t p ht => ?_) _ _ h
    split
    · exact State.writePost_wf _ _ _ ht
    · exact ht

@[simp] theorem State.post_wf (p : Post) (h : s.mem.wf = true) : (s.post p).mem.wf = true := State.flushPosts_wf h

theorem State.hostPost_wf (r : Ref) (id : Nat) (msg : QWord) (h : s.mem.wf = true) : (s.hostPost r id msg).mem.wf = true := by
  unfold State.hostPost
  refine State.wf_ite h ?_
  split
  · exact State.wf_ite (State.svcAnswer_wf _ _ h) h
  · exact State.wf_ite (State.svcAnswer_wf _ _ h) (State.post_wf _ h)

theorem execSvcReply_memInv (r : Ref) (h : s.mem.wf = true) : Out.MemInv (execSvcReply r s) := by
  unfold execSvcReply
  split
  · exact Out.memInv_ite (State.hostPost_wf _ _ _ h) (State.svcAnswer_wf _ _ h)
  · exact h

/-! ### The event ring and invalidation -/

theorem execEvtpop_memInv (w : W) (h : s.mem.wf = true) : Out.MemInv (execEvtpop w s) := by
  refine issueW_memInv (fun i s h => ?_) h
  extract_lets off c note va
  refine Res.memInv_ite h (Res.memInv_ite h ?_)
  split
  · exact h
  · split
    · simpa using h
    · next t e =>
      have ht : t.mem.wf = true := Iss.detect_wf e (by simpa using h)
      extract_lets x y noted filled taken
      have hnoted : noted.mem.wf = true := State.wf_ite (by simpa using ht) ht
      clear_value noted
      simpa [note, taken, filled] using State.fillTlb_wf i.ctx va hnoted

theorem execTlbinv_memInv (w : W) (h : s.mem.wf = true) : Out.MemInv (execTlbinv w s) := by
  refine issueW_memInv (keepsMem_withCounter (fun i s h => ?_)) h
  refine Res.memInv_ite h ?_
  simp [h]

theorem execInvalidationComplete_memInv (op : Nat) (h : s.mem.wf = true) : Out.MemInv (execInvalidationComplete op s) := by
  unfold execInvalidationComplete
  split
  · exact h
  · next v _ =>
    refine Out.memInv_ite h ?_
    extract_lets dropped gone
    have hdropped : dropped.mem.wf = true := State.dropFor_wf _ _ _ h
    clear_value dropped
    split
    · simpa using hdropped
    · exact State.complete_wf _ _ (State.wf_ite hdropped (by simpa using hdropped))

/-! ### Pod events and the replica -/

theorem execQsub_memInv (w : W) (h : s.mem.wf = true) : Out.MemInv (execQsub w s) := by
  refine issueW_memInv (keepsMem_withCounter (keepsMem_afterFence (fun i s h => ?_))) h
  extract_lets lra cw l x
  have hx : x.2.2.mem.wf = true := by
    unfold x
    split
    · exact State.submit_wf _ h
    · exact State.reportRefusal_wf _ _ _ h
  clear_value x
  refine Res.memInv_ite h ?_
  simpa using hx

theorem keepsMem_raiseWord {typ : Nat} {w : W} : KeepsMem (raiseWord typ w) := by
  refine keepsMem_afterFence (fun i s h => Res.memInv_ite h ?_)
  rw [Res.MemInv, updRef_mem]
  exact State.wf_ite h h

theorem execQrow_memInv (w : W) (h : s.mem.wf = true) : Out.MemInv (execQrow w s) :=
  issueW_memInv (fun _ _ h => Res.memInv_ite h h) h

theorem execQdig_memInv (w : W) (h : s.mem.wf = true) : Out.MemInv (execQdig w s) := issueW_memInv (fun _ _ h => h) h

theorem execQseq_memInv (w : W) (h : s.mem.wf = true) : Out.MemInv (execQseq w s) := issueW_memInv (fun _ _ h => h) h

/-- A wait on the replica that has ended, or goes on. -/
theorem execQwait_memInv (w : W) (h : s.mem.wf = true) : Out.MemInv (execQwait w s) := by
  refine issueW_memInv (fun i s h => ?_) h
  extract_lets osq a d go
  have hgo : ∀ x, (go x).MemInv := fun _ => h
  clear_value go
  cases i.path.park
  case released => exact hgo _
  case qwait =>
    simp only
    split
    · exact hgo _
    · exact h
  all_goals
    refine Res.memInv_ite h ?_
    split
    · exact hgo _
    · exact h

theorem execQwaitDeadline_memInv (r : Ref) (h : s.mem.wf = true) : Out.MemInv (execQwaitDeadline r s) := by
  unfold execQwaitDeadline
  split
  · refine Out.memInv_ite h ?_
    split <;> exact h
  · exact h

end Sys2Proof.Machine
end

section
/-! ## O31. The referee's words, traps taken, and what the host and the device do -/

namespace Sys2Proof.Machine

variable {s : State}

/-! ### Inspecting, stopping and killing -/

theorem execRefrd_memInv (w : W) (h : s.mem.wf = true) : Out.MemInv (execRefrd w s) := by
  refine issueW_memInv (fun i s h => ?_) h
  simp only
  split
  · exact h
  · split
    · exact h
    · exact Res.memInv_ite h h

theorem execRefwr_memInv (w : W) (h : s.mem.wf = true) : Out.MemInv (execRefwr w s) := by
  refine issueW_memInv (fun i s h => ?_) h
  simp only
  split
  · exact h
  · split
    · exact h
    · exact Res.memInv_ite h h

theorem execRefres_memInv (w : W) (h : s.mem.wf = true) : Out.MemInv (execRefres w s) := by
  refine issueW_memInv (fun i s h => ?_) h
  extract_lets mode
  split
  · exact h
  · refine Res.memInv_ite h ?_
    split
    · split <;> exact h
    · exact Res.memInv_ite h h

theorem execRefstop_memInv (w : W) (h : s.mem.wf = true) : Out.MemInv (execRefstop w s) := by
  refine issueW_memInv (fun i s h => ?_) h
  simp only
  split
  · exact h
  · exact Res.memInv_ite h (Res.memInv_ite h (Res.memInv_ite h h))

theorem execRefkill_memInv (w : W) (h : s.mem.wf = true) : Out.MemInv (execRefkill w s) := by
  refine issueW_memInv (fun i s h => ?_) h
  simp only
  split
  · have hkilled := fun lsq tkt wrp code => State.killBlock_wf (s := s) lsq tkt wrp code h
    exact Res.memInv_ite (hkilled _ _ _ _) (hkilled _ _ _ _)
  · exact h

/-! ### Saving and restoring by words -/

@[simp] theorem State.replyAll_mem (s : State) (op : Nat) (link : Bool) (ps : List (Xlat × Nat)) :
    (s.replyAll op link ps).mem = s.mem := rfl

theorem execCtxsave_memInv (w : W) (h : s.mem.wf = true) : Out.MemInv (execCtxsave w s) := by
  refine issueW_memInv (keepsMem_withCounter (fun i s h => ?_)) h
  simp only
  split
  · exact h
  · next b _ _ =>
    split
    · exact h
    · next g _ =>
      refine Res.memInv_ite h (Res.memInv_ite h (Res.memInv_ite (by simpa using h) (Res.memInv_ite h ?_)))
      have hsaved : (s.saveBlock b g).mem.wf = true := State.saveBlock_wf _ _ h
      generalize s.saveBlock b g = t at hsaved ⊢
      refine Res.memInv_ite hsaved ?_
      rw [Res.MemInv, State.replyAll_mem, State.startGroup_mem]
      exact hsaved

theorem execCtxrest_memInv (w : W) (h : s.mem.wf = true) : Out.MemInv (execCtxrest w s) := by
  refine issueW_memInv (keepsMem_withCounter (fun i s h => ?_)) h
  simp only
  split
  · exact h
  · split
    · exact h
    · refine Res.memInv_ite h ?_
      split
      · exact h
      · exact State.wf_ite (State.restoreBlock_wf _ _ _ _ h) (State.killBlock_wf _ _ _ _ h)

/-! ### Traps that the referees take -/

theorem State.escalate_wf (b : Block) (w : Warp) (t : TrapRec) (h : s.mem.wf = true) : (s.escalate b w t).mem.wf = true :=
  State.wf_ite (State.killBlock_wf _ _ _ _ h) (State.post_wf _ h)

@[simp] theorem State.noteConsumed_mem (s : State) (ctx : Nat) (t : TrapRec) : (s.noteConsumed ctx t).mem = s.mem := by
  unfold State.noteConsumed
  split
  · simp
  · split
    · rfl
    · split <;> simp

theorem State.actTrap_wf (b : Block) (w : Warp) (t : TrapRec) (h : s.mem.wf = true) : (s.actTrap b w t).mem.wf = true := by
  unfold State.actTrap
  split
  · exact h
  · exact State.wf_ite (State.escalate_wf _ _ _ h) (State.wf_ite h (State.killBlock_wf _ _ _ _ (by simpa using h)))

theorem execRefereeTakeTrap_memInv (core : Nat) (h : s.mem.wf = true) : Out.MemInv (execRefereeTakeTrap core s) := by
  unfold execRefereeTakeTrap
  split
  · split
    · refine Out.memInv_ite h ?_
      simp [h]
    · exact h
  · split
    · exact h
    · exact State.actTrap_wf _ _ _ h

/-! ### Accesses and registers of the host -/

@[simp] theorem State.teeRead_mem (s : State) (va len : Nat) (tee : Bool) : (s.teeRead va len tee).mem = s.mem := by
  unfold State.teeRead
  split
  · split <;> rfl
  · rfl

theorem State.teeWrite_wf (va : Nat) (data : List Byte) (tee : Bool) (h : s.mem.wf = true) : (s.teeWrite va data tee).mem.wf = true := by
  unfold State.teeWrite
  split
  · exact State.wf_ite (State.homeStoreVa_wf _ _ _ _ _ h) h
  · exact h

theorem execHostMemoryAccess_memInv (a : HostAccess) (h : s.mem.wf = true) : Out.MemInv (execHostMemoryAccess a s) := by
  refine Out.memInv_ite h ?_
  cases a with
  | read pa len tee => exact Out.memInv_ite (by simpa using h) (Out.memInv_ite trivial h)
  | write pa data tee =>
    exact Out.memInv_ite (State.teeWrite_wf _ _ _ h) (Out.memInv_ite trivial (State.homeStore_wf _ _ _ _ _ h))

@[simp] theorem State.ackPosts_wf (v : DWord) (h : s.mem.wf = true) : (s.ackPosts v).mem.wf = true := State.flushPosts_wf h

theorem execNcnWrite_memInv (v : BitVec 64) (h : s.mem.wf = true) : Out.MemInv (execNcnWrite v s) :=
  Out.memInv_ite h (State.ackPosts_wf _ h)

theorem execRegisterWrite_memInv (off : Nat) (v : BitVec 64) (h : s.mem.wf = true) : Out.MemInv (execRegisterWrite off v s) := by
  refine Out.memInv_ite h (Out.memInv_ite h ?_)
  simp only
  split
  case h_4 => exact State.ackPosts_wf _ h
  all_goals exact h

/-! ### Reset, scrub and sessions -/

/-- A cleared module keeps the host's bytes, and the device bytes that it is given. -/
theorem State.cleared_wf (dst : DevState) {dev : Memory} (h : s.mem.wf = true) (hdev : dev.wf = true) :
    (s.cleared dst dev).mem.wf = true := by
  obtain ⟨hbytes, hpoison, -⟩ := (Memory.wf_iff _).1 hdev
  obtain ⟨-, -, hhost, hhostPoison, -⟩ := (Memory.wf_iff _).1 h
  exact (Memory.wf_iff _).2 ⟨hbytes, hpoison, hhost, hhostPoison, rfl, rfl⟩

theorem execColdReset_memInv (h : s.mem.wf = true) : Out.MemInv (execColdReset s) := by
  simpa [execColdReset] using State.cleared_wf .reset h h

theorem execReadyReached_memInv (ok : Bool) (h : s.mem.wf = true) : Out.MemInv (execReadyReached ok s) := by
  refine Out.memInv_ite h (Out.memInv_ite ?_ h)
  simpa using Memory.wf_scrub h

@[simp] theorem State.startScrub_wf (cause : Nat) (h : s.mem.wf = true) : (s.startScrub cause).mem.wf = true :=
  State.cleared_wf .scrub h h

theorem execScrubComplete_memInv (ok : Bool) (h : s.mem.wf = true) : Out.MemInv (execScrubComplete ok s) := by
  refine Out.memInv_ite h ?_
  simpa using State.cleared_wf _ h Memory.reset_wf

theorem execSpdmSessionSetup_memInv (seconds : Nat) (h : s.mem.wf = true) : Out.MemInv (execSpdmSessionSetup seconds s) :=
  Out.memInv_ite h h

theorem execHeartbeatLoss_memInv (h : s.mem.wf = true) : Out.MemInv (execHeartbeatLoss s) :=
  State.wf_ite (State.startScrub_wf _ h) h

/-! ### Pod formation and the device's own events -/

theorem execPodFormationComplete_memInv (t : BitVec 64) (h : s.mem.wf = true) : Out.MemInv (execPodFormationComplete t s) := by
  unfold execPodFormationComplete
  split
  · exact h
  · refine Out.memInv_ite h (State.complete_wf _ _ ?_)
    simpa using h

theorem execFormPodTimeout_memInv (h : s.mem.wf = true) : Out.MemInv (execFormPodTimeout s) := by
  unfold execFormPodTimeout
  split
  · exact h
  · exact Out.memInv_ite (State.complete_wf _ _ h) h

theorem execEccErrorDetected_memInv (pa : Nat) (correctable : Bool) (kind : Nat) (h : s.mem.wf = true) :
    Out.MemInv (execEccErrorDetected pa correctable kind s) := by
  unfold execEccErrorDetected
  extract_lets st m devMarked hostMarked covers
  obtain ⟨hdev, hhost⟩ := Memory.wf_poison (pa / 32) 1 h
  have hhostMarked : hostMarked.wf = true := by
    unfold hostMarked
    split
    · exact hhost
    · exact h
  clear_value hostMarked
  exact Out.memInv_ite (Out.memInv_ite trivial (Out.memInv_ite h (by simpa [devMarked] using hdev)))
    (Out.memInv_ite h (by simpa using hhostMarked))

theorem execPowerAdjust_memInv (pool : Power) (clk0 clk1 : Nat) (h : s.mem.wf = true) : Out.MemInv (execPowerAdjust pool clk0 clk1 s) :=
  Out.memInv_ite h h

theorem execTimeDiscipline_memInv (slew : Nat) (h : s.mem.wf = true) : Out.MemInv (execTimeDiscipline slew s) :=
  Out.memInv_ite h h

theorem execPortStateChange_memInv (port state : Nat) (h : s.mem.wf = true) : Out.MemInv (execPortStateChange port state s) := by
  unfold execPortStateChange
  split
  · exact Out.memInv_ite h (State.wf_foldl h fun _ _ => State.postEvent_wf _ _ _ _ _ _ _ _ _)
  · exact h

theorem execCorePowerGating_memInv (core : Nat) (gate : Bool) (groups : Nat) (h : s.mem.wf = true) :
    Out.MemInv (execCorePowerGating core gate groups s) :=
  Out.memInv_ite h (Out.memInv_ite (Out.memInv_ite h h) h)

theorem execPhaseCounterExchange_memInv (core : Nat) (h : s.mem.wf = true) : Out.MemInv (execPhaseCounterExchange core s) := h

theorem execCollectivePerformed_memInv (r : Ref) (h : s.mem.wf = true) : Out.MemInv (execCollectivePerformed r s) := by
  simpa [execCollectivePerformed] using h

end Sys2Proof.Machine
end

section
/-! ## O31. The command queue -/

namespace Sys2Proof.Machine

variable {s : State}

/-! ### Running a command -/

/-- What a command answers, with memory in canonical form in the state that it leaves. -/
@[simp] def CmdRes.MemInv : CmdRes → Prop
  | .fail _ _ => True
  | .refuse t _ | .done t _ | .wait t => t.mem.wf = true

theorem CmdRes.memInv_ite {c : Prop} [Decidable c] {a b : CmdRes} (ha : a.MemInv) (hb : b.MemInv) : (if c then a else b).MemInv := by
  split <;> assumption

/-- A command keeps memory in canonical form when its meaning does: the rest is its completion. -/
theorem runCmd_memInv {code : Nat} {masks : List Nat} {k : Cmd → State → CmdRes} (hk : ∀ c, (k c s).MemInv) (h : s.mem.wf = true) :
    Out.MemInv (runCmd code masks k s) := by
  have hcomplete := fun status result => State.complete_wf (s := s) status result h
  unfold runCmd
  split
  · exact h
  · next c _ =>
    refine Out.memInv_ite h (Out.memInv_ite (hcomplete _ _) (Out.memInv_ite h (Out.memInv_ite (hcomplete _ _) ?_)))
    have hc := hk c
    generalize k c s = r at hc ⊢
    cases r with
    | fail => exact hcomplete _ _
    | refuse | done => exact State.complete_wf _ _ hc
    | wait => exact hc

theorem execUnknownCommand_memInv (h : s.mem.wf = true) : Out.MemInv (execUnknownCommand s) := by
  have hcomplete := fun status result => State.complete_wf (s := s) status result h
  unfold execUnknownCommand
  split
  · exact h
  · exact Out.memInv_ite h (Out.memInv_ite (hcomplete _ _) (Out.memInv_ite h (hcomplete _ _)))

theorem reportTo_memInv (c : Cmd) (data : List Byte) (h : s.mem.wf = true) : (reportTo c s data).MemInv :=
  CmdRes.memInv_ite trivial (CmdRes.memInv_ite trivial (State.homeStore_wf _ _ _ _ _ h))

theorem execStateSummary_memInv (h : s.mem.wf = true) : Out.MemInv (execStateSummary s) :=
  runCmd_memInv (fun _ => reportTo_memInv _ _ h) h

theorem execErrorLog_memInv (h : s.mem.wf = true) : Out.MemInv (execErrorLog s) :=
  runCmd_memInv (fun _ => reportTo_memInv _ _ h) h

/-! ### Contexts -/

theorem execCtxCreate_memInv (h : s.mem.wf = true) : Out.MemInv (execCtxCreate s) := by
  refine runCmd_memInv (fun c => ?_) h
  have hread := fun pa => (State.deviceRead_mem_eq s pa).symm ▸ h
  refine CmdRes.memInv_ite trivial (CmdRes.memInv_ite trivial (CmdRes.memInv_ite (hread _) (CmdRes.memInv_ite (hread _) ?_)))
  rw [CmdRes.MemInv, updCtx_mem]
  exact hread _

@[simp] theorem State.closeQueues_wf (ctx : Nat) (h : s.mem.wf = true) : (s.closeQueues ctx).mem.wf = true := by
  change (s.closeQueues ctx).MemInv
  unfold State.closeQueues
  split
  · exact h
  · refine State.memInv_foldl _ (fun t q ht => ?_) _ _ h
    simp only
    split
    · exact State.writeDesc_wf _ _ _ _ ht
    · exact ht

@[simp] theorem State.setWindow_wf (table ctx : Nat) (on : Bool) (h : s.mem.wf = true) : (s.setWindow table ctx on).mem.wf = true :=
  State.homeStore_wf _ _ _ _ _ h

@[simp] theorem State.killCtx_mem (s : State) (ctx : Nat) : (s.killCtx ctx).mem = s.mem := by
  simp [State.killCtx]

theorem State.stripCtx_wf (ctx : Nat) (h : s.mem.wf = true) : (s.stripCtx ctx).mem.wf = true := by
  unfold State.stripCtx
  extract_lets waits dropped shut closed bare unlocked
  have hdropped : dropped.mem.wf = true := State.dropFor_wf _ _ _ h
  clear_value dropped
  have hshut : shut.mem.wf = true := by
    unfold shut
    split
    · exact State.setWindow_wf _ _ _ hdropped
    · exact hdropped
  clear_value shut
  have hclosed : closed.mem.wf = true := State.closeQueues_wf _ hshut
  clear_value closed
  exact hclosed

theorem execCtxDestroy_memInv (h : s.mem.wf = true) : Out.MemInv (execCtxDestroy s) := by
  refine runCmd_memInv (fun c => ?_) h
  simp only
  split
  · exact State.wf_ite (State.stripCtx_wf _ h) h
  · refine CmdRes.memInv_ite trivial ?_
    simpa using h

/-! ### Tables, windows and invalidation -/

theorem execQueueTable_memInv (h : s.mem.wf = true) : Out.MemInv (execQueueTable s) :=
  runCmd_memInv (fun _ => CmdRes.memInv_ite trivial h) h

theorem execExportTable_memInv (h : s.mem.wf = true) : Out.MemInv (execExportTable s) :=
  runCmd_memInv (fun _ => CmdRes.memInv_ite trivial h) h

theorem execWindow_memInv (h : s.mem.wf = true) : Out.MemInv (execWindow s) := by
  refine runCmd_memInv (fun c => ?_) h
  simp only
  split
  · trivial
  · exact CmdRes.memInv_ite trivial (State.setWindow_wf _ _ _ h)

theorem execInvalidate_memInv (h : s.mem.wf = true) : Out.MemInv (execInvalidate s) := by
  refine runCmd_memInv (fun c => CmdRes.memInv_ite trivial (CmdRes.memInv_ite trivial ?_)) h
  simp [h]

/-! ### Work, the pod and power -/

theorem execSubmit_memInv (h : s.mem.wf = true) : Out.MemInv (execSubmit s) := by
  refine runCmd_memInv (fun c => CmdRes.memInv_ite trivial (CmdRes.memInv_ite trivial ?_)) h
  extract_lets l x
  unfold x
  split
  · exact State.submit_wf _ h
  · exact State.reportRefusal_wf _ _ _ h

theorem gridCmd_memInv (typ : Nat) (c : Cmd) (h : s.mem.wf = true) : (gridCmd typ c s).MemInv :=
  CmdRes.memInv_ite trivial (CmdRes.memInv_ite trivial h)

theorem execPreempt_memInv (h : s.mem.wf = true) : Out.MemInv (execPreempt s) := by
  refine runCmd_memInv (fun c => ?_) h
  split
  · trivial
  · exact CmdRes.memInv_ite trivial h

theorem execKill_memInv (h : s.mem.wf = true) : Out.MemInv (execKill s) := by
  refine runCmd_memInv (fun c => ?_) h
  split
  · exact CmdRes.memInv_ite h h
  · trivial
  · simp [h]

theorem execNotifyRing_memInv (h : s.mem.wf = true) : Out.MemInv (execNotifyRing s) :=
  runCmd_memInv (fun _ => CmdRes.memInv_ite trivial (State.flushPosts_wf h)) h

theorem execFaultReply_memInv (h : s.mem.wf = true) : Out.MemInv (execFaultReply s) := by
  refine runCmd_memInv (fun c => ?_) h
  simp only
  split
  · trivial
  · exact CmdRes.memInv_ite trivial (CmdRes.memInv_ite h (State.actReply_wf _ _ _ h))

theorem execFormPod_memInv (h : s.mem.wf = true) : Out.MemInv (execFormPod s) :=
  runCmd_memInv (fun _ => CmdRes.memInv_ite trivial (CmdRes.memInv_ite trivial h)) h

theorem execRelease_memInv (h : s.mem.wf = true) : Out.MemInv (execRelease s) :=
  runCmd_memInv (fun _ => CmdRes.memInv_ite trivial (CmdRes.memInv_ite trivial (CmdRes.memInv_ite trivial h))) h

theorem execPowerCap_memInv (h : s.mem.wf = true) : Out.MemInv (execPowerCap s) :=
  runCmd_memInv (fun _ => CmdRes.memInv_ite trivial h) h

/-! ### Secured commands -/

theorem execKeyLoad_memInv (h : s.mem.wf = true) : Out.MemInv (execKeyLoad s) :=
  runCmd_memInv (fun _ => CmdRes.memInv_ite trivial h) h

theorem execKeyBind_memInv (h : s.mem.wf = true) : Out.MemInv (execKeyBind s) :=
  runCmd_memInv (fun _ => CmdRes.memInv_ite trivial h) h

theorem execKeyUnbind_memInv (h : s.mem.wf = true) : Out.MemInv (execKeyUnbind s) :=
  runCmd_memInv (fun _ => CmdRes.memInv_ite trivial h) h

theorem execHeartbeat_memInv (h : s.mem.wf = true) : Out.MemInv (execHeartbeat s) :=
  runCmd_memInv (fun _ => CmdRes.memInv_ite (State.startScrub_wf _ h) h) h

theorem execFabricKey_memInv (h : s.mem.wf = true) : Out.MemInv (execFabricKey s) := runCmd_memInv (fun _ => h) h

theorem execTrustedRange_memInv (h : s.mem.wf = true) : Out.MemInv (execTrustedRange s) :=
  runCmd_memInv (fun _ => CmdRes.memInv_ite trivial (CmdRes.memInv_ite (CmdRes.memInv_ite h trivial) (CmdRes.memInv_ite trivial h))) h

theorem scrubCmd_memInv (confidential : Bool) (cause : Nat) (c : Cmd) (h : s.mem.wf = true) :
    (scrubCmd confidential cause c s).MemInv :=
  CmdRes.memInv_ite trivial (State.startScrub_wf _ h)

end Sys2Proof.Machine
end

section
/-! ## O31. What the device and the environment do next, and the step -/

namespace Sys2Proof.Machine

variable {s : State}

/-! ### Issue -/

@[simp] theorem State.settle_mem (s : State) : s.settle.mem = s.mem := by
  unfold State.settle
  split <;> rfl

@[simp] theorem State.noteChoice_mem (s : State) (ready chosen : List Cand) : (s.noteChoice ready chosen).mem = s.mem :=
  State.mem_foldl _ (fun _ _ => updWarp_mem ..) _ s

theorem execIssueSelect_memInv (core part : Nat) (h : s.mem.wf = true) : Out.MemInv (execIssueSelect core part s) := by
  refine Out.memInv_ite h ?_
  rw [← State.noteChoice_mem s (s.readyOn core part) (s.choose core part)] at h
  exact h

theorem execIcacheLineArrives_memInv (core part : Nat) (h : s.mem.wf = true) : Out.MemInv (execIcacheLineArrives core part s) := h

/-! ### The plan of a step -/

/-- What a step has planned, an instruction or nothing, on a state with memory in canonical form. -/
def PlanInv (x : Option Instr × State) : Prop := x.2.mem.wf = true

theorem PlanInv.ite {c : Prop} [Decidable c] {a b : Option Instr × State} (ha : PlanInv a) (hb : PlanInv b) :
    PlanInv (if c then a else b) := by
  split <;> assumption

theorem State.beginWord_planInv (r : Ref) (h : s.mem.wf = true) : PlanInv (s.beginWord r) := by
  have trapped := fun va (t : TrapV) => (by simpa using h : ((s.noteFetch (s.ctxOf r.lsq) va).takeTrap r t).mem.wf = true)
  unfold State.beginWord
  split
  · exact h
  · split
    · exact h
    · split
      · exact h
      · extract_lets ctx va fetched
        refine PlanInv.ite h (PlanInv.ite (PlanInv.ite h ?_) ?_)
        · split
          · exact trapped _ _
          · exact trapped _ _
          · refine PlanInv.ite ?_ h
            simp [PlanInv, h]
        · split
          · exact trapped _ _
          · split
            · exact trapped _ _
            · simpa [PlanInv, fetched] using h

@[simp] theorem State.takeRing_wf (c : Cmd) (h : s.mem.wf = true) : (s.takeRing c).mem.wf = true := by
  have hread := (State.deviceRead_mem_eq s (s.att.crb.toNat + 64 * (s.att.cci.toNat % 2 ^ s.att.crs))).symm ▸ h
  exact hread

/-- What the host link reaches is kept page by page. -/
theorem Memory.wf_hostReach {m : Memory} (page : Nat) (lost : Bool) (h : m.wf = true) : (m.hostReach page lost).wf = true := by
  rw [Memory.wf_iff] at h ⊢
  obtain ⟨hdev, hdevPoison, hhost, hhostPoison, hlmax, hlost⟩ := h
  exact ⟨hdev, hdevPoison, hhost, hhostPoison, hlmax, cwf_cset _ _ hlost⟩

theorem State.act_planInv (a : Action) (h : s.mem.wf = true) : PlanInv (s.act a) := by
  cases a with
  | command | tick => exact State.wf_ite h h
  | hostStore pa data mark =>
    have hstored : (s.homeStore none true pa data mark).mem.wf = true := State.homeStore_wf _ _ _ _ _ h
    rw [← setSec_mem _ (fun _ => s.sec)] at hstored
    exact hstored
  | sectorError op core sector => exact State.sectorError_wf _ _ _ h
  | hostLink page lost => exact Memory.wf_hostReach _ _ h
  | _ => exact h

theorem State.advance_planInv (h : s.mem.wf = true) : PlanInv s.advance := by
  unfold State.advance
  split
  · exact State.beginWord_planInv _ h
  · split
    · exact State.takeRing_wf _ h
    · split <;> exact h

theorem State.plan_planInv (h : s.mem.wf = true) : PlanInv s.plan := by
  unfold State.plan
  extract_lets settled
  have hsettled : settled.mem.wf = true := (State.settle_mem s).symm ▸ h
  clear_value settled
  split
  · exact hsettled
  · exact State.act_planInv _ hsettled
  · split
    · exact State.advance_planInv hsettled
    · exact State.wf_ite hsettled hsettled
    · split
      · exact hsettled
      · exact State.takeRing_wf _ hsettled
      · exact hsettled
    all_goals exact hsettled

/-! ### The step -/

/-- Every instruction and event keeps memory in canonical form. -/
theorem exec_memInv (i : Instr) (h : s.mem.wf = true) : Out.MemInv (exec i s) := by
  cases i with
  | add w | sub w | addc w | subb w | mul w | mulh w | mulw w | mad w | idiv w | irem w | min w | max w | abs w | neg w
  | cmp w | lea w | add64 w | sub64 w | shl64 w | and w | or w | xor w | andn w | orn w | not w | shl w | shr w | sar w
  | rol w | ror w | bfx w | bfi w | bfr w | popc w | clz w | ctz w | mov w | ldi w | ldih w | sel w | pand w | por w | pxor w
  | pnot w | fadd w | fsub w | fmul w | fma w | fmin w | fmax w | fneg w | fabs w | fcmp w | fcls w | frnd w | fscl w
  | fdiv w | fsqrt w | frcp w | frsq w | fex2 w | flg2 w | fsinp w | fcosp w | ftnh w | cvt w | cvtn w | cvtw w =>
    exact issueW_memInv keepsMem_localOp h
  | perm w => exact execPerm_memInv w h
  | rds w => exact execRds_memInv w h
  | wrs w => exact execWrs_memInv w h
  | vote w | shfl w | red w | scan w =>
    exact issueW_memInv keepsMem_collective h
  | waitlt w => exact execWaitlt_memInv w h
  | bra w | brx w | call w | ret w =>
    exact issueW_memInv keepsMem_transferOp h
  | exit w => exact execExit_memInv w h
  | trap w => exact execTrap_memInv w h
  | tret w => exact execTret_memInv w h
  | trec w => exact execTrec_memInv w h
  | nop w => exact execNop_memInv w h
  | pFormWord x y => exact execPFormWord_memInv x y h
  | vfadd w | vfsub w | vfmul w | vfma w | vfdiv w | vfsqrt w | vfmin w | vfmax w | vfrnd w =>
    exact issueW_memInv keepsMem_vfOp h
  | vfcmp w => exact execVfcmp_memInv w h
  | vfneg w | vfabs w | vfmov w =>
    exact issueW_memInv keepsMem_vfCopy h
  | vfcvt w => exact execVfcvt_memInv w h
  | vfext w => exact execVfext_memInv w h
  | cbdec w => exact execCbdec_memInv w h
  | bfly w => exact execBfly_memInv w h
  | cbfly w => exact execCbfly_memInv w h
  | cmul w => exact execCmul_memInv w h
  | twid w => exact execTwid_memInv w h
  | aget w => exact execAget_memInv w h
  | aput w => exact execAput_memInv w h
  | azero w => exact execAzero_memInv w h
  | ald w => exact execAld_memInv w h
  | ast w => exact execAst_memInv w h
  | ascl w => exact execAscl_memInv w h
  | aconv w => exact execAconv_memInv w h
  | omset w => exact execOmset_memInv w h
  | thset w => exact execThset_memInv w h
  | mma w | mmaz w =>
    exact issueW_memInv keepsMem_signWord h
  | kinit w => exact execKinit_memInv w h
  | stclr w => exact execStclr_memInv w h
  | stset w | stadd w | stget w | stpre w | sttot w | stfind w | stcut w | stcutm w | stq w =>
    exact issueW_memInv keepsMem_treeOp h
  | stld w => exact execStld_memInv w h
  | stst w => exact execStst_memInv w h
  | ldg w => exact execLdg_memInv w h
  | stg w => exact execStg_memInv w h
  | ldsp w => exact execLdsp_memInv w h
  | stsp w => exact execStsp_memInv w h
  | ldvf w => exact execLdvf_memInv w h
  | stvf w => exact execStvf_memInv w h
  | atomg w => exact execAtomg_memInv w h
  | atomsp w => exact execAtomsp_memInv w h
  | fence w => exact execFence_memInv w h
  | drain w => exact execDrain_memInv w h
  | tcopy w => exact execTcopy_memInv w h
  | mcast w => exact execMcast_memInv w h
  | tbinit w => exact execTbinit_memInv w h
  | tbexp w => exact execTbexp_memInv w h
  | tbarr w => exact execTbarr_memInv w h
  | tbwait w => exact execTbwait_memInv w h
  | tbtest w => exact execTbtest_memInv w h
  | lkl w => exact execLkl_memInv w h
  | ulk w => exact execUlk_memInv w h
  | pref w => exact execPref_memInv w h
  | rput w => exact execRput_memInv w h
  | rget w => exact execRget_memInv w h
  | ratom w => exact execRatom_memInv w h
  | rflag w | rwake w =>
    exact issueW_memInv keepsMem_remoteWord h
  | waitw w => exact execWaitw_memInv w h
  | bar w => exact execBar_memInv w h
  | yield w => exact execYield_memInv w h
  | phase w => exact execPhase_memInv w h
  | xget w => exact execXget_memInv w h
  | xput w => exact execXput_memInv w h
  | hud w => exact execHud_memInv w h
  | qpost w => exact execQpost_memInv w h
  | launch w => exact execLaunch_memInv w h
  | refrd w => exact execRefrd_memInv w h
  | refwr w => exact execRefwr_memInv w h
  | refres w => exact execRefres_memInv w h
  | refstop w => exact execRefstop_memInv w h
  | refkill w => exact execRefkill_memInv w h
  | ctxsave w => exact execCtxsave_memInv w h
  | ctxrest w => exact execCtxrest_memInv w h
  | svc w => exact execSvc_memInv w h
  | svcw w => exact execSvcw_memInv w h
  | evtpop w => exact execEvtpop_memInv w h
  | tlbinv w => exact execTlbinv_memInv w h
  | qsub w => exact execQsub_memInv w h
  | qblk w | qunb w | qcan w =>
    exact issueW_memInv keepsMem_raiseWord h
  | qrow w => exact execQrow_memInv w h
  | qdig w => exact execQdig_memInv w h
  | qseq w => exact execQseq_memInv w h
  | qwait w => exact execQwait_memInv w h
  | issueSelect core part => exact execIssueSelect_memInv core part h
  | icacheLineArrives core part => exact execIcacheLineArrives_memInv core part h
  | registerWriteLands op => exact execRegisterWriteLands_memInv op h
  | homePerformsAccess op => exact execHomePerformsAccess_memInv op h
  | completionReplyArrives op remote => exact execCompletionReplyArrives_memInv op remote h
  | waitTimePassed r => exact execWaitTimePassed_memInv r h
  | waitwDeadline r => exact execWaitwDeadline_memInv r h
  | qwaitDeadline r => exact execQwaitDeadline_memInv r h
  | collectivePerformed r => exact execCollectivePerformed_memInv r h
  | mmaRetire op => exact execMmaRetire_memInv op h
  | handleFetchFault op => exact execHandleFetchFault_memInv op h
  | tileGrant core => exact execTileGrant_memInv core h
  | extregGrant core part => exact execExtregGrant_memInv core part h
  | compaction core part => exact execCompaction_memInv core part h
  | engineSectorReport op sector => exact execEngineSectorReport_memInv op sector h
  | gcmEngineJudge op => exact execGcmEngineJudge_memInv op h
  | mcastSectorArrival op core sector => exact execMcastSectorArrival_memInv op core sector h
  | remoteOpArrival k => exact execRemoteOpArrival_memInv k h
  | transportGiveUp op => exact execTransportGiveUp_memInv op h
  | pageWalkComplete ctx va => exact execPageWalkComplete_memInv ctx va h
  | invalidationComplete op => exact execInvalidationComplete_memInv op h
  | refereeTakeTrap core => exact execRefereeTakeTrap_memInv core h
  | blockSave r => exact execBlockSave_memInv r h
  | blockRestore r org => exact execBlockRestore_memInv r org h
  | warpRelease r => exact execWarpRelease_memInv r h
  | blockEnd r => exact execBlockEnd_memInv r h
  | huddleRoundEnd r => exact execHuddleRoundEnd_memInv r h
  | gridCompletion lsq => exact execGridCompletion_memInv lsq h
  | blockDispatch lsq org => exact execBlockDispatch_memInv lsq org h
  | phaseCounterExchange core => exact execPhaseCounterExchange_memInv core h
  | svcReply r => exact execSvcReply_memInv r h
  | eccErrorDetected pa correctable kind => exact execEccErrorDetected_memInv pa correctable kind h
  | powerAdjust pool clk0 clk1 => exact execPowerAdjust_memInv pool clk0 clk1 h
  | timeDiscipline slew => exact execTimeDiscipline_memInv slew h
  | portStateChange port state => exact execPortStateChange_memInv port state h
  | quadrilleHeartbeatReceive x => exact execQuadrilleHeartbeatReceive_memInv x h
  | eventReceive e => exact execEventReceive_memInv e h
  | finishRaise lsq => exact execFinishRaise_memInv lsq h
  | suspectRaise m => exact execSuspectRaise_memInv m h
  | memberCut m => exact execMemberCut_memInv m h
  | rowEnact row => exact execRowEnact_memInv row h
  | joinProcedure j => exact execJoinProcedure_memInv j h
  | hostMemoryAccess x => exact execHostMemoryAccess_memInv x h
  | ncnWrite v => exact execNcnWrite_memInv v h
  | registerWrite off v => exact execRegisterWrite_memInv off v h
  | podFormationComplete t => exact execPodFormationComplete_memInv t h
  | scrubComplete ok => exact execScrubComplete_memInv ok h
  | readyReached ok => exact execReadyReached_memInv ok h
  | unassignedOpcode word => exact execUnassignedOpcode_memInv word h
  | spdmSessionSetup seconds => exact execSpdmSessionSetup_memInv seconds h
  | endpointContextFetch ctx peer => exact execEndpointContextFetch_memInv ctx peer h
  | corePowerGating core gate groups => exact execCorePowerGating_memInv core gate groups h
  | queueFetch => exact execQueueFetch_memInv h
  | quadrilleHeartbeatSend => exact execQuadrilleHeartbeatSend_memInv h
  | deliverSubmit | deliverFinish | deliverBlock | deliverUnblock | deliverCancel | deliverSuspect | deliverJoin
  | deliverFence =>
    exact deliverType_memInv _ h
  | stateSummary => exact execStateSummary_memInv h
  | ctxCreate => exact execCtxCreate_memInv h
  | ctxDestroy => exact execCtxDestroy_memInv h
  | queueTable => exact execQueueTable_memInv h
  | exportTable => exact execExportTable_memInv h
  | window => exact execWindow_memInv h
  | invalidate => exact execInvalidate_memInv h
  | submit => exact execSubmit_memInv h
  | block | unblock | cancel =>
    exact runCmd_memInv (fun c => gridCmd_memInv _ c h) h
  | preempt => exact execPreempt_memInv h
  | kill => exact execKill_memInv h
  | notifyRing => exact execNotifyRing_memInv h
  | formPod => exact execFormPod_memInv h
  | formPodTimeout => exact execFormPodTimeout_memInv h
  | release => exact execRelease_memInv h
  | powerCap => exact execPowerCap_memInv h
  | errorLog => exact execErrorLog_memInv h
  | faultReply => exact execFaultReply_memInv h
  | keyLoad => exact execKeyLoad_memInv h
  | keyBind => exact execKeyBind_memInv h
  | keyUnbind => exact execKeyUnbind_memInv h
  | heartbeat => exact execHeartbeat_memInv h
  | fabricKey => exact execFabricKey_memInv h
  | trustedRange => exact execTrustedRange_memInv h
  | enterConfidential | leaveConfidential =>
    exact runCmd_memInv (fun c => scrubCmd_memInv _ _ c h) h
  | heartbeatLoss => exact execHeartbeatLoss_memInv h
  | coldReset => exact execColdReset_memInv h
  | unknownCommand => exact execUnknownCommand_memInv h

/-- Settles O31: the step plans an instruction or an event on a state with memory in canonical form, and whatever it plans keeps the
form; so does a step that only changes the state. -/
theorem stepKeepsMemoryCanonical : Obligations.StepKeepsMemoryCanonical := by
  unfold Obligations.StepKeepsMemoryCanonical
  intro s t h e
  have hplan := State.plan_planInv h
  unfold step at e
  generalize s.plan = p at hplan e
  obtain ⟨i, u⟩ := p
  cases i with
  | some i =>
    have hexec : Out.MemInv (exec i u) := exec_memInv i hplan
    rw [show exec i u = .next t from e] at hexec
    exact hexec
  | none =>
    injection e with e
    exact e ▸ hplan

end Sys2Proof.Machine
end

section
/-! ## Lists and sparse stores -/

namespace Sys2Proof.Machine

theorem length_leBytes (k n : Nat) : (leBytes k n).length = k := by
  induction k generalizing n with
  | zero => rfl
  | succ k ih => simp [leBytes, ih]

/-- One entry after a change of one entry, in the list or beyond its end. -/
theorem nth_updAt_other {α : Type} (l : List α) {i j : Nat} (f : α → α) (d : α) (h : j ≠ i) : nth (updAt l i f) j d = nth l j d := by
  induction l generalizing i j with
  | nil => rfl
  | cons x r ih =>
    cases i <;> cases j <;> simp_all [updAt, nth]

theorem nth_eq_default {α : Type} (l : List α) (i : Nat) (d : α) (h : l.length ≤ i) : nth l i d = d := by
  induction l generalizing i with
  | nil => rfl
  | cons x r ih =>
    cases i with
    | zero => simp at h
    | succ i => exact ih i (by simpa using h)

theorem nth_replicate {α : Type} (n i : Nat) (d : α) : nth (List.replicate n d) i d = d := by
  induction n generalizing i with
  | zero => rfl
  | succ n ih =>
    cases i with
    | zero => rfl
    | succ i => exact ih i

theorem mem_updIf {α : Type} {p : α → Bool} {f : α → α} {l : List α} {x : α} :
    x ∈ updIf p f l ↔ ∃ y ∈ l, (if p y then f y else y) = x := List.mem_map

theorem foldl_max_cases (l : List Nat) (a : Nat) : l.foldl max a = a ∨ l.foldl max a ∈ l := by
  induction l generalizing a with
  | nil => exact .inl rfl
  | cons x r ih =>
    rw [List.foldl_cons]
    obtain h | h := ih (max a x)
    · rw [h]
      exact (max_choice a x).imp id (fun hx => List.mem_cons.2 (.inl hx))
    · exact .inr (List.mem_cons_of_mem _ h)

/-- A field that every step of a fold leaves is left by the fold. -/
theorem foldl_keeps {σ α β : Type} (field : σ → β) {f : σ → α → σ} (h : ∀ s a, field (f s a) = field s) (l : List α) (s : σ) :
    field (l.foldl f s) = field s :=
  List.foldlRecOn l f (motive := fun t => field t = field s) rfl (fun t ht a _ => (h t a).trans ht)

/-- Where each step of a fold changes what is read at its own number alone, the fold changes what is read at a number of its list as that
number's step does. -/
theorem foldl_reads_once {σ α : Type} {f : σ → Nat → σ} {read : σ → Nat → α} {R : α → α → Prop}
    (other : ∀ v k c, c ≠ k → read (f v k) c = read v c) (own : ∀ v c, R (read v c) (read (f v c) c)) {l : List Nat} (hl : l.Nodup)
    {c : Nat} (hc : c ∈ l) (v : σ) : R (read v c) (read (l.foldl f v) c) := by
  induction l generalizing v with
  | nil => cases hc
  | cons k r ih =>
    obtain ⟨hk, hr⟩ := List.nodup_cons.1 hl
    rw [List.foldl_cons]
    by_cases e : c = k
    · subst e
      have rest : read (r.foldl f (f v c)) c = read (f v c) c :=
        List.foldlRecOn r f (motive := fun u => read u c = read (f v c) c) rfl
          (fun u hu j hj => (other u j c (fun e => hk (e ▸ hj))).trans hu)
      rw [rest]
      exact own v c
    · have hcr : c ∈ r := (List.mem_cons.1 hc).resolve_left e
      have := ih hr hcr (f v k)
      rwa [other v k c e] at this

/-- Consecutive values read back as they were written. -/
theorem cgetMany_csetMany {w : Nat} (c : Cells w) (k : Nat) (vs : List (BitVec w)) : cgetMany (csetMany c k vs) k vs.length = vs := by
  have reads : ∀ (d : Cells w) (n j : Nat), cgetMany d j n = (List.range n).map (fun i => cget d (j + i)) := by
    intro d n
    induction n with
    | zero => exact fun _ => rfl
    | succ n ih =>
      intro j
      rw [cgetMany, ih, List.range_succ_eq_map, List.map_cons, List.map_map]
      refine congrArg₂ List.cons rfl (List.map_congr_left fun i _ => ?_)
      exact congrArg (cget d) (by rw [Nat.succ_eq_add_one]; omega)
  rw [reads]
  refine List.ext_getElem (by simp) (fun i h _ => ?_)
  have hi : i < vs.length := by simpa using h
  simp [cget_csetMany, hi]

/-- The bytes of a write read back. -/
theorem Memory.bytes_write (m : Memory) (sys : Bool) (pa : Nat) (data : List Byte) (mark : Bool) :
    (m.write sys pa data mark).bytes sys pa data.length = data := by
  cases sys <;> exact cgetMany_csetMany _ _ _

end Sys2Proof.Machine
end

section
/-! ## What the shared operations leave: the error log, a store at its home, an event posted -/

namespace Sys2Proof.Machine

variable {s : State}

/-! ### The error log and its neighbours -/

/-- A change of the error log and of its count, which leaves all else of the attachment. -/
def State.ErrLogOnly (s t : State) : Prop := ∃ l n, t = { s with att := { s.att with errLog := l, uncTotal := n } }

theorem State.ErrLogOnly.refl (s : State) : s.ErrLogOnly s := ⟨s.att.errLog, s.att.uncTotal, rfl⟩

/-- Consuming poison changes the error log and its count alone (22_attach.md:R381). -/
theorem State.consumeSector_errLog (s : State) (ctx : Nat) (sys : Bool) (k : Nat) : s.ErrLogOnly (s.consumeSector ctx sys k) := by
  unfold State.consumeSector
  extract_lets mine note
  split
  · exact .refl s
  · split
    · exact ⟨_, _, rfl⟩
    · split
      · exact ⟨_, _, rfl⟩
      · exact .refl s

theorem State.consumeWalk_errLog (s : State) (ctx va : Nat) : s.ErrLogOnly (s.consumeWalk ctx va) := by
  unfold State.consumeWalk
  extract_lets d
  split
  · split
    · exact State.consumeSector_errLog ..
    · exact .refl s
  · exact .refl s

/-! ### A store at its home -/

/-- What a store at its home can change: memory, the covers, the warps that wait on its line, the note of an access to host memory, and
the pending queues. -/
theorem State.homeStore_frame (s : State) (core : Option Nat) (sys : Bool) (pa : Nat) (data : List Byte) (mark : Bool) :
    ∃ m c b x l, s.homeStore core sys pa data mark =
      { s with mem := m, covers := c, blocks := b, sec := x, front := { s.front with pending := l } } := by
  have notified : ∀ (t : State) (pa len : Nat), ∃ l, t.notify pa len = { t with front := { t.front with pending := l } } := by
    intro t pa len
    unfold State.notify
    split
    · exact ⟨t.front.pending, rfl⟩
    · split
      · exact ⟨t.front.pending, rfl⟩
      · exact ⟨_, rfl⟩
  have noted : ∀ (t : State) (sys : Bool) (pa : Nat), ∃ x, t.noteSys sys pa = { t with sec := x } := by
    intro t sys pa
    unfold State.noteSys
    split
    · exact ⟨_, rfl⟩
    · exact ⟨t.sec, rfl⟩
  unfold State.homeStore
  extract_lets m m' m'' c t
  split
  · obtain ⟨x, h⟩ := noted t sys pa
    exact ⟨_, _, _, x, _, h⟩
  · obtain ⟨l, h⟩ := notified t pa data.length
    exact ⟨_, _, _, _, l, h⟩

section
variable (core : Option Nat) (sys : Bool) (pa : Nat) (data : List Byte) (mark : Bool)

@[simp] theorem State.homeStore_att : (s.homeStore core sys pa data mark).att = s.att := by
  obtain ⟨_, _, _, _, _, h⟩ := s.homeStore_frame core sys pa data mark; rw [h]
@[simp] theorem State.homeStore_quad : (s.homeStore core sys pa data mark).quad = s.quad := by
  obtain ⟨_, _, _, _, _, h⟩ := s.homeStore_frame core sys pa data mark; rw [h]
@[simp] theorem State.homeStore_modn : (s.homeStore core sys pa data mark).modn = s.modn := by
  obtain ⟨_, _, _, _, _, h⟩ := s.homeStore_frame core sys pa data mark; rw [h]
@[simp] theorem State.homeStore_ctxs : (s.homeStore core sys pa data mark).ctxs = s.ctxs := by
  obtain ⟨_, _, _, _, _, h⟩ := s.homeStore_frame core sys pa data mark; rw [h]

/-- The bytes of a store at its home read back. -/
theorem State.bytes_homeStore : (s.homeStore core sys pa data mark).mem.bytes sys pa data.length = data := by
  obtain ⟨l, k, h⟩ := s.homeStore_mem core sys pa data mark
  rw [h]
  exact Memory.bytes_write s.mem sys pa data mark

end

/-! ### Posting an event -/

section
variable (ctx typ code : Nat) (adr aux : DWord) (lsq tkt wrp mdl : Nat)

/-- What the device keeps of a context, for a context that does not exist too. -/
def State.ctxEnt (s : State) (ctx : Nat) : CtxEnt := nth s.ctxs ctx CtxEnt.absent

theorem State.updCtx_ctxEnt_other {ctx c : Nat} (f : CtxEnt → CtxEnt) (h : c ≠ ctx) : (s.updCtx ctx f).ctxEnt c = s.ctxEnt c :=
  nth_updAt_other _ _ _ h

theorem State.updCtx_ctxEnt {ctx : Nat} (f : CtxEnt → CtxEnt) (h : ctx < s.ctxs.length) :
    (s.updCtx ctx f).ctxEnt ctx = f (s.ctxEnt ctx) :=
  (nth_updAt _ _ _ _ _ h).trans (if_pos rfl)

/-- A context that exists is one of those that the device keeps. -/
theorem State.lt_of_ctxEnt_exists {ctx : Nat} (h : (s.ctxEnt ctx).desc.getLsbD 64 = true) : ctx < s.ctxs.length := by
  by_contra hl
  rw [State.ctxEnt, nth_eq_default _ _ _ (Nat.le_of_not_lt hl)] at h
  simp [CtxEnt.absent] at h

/-- A context that does not exist receives nothing (16_isolation.md:R300). -/
theorem State.postEvent_absent (h : (s.ctxEnt ctx).desc.getLsbD 64 = false) : s.postEvent ctx typ code adr aux lsq tkt wrp mdl = s := by
  unfold State.ctxEnt at h
  unfold State.postEvent
  exact if_pos (by rw [h]; rfl)

/-- An event whose entry is free, and whose address takes a store that can be completed, is written (18_recovery.md:R329). -/
theorem State.postEvent_written {x : Xlat} (h : (s.ctxEnt ctx).desc.getLsbD 64 = true)
    (room : ¬ s.ringSize ctx ≤ (s.ctxEnt ctx).written - (s.ctxEnt ctx).taken)
    (hx : s.translate ctx (s.eventAddr ctx (s.ctxEnt ctx).written) .store = .ok x) (hr : s.mem.unreachable x.sys x.pa = false) :
    s.postEvent ctx typ code adr aux lsq tkt wrp mdl =
      (s.updCtx ctx CtxEnt.wrote).homeStore none x.sys x.pa
        (leBytes 64 (eventEntry s.time adr aux lsq tkt wrp mdl (s.ctxEnt ctx).lost (s.ctxEnt ctx).written code typ)) false := by
  unfold State.ctxEnt at *
  unfold State.postEvent
  simp [h, room, hx, hr]

/-- An event that finds its ring full, or whose entry takes no store that can be completed, is counted as lost (18_recovery.md:R329). -/
theorem State.postEvent_dropped (h : (s.ctxEnt ctx).desc.getLsbD 64 = true)
    (hd : s.ringSize ctx ≤ (s.ctxEnt ctx).written - (s.ctxEnt ctx).taken ∨
      ∀ x, s.translate ctx (s.eventAddr ctx (s.ctxEnt ctx).written) .store = .ok x → s.mem.unreachable x.sys x.pa = true) :
    ∃ t, s.ErrLogOnly t ∧ s.postEvent ctx typ code adr aux lsq tkt wrp mdl = t.updCtx ctx CtxEnt.drop := by
  unfold State.ctxEnt at *
  unfold State.postEvent
  extract_lets c va
  rw [if_neg (by simp [c, h])]
  split
  · refine ⟨_, ?_, rfl⟩
    split
    · exact State.consumeWalk_errLog ..
    · exact .refl s
  next x hx =>
    split at hx
    · cases hx
    next room =>
      refine ⟨s, .refl s, if_pos ((hd.resolve_left room) x hx)⟩

/-- POSTING AN EVENT, all that it can do: nothing for a context that does not exist; otherwise its count of lost events rises, or it is
written. -/
theorem State.postEvent_cases : let u := s.postEvent ctx typ code adr aux lsq tkt wrp mdl
    ((s.ctxEnt ctx).desc.getLsbD 64 = false ∧ u = s) ∨
    ((s.ctxEnt ctx).desc.getLsbD 64 = true ∧ ∃ t, s.ErrLogOnly t ∧ u = t.updCtx ctx CtxEnt.drop) ∨
    ((s.ctxEnt ctx).desc.getLsbD 64 = true ∧ ∃ sys pa d, u = (s.updCtx ctx CtxEnt.wrote).homeStore none sys pa d false) := by
  intro u
  cases h : (s.ctxEnt ctx).desc.getLsbD 64 with
  | false => exact .inl ⟨rfl, State.postEvent_absent (h := h) ..⟩
  | true =>
    by_cases hd : s.ringSize ctx ≤ (s.ctxEnt ctx).written - (s.ctxEnt ctx).taken ∨
      ∀ x, s.translate ctx (s.eventAddr ctx (s.ctxEnt ctx).written) .store = .ok x → s.mem.unreachable x.sys x.pa = true
    · exact .inr (.inl ⟨rfl, State.postEvent_dropped (h := h) (hd := hd) ..⟩)
    · push Not at hd
      obtain ⟨room, x, hx, hr⟩ := hd
      exact .inr (.inr ⟨rfl, _, _, _, State.postEvent_written (h := h) (room := Nat.not_le.2 room) (hx := hx) (hr := by simpa using hr) ..⟩)

/-- What an event posted leaves of a field that neither its count nor the error log nor a store changes. -/
theorem State.postEvent_field {β : Type} (field : State → β) (log : ∀ t, s.ErrLogOnly t → field t = field s)
    (ctxs : ∀ (t : State) l, field { t with ctxs := l } = field t)
    (store : ∀ (t : State) sys pa d, field (t.homeStore none sys pa d false) = field t) :
    field (s.postEvent ctx typ code adr aux lsq tkt wrp mdl) = field s := by
  obtain ⟨-, h⟩ | ⟨-, t, ht, h⟩ | ⟨-, sys, pa, d, h⟩ := s.postEvent_cases ctx typ code adr aux lsq tkt wrp mdl
  · rw [h]
  · rw [h]; exact (ctxs t _).trans (log t ht)
  · rw [h]; exact (store _ _ _ _).trans (ctxs s _)

@[simp] theorem State.postEvent_modn : (s.postEvent ctx typ code adr aux lsq tkt wrp mdl).modn = s.modn :=
  State.postEvent_field (field := State.modn) (log := by rintro _ ⟨_, _, rfl⟩; rfl) (ctxs := fun _ _ => rfl) (store := by simp) ..
@[simp] theorem State.postEvent_quad : (s.postEvent ctx typ code adr aux lsq tkt wrp mdl).quad = s.quad :=
  State.postEvent_field (field := State.quad) (log := by rintro _ ⟨_, _, rfl⟩; rfl) (ctxs := fun _ _ => rfl) (store := by simp) ..
@[simp] theorem State.postEvent_ports : (s.postEvent ctx typ code adr aux lsq tkt wrp mdl).att.ports = s.att.ports :=
  State.postEvent_field (field := fun t => t.att.ports) (log := by rintro _ ⟨_, _, rfl⟩; rfl) (ctxs := fun _ _ => rfl) (store := by simp) ..
@[simp] theorem State.postEvent_portErrors : (s.postEvent ctx typ code adr aux lsq tkt wrp mdl).att.portErrors = s.att.portErrors :=
  State.postEvent_field (field := fun t => t.att.portErrors) (log := by rintro _ ⟨_, _, rfl⟩; rfl) (ctxs := fun _ _ => rfl) (store := by simp) ..

/-- Another context keeps its record. -/
theorem State.postEvent_ctxEnt_other {c : Nat} (hc : c ≠ ctx) :
    (s.postEvent ctx typ code adr aux lsq tkt wrp mdl).ctxEnt c = s.ctxEnt c := by
  obtain ⟨-, h⟩ | ⟨-, t, ⟨_, _, rfl⟩, h⟩ | ⟨-, sys, pa, d, h⟩ := s.postEvent_cases ctx typ code adr aux lsq tkt wrp mdl
  · rw [h]
  · rw [h]; exact State.updCtx_ctxEnt_other _ hc
  · rw [h, State.ctxEnt, State.homeStore_ctxs]; exact State.updCtx_ctxEnt_other _ hc

/-- What a context's record says after an event was posted to it, of the record before: nothing where it does not exist, otherwise that
the event was written or counted as lost (18_recovery.md:R329). -/
def CtxEnt.Notified (x y : CtxEnt) : Prop :=
  (x.desc.getLsbD 64 = false ∧ y = x) ∨ (x.desc.getLsbD 64 = true ∧ (y = x.wrote ∨ y = x.drop))

theorem State.postEvent_notified : (s.ctxEnt ctx).Notified ((s.postEvent ctx typ code adr aux lsq tkt wrp mdl).ctxEnt ctx) := by
  obtain ⟨h0, h⟩ | ⟨h0, t, ⟨_, _, rfl⟩, h⟩ | ⟨h0, sys, pa, d, h⟩ := s.postEvent_cases ctx typ code adr aux lsq tkt wrp mdl
  · exact .inl ⟨h0, by rw [h]⟩
  · refine .inr ⟨h0, .inr ?_⟩
    rw [h]; exact State.updCtx_ctxEnt _ (State.lt_of_ctxEnt_exists h0)
  · refine .inr ⟨h0, .inl ?_⟩
    rw [h, State.ctxEnt, State.homeStore_ctxs]; exact State.updCtx_ctxEnt _ (State.lt_of_ctxEnt_exists h0)

end
end Sys2Proof.Machine
end

section
/-! ## O19. Errors, power, clocks, time, ports and gating -/

namespace Sys2Proof.Machine

variable {s : State}

/-! ### Errors -/

theorem stackOf_eq (pa : Nat) : stackOf pa = pa / 4096 % 8 := Nat.mod_mod_of_dvd _ (by decide)

/-- The sector that a mark poisons, and no other. -/
theorem cget_mark (c : Cells 1) (k j : Nat) : (cget (cset c k 1) j == 1) = if j = k then true else cget c j == 1 := by
  rw [cget_cset]
  split <;> rfl

/-- A mark on a sector of device memory (18_recovery.md:R323). -/
theorem Memory.poisoned_markDev (m : Memory) (pa : Nat) (sys : Bool) (a : Nat) :
    ({ m with devPoison := cset m.devPoison (pa / 32) 1 } : Memory).poisoned sys a =
      if sys = false ∧ a / 32 = pa / 32 then true else m.poisoned sys a := by
  cases sys with
  | false => simpa [Memory.poisoned] using cget_mark m.devPoison (pa / 32) (a / 32)
  | true => rfl

/-- A mark on a sector of host memory. -/
theorem Memory.poisoned_markHost (m : Memory) (pa : Nat) :
    ({ m with hostPoison := cset m.hostPoison (pa / 32) 1 } : Memory).poisoned true pa = true := by
  simp [Memory.poisoned]

/-- An error of an HBM stack, by whether its address exists and whether it can be corrected. -/
theorem exec_ecc_hbm (pa : Nat) (ok : Bool) : exec (.eccErrorDetected pa ok 1) s =
    if 2 ^ 39 ≤ pa then .fault .noSuchAddress
    else if ok then .next { s with att := { s.att with corrected := updAt s.att.corrected (stackOf pa) (· + 1) } }
    else .next { s with
      mem := { s.mem with devPoison := cset s.mem.devPoison (pa / 32) 1 }
      covers := uncover false [pa / 32] s.covers
      att := ({ s.att with
        uncorrected := updAt s.att.uncorrected (stackOf pa) (· + 1)
        detected := updAt s.att.detected (stackOf pa) (· + 1) } : Attach).logEvent
          { t := s.time, pa := pa / 32 * 32, stack := stackOf pa, kind := 1, ctx := 255 } } := rfl

/-- A correctable error of an HBM stack is counted (01_device.md:R17; 18_recovery.md:R325). -/
theorem goes_ecc_corrected {pa : Nat} (h : pa < 2 ^ 39) : Goes (.eccErrorDetected pa true 1) s
    { s with att := { s.att with corrected := updAt s.att.corrected (stackOf pa) (· + 1) } } :=
  (exec_ecc_hbm pa true).trans (if_neg (Nat.not_le.2 h))

/-- An uncorrectable error of an HBM stack poisons its sector, and is counted and logged (18_recovery.md:R323; 22_attach.md:R381). -/
theorem goes_ecc_uncorrected {pa : Nat} (h : pa < 2 ^ 39) : Goes (.eccErrorDetected pa false 1) s
    { s with mem := { s.mem with devPoison := cset s.mem.devPoison (pa / 32) 1 }
             covers := uncover false [pa / 32] s.covers
             att := ({ s.att with
               uncorrected := updAt s.att.uncorrected (stackOf pa) (· + 1)
               detected := updAt s.att.detected (stackOf pa) (· + 1) } : Attach).logEvent
                 { t := s.time, pa := pa / 32 * 32, stack := stackOf pa, kind := 1, ctx := 255 } } :=
  (exec_ecc_hbm pa false).trans (if_neg (Nat.not_le.2 h))

/-- An error of an address that does not exist (01_device.md:R17). -/
theorem ecc_noSuchAddress {pa : Nat} (ok : Bool) (h : 2 ^ 39 ≤ pa) : exec (.eccErrorDetected pa ok 1) s = .fault .noSuchAddress :=
  (exec_ecc_hbm pa ok).trans (if_pos h)

/-- A correctable error elsewhere leaves nothing. -/
theorem goes_ecc_elsewhere (pa : Nat) {k : Nat} (h : k ≠ 1) : Goes (.eccErrorDetected pa true k) s s :=
  (if_neg h).trans (if_pos (.inl rfl))

/-! ### Power -/

/-- The loans of the pool that 01_device.md:R23 allows. -/
def LoansFit (p : Power) (cap : Nat) : Prop :=
  p.loans.length = 4 ∧ p.loans.foldl (· + ·) 0 ≤ poolOf cap ∧ (∀ n ∈ p.loans, n % 25 = 0) ∧
    ∀ d, d < 4 → nth p.loans d 0 ≠ 0 → nth powerBudgets d 0 ≤ nth p.draws d 0

theorem loansOk_iff {p : Power} (cap : Nat) (hd : p.draws.length = 4) : loansOk p cap = true ↔ LoansFit p cap := by
  by_cases hl : p.loans.length = 4
  · obtain ⟨draws, loans⟩ := p
    obtain ⟨a0, a1, a2, a3, rfl⟩ := List.length_eq_four.1 hd
    obtain ⟨b0, b1, b2, b3, rfl⟩ := List.length_eq_four.1 hl
    have below : ∀ q : Nat → Prop, (∀ d, d < 4 → q d) ↔ q 0 ∧ q 1 ∧ q 2 ∧ q 3 := fun q =>
      ⟨fun h => ⟨h 0 (by decide), h 1 (by decide), h 2 (by decide), h 3 (by decide)⟩, fun ⟨h0, h1, h2, h3⟩ d hd => by
        interval_cases d <;> assumption⟩
    simp only [LoansFit, loansOk, below, nth, powerBudgets, List.forall_mem_cons]
    simp [or_iff_not_imp_left, and_assoc]
  · simp [LoansFit, loansOk, hl]

/-- The clock `new` of a die that may follow on `old` (01_device.md:R24; 22_attach.md:R384). -/
def ClockFollows (p : Power) (cap d old new : Nat) : Prop :=
  let most := nth powerBudgets d 0 + nth p.loans d 0
  let draw := nth p.draws d 0
  let above := cap < p.draws.foldl (· + ·) 0 + 20
  600 ≤ new ∧ new ≤ 1500 ∧ new % 100 = 0 ∧ (most < draw → new < old ∨ (new = 600 ∧ old ≤ 600)) ∧
    (draw ≤ most → above → new ≤ old) ∧ (draw ≤ most → ¬ above → old ≤ new)

theorem clockOk_iff (p : Power) (cap d old new : Nat) : clockOk p cap d old new = true ↔ ClockFollows p cap d old new := by
  unfold clockOk ClockFollows overCap
  by_cases hot : nth powerBudgets d 0 + nth p.loans d 0 < nth p.draws d 0
  · have cool : ¬ nth p.draws d 0 ≤ nth powerBudgets d 0 + nth p.loans d 0 := Nat.not_le.2 hot
    simp [hot, cool, and_assoc]
  · have cool := Nat.not_lt.1 hot
    by_cases above : cap < p.draws.foldl (· + ·) 0 + 20 <;> simp [cool, above, and_assoc]

/-- What the power controller may do (01_device.md:R23, R24; 22_attach.md:R384). -/
theorem powerOk_iff (p : Power) (clk0 clk1 : Nat) (a : Attach) : powerOk p clk0 clk1 a = true ↔
    p.draws.length = 4 ∧ LoansFit p a.cap ∧ (∀ d, d < 2 → ClockFollows p a.cap d (nth a.clk d 0) (nth [clk0, clk1] d 0)) ∧
      (a.cap < p.draws.foldl (· + ·) 0 + 20 →
        clk0 < nth a.clk 0 0 ∨ clk1 < nth a.clk 1 0 ∨ (nth a.clk 0 0 ≤ 600 ∧ nth a.clk 1 0 ≤ 600)) := by
  have dies : (∀ d, d < 2 → ClockFollows p a.cap d (nth a.clk d 0) (nth [clk0, clk1] d 0)) ↔
      ClockFollows p a.cap 0 (nth a.clk 0 0) clk0 ∧ ClockFollows p a.cap 1 (nth a.clk 1 0) clk1 :=
    ⟨fun h => ⟨h 0 (by decide), h 1 (by decide)⟩, fun ⟨h0, h1⟩ d hd => by interval_cases d <;> assumption⟩
  rw [dies, ← clockOk_iff, ← clockOk_iff]
  by_cases hd : p.draws.length = 4
  · rw [← loansOk_iff a.cap hd]
    simp [powerOk, overCap, hd, and_assoc, or_iff_not_imp_left]
  · simp [powerOk, hd]

/-! ### Time -/

theorem Attach.linkUp_iff (a : Attach) : a.linkUp = true ↔ ∃ p ∈ a.ports, p = .up ∨ p = .up4 ∨ p = .up2 := by
  have up : ∀ p : PortState, p.isUp = true ↔ p = .up ∨ p = .up4 ∨ p = .up2 := by
    intro p
    cases p <;> simp [PortState.isUp]
  simp [Attach.linkUp, up]

/-- When an exchange of timestamps may move `TIME` by `k` counts (01_device.md:R20; 22_attach.md:R383). -/
theorem State.mayMove_iff (k : Nat) : ¬ (!s.mayExchange ∨ 1 < k ∨ (k = 1 ∧ !s.maySlew)) ↔
    s.att.dst ≠ .reset ∧ s.att.dst ≠ .scrub ∧ (∃ p ∈ s.att.ports, p = .up ∨ p = .up4 ∨ p = .up2) ∧
      s.att.exch.toNat + 1000 ≤ s.time.toNat ∧ k ≤ 1 ∧
      (k = 1 → s.quad.lone = false ∧ s.att.slewed.toNat + 10000 ≤ s.time.toNat) := by
  rw [← Attach.linkUp_iff]
  simp [State.mayExchange, State.maySlew, State.sealed, and_assoc]

/-! ### Ports and events -/

/-- A context that a port's change finds, and what it is told. -/
theorem State.postAll_notified (typ code : Nat) (adr aux : DWord) (lsq tkt wrp mdl : Nat) {l : List Nat} (hl : l.Nodup) {c : Nat}
    (hc : c ∈ l) (s : State) :
    (s.ctxEnt c).Notified ((l.foldl (fun v c => v.postEvent c typ code adr aux lsq tkt wrp mdl) s).ctxEnt c) :=
  foldl_reads_once (read := State.ctxEnt) (R := CtxEnt.Notified)
    (fun v k _ hck => State.postEvent_ctxEnt_other (s := v) k typ code adr aux lsq tkt wrp mdl hck)
    (fun v c => State.postEvent_notified (s := v) c typ code adr aux lsq tkt wrp mdl) hl hc s

theorem CtxEnt.Notified.counts {x y : CtxEnt} (h : x.Notified y) : (x.desc.getLsbD 64 = false → y = x) ∧
    (x.desc.getLsbD 64 = true → (y.written = x.written + 1 ∧ y.lost = 0) ∨ (y.written = x.written ∧ y.lost = x.lost + 1)) := by
  obtain ⟨h0, rfl⟩ | ⟨h1, rfl | rfl⟩ := h
  · exact ⟨fun _ => rfl, fun h1 => absurd (h0.symm.trans h1) (by decide)⟩
  · exact ⟨fun h0 => absurd (h0.symm.trans h1) (by decide), fun _ => .inl ⟨rfl, rfl⟩⟩
  · exact ⟨fun h0 => absurd (h0.symm.trans h1) (by decide), fun _ => .inr ⟨rfl, rfl⟩⟩

/-- Posting keeps the module's number, so the one with which a series of events is posted may be read before it. -/
theorem State.postAll_modn (typ code : Nat) (adr aux : DWord) (lsq tkt wrp : Nat) (l : List Nat) (t : State) :
    l.foldl (fun v c => v.postEvent c typ code adr aux lsq tkt wrp v.modn) t =
      l.foldl (fun v c => v.postEvent c typ code adr aux lsq tkt wrp t.modn) t := by
  induction l generalizing t with
  | nil => rw [List.foldl_nil, List.foldl_nil]
  | cons c r ih => rw [List.foldl_cons, List.foldl_cons, ih, State.postEvent_modn]

/-- A port that has changed its state, and the events that report it (22_attach.md:R383). -/
theorem goes_portStateChange {port state : Nat} {p old : PortState} (hp : PortState.ofCode state = some p)
    (ho : s.att.ports[port]? = some old) (hne : p ≠ old) :
    Goes (.portStateChange port state) s
      ((List.range 64).foldl (fun v c => v.postEvent c 5 port 0 (Config.portErrorClass s.fresh) 0 0 0 s.modn)
        { s with fresh := s.fresh + 1, att := { s.att with
          ports := updAt s.att.ports port (fun _ => p), portErrors := updAt s.att.portErrors port (· + 1) } }) := by
  show execPortStateChange port state s = _
  unfold execPortStateChange
  rw [hp, ho]
  refine (if_neg hne).trans (congrArg _ ?_)
  exact State.postAll_modn ..

theorem goes_portStateChange_same {port state : Nat} {p : PortState} (hp : PortState.ofCode state = some p)
    (ho : s.att.ports[port]? = some p) : Goes (.portStateChange port state) s s := by
  show execPortStateChange port state s = _
  unfold execPortStateChange
  rw [hp, ho]
  exact if_pos rfl

/-! ### Gating -/

/-- A core is idle when no block that is not saved holds it. -/
theorem State.idle_iff (core : Nat) : ¬ (s.blocks.any (fun b => (b.coreAt core).isSome && b.res != .saved) = true) ↔
    ∀ b ∈ s.blocks, b.res ≠ .saved → b.coreAt core = none := by
  simp only [List.any_eq_true, not_exists, not_and, Bool.and_eq_true, bne_iff_ne, Option.isSome_iff_ne_none]
  exact forall₂_congr fun b _ => by tauto

/-- Settles O19, event by event: each lemma above says what one event does. -/
theorem deviceEvents : Obligations.DeviceEvents := by
  unfold Obligations.DeviceEvents
  refine ⟨fun s pa => ?ecc, fun s p clk0 clk1 => ?power, fun s k => ?time, fun s port state p old hp ho => ?port,
    fun s c typ code lsq tkt wrp mdl adr aux hc => ?post, fun s core n hcore hn => ?gate⟩
  case ecc =>
    intro st e log
    simp only [st, e, ← stackOf_eq]
    refine ⟨goes_ecc_corrected, fun h => ⟨_, goes_ecc_uncorrected h, ?_, ?_, fun sys a => ?_, rfl⟩, fun ok => ecc_noSuchAddress ok,
      ⟨_, rfl, Memory.poisoned_markHost .., rfl⟩, rfl, fun k => goes_ecc_elsewhere pa⟩
    · rw [Memory.poisoned_markDev, if_pos ⟨rfl, rfl⟩]
    · rintro sys a (rfl | ha)
      · rfl
      · rw [Memory.poisoned_markDev, if_neg (fun h => ha h.2)]
    · cases sys <;> rfl
  case power =>
    exact ⟨fun h => if_pos ((powerOk_iff p clk0 clk1 s.att).2 h), fun h => if_neg (mt (powerOk_iff p clk0 clk1 s.att).1 h)⟩
  case time =>
    exact ⟨fun h => if_neg ((State.mayMove_iff k).2 h), fun h => if_pos (not_not.1 (mt (State.mayMove_iff k).1 h))⟩
  case port =>
    intro t
    refine ⟨fun h => goes_portStateChange_same hp (h ▸ ho), fun h => ⟨_, goes_portStateChange hp ho h, rfl, ?_, ?_, fun c hc _ => ?_⟩⟩
    · exact foldl_keeps (fun v => v.att.ports) (fun v c => State.postEvent_ports (s := v) ..) _ _
    · exact foldl_keeps (fun v => v.att.portErrors) (fun v c => State.postEvent_portErrors (s := v) ..) _ _
    · exact (State.postAll_notified _ _ _ _ _ _ _ _ List.nodup_range (List.mem_range.2 hc) t).counts
  case post =>
    intro x at_ full u
    have own : ∀ f, nth (s.updCtx c f).ctxs c CtxEnt.absent = f x := fun f => State.updCtx_ctxEnt f hc
    refine ⟨fun h => State.postEvent_absent (h := h) .., fun y h room hy hr => ?_, fun h hd => ?_⟩
    · have hu : u = _ := State.postEvent_written c typ code adr aux lsq tkt wrp mdl h room hy hr
      rw [hu, State.homeStore_ctxs]
      refine ⟨?_, own _⟩
      have hb := State.bytes_homeStore (s := s.updCtx c CtxEnt.wrote) none y.sys y.pa
        (leBytes 64 (eventEntry s.time adr aux lsq tkt wrp mdl x.lost x.written code typ)) false
      rwa [length_leBytes] at hb
    · obtain ⟨t, ⟨_, _, rfl⟩, hu⟩ := State.postEvent_dropped c typ code adr aux lsq tkt wrp mdl h hd
      have hu : u = _ := hu
      rw [hu]
      exact ⟨own _, rfl⟩
  case gate =>
    have known : ¬ (144 ≤ core ∨ 4 < n) := by omega
    exact ⟨fun h => (if_neg known).trans (if_neg ((State.idle_iff core).2 h)),
      fun h => (if_neg known).trans (if_pos (not_not.1 (mt (State.idle_iff core).1 h))), if_neg known⟩

end Sys2Proof.Machine
end

section
/-! ## O30. The state that power-on leaves -/

namespace Sys2Proof.Machine

/-- Settles O30: the lists of the reset state that hold anything hold copies of one entry, and every sparse store is empty. -/
theorem resetState : Obligations.ResetState := by
  unfold Obligations.ResetState
  intro s
  refine ⟨?_, List.Pairwise.nil, Memory.reset_wf, rfl, rfl, ?_, rfl, rfl, rfl, rfl, rfl, rfl, rfl, ?_, ?_, fun a => ⟨rfl, rfl⟩, ?_, rfl,
    rfl, rfl, rfl, rfl⟩
  · intro b hb
    cases hb
  · decide
  · intro k hk
    obtain rfl := List.eq_of_mem_replicate hk
    exact ⟨rfl, rfl⟩
  · intro c _
    have absent : s.ctxDesc c = 0 := congrArg CtxEnt.desc (nth_replicate 64 c CtxEnt.absent)
    rw [State.hasCtx, absent]
    exact BitVec.getLsbD_zero
  · decide

end Sys2Proof.Machine
end

section
/-! ## O22. What is read leaves, what is killed, and who belongs to a part -/

namespace Sys2Proof.Machine

variable {s : State}

/-! ### Reading a record -/

/-- A change of the security engine's notes and of the attachment's alone. -/
def State.NotesOnly (s t : State) : Prop := ∃ sec att, t = { s with sec := sec, att := att }

theorem State.NotesOnly.refl (s : State) : s.NotesOnly s := ⟨s.sec, s.att, rfl⟩

theorem State.NotesOnly.trans {s t u : State} (h : s.NotesOnly t) (k : t.NotesOnly u) : s.NotesOnly u := by
  obtain ⟨_, _, rfl⟩ := h
  obtain ⟨_, _, rfl⟩ := k
  exact ⟨_, _, rfl⟩

theorem State.LogOnly.notesOnly {s t : State} (h : s.LogOnly t) : s.NotesOnly t := by
  obtain ⟨_, rfl⟩ := h
  exact ⟨_, _, rfl⟩

theorem State.notesOnly_foldl {α : Type} {f : State → α → State} (hf : ∀ (s : State) (a : α), s.NotesOnly (f s a)) (l : List α)
    (s : State) : s.NotesOnly (l.foldl f s) :=
  List.foldlRecOn l f (motive := s.NotesOnly) (.refl s) (fun t ht a _ => ht.trans (hf t a))

theorem State.noteSys_notesOnly (s : State) (sys : Bool) (pa : Nat) : s.NotesOnly (s.noteSys sys pa) := by
  unfold State.noteSys
  split
  · exact ⟨_, _, rfl⟩
  · exact .refl s

/-- Reading a launch record leaves its notes alone (13_progress.md:R266; 22_attach.md:R381). -/
theorem State.noteRecord_notesOnly (s : State) (ctx : Nat) (lra : DWord) (code : Nat) : s.NotesOnly (s.noteRecord ctx lra code) := by
  have read : ∀ (t : State) (va len : Nat), t.NotesOnly (t.noteRead ctx va len) := fun t va len =>
    ((State.notesOnly_foldl (fun t x => State.noteSys_notesOnly t _ _) _ t).trans (State.consume_log ..).notesOnly).trans
      (State.consumeWalks_log ..).notesOnly
  exact State.notesOnly_foldl (fun t x => read t _ _) _ s

@[simp] theorem State.noteRecord_quad (ctx : Nat) (lra : DWord) (code : Nat) : (s.noteRecord ctx lra code).quad = s.quad := by
  obtain ⟨_, _, h⟩ := s.noteRecord_notesOnly ctx lra code; rw [h]
@[simp] theorem State.noteRecord_modn (ctx : Nat) (lra : DWord) (code : Nat) : (s.noteRecord ctx lra code).modn = s.modn := by
  obtain ⟨_, _, h⟩ := s.noteRecord_notesOnly ctx lra code; rw [h]
@[simp] theorem State.noteRecord_grids (ctx : Nat) (lra : DWord) (code : Nat) : (s.noteRecord ctx lra code).grids = s.grids := by
  obtain ⟨_, _, h⟩ := s.noteRecord_notesOnly ctx lra code; rw [h]
@[simp] theorem State.noteRecord_front (ctx : Nat) (lra : DWord) (code : Nat) : (s.noteRecord ctx lra code).front = s.front := by
  obtain ⟨_, _, h⟩ := s.noteRecord_notesOnly ctx lra code; rw [h]

/-! ### Killing grids -/

section
variable (lsq code : Nat)

@[simp] theorem State.killGrid_time : (s.killGrid lsq code).time = s.time := rfl
@[simp] theorem State.killGrid_modn : (s.killGrid lsq code).modn = s.modn := rfl
@[simp] theorem State.killGrid_sec : (s.killGrid lsq code).sec = s.sec := rfl
@[simp] theorem State.killGrid_quad : (s.killGrid lsq code).quad = s.quad := rfl

end

/-- Kill the blocks of some grids. -/
def State.killGrids (s : State) (ks : List Nat) (code : Nat) : State := ks.foldl (fun s k => s.killGrid k code) s

/-- The blocks after a kill: those of the grid that were not killed yet are. -/
theorem State.mem_killGrid_blocks {lsq code : Nat} {b : Block} : b ∈ (s.killGrid lsq code).blocks ↔
    (b ∈ s.blocks ∧ (b.lsq = lsq → b.res = .killed)) ∨ ∃ c ∈ s.blocks, c.lsq = lsq ∧ c.res ≠ .killed ∧ b = c.kill code := by
  show b ∈ List.map _ s.blocks ↔ _
  rw [List.mem_map]
  constructor
  · rintro ⟨c, hc, rfl⟩
    split
    next h =>
      simp only [Bool.and_eq_true, beq_iff_eq, bne_iff_ne] at h
      exact .inr ⟨c, hc, h.1, h.2, rfl⟩
    next h => exact .inl ⟨hc, by simpa using h⟩
  · rintro (⟨hb, h⟩ | ⟨c, hc, hl, hr, rfl⟩)
    · exact ⟨b, hb, if_neg (by simpa using h)⟩
    · exact ⟨c, hc, if_pos (by simp [hl, hr])⟩

/-- Every block of a killed grid is killed, and stays so whatever else is killed (18_recovery.md:R321). -/
theorem State.killGrids_killed (ks : List Nat) (code : Nat) {k : Nat} (hk : k ∈ ks) :
    ∀ b ∈ (s.killGrids ks code).blocks, b.lsq = k → b.res = .killed := by
  have kills : ∀ t : State, ∀ b ∈ (t.killGrid k code).blocks, b.lsq = k → b.res = .killed := by
    intro t b hb hl
    obtain ⟨-, h⟩ | ⟨c, -, -, -, rfl⟩ := State.mem_killGrid_blocks.1 hb
    · exact h hl
    · rfl
  have keeps : ∀ (t : State) (j : Nat), (∀ b ∈ t.blocks, b.lsq = k → b.res = .killed) →
      ∀ b ∈ (t.killGrid j code).blocks, b.lsq = k → b.res = .killed := by
    intro t j ht b hb hl
    obtain ⟨hb, -⟩ | ⟨c, -, -, -, rfl⟩ := State.mem_killGrid_blocks.1 hb
    · exact ht b hb hl
    · rfl
  obtain ⟨l, r, rfl⟩ := List.append_of_mem hk
  rw [State.killGrids, List.foldl_append, List.foldl_cons]
  exact List.foldlRecOn r _ (motive := fun t : State => ∀ b ∈ t.blocks, b.lsq = k → b.res = .killed) (kills _) (fun t ht _ _ => keeps t _ ht)

/-- A block of no killed grid stays as it is. -/
theorem State.killGrids_spares (ks : List Nat) (code : Nat) {b : Block} (hb : b ∈ s.blocks) (h : b.lsq ∉ ks) :
    b ∈ (s.killGrids ks code).blocks :=
  List.foldlRecOn ks _ (motive := fun t : State => b ∈ t.blocks) hb
    (fun _ ht _ hj => State.mem_killGrid_blocks.2 (.inl ⟨ht, fun e => absurd (e ▸ hj) h⟩))

/-! ### The family of a part -/

/-- One grid joins a family when it was launched inside one of it. -/
def familyStep (l : List Nat) (g : Grid) : List Nat := if l.contains g.lsq || !g.parent.any l.contains then l else l ++ [g.lsq]

theorem State.family_eq (s : State) (roots : List Nat) : s.family roots = s.grids.foldl familyStep roots := rfl

theorem mem_familyStep {l : List Nat} {g : Grid} {k : Nat} :
    k ∈ familyStep l g ↔ k ∈ l ∨ (k = g.lsq ∧ ∃ p ∈ l, g.parent = some p) := by
  unfold familyStep
  by_cases known : g.lsq ∈ l
  · have : k = g.lsq → k ∈ l := fun h => h ▸ known
    simp only [List.contains_eq_mem, known, decide_true, Bool.true_or, if_true]
    tauto
  · cases hp : g.parent with
    | none => simp
    | some p =>
      by_cases hpl : p ∈ l <;> simp [known, hpl]

theorem mem_family_of_root {gs : List Grid} {l : List Nat} {k : Nat} (h : k ∈ l) : k ∈ gs.foldl familyStep l :=
  List.foldlRecOn gs _ (motive := fun m => k ∈ m) h (fun _ hm _ _ => mem_familyStep.2 (.inl hm))

/-- Whoever is of a family is a root of it, or was launched inside one of it. -/
theorem mem_family_cases {gs : List Grid} {l : List Nat} {k : Nat} (h : k ∈ gs.foldl familyStep l) :
    k ∈ l ∨ ∃ g ∈ gs, g.lsq = k ∧ ∃ p ∈ gs.foldl familyStep l, g.parent = some p := by
  induction gs generalizing l with
  | nil => exact .inl h
  | cons a r ih =>
    obtain h | ⟨g, hg, hk, hp⟩ := ih h
    · obtain h | ⟨rfl, p, hp, ha⟩ := mem_familyStep.1 h
      · exact .inl h
      · exact .inr ⟨a, List.mem_cons_self, rfl, p, mem_family_of_root (gs := r) (mem_familyStep.2 (.inl hp)), ha⟩
    · exact .inr ⟨g, List.mem_cons_of_mem _ hg, hk, hp⟩

/-- Where a grid comes behind the one it was launched in, what was launched inside one of a family is of it. -/
theorem mem_family_of_parent {gs : List Grid} {l : List Nat} (order : gs.Pairwise (fun g h => g.parent ≠ some h.lsq)) {g : Grid} (hg : g ∈ gs)
    {p : Nat} (hp : p ∈ gs.foldl familyStep l) (hgp : g.parent = some p) : g.lsq ∈ gs.foldl familyStep l := by
  induction gs generalizing l with
  | nil => cases hg
  | cons a r ih =>
    obtain ⟨ha, hr⟩ := List.pairwise_cons.1 order
    obtain rfl | hg := List.mem_cons.1 hg
    · obtain h | ⟨h, hh, rfl, -⟩ := mem_family_cases (show p ∈ r.foldl familyStep (familyStep l g) from hp)
      · refine mem_family_of_root (gs := r) ?_
        obtain h | ⟨rfl, -⟩ := mem_familyStep.1 h
        · exact mem_familyStep.2 (.inr ⟨rfl, p, h, hgp⟩)
        · exact h
      · exact absurd hgp (ha h hh)
    · exact ih hr hg hp

theorem State.mem_partsOf {gix : Nat} {g : Grid} : g ∈ s.partsOf gix ↔ g ∈ s.grids ∧ g.qix = some gix ∧ g.closing = false := by
  simp [State.partsOf]

/-- A part is of its family. -/
theorem State.mem_partFamily_of_part {gix : Nat} {g : Grid} (h : g ∈ s.partsOf gix) : g.lsq ∈ s.partFamily gix :=
  mem_family_of_root (List.mem_map_of_mem h)

/-- Whoever is of a part's family is a part, or a grid launched inside one of the family. -/
theorem State.mem_partFamily_cases {gix k : Nat} (h : k ∈ s.partFamily gix) :
    ∃ g ∈ s.grids, g.lsq = k ∧ (g ∈ s.partsOf gix ∨ ∃ l ∈ s.partFamily gix, g.parent = some l) := by
  obtain h | ⟨g, hg, hk, hp⟩ := mem_family_cases h
  · obtain ⟨g, hg, hk⟩ := List.mem_map.1 h
    exact ⟨g, (State.mem_partsOf.1 hg).1, hk, .inl hg⟩
  · exact ⟨g, hg, hk, .inr hp⟩

end Sys2Proof.Machine
end

section
/-! ## O22. Rows -/

namespace Sys2Proof.Machine

variable {s : State}

/-! ### Which row change is enacted, and how -/

theorem Goes.of_eq {i : Instr} {u v : State} (h : Goes i s u) (e : u = v) : Goes i s v := e ▸ h

/-- What the enactment of a row change does by its kind, once it may be enacted (19_quadrille.md:R345). -/
def State.enact (s : State) (c : RowChange) (k : RowKind) : State :=
  match k with
  | .start => s.startPart c
  | .restore => s.placeParts c.gix c.entry.x0 c.entry.y0
  | .preempt => s.preemptParts c.gix
  | .kill | .discard => s.killParts c.gix false
  | .lost => s.killParts c.gix true
  | .finished => s

/-- The state whose row change that came next has been taken. -/
def State.taken (s : State) (rest : List RowChange) : State := { s with quad := { s.quad with pendRows := rest } }

theorem execRowEnact_cons {row : Nat} {c : RowChange} {rest : List RowChange} (h : s.quad.pendRows = c :: rest) :
    exec (.rowEnact row) s = .next (if c.row ≠ row ∨ !s.mayEnact c.kind then s
      else if s.quad.halted then s.taken rest else (s.taken rest).enact c c.kind) := by
  show execRowEnact row s = _
  unfold execRowEnact State.enact
  rw [h]
  by_cases wait : c.row ≠ row ∨ !s.mayEnact c.kind
  · exact (if_pos wait).trans (congrArg _ (if_pos wait).symm)
  · refine (if_neg wait).trans ?_
    rw [if_neg wait]
    by_cases hh : s.quad.halted = true
    · exact (if_pos hh).trans (congrArg _ (if_pos hh).symm)
    · refine (if_neg hh).trans ?_
      rw [if_neg hh]
      cases c.kind <;> rfl

section
variable {c : RowChange} {rest : List RowChange} (h : s.quad.pendRows = c :: rest)
include h

theorem goes_rowEnact_waits {row : Nat} (hw : c.row ≠ row ∨ s.mayEnact c.kind = false) : Goes (.rowEnact row) s s :=
  (execRowEnact_cons h).trans (congrArg _ (if_pos (by simpa using hw)))

theorem goes_rowEnact_halted (may : s.mayEnact c.kind = true) (hh : s.quad.halted = true) : Goes (.rowEnact c.row) s (s.taken rest) :=
  (execRowEnact_cons h).trans (congrArg _ ((if_neg (by simp [may])).trans (if_pos hh)))

theorem goes_rowEnact {k : RowKind} (may : s.mayEnact k = true) (hh : s.quad.halted = false) (hk : c.kind = k) :
    Goes (.rowEnact c.row) s ((s.taken rest).enact c k) := by
  subst hk
  exact (execRowEnact_cons h).trans (congrArg _ ((if_neg (by simp [may])).trans (if_neg (by simp [hh]))))

end

/-- During pod formation only what ends blocks may be enacted (22_attach.md:R386). -/
theorem State.mayEnact_iff (k : RowKind) : s.mayEnact k = true ↔ s.att.form = none ∨ k = .kill ∨ k = .discard ∨ k = .lost := by
  simp [State.mayEnact, or_assoc]

/-! ### A part that starts -/

/-- A part that fails with a code: the event of its context, and FINISH where the module may raise it (19_quadrille.md:R345). -/
def State.failPart (s : State) (c : RowChange) (code : Nat) : State :=
  let p := (s.noteRecord c.grid.ctx c.grid.lra code).postEvent c.grid.ctx 2 code c.grid.lra 0 0 0 0 s.modn
  if s.mayRaise then
    p.raise { stt := 0, typ := 2, grx := c.gix, ctx := c.grid.ctx, flg := true, val := BitVec.ofNat 64 (0x80 + code) }
  else p

/-- The record of a part as it is judged at its row. -/
def judgedRecord (c : RowChange) (d : List Byte) : LaunchRec :=
  { LaunchRec.ofBytes d with par := c.grid.par, grdw := c.grid.sgw, grdh := c.grid.sgh }

/-- The part of a record that has passed, at its row and with what its grid entry gives (19_quadrille.md:R345; log 20). -/
def State.partGrid (s : State) (c : RowChange) (r : LaunchRec) : Grid :=
  let r := { r with gngc := c.grid.gc, gngw := c.grid.gw, gngh := c.grid.gh, pri := c.grid.pri }
  { Grid.start 0 (s.ftvOf c.grid.ctx r) r ((s.readTables c.grid.ctx r.fmt).getD []) with
    qix := some c.gix, dps := c.grid.dps, detLog := s.awayLog c.gix c.grid.dps
    gngi := (c.grid.gng.takeWhile (· != s.modn)).length, rx := c.entry.x0, ry := c.entry.y0 }

section
variable (c : RowChange)

/-- Neither the reading of the record nor the event changes whether the module may raise FINISH. -/
theorem State.failPart_eq (code : Nat) : s.failPart c code =
    let p := (s.noteRecord c.grid.ctx c.grid.lra code).postEvent c.grid.ctx 2 code c.grid.lra 0 0 0 0 s.modn
    if p.mayRaise then
      p.raise { stt := 0, typ := 2, grx := c.gix, ctx := c.grid.ctx, flg := true, val := BitVec.ofNat 64 (0x80 + code) }
    else p := by
  simp [State.failPart, State.mayRaise, State.isMember]

theorem State.startPart_absent (h : (s.ctxDesc c.grid.ctx).getLsbD 64 = false) : s.startPart c = s.failPart c 6 := by
  rw [State.failPart_eq]
  exact if_pos (by rw [h]; rfl)

variable {c} (h : (s.ctxDesc c.grid.ctx).getLsbD 64 = true)
include h

theorem State.startPart_unread (hd : s.readHome c.grid.ctx c.grid.lra.toNat 256 = none) : s.startPart c = s.failPart c 12 := by
  rw [State.failPart_eq]
  refine (if_neg (by rw [h]; decide)).trans ?_
  rw [hd]

theorem State.startPart_refused {d : List Byte} (hd : s.readHome c.grid.ctx c.grid.lra.toNat 256 = some d)
    (hc : firstCode (s.checkRec c.grid.ctx .row (judgedRecord c d)) ≠ 0) :
    s.startPart c = s.failPart c (firstCode (s.checkRec c.grid.ctx .row (judgedRecord c d))) := by
  rw [State.failPart_eq]
  refine (if_neg (by rw [h]; decide)).trans ?_
  rw [hd]
  exact if_pos hc

/-- A part that passes is put on the module (13_progress.md:R268). -/
theorem State.startPart_placed {d : List Byte} (hd : s.readHome c.grid.ctx c.grid.lra.toNat 256 = some d)
    (hc : firstCode (s.checkRec c.grid.ctx .row (judgedRecord c d)) = 0) :
    s.startPart c = ((s.noteRecord c.grid.ctx c.grid.lra 0).dropAway c.gix c.grid.dps).addGrid (s.partGrid c (judgedRecord c d)) := by
  refine (if_neg (by rw [h]; decide)).trans ?_
  rw [hd]
  exact if_neg (not_not.2 hc)

theorem State.startPart_grids {d : List Byte} (hd : s.readHome c.grid.ctx c.grid.lra.toNat 256 = some d)
    (hc : firstCode (s.checkRec c.grid.ctx .row (judgedRecord c d)) = 0) :
    (s.startPart c).grids = s.grids ++ [{ s.partGrid c (judgedRecord c d) with lsq := s.front.nextLsq }] := by
  rw [State.startPart_placed h hd hc]
  show (s.noteRecord c.grid.ctx c.grid.lra 0).grids ++
    [{ s.partGrid c (judgedRecord c d) with lsq := (s.noteRecord c.grid.ctx c.grid.lra 0).front.nextLsq }] = _
  rw [State.noteRecord_grids, State.noteRecord_front]

end

/-! ### Parts placed again, pre-empted and killed -/

/-- The grids of a part's family are placed along with its first part (13_progress.md:R275). -/
theorem State.placeParts_grids {gix x y : Nat} {p : Grid} {l : List Grid} (h : s.partsOf gix = p :: l) :
    (s.placeParts gix x y).blocks = s.blocks ∧ (s.placeParts gix x y).grids = s.grids.map (fun g =>
      if g.lsq ∈ s.partFamily gix then
        { g with held := false, rx := x + (g.rx - p.rx), ry := y + (g.ry - p.ry), phase := [], seen := [] }
      else g) := by
  unfold State.placeParts
  rw [h]
  exact ⟨rfl, by simp [updIf]⟩

theorem State.placeParts_none {gix : Nat} (x y : Nat) (h : s.partsOf gix = []) : s.placeParts gix x y = s := by
  unfold State.placeParts
  rw [h]

/-- Pre-empting parts stops the resident blocks of their family (18_recovery.md:R327). -/
theorem State.preemptParts_blocks (gix : Nat) {b : Block} (hb : b ∈ s.blocks) :
    (b.lsq ∈ s.partFamily gix → b.res = .resident → ({ b with saving := true } : Block) ∈ (s.preemptParts gix).blocks) ∧
      (¬ (b.lsq ∈ s.partFamily gix ∧ b.res = .resident) → b ∈ (s.preemptParts gix).blocks) :=
  ⟨fun hf hr => mem_updIf.2 ⟨b, hb, if_pos (by simp [hf, hr])⟩, fun h => mem_updIf.2 ⟨b, hb, if_neg (by simpa using h)⟩⟩

theorem State.preemptParts_held (gix : Nat) {g : Grid} (hg : g ∈ (s.preemptParts gix).grids) (hf : g.lsq ∈ s.partFamily gix) :
    g.held = true := by
  obtain ⟨x, -, rfl⟩ := mem_updIf.1 hg
  split
  · rfl
  next h =>
    rw [if_neg h] at hf
    exact absurd hf (by simpa using h)

theorem State.killParts_blocks (gix : Nat) (silent : Bool) :
    (s.killParts gix silent).blocks = (s.killGrids (s.partFamily gix) 12).blocks := rfl

/-- The parts of a grid that are killed are closing. -/
theorem State.killParts_closing (gix : Nat) (silent : Bool) {g : Grid} (hg : g ∈ (s.killParts gix silent).grids)
    (hq : g.qix = some gix) : g.closing = true := by
  obtain ⟨x, -, rfl⟩ := mem_updIf.1 hg
  split
  · rfl
  next h =>
    rw [if_neg h] at hq
    simpa [hq] using h

/-- What the kill of a row's parts leaves, whatever removes the row (19_quadrille.md:R343, R345). -/
theorem State.killParts_effect (gix : Nat) (silent : Bool) :
    (∀ b ∈ (s.killParts gix silent).blocks, b.lsq ∈ s.partFamily gix → b.res = .killed) ∧
    (∀ b ∈ s.blocks, b.lsq ∉ s.partFamily gix → b ∈ (s.killParts gix silent).blocks) ∧
    ∀ g ∈ (s.killParts gix silent).grids, g.qix = some gix → g.closing = true := by
  rw [State.killParts_blocks]
  exact ⟨fun b hb hf => State.killGrids_killed _ _ hf b hb rfl, fun b hb hf => State.killGrids_spares _ _ hb hf,
    fun g hg => State.killParts_closing gix silent hg⟩

end Sys2Proof.Machine
end

section
/-! ## O22. Joining -/

namespace Sys2Proof.Machine

variable {s : State}

theorem State.not_sealed (h : s.att.dst ≠ .scrub) : ¬ s.sealed = true := by simpa [State.sealed] using h

/-! ### The joiner's first step -/

@[simp] theorem State.killAll_time : s.killAll.time = s.time :=
  foldl_keeps State.time (fun (t : State) (g : Grid) => State.killGrid_time (s := t) g.lsq 12) s.grids s
@[simp] theorem State.killAll_modn : s.killAll.modn = s.modn :=
  foldl_keeps State.modn (fun (t : State) (g : Grid) => State.killGrid_modn (s := t) g.lsq 12) s.grids s
@[simp] theorem State.killAll_sec : s.killAll.sec = s.sec :=
  foldl_keeps State.sec (fun (t : State) (g : Grid) => State.killGrid_sec (s := t) g.lsq 12) s.grids s
@[simp] theorem State.killAll_quad : s.killAll.quad = s.quad :=
  foldl_keeps State.quad (fun (t : State) (g : Grid) => State.killGrid_quad (s := t) g.lsq 12) s.grids s

/-- Every grid on the module is killed, raises no FINISH and stores no completion (19_quadrille.md:R352, step 1). -/
theorem State.killAll_grids {g : Grid} (h : g ∈ s.killAll.grids) : g.silent = true ∧ g.cwa = none := by
  obtain ⟨_, -, rfl⟩ := List.mem_map.1 h
  exact ⟨rfl, rfl⟩

theorem State.killAll_killed {b : Block} (hb : b ∈ s.killAll.blocks) (h : ∃ g ∈ s.grids, g.lsq = b.lsq) : b.res = .killed := by
  have all : s.killAll.blocks = (s.killGrids (s.grids.map Grid.lsq) 12).blocks := by
    rw [State.killGrids, List.foldl_map]
    rfl
  exact State.killGrids_killed _ _ (List.mem_map.2 h) b (all ▸ hb) rfl

/-- The members of a dropped replica: none. -/
theorem formed_none : (Replica.formed 0).members = List.replicate 64 .absent := by decide

theorem State.dropReplica_rep : s.dropReplica.quad.rep = { s.quad.rep with members := List.replicate 64 .absent, suspects := [] } := by
  rw [← formed_none]
  rfl

/-- The joiner's first step: `TIME` steps unless it has stepped for this join, the session keeps its time, and the replica is empty
(19_quadrille.md:R352, R353). -/
theorem goes_join_begin (t : DWord) (num : Nat) (hs : s.att.dst ≠ .scrub) (may : s.mayJoin = true) :
    ∃ u, Goes (.joinProcedure (.begin_ t num)) s u ∧ u.time = (if s.quad.stepped then s.time else t) ∧
      u.modn = (if s.quad.lone then num else s.modn) ∧
      u.sec.lastBeat = s.sec.lastBeat + (u.time - s.time) ∧ u.blocks = s.killAll.blocks ∧ u.grids = s.killAll.grids ∧
      u.quad = { s.dropReplica.quad with
        halted := false, lone := false, stepped := true, stranded := false, lastBeat := none
        known := if s.quad.lone then [] else s.quad.known
        lastRecv := List.replicate 64 (if s.quad.stepped then s.time else t) } := by
  refine ⟨_, (if_neg (State.not_sealed hs)).trans (if_neg (by simp [may])), ?_, ?_, ?_, rfl, rfl, ?_⟩
  all_goals simp [State.setQuad, State.setAtt, State.dropReplica]

/-! ### The snapshot -/

/-- A submission that is known by its position is kept just where the snapshot holds its grid and the grid has not ended
(19_quadrille.md:R343, R352). -/
theorem State.mem_keepSubs (r : Replica) {x : Submission} {n : Nat} (hx : x ∈ s.quad.subs) (hn : x.dps = some n) :
    x ∈ s.keepSubs r ↔ ∃ g ∈ r.grids, g.2.dps = n ∧ g.2.orm = s.modn ∧ g.2.gst ≠ .done ∧ g.2.gst ≠ .faulted := by
  unfold State.keepSubs
  extract_lets open_ taken latest
  have lasts : (∃ g ∈ open_, g.dps = n) ↔
      ∃ g ∈ r.grids, g.2.dps = n ∧ g.2.orm = s.modn ∧ g.2.gst ≠ .done ∧ g.2.gst ≠ .faulted := by
    simp only [open_, List.mem_filter, List.mem_map, Bool.and_eq_true, Bool.not_eq_true', Bool.or_eq_false_iff, beq_iff_eq,
      beq_eq_false_iff_ne]
    exact ⟨fun ⟨_, ⟨⟨g, hg, rfl⟩, ho, hd, hf⟩, hn⟩ => ⟨g, hg, hn, ho, hd, hf⟩,
      fun ⟨g, hg, hn, ho, hd, hf⟩ => ⟨g.2, ⟨⟨g, hg, rfl⟩, ho, hd, hf⟩, hn⟩⟩
  rw [← lasts, List.mem_filterMap]
  constructor
  · rintro ⟨y, -, hy⟩
    split at hy
    next m hm =>
      split at hy
      next found =>
        cases hy
        obtain rfl := Option.some.inj (hm.symm.trans hn)
        simpa using found
      next => cases hy
    next =>
      split at hy
      next => cases hy
      next late =>
        cases hy
        obtain rfl := Option.some.inj hn
        obtain h | h := foldl_max_cases ((open_.filter (fun g => g.osq == y.osq && !taken g)).map GridEntry.dps) 0
        · exact absurd h late
        · obtain ⟨g, hg, hl⟩ := List.mem_map.1 h
          exact ⟨g, (List.mem_filter.1 hg).1, hl⟩
  · rintro ⟨g, hg, hgn⟩
    refine ⟨x, hx, ?_⟩
    rw [hn]
    exact if_pos (List.any_eq_true.2 ⟨g, hg, by simpa using hgn⟩)

/-! ### The sponsor -/

/-- For whom a sponsor may raise JOIN phase 0 (19_quadrille.md:R342, R352). -/
theorem State.mayAdmit_iff (m : Nat) : s.mayAdmit m = true ↔
    (nth s.quad.rep.members m .absent = .absent ∧ (m ∈ s.att.releases ∨ m ∈ s.quad.known)) ∨
      (nth s.quad.rep.members m .absent = .fenced ∧ m ∈ s.att.releases) ∨ nth s.quad.rep.members m .absent = .joining := by
  simp [State.mayAdmit, or_assoc]

section
variable (hs : s.att.dst ≠ .scrub)
include hs

/-- JOIN phase 0 is raised for a module that may be admitted and whose skew is small (19_quadrille.md:R352, R353). -/
theorem exec_join_sponsor0 (m skew : Nat) (hr : s.mayRaise = true) : exec (.joinProcedure (.sponsor0 m skew)) s =
    .next (if s.mayAdmit m = true ∧ skew ≤ 10 then
      s.raise { stt := 0, typ := 7, sbj := m, val := if m ∈ s.att.releases then 1 else 0 } else s) := by
  refine (if_neg (State.not_sealed hs)).trans ?_
  simp only [hr]
  by_cases h : s.mayAdmit m = true ∧ skew ≤ 10
  · simp [h]
  · simp [h]

/-- JOIN phase 1 is raised for a JOINING module whose digest is the majority's (19_quadrille.md:R352, step 4). -/
theorem goes_join_sponsor1 (m n : Nat) (hr : s.mayRaise = true) :
    let same := nth s.quad.rep.members m .absent = .joining ∧
      ∃ d, s.quad.reportOf m n = some d ∧ (s.quad.majors.find? (fun x => x.1 == n)).map Prod.snd = some d
    (same → Goes (.joinProcedure (.sponsor1 m n)) s (s.raise { stt := 0, typ := 7, sbj := m, flg := true, val := BitVec.ofNat 64 n })) ∧
      (¬ same → Goes (.joinProcedure (.sponsor1 m n)) s s) := by
  intro same
  have both : ∀ d e : Option (BitVec 256), (d.isSome && d == e) = true ↔ ∃ x, d = some x ∧ e = some x := by
    intro d e
    cases d with
    | none => simp
    | some x => exact ⟨fun h => ⟨x, rfl, (by simpa using h : some x = e).symm⟩, by rintro ⟨_, h, rfl⟩; simp [h]⟩
  have agree : (s.mayRaise && nth s.quad.rep.members m .absent == .joining && (s.quad.reportOf m n).isSome &&
      s.quad.reportOf m n == (s.quad.majors.find? (fun x => x.1 == n)).map Prod.snd) = true ↔ same := by
    rw [Bool.and_assoc, Bool.and_eq_true, both, hr, Bool.true_and, beq_iff_eq]
  exact ⟨fun h => (if_neg (State.not_sealed hs)).trans (if_pos (agree.2 h)),
    fun h => (if_neg (State.not_sealed hs)).trans (if_neg (mt agree.1 h))⟩

end

/-- Settles O22. A row change acts by its kind (`State.enact`), on the family of the parts that it names; the steps of a join act as the
lemmas above say, one for each. -/
theorem rowsAndJoins : Obligations.RowsAndJoins := by
  unfold Obligations.RowsAndJoins
  refine ⟨fun s c rest h => ?rows, fun s t num hs => ?begin_, fun s r osqs ever n hs => ?snapshot, fun s hs => ?lost,
    fun s m n skew hs hr => ?sponsor⟩
  case rows =>
    intro t part mine may fails exists_
    have ends : ∀ k, k = .kill ∨ k = .discard ∨ k = .lost → s.mayEnact k = true := fun k hk => (State.mayEnact_iff k).2 (.inr hk)
    have open_ : s.att.form = none → ∀ k, s.mayEnact k = true := fun hf k => (State.mayEnact_iff k).2 (.inl hf)
    have goes : ∀ k, may → c.kind = k → Goes (.rowEnact c.row) s (t.enact c k) := fun k hm hk => goes_rowEnact h (open_ hm.1 k) hm.2 hk
    refine ⟨?other, ?family, ?forming, ?halted, ?finished, ?absent, ?unread, ?start, ?restore, ?gone, ?preempt, ?kill⟩
    case other => exact fun row hrow => goes_rowEnact_waits h (.inl hrow.symm)
    case family =>
      exact ⟨fun g hg => State.mem_partFamily_of_part (State.mem_partsOf.2 hg),
        fun k hk => (State.mem_partFamily_cases hk).imp fun g hg => ⟨hg.1, hg.2.1, hg.2.2.imp State.mem_partsOf.1 id⟩,
        fun order g hg ⟨l, hl, hp⟩ => mem_family_of_parent order hg hl hp⟩
    case forming =>
      intro hf hk hd hl
      refine goes_rowEnact_waits h (.inr ?_)
      rw [Bool.eq_false_iff, Ne, State.mayEnact_iff]
      tauto
    case halted => exact fun hf hh => goes_rowEnact_halted h (open_ hf _) hh
    case finished => exact goes .finished
    case absent => exact fun hm hk he => (goes .start hm hk).of_eq (State.startPart_absent (s := t) c he)
    case unread => exact fun hm hk he hd => (goes .start hm hk).of_eq (State.startPart_unread (s := t) he hd)
    case start =>
      exact fun d hm hk he hd => ⟨fun hc => (goes .start hm hk).of_eq (State.startPart_refused (s := t) he hd hc),
        fun hc => ⟨_, _, goes .start hm hk, State.startPart_grids (s := t) he hd hc, rfl, rfl, rfl, rfl, rfl, rfl⟩⟩
    case restore => exact fun p l hm hk hp => ⟨_, goes .restore hm hk, State.placeParts_grids (s := t) hp⟩
    case gone => exact fun hm hk hp => (goes .restore hm hk).of_eq (State.placeParts_none (s := t) _ _ hp)
    case preempt =>
      exact fun hm hk => ⟨_, goes .preempt hm hk, fun b hb => (State.preemptParts_blocks (s := t) c.gix hb).1,
        fun b hb => (State.preemptParts_blocks (s := t) c.gix hb).2, fun g hg => State.preemptParts_held (s := t) c.gix hg⟩
    case kill =>
      rintro hh (hk | hk | hk)
      all_goals exact ⟨_, goes_rowEnact h (ends _ (by simp)) hh hk, State.killParts_effect ..⟩
  case begin_ =>
    refine ⟨fun hj => (if_neg (State.not_sealed hs)).trans (if_pos (by simp [hj])), fun hj => ?_⟩
    obtain ⟨u, go, ht, hm, hb, blocks, grids, quad⟩ := goes_join_begin t num hs hj
    refine ⟨u, go, ht, hm, by rw [hb]; ring, ?_⟩
    rw [quad, grids, blocks]
    exact ⟨State.dropReplica_rep, rfl, rfl, rfl, rfl, rfl, rfl, rfl, fun _ => State.killAll_grids, fun _ => State.killAll_killed⟩
  case snapshot =>
    intro may
    have may_iff : (s.isMember s.modn || s.quad.lone || !s.quad.stepped) = false ↔ may := by
      simp [may, and_assoc]
    refine ⟨fun hm => (if_neg (State.not_sealed hs)).trans (if_pos (Bool.eq_true_of_not_eq_false (mt may_iff.1 hm))), fun hm =>
      ⟨_, (if_neg (State.not_sealed hs)).trans (if_neg (by rw [may_iff.2 hm]; decide)), rfl, rfl, rfl, rfl, rfl, rfl, fun m => ?_,
        fun x n hx hn => State.mem_keepSubs r hx hn⟩⟩
    simp [or_assoc]
  case lost =>
    intro inside
    have inside_iff : (s.isMember s.modn && !s.quad.halted) = true ↔ inside := by simp [inside]
    refine ⟨fun hl hm => (if_neg (State.not_sealed hs)).trans (if_neg (by simp [hl, hm])),
      fun hl => (if_neg (State.not_sealed hs)).trans (if_pos (by simpa using hl)), State.dropReplica_rep,
      fun hi => (if_neg (State.not_sealed hs)).trans (if_pos (inside_iff.2 hi)),
      fun hi => (if_neg (State.not_sealed hs)).trans (if_neg (mt inside_iff.1 hi))⟩
  case sponsor =>
    intro st freed may same
    have admits : s.mayAdmit m = true ↔ may := State.mayAdmit_iff m
    refine ⟨fun hm hk => ?_, fun hm => ?_, goes_join_sponsor1 hs m n hr⟩
    · exact (exec_join_sponsor0 hs m skew hr).trans (congrArg _ (if_pos ⟨admits.2 hm, hk⟩))
    · refine (exec_join_sponsor0 hs m skew hr).trans (congrArg _ (if_neg fun h => ?_))
      exact hm.elim (fun hn => hn (admits.1 h.1)) (Nat.not_lt.2 h.2)

end Sys2Proof.Machine
end

section
/-! ## O47. The checks of a word, and the words that have no effect -/

namespace Sys2Proof.Machine

variable {s : State} {op : Op} {w : W} {i : Iss}

/-- The rules of the encoding and of the place come first (02_state.md:R56). -/
theorem precheck_of_subCause (h : i.subCause op w ≠ 0) :
    i.precheck op w = some { cause := 1, sub := i.subCause op w, mask := i.path.mask } := if_pos h

/-- Outside a handler the registers that the word names come next (02_state.md:R46, R56). -/
theorem precheck_of_span (hs : i.subCause op w = 0) (hh : i.r.handler = false)
    (h : ∃ x ∈ spansOf op w i.warp i.path.mask, 8 * i.grid.rec_.base + i.warp.ext < x.1 + x.2) :
    i.precheck op w = some { cause := 2, mask := i.path.mask } := by
  have hany : (spansOf op w i.warp i.path.mask).any (fun x => decide (8 * i.grid.rec_.base + i.warp.ext < x.1 + x.2)) = true := by
    simpa only [List.any_eq_true, decide_eq_true_eq] using h
  simp only [Iss.precheck, hs, hh, hany, ne_eq, not_true_eq_false, if_false, Bool.false_eq_true, Bool.true_or, if_true]

/-- An unassigned opcode traps on every lane of its path, whatever its other bits (03_encoding.md:R88). -/
theorem traps_unassignedOpcode (q : BitVec 128) (h : s.issuing = some i) :
    Traps (.unassignedOpcode q) s i { cause := 1, sub := 2, mask := i.path.mask } := by
  show execUnassignedOpcode q s = _
  rw [execUnassignedOpcode, h]
  rfl

/-- The first check that fails gives the trap (02_state.md:R56; 03_encoding.md:R89). -/
theorem checksComeFirst : Claims.ChecksComeFirst := fun _ _ _ _ hi =>
  ⟨fun h => exec_trap hi (precheck_of_subCause h), fun hs hh h => exec_trap hi (precheck_of_span hs hh h)⟩

/-- A word whose guard is false in every lane only goes on (03_encoding.md:R73). -/
theorem guardedOff : Claims.GuardedOff := fun _ _ _ _ hi hp hheld hact hc => exec_off hi hp hheld hact hc

/-- Settles O47: a word that breaks a check takes its trap (`exec_trap`), one without active lanes only goes on (`exec_off`), and an
unassigned opcode traps by itself. -/
theorem issueChecks : Obligations.IssueChecks :=
  ⟨checksComeFirst, guardedOff, fun _ q _ hi => traps_unassignedOpcode q hi⟩

end Sys2Proof.Machine
end

section
/-! ## O38. Lanes -/

namespace Sys2Proof.Machine

/-- No lane of a mask satisfies a predicate exactly when each fails it. -/
theorem maskBy_eq_zero_iff {m : Word} {p : Nat → Bool} : maskBy m p = 0 ↔ ∀ l ∈ lanesOf m, p l = false := by
  refine ⟨maskBy_eq_zero, fun h => ?_⟩
  have hnone : (lanesOf m).filter p = [] := List.filter_eq_nil_iff.2 (fun l hl => by simp [h l hl])
  rw [maskBy, hnone]
  rfl

/-- The lowest lane of a mask is a lane of it. -/
theorem lowLane_mem {m : Word} (h : lanesOf m ≠ []) : lowLane m ∈ lanesOf m := by
  unfold lowLane
  cases hm : lanesOf m with
  | nil => exact absurd hm h
  | cons l r => exact List.mem_cons_self

theorem lane0_mem {i : Iss} (h : i.lanes ≠ []) : i.lane0 ∈ i.lanes := lowLane_mem h

/-- The lanes of a list agree exactly when none differs from a given one of them. -/
theorem any_ne_eq_false_iff {ls : List Nat} {l0 : Nat} (h0 : l0 ∈ ls) (x : Nat → Nat) :
    ls.any (fun l => x l != x l0) = false ↔ ∀ l ∈ ls, ∀ m ∈ ls, x l = x m := by
  simp only [List.any_eq_false, bne_iff_ne, ne_eq, not_not]
  exact ⟨fun h l hl m hm => (h l hl).trans (h m hm).symm, fun h l hl => h l hl l0 h0⟩

end Sys2Proof.Machine
end

section
/-! ## O38. Reading special registers -/

namespace Sys2Proof.Machine

variable {s : State} {w : W} {i : Iss}

@[simp] theorem half64_false (x : DWord) : half64 false x = x.toNat % 2 ^ 32 := rfl
@[simp] theorem half64_true (x : DWord) : half64 true x = x.toNat / 2 ^ 32 := rfl

/-- WHAT A READ LATCHES (02_state.md:R38): each latch takes its register when the low half of that register is read. -/
theorem srLatch_eq (s : State) (sel : Nat) (a : Warp) : srLatch s sel a = { a with
    latchT := if sel = 16 then s.time else a.latchT
    latchC := if sel = 20 then a.wctc else a.latchC
    latchP := if sel = 22 then a.wctp else a.latchP
    latchS := if sel = 24 then a.wcts else a.latchS } := by
  unfold srLatch
  split <;> simp_all

/-- An access waits for the deferred float atomics of R40. -/
theorem flagsWait_iff {sel wrp : Nat} {ls : List Nat} : i.flagsWait sel wrp ls = true ↔ FlagsDue i sel wrp ls := by
  simp only [Iss.flagsWait, Grid.flagsDue, FlagsDue, Bool.and_eq_true, beq_iff_eq, List.any_eq_true, List.contains_iff_mem,
    Bool.not_eq_true', and_assoc]

/-- A write of a register changes `v`, `s` and tags alone. -/
theorem put_eq (a : Warp) (n : Nat) (o : Opnd) (ls : List Nat) (val : Nat → Nat) : a.put n o ls val =
    { a with v := (a.put n o ls val).v, s := (a.put n o ls val).s, tags := (a.put n o ls val).tags } := by
  have h : a.put n o ls val = { a with v := (a.put n o ls val).v, s := (a.put n o ls val).s, tags := (a.put n o ls val).tags
                                       p := (a.put n o ls val).p, fenv := (a.put n o ls val).fenv } := put_onlyRegs a n o ls val
  rwa [put_p, put_fenv] at h

@[simp] theorem put_latchT (a : Warp) (n : Nat) (o : Opnd) (ls : List Nat) (val : Nat → Nat) : (a.put n o ls val).latchT = a.latchT := by
  rw [put_eq]
@[simp] theorem put_latchC (a : Warp) (n : Nat) (o : Opnd) (ls : List Nat) (val : Nat → Nat) : (a.put n o ls val).latchC = a.latchC := by
  rw [put_eq]
@[simp] theorem put_latchP (a : Warp) (n : Nat) (o : Opnd) (ls : List Nat) (val : Nat → Nat) : (a.put n o ls val).latchP = a.latchP := by
  rw [put_eq]
@[simp] theorem put_latchS (a : Warp) (n : Nat) (o : Opnd) (ls : List Nat) (val : Nat → Nat) : (a.put n o ls val).latchS = a.latchS := by
  rw [put_eq]

/-- A read of the issuing warp is its meaning `rdsOwn`. -/
theorem exec_rds_own (h : Issues .rds w s i) (hm : w.mod = 0) : exec (.rds w) s = .next (finish i (rdsOwn w i s)) := by
  show execRds w s = _
  rw [execRds, issueW_issues _ h, if_pos hm]

/-- A read of the trapped warp is its meaning `rdsTw`. -/
theorem exec_rds_trapped (h : Issues .rds w s i) (hm : w.mod ≠ 0) : exec (.rds w) s = .next (finish i (rdsTw w i s)) := by
  show execRds w s = _
  rw [execRds, issueW_issues _ h, if_neg hm]

/-- What a read does to the warp that issues it: the latches, then D. -/
theorem rds_effect (s : State) (sel n : Nat) (o : Opnd) {ls : List Nat} (val : Nat → Nat) (a : Warp) (h : ∀ l ∈ ls, l < 32) :
    RegWrite n o ls val a ((srLatch s sel a).put n o ls val) ∧
      (srLatch s sel a).put n o ls val = { a with
        v := ((srLatch s sel a).put n o ls val).v, s := ((srLatch s sel a).put n o ls val).s
        tags := ((srLatch s sel a).put n o ls val).tags, latchT := (srLatch s sel a).latchT
        latchC := (srLatch s sel a).latchC, latchP := (srLatch s sel a).latchP, latchS := (srLatch s sel a).latchS } := by
  have hreg := regWrite_put (srLatch s sel a) n o ls val h
  have hrest := put_eq (srLatch s sel a) n o ls val
  rw [srLatch_eq] at hreg hrest ⊢
  exact ⟨⟨hreg.v_lanes, hreg.v_rest, hreg.s_value, hreg.s_rest, hreg.tags⟩, hrest⟩

/-- A read waits, or writes D from the registers as they stood and fills the latch of its selector (02_state.md:R36, R38, R40). -/
theorem specialReads : Claims.SpecialReads := by
  intro s w i hi
  refine ⟨fun hm hdue => ?_, fun hm hdue => ?_, fun t rec_ hm ht hrec hdue => ?_⟩
  · rw [exec_rds_own hi hm, rdsOwn, if_pos (flagsWait_iff.2 hdue)]
    rfl
  · obtain ⟨hreg, hrest⟩ := rds_effect s w.imm.toNat 1 w.d (fun l => srRead s i.blk i.grid i.warp w.imm.toNat l) i.warp
      (fun l (hl : l ∈ i.lanes) => lanesOf_lt hl)
    refine ⟨fun a => (srLatch s w.imm.toNat a).put 1 w.d i.lanes (fun l => srRead s i.blk i.grid i.warp w.imm.toNat l),
      ?_, hreg, ?_, ?_, ?_, ?_, ?_⟩
    · show exec (.rds w) s = _
      rw [exec_rds_own hi hm, rdsOwn, if_neg (mt flagsWait_iff.1 hdue)]
      rfl
    · rw [put_latchT, srLatch_eq]
    · rw [put_latchC, srLatch_eq]
    · rw [put_latchP, srLatch_eq]
    · rw [put_latchS, srLatch_eq]
    · rwa [put_latchT, put_latchC, put_latchP, put_latchS]
  · refine ⟨fun a => a.put 1 w.d i.lanes (fun _ => srRead s i.blk i.grid t w.imm.toNat (lowLane rec_.mask)), ?_,
      regWrite_put _ _ _ _ _ (fun _ hl => lanesOf_lt hl), put_onlyRegs .., put_fenv .., put_p ..⟩
    show exec (.rds w) s = _
    rw [exec_rds_trapped hi hm, rdsTw, ht]
    simp only [hrec]
    rw [if_neg (mt flagsWait_iff.1 hdue)]
    rfl

/-- The two halves of a 64-bit value. -/
theorem halves_toNat (x : DWord) : x.toNat % 2 ^ 32 + x.toNat / 2 ^ 32 * 2 ^ 32 = x.toNat := Nat.mod_add_div' ..

/-- The high half comes from the latch that the low half filled (02_state.md:R38). -/
theorem latchedHalves : Claims.LatchedHalves := by
  intro s u b c g h w x lane lane'
  refine ⟨fun hx => ?_, fun hx => ?_, fun hx => ?_, fun hx => ?_, halves_toNat _⟩
  all_goals
    simp only [srRead, half64_false, half64_true, hx, srLatch]
    exact halves_toNat _

end Sys2Proof.Machine
end

section
/-! ## O38. Writing special registers -/

namespace Sys2Proof.Machine

variable {s : State} {w : W} {i : Iss}

/-- The low half after one half is replaced. -/
theorem setHalf_mod (hi : Bool) (x : Nat) (old : DWord) :
    (setHalf hi x old).toNat % 2 ^ 32 = if hi then old.toNat % 2 ^ 32 else x % 2 ^ 32 := by
  cases hi <;> simp [setHalf]

/-- The high half after one half is replaced. -/
theorem setHalf_div (hi : Bool) (x : Nat) (old : DWord) :
    (setHalf hi x old).toNat / 2 ^ 32 = if hi then x % 2 ^ 32 else old.toNat / 2 ^ 32 := by
  have := old.isLt
  cases hi <;> simp [setHalf] <;> omega

/-- A legal value of `PREC` by its fields (02_state.md:R36, R39). -/
theorem precOk_ofNat {x : Nat} (h : x < 2 ^ 20) : precOk (BitVec.ofNat 20 x) = true ↔
    8 ≤ x % 256 ∧ x % 256 ≤ 176 ∧ x / 256 % 256 ≤ x % 256 ∧ x / 2 ^ 17 ≤ 4 := by
  have hx : x % 2 ^ 20 = x := Nat.mod_eq_of_lt h
  have hrmd : x / 2 ^ 17 % 2 ^ 3 = x / 2 ^ 17 := Nat.mod_eq_of_lt (by omega)
  simp only [precOk, precL, precFloor, precRmd, bits, fld, BitVec.toNat_ofNat, hx, hrmd, decide_eq_true_eq]
  norm_num

/-- The check of a written value is `SrTakes` (02_state.md:R37, R39, R41). -/
theorem srWritable_iff {sel x : Nat} : srWritable sel x = true ↔ SrTakes sel x := by
  unfold srWritable SrTakes
  split
  case h_2 =>
    simp only [Bool.and_eq_true, decide_eq_true_eq]
    simpa using and_congr_right precOk_ofNat
  all_goals simp_all

/-- WHAT A WRITE CHANGES (02_state.md:R36): the register that the selector names, and nothing else. -/
theorem srWrite_eq (a : Warp) (sel : Nat) (ls : List Nat) (x : Nat → Nat) : a.srWrite sel ls x = { a with
    sqd := if sel = 12 then (ls.head?.map x).getD a.sqd else a.sqd
    prec := if sel = 13 then mapLanes a.prec ls (fun l _ => BitVec.ofNat 20 (x l)) else a.prec
    fenv := if sel = 14 then mapLanes a.fenv ls (fun l _ => BitVec.ofNat 7 (x l)) else a.fenv
    ckpt := if sel = 18 ∨ sel = 19 then mapLanes a.ckpt ls (fun l y => setHalf (sel == 19) (x l) y) else a.ckpt } := by
  unfold Warp.srWrite
  split
  case h_1 => cases ls <;> rfl
  all_goals simp_all

/-- One entry of a per-lane list of which some lanes are changed under a condition. -/
theorem nth_ite_mapLanes {α : Type} {c : Prop} [Decidable c] (f : Nat → α → α) {ls : List Nat} {as : List α} {l : Nat} (d : α)
    (hn : ls.Nodup) (hl : l < as.length) :
    nth (if c then mapLanes as ls f else as) l d = if c ∧ l ∈ ls then f l (nth as l d) else nth as l d := by
  by_cases hc : c
  · simp only [hc, if_true, true_and, nth_mapLanes f ls as l d hn hl]
  · simp only [hc, if_false, false_and]

/-- A write in lanes that agree on `SQD` writes each lane's value and leaves the rest. -/
theorem srWritten_srWrite (a : Warp) {sel : Nat} {ls : List Nat} {x : Nat → Nat} (hn : ls.Nodup)
    (hagree : sel = 12 → ∀ l ∈ ls, ∀ m ∈ ls, x l = x m) : SrWritten sel ls x a (a.srWrite sel ls x) := by
  rw [srWrite_eq]
  refine ⟨rfl, fun l hl => ?_, fun l hl => ?_, fun l hl => ?_, fun l hl => ?_, fun l hl => ?_⟩
  · cases ls with
    | nil => cases hl
    | cons l0 r =>
      by_cases h : sel = 12
      · simpa [h] using hagree h l0 List.mem_cons_self l hl
      · simp [h]
  · exact nth_ite_mapLanes _ _ hn hl
  · exact nth_ite_mapLanes _ _ hn hl
  · rw [nth_ite_mapLanes _ _ hn hl]
    split
    case isTrue h =>
      rw [setHalf_mod]
      obtain ⟨rfl | rfl, hm⟩ := h <;> simp [hm]
    case isFalse h => rw [if_neg (fun h18 => h ⟨.inl h18.1, h18.2⟩)]
  · rw [nth_ite_mapLanes _ _ hn hl]
    split
    case isTrue h =>
      rw [setHalf_div]
      obtain ⟨rfl | rfl, hm⟩ := h <;> simp [hm]
    case isFalse h => rw [if_neg (fun h19 => h ⟨.inr h19.1, h19.2⟩)]

/-- What `wrs` has written reads back (02_state.md:R36, R42). -/
theorem srRead_written {sel l : Nat} {ls : List Nat} {x : Nat → Nat} {a v : Warp} (s : State) (b : Block) (g : Grid)
    (h : SrWritten sel ls x a v) (hl : l ∈ ls) (hp : l < a.prec.length) (hf : l < a.fenv.length) (hc : l < a.ckpt.length)
    (ht : SrTakes sel (x l)) (hx : x l < 2 ^ 32) : srRead s b g v sel l = x l := by
  obtain ⟨-, hsqd, hprec, hfenv, hlow, hhigh⟩ := h
  have hmod : x l % 2 ^ 32 = x l := Nat.mod_eq_of_lt hx
  unfold SrTakes at ht
  split at ht
  case isTrue h12 => subst h12; exact hsqd l hl
  split at ht
  case isTrue h13 =>
    subst h13
    show (nth v.prec l 0).toNat = _
    rw [hprec l hp, if_pos ⟨rfl, hl⟩, BitVec.toNat_ofNat, Nat.mod_eq_of_lt ht.1]
  split at ht
  case isTrue h14 =>
    subst h14
    show (nth v.fenv l 0).toNat = _
    rw [hfenv l hf, if_pos ⟨rfl, hl⟩, BitVec.toNat_ofNat, Nat.mod_eq_of_lt ht]
  obtain h18 | h19 := ht
  · subst h18
    show (nth v.ckpt l 0).toNat % 2 ^ 32 = _
    rw [hlow l hc, if_pos ⟨rfl, hl⟩, hmod]
  · subst h19
    show (nth v.ckpt l 0).toNat / 2 ^ 32 = _
    rw [hhigh l hc, if_pos ⟨rfl, hl⟩, hmod]

/-- A selector of R37 that names no register reads as 0. -/
theorem srRead_unnamed (s : State) (b : Block) (g : Grid) (a : Warp) {sel : Nat} (lane : Nat) (h : sel = 15 ∨ 26 ≤ sel) :
    srRead s b g a sel lane = 0 := by
  obtain rfl | hge := h
  · rfl
  · obtain ⟨k, rfl⟩ := Nat.exists_eq_add_of_le' hge
    rfl

/-- Each selector names its register, and a written register reads back (02_state.md:R36, R37). -/
theorem specialValues : Claims.SpecialValues := by
  refine ⟨fun s b g a lane => ?_, fun s b g a v sel l ls x h hl hp hf hc ht hx => srRead_written s b g h hl hp hf hc ht hx⟩
  iterate 25 refine ⟨rfl, ?_⟩
  exact fun sel h => srRead_unnamed s b g a lane h

/-- A write of the issuing warp is its meaning `wrsOwn`. -/
theorem exec_wrs_own (h : Issues .wrs w s i) (hm : w.mod = 0) : exec (.wrs w) s = .next (finish i (wrsOwn w i s)) := by
  show execWrs w s = _
  rw [execWrs, issueW_issues _ h, if_pos hm]

/-- A write of the trapped warp: it waits, writes the lanes that have not exited, or is an illegal operand. -/
theorem exec_wrs_trapped {t : Warp} (h : Issues .wrs w s i) (hm : w.mod ≠ 0) (ht : i.trapped = some t) :
    exec (.wrs w) s = .next (finish i (
      if i.flagsWait w.imm.toNat t.idx (lanesOf t.live) then .stay s
      else if srWritable w.imm.toNat (i.uni w 1 w.a) then
        .done (s.updWarp i.r.lsq i.r.tkt t.idx (fun a => a.srWrite w.imm.toNat (lanesOf a.live) (fun _ => i.uni w 1 w.a)))
      else i.illegal s)) := by
  show execWrs w s = _
  rw [execWrs, issueW_issues _ h, if_neg hm, wrsTw, ht]

/-- The lanes whose value the register does not take are none exactly when it takes every value. -/
theorem refusedLanes_eq_zero_iff {sel : Nat} {x : Nat → Nat} :
    maskBy i.act (fun l => !srWritable sel (x l)) = 0 ↔ ∀ l ∈ i.lanes, SrTakes sel (x l) := by
  simp only [maskBy_eq_zero_iff, Bool.not_eq_false', srWritable_iff, Iss.lanes]

/-- Whether the lanes give one value of `SQD`, as `wrs` tests it (02_state.md:R36). -/
theorem sqd_disagree_iff {sel : Nat} {x : Nat → Nat} (h : i.lanes ≠ []) :
    (sel = 12 ∧ i.lanes.any (fun l => x l != x i.lane0) = true) ↔ ¬ (sel = 12 → ∀ l ∈ i.lanes, ∀ m ∈ i.lanes, x l = x m) := by
  rw [← any_ne_eq_false_iff (lane0_mem h) x, Classical.not_imp, Bool.not_eq_false]

/-- A write of values that the register takes. -/
theorem wrsOwn_of_takes (h : ∀ l ∈ i.lanes, SrTakes w.imm.toNat (i.src w 1 w.a l)) : wrsOwn w i s =
    if i.flagsWait w.imm.toNat i.r.wrp i.lanes then .stay s
    else if w.imm.toNat = 12 ∧ i.lanes.any (fun l => i.src w 1 w.a l != i.src w 1 w.a i.lane0) then i.illegal s
    else .done (s.updRef i.r (fun a => a.srWrite w.imm.toNat i.lanes (fun l => i.src w 1 w.a l))) :=
  if_neg (not_not.2 (refusedLanes_eq_zero_iff.2 h))

/-- A write that the register refuses in some lane, or of `SQD` in lanes that disagree, is an illegal operand. -/
theorem wrsOwn_refused (hact : i.act ≠ 0) (hlanes : i.lanes ≠ [])
    (h : ¬ ((∀ l ∈ i.lanes, SrTakes w.imm.toNat (i.src w 1 w.a l)) ∧
      (w.imm.toNat = 12 → ∀ l ∈ i.lanes, ∀ m ∈ i.lanes, i.src w 1 w.a l = i.src w 1 w.a m))) :
    ∃ m, m ≠ 0 ∧ wrsOwn w i s = .trap s { cause := 3, mask := m } := by
  by_cases htakes : ∀ l ∈ i.lanes, SrTakes w.imm.toNat (i.src w 1 w.a l)
  · have hdis := (sqd_disagree_iff hlanes).2 (fun hagree => h ⟨htakes, hagree⟩)
    have hnow : i.flagsWait w.imm.toNat i.r.wrp i.lanes = false := by simp [Iss.flagsWait, hdis.1]
    refine ⟨i.act, hact, ?_⟩
    rw [wrsOwn_of_takes htakes, hnow, if_neg Bool.false_ne_true, if_pos hdis]
    rfl
  · exact ⟨_, mt refusedLanes_eq_zero_iff.1 htakes, if_pos (mt refusedLanes_eq_zero_iff.1 htakes)⟩

/-- A write is refused, waits, or writes its lanes; with `.tw` all of it happens in the trapped warp (02_state.md:R36 to R41). -/
theorem specialWrites : Claims.SpecialWrites := by
  refine ⟨fun s w i hi hm => ⟨fun htakes hdue => ?_, fun ⟨htakes, hagree⟩ hdue => ?_, fun hrefused => ?_⟩,
    fun s w i t hi hm ht => ⟨fun hdue => ?_, fun hdue htakes => ?_, fun hdue htakes => ?_⟩⟩
  · rw [exec_wrs_own hi hm, wrsOwn_of_takes htakes, if_pos (flagsWait_iff.2 hdue)]
    rfl
  · refine ⟨fun a => a.srWrite w.imm.toNat i.lanes (fun l => i.src w 1 w.a l), ?_, srWritten_srWrite _ (lanesOf_nodup _) hagree⟩
    show exec (.wrs w) s = _
    rw [exec_wrs_own hi hm, wrsOwn_of_takes htakes, if_neg (mt flagsWait_iff.1 hdue),
      if_neg (fun h => (sqd_disagree_iff (issues_lanes hi)).1 h hagree)]
    rfl
  · have ⟨_, _, _, hact⟩ := hi
    obtain ⟨m, hne, htrap⟩ := wrsOwn_refused (s := s) hact (issues_lanes hi) hrefused
    refine ⟨m, hne, ?_⟩
    rw [exec_wrs_own hi hm, htrap]
    rfl
  · rw [exec_wrs_trapped hi hm ht, if_pos (flagsWait_iff.2 hdue)]
    rfl
  · refine ⟨fun a => a.srWrite w.imm.toNat (lanesOf a.live) (fun _ => i.uni w 1 w.a), ?_,
      srWritten_srWrite _ (lanesOf_nodup _) (fun _ _ _ _ _ => rfl)⟩
    show exec (.wrs w) s = _
    rw [exec_wrs_trapped hi hm ht, if_neg (mt flagsWait_iff.1 hdue), if_pos (srWritable_iff.2 htakes)]
    rfl
  · rw [exec_wrs_trapped hi hm ht, if_neg (mt flagsWait_iff.1 hdue), if_neg (mt srWritable_iff.1 htakes)]
    rfl

/-- Settles O38: an access of a special register is its meaning (`rdsOwn`, `rdsTw`, `wrsOwn`, `wrsTw`), whose effect on the warp is
`srLatch_eq` for a read and `srWrite_eq` for a write. -/
theorem specialRegisters : Obligations.SpecialRegisters := ⟨specialReads, latchedHalves, specialValues, specialWrites⟩

end Sys2Proof.Machine
end

section
/-! ## Words whose meaning is a local effect -/

namespace Sys2Proof.Machine

variable {s : State} {op : Op} {w : W} {i : Iss} {ins : Instr} {n : Nat}

/-- A word with a register destination, by the values and flags of its lanes. -/
theorem laneWord_of_local {f : Iss → Nat → Nat × Flags} {val : Nat → Nat} {fl : Nat → Flags} (hi : Issues op w s i)
    (he : exec ins s = issueW op w (localOp (laneOut n w f)) s) (hval : ∀ l, (f i l).1 = val l)
    (hfl : ∀ l, unlessNF w.nf (f i l).2 = fl l) : LaneWord ins s i n w.d val fl := by
  obtain rfl : (fun l => (f i l).1) = val := funext hval
  obtain rfl : (fun l => unlessNF w.nf (f i l).2) = fl := funext hfl
  exact laneWord_of f (he.trans (issueW_local _ hi))

@[simp] theorem unlessNF_zero (nf : Bool) : unlessNF nf 0 = 0 := by cases nf <;> rfl

/-- A word with a register destination that raises no flag. -/
theorem laneWord_of_plain {f : Iss → Nat → Nat} {val : Nat → Nat} (hi : Issues op w s i)
    (he : exec ins s = issueW op w (localOp (laneOut n w (plain f))) s) (hval : ∀ l, f i l = val l) :
    LaneWord ins s i n w.d val noFlags :=
  laneWord_of_local hi he hval (fun _ => unlessNF_zero _)

/-- A word with a predicate destination that raises no flag. -/
theorem predWord_of_local {f : Iss → Nat → Bool} {val : Nat → Bool} (hi : Issues op w s i)
    (he : exec ins s = issueW op w (localOp (predOut w (fun i l => (f i l, 0)))) s) (hval : ∀ l, f i l = val l) :
    PredWord ins s i w.d val noFlags := by
  obtain rfl : (fun l => f i l) = val := funext hval
  have h := predWord_of (fun i l => (f i l, 0)) (he.trans (issueW_local _ hi))
  simp only [unlessNF_zero] at h
  exact h

end Sys2Proof.Machine
end

section
/-! ## The result rule of R102 -/

namespace Sys2Proof.Machine

variable {sg sat : Bool} {wd n : Nat}

theorem toNat_ofInt_eq (wd : Nat) (x : Int) : (BitVec.ofInt wd x).toNat = (x % 2 ^ wd).toNat := by
  rw [BitVec.toNat_ofInt]
  norm_cast

/-- Extending by the type is the extension of the wrapped value (04_isa_core.md:R102). -/
theorem extInt_eq (h : wd ≤ n) (x : Int) : extInt sg wd n x =
    (if sg then (BitVec.ofInt wd x).signExtend n else (BitVec.ofInt wd x).zeroExtend n).toNat := by
  have hlt := (BitVec.ofInt wd x).isLt
  have hn : 2 ^ wd ≤ 2 ^ n := Nat.pow_le_pow_right (by decide) h
  have hmod : (BitVec.ofInt wd x).toNat % 2 ^ n = (BitVec.ofInt wd x).toNat := Nat.mod_eq_of_lt (hlt.trans_le hn)
  cases sg
  · simp only [extInt, ← toNat_ofInt_eq, Bool.false_and, Bool.false_eq_true, if_false, BitVec.toNat_setWidth, hmod]
  · simp only [extInt, ← toNat_ofInt_eq, Bool.true_and, decide_eq_true_eq, if_true, BitVec.toNat_signExtend,
      BitVec.toNat_setWidth, hmod, BitVec.msb_eq_decide]
    split <;> rfl

theorem intMin_le_intMax (sg : Bool) (wd : Nat) : intMin sg wd ≤ intMax sg wd := by
  have h1 : (1 : Int) ≤ 2 ^ (wd - 1) := one_le_pow₀ (by decide)
  have h2 : (1 : Int) ≤ 2 ^ wd := one_le_pow₀ (by decide)
  cases sg <;> simp only [intMin, intMax, Bool.false_eq_true, if_true, if_false] <;> omega

/-- The range of a type, from its bounds (04_isa_core.md:R102). -/
theorem limited_eq (sg : Bool) (wd : Nat) (x : Int) : limited sg wd x = max (intMin sg wd) (min (intMax sg wd) x) := by
  cases sg <;> rfl

theorem written_eq (h : wd ≤ n) (x : Int) : written sg sat wd n x = extInt sg wd n (if sat then limited sg wd x else x) :=
  (extInt_eq h _).symm

/-- THE RESULT RULE (04_isa_core.md:R102): the value written and the flag raised. -/
theorem intResult_eq (h : wd ≤ n) (x : Int) : intResult sg sat wd n x = (written sg sat wd n x, limitFlag sg sat wd x) := by
  have hle := intMin_le_intMax sg wd
  rw [written_eq h, limitFlag, limited_eq, intResult]
  cases sat
  · simp
  · by_cases hlo : x < intMin sg wd
    · have hx : max (intMin sg wd) (min (intMax sg wd) x) = intMin sg wd := by omega
      simp [hx, hlo, hlo.ne']
    · by_cases hhi : intMax sg wd < x
      · have hx : max (intMin sg wd) (min (intMax sg wd) x) = intMax sg wd := by omega
        simp [hx, hlo, hhi, hhi.ne]
      · have hx : max (intMin sg wd) (min (intMax sg wd) x) = x := by omega
        simp [hx, hlo, hhi]

theorem intWidth_le (code : Nat) : intWidth code ≤ 32 := by
  unfold intWidth
  split
  · decide
  · split <;> decide

theorem intWidth_pos (code : Nat) : 0 < intWidth code := by
  unfold intWidth
  split
  · decide
  · split <;> decide

theorem intOut_eq (w : W) (x : Int) : intOut w x =
    (intWritten w x, limitFlag (intSigned w.mod.toNat) w.sat (intWidth w.mod.toNat) x) := intResult_eq (intWidth_le _) x

end Sys2Proof.Machine
end

section
/-! ## O34. Integer arithmetic -/

namespace Sys2Proof.Machine

variable {s : State} {op : Op} {w : W} {i : Iss} {ins : Instr}

/-- A word that writes an exact result by the result rule. -/
theorem intWord_of_local {x : Iss → Nat → Int} {y : Nat → Int} (hi : Issues op w s i)
    (he : exec ins s = issueW op w (localOp (laneOut 1 w (fun i l => intOut w (x i l)))) s) (hy : ∀ l, x i l = y l) :
    IntWord ins w s i y :=
  laneWord_of_local hi he (fun l => by rw [intOut_eq, hy]) (fun l => by rw [intOut_eq, hy]; rfl)

/-- `add` to `neg` follow the result rule with their exact results (04_isa_core.md:R102, R103). -/
theorem integerResults : Claims.IntegerResults := fun s w i =>
  ⟨fun hi => intWord_of_local hi rfl (fun _ => rfl), fun hi => intWord_of_local hi rfl (fun _ => rfl),
    fun hi => intWord_of_local hi rfl (fun _ => rfl), fun hi => intWord_of_local hi rfl (fun _ => rfl),
    fun hi => intWord_of_local hi rfl (fun _ => min_def ..), fun hi => intWord_of_local hi rfl (fun _ => max_def ..),
    fun hi => intWord_of_local hi rfl (fun _ => by dsimp only; split <;> omega),
    fun hi => intWord_of_local hi rfl (fun _ => rfl)⟩

/-- `add64` and `sub64` do not honour NF (04_isa_core.md:R107). -/
theorem nf_of_legal_wide (hop : op = .add64 ∨ op = .sub64) (h : w.subCause op = 0) : w.nf = false := by
  obtain ⟨t, ht, -, -, -, -, -, -, -, -, -, hnf, -⟩ := legal_entry h
  have htnf : t.nf = false := by
    rcases hop with rfl | rfl <;> simp only [entry] at ht <;> split at ht <;> cases ht <;> rfl
  simpa [htnf] using hnf

/-- A 64-bit word writes its exact result by the result rule, with a flag that NF does not hold back. -/
theorem wideWord_of_local {f : Int → Int → Int} (hop : op = .add64 ∨ op = .sub64) (hi : Issues op w s i)
    (he : exec ins s = issueW op w (localOp (wide64 w f)) s) :
    let x := fun l => f (readInt (w.mod.toNat == 0) 64 (i.src w 2 w.a l)) (readInt (w.mod.toNat == 0) 64 (i.src w 2 w.b l))
    LaneWord ins s i 2 w.d (fun l => written (w.mod.toNat == 0) w.sat 64 64 (x l))
      (fun l => limitFlag (w.mod.toNat == 0) w.sat 64 (x l)) :=
  laneWord_of_local hi he (fun l => by rw [intResult_eq le_rfl]) (fun l => by
    rw [intResult_eq le_rfl, nf_of_legal_wide hop (issues_legal hi)]
    rfl)

/-- The words of 64-bit results (04_isa_core.md:R103, R107). -/
theorem wideResults : Claims.WideResults := by
  refine fun s w i => ⟨fun hi => laneWord_of_plain hi rfl (fun l => ?_), fun hi => laneWord_of_plain hi rfl (fun l => ?_),
    fun hi => laneWord_of_plain hi rfl (fun l => ?_), fun hi => wideWord_of_local (.inl rfl) hi rfl,
    fun hi => wideWord_of_local (.inr rfl) hi rfl, fun hi => laneWord_of_plain hi rfl (fun l => rfl)⟩
  · rw [toNat_ofInt_eq]
    rfl
  · exact (toNat_ofInt_eq 64 _).symm
  · exact (toNat_ofInt_eq 64 _).symm

/-- Settles O34: each word writes its exact result by the result rule (`intResult_eq`), and the wide words write their exact value
modulo 2^64. -/
theorem arithmeticResults : Obligations.ArithmeticResults := ⟨integerResults, wideResults⟩

end Sys2Proof.Machine
end

section
/-! ## O35. Division and comparison -/

namespace Sys2Proof.Machine

variable {s : State} {w : W} {i : Iss} {wd n : Nat}

/-- The greatest value of a type stands for itself at every width from that of the type on. -/
theorem extInt_intMax {sg : Bool} (h : 0 < wd) : extInt sg wd n (intMax sg wd) = if sg then 2 ^ (wd - 1) - 1 else 2 ^ wd - 1 := by
  obtain ⟨k, rfl⟩ := Nat.exists_eq_succ_of_ne_zero h.ne'
  have hk : 1 ≤ 2 ^ k := Nat.one_le_two_pow
  have hk1 : 2 ^ (k + 1) = 2 * 2 ^ k := by ring
  have hcast : ((2 : Int) ^ k) = ((2 ^ k : Nat) : Int) := by push_cast; rfl
  have hcast1 : ((2 : Int) ^ (k + 1)) = ((2 * 2 ^ k : Nat) : Int) := by push_cast; ring
  cases sg
  · have hv : (((2 * 2 ^ k : Nat) : Int) - 1) % ((2 * 2 ^ k : Nat) : Int) = ((2 * 2 ^ k - 1 : Nat) : Int) := by
      rw [Int.emod_eq_of_lt] <;> omega
    simp only [extInt, intMax, Bool.false_and, Bool.false_eq_true, if_false, Nat.succ_eq_add_one, hcast1, hv, hk1, Int.toNat_natCast]
  · have hv : (((2 ^ k : Nat) : Int) - 1) % ((2 * 2 ^ k : Nat) : Int) = ((2 ^ k - 1 : Nat) : Int) := by
      rw [Int.emod_eq_of_lt] <;> omega
    have hneg : ¬ 2 ^ k ≤ 2 ^ k - 1 := by omega
    simp only [extInt, intMax, Bool.true_and, if_true, Nat.succ_eq_add_one, Nat.add_sub_cancel, hcast, hcast1, hv, Int.toNat_natCast,
      decide_eq_true_eq, hneg, if_false]

/-- What `idiv` writes and raises for a zero divisor (04_isa_core.md:R105). -/
theorem idivRes_zero (w : W) (a : Int) : idivRes w a 0 =
    (if intSigned w.mod.toNat then
        (if a < 0 then written (intSigned w.mod.toNat) false (intWidth w.mod.toNat) 32 (-(2 ^ (intWidth w.mod.toNat - 1)))
          else 2 ^ (intWidth w.mod.toNat - 1) - 1)
      else 2 ^ intWidth w.mod.toNat - 1, fDZ) := by
  have hmax := extInt_intMax (n := 32) (sg := intSigned w.mod.toNat) (intWidth_pos w.mod.toNat)
  cases hsg : intSigned w.mod.toNat
  · rw [hsg] at hmax
    simpa [idivRes, hsg] using hmax
  · rw [hsg] at hmax
    by_cases ha : a < 0
    · simp [idivRes, hsg, ha, written_eq (intWidth_le _), intMin]
    · simpa [idivRes, hsg, ha] using hmax

/-- What `idiv` writes and raises for another divisor (04_isa_core.md:R105). -/
theorem idivRes_of_ne {b : Int} (hb : b ≠ 0) (w : W) (a : Int) : idivRes w a b = intOut w (Int.tdiv a b) := if_neg hb

/-- What `irem` writes and raises (04_isa_core.md:R105). -/
theorem iremRes_eq (w : W) (a b : Int) : iremRes w a b =
    (written (intSigned w.mod.toNat) false (intWidth w.mod.toNat) 32 (if b = 0 then a else Int.tmod a b),
      if b = 0 then fDZ else 0) := by
  unfold iremRes
  split <;> simp_all [written_eq (intWidth_le _)]

/-- Division and remainder, with a zero divisor and without (04_isa_core.md:R105). -/
theorem divisionResults : Claims.DivisionResults := by
  refine fun s w i => ⟨fun hi => laneWord_of_local hi rfl (fun l => ?_) (fun l => ?_),
    fun hi => laneWord_of_local hi rfl (fun l => by rw [iremRes_eq]) (fun l => ?_)⟩
  · by_cases hb : i.int w w.b l = 0
    · simp only [hb, idivRes_zero, if_true]
    · simp only [idivRes_of_ne hb, intOut_eq, if_neg hb]
  · by_cases hb : i.int w w.b l = 0
    · simp only [hb, idivRes_zero, if_true]
    · simp only [idivRes_of_ne hb, intOut_eq, if_neg hb, intFlag]
  · rw [iremRes_eq]
    by_cases hb : i.int w w.b l = 0
    · simp only [hb, if_true]
    · simp only [hb, if_false, unlessNF_zero]

/-- The six conditions, of the values that they compare (04_isa_core.md:R106). -/
theorem condHolds_eq (c : Nat) (a b : Int) : condHolds c (decide (a < b)) (decide (a = b)) =
    if c = 0 then decide (a = b) else if c = 1 then decide (a ≠ b) else if c = 2 then decide (a < b)
    else if c = 3 then decide (a ≤ b) else if c = 4 then decide (b < a) else decide (b ≤ a) := by
  have hle : a ≤ b ↔ a < b ∨ a = b := le_iff_lt_or_eq
  have hlt : b < a ↔ ¬ a < b ∧ ¬ a = b := by omega
  have hge : b ≤ a ↔ ¬ a < b := not_lt.symm
  simp only [hle, hlt, hge, Bool.decide_or, Bool.decide_and, decide_not, ne_eq]
  match c with
  | 0 | 1 | 2 | 3 | 4 | _ + 5 => rfl

/-- Comparison (04_isa_core.md:R106). -/
theorem compareResults : Claims.CompareResults := fun _ _ _ hi => predWord_of_local hi rfl (fun _ => condHolds_eq ..)

/-- Settles O35: the quotient follows the result rule but for a zero divisor (`idivRes_zero`), and the conditions are those of the
values compared (`condHolds_eq`). -/
theorem divisionAndComparison : Obligations.DivisionAndComparison := ⟨divisionResults, compareResults⟩

end Sys2Proof.Machine
end

section
/-! ## What the operand classes admit -/

namespace Sys2Proof

variable {imm : Nat} {o : Opnd}

theorem judge_reg {n : Nat} (h : Cls.judge imm (.reg n) o = 0) : (∃ k, o = .v k) ∨ ∃ k, o = .s k := by
  cases o <;> simp_all [Cls.judge]

theorem judge_src {n : Nat} {t : Ty} (h : Cls.judge imm (.src n t) o = 0) :
    (∃ k, o = .v k) ∨ (∃ k, o = .s k) ∨ ∃ c, o = .sel c ∧ selOk t c imm = true := by
  cases o <;> simp_all [Cls.judge]

theorem judge_pd (h : Cls.judge imm .pd o = 0) : ∃ k, o = .p k := by
  cases o <;> simp_all [Cls.judge]

theorem judge_ps (h : Cls.judge imm .ps o = 0) : (∃ k, o = .p k) ∨ o = .sel .true_ ∨ o = .sel .zero := by
  cases o <;> simp_all [Cls.judge, or_iff_not_imp_left]

theorem judge_opt {c : Cls} (h : Cls.judge imm (.opt c) o = 0) : Cls.judge imm c o = 0 ∨ o = .none := by
  cases o <;> simp_all [Cls.judge]

end Sys2Proof
end

section
/-! ## O1. Carry chains -/

namespace Sys2Proof.Machine

variable {s : State} {op : Op} {w : W} {i : Iss} {ins : Instr}

/-- A write of a register stands in every warp that holds the same registers. -/
theorem RegWrite.congr {n : Nat} {o : Opnd} {ls : List Nat} {val : Nat → Nat} {a b c : Warp} (h : RegWrite n o ls val a b)
    (hv : c.v = b.v) (hs : c.s = b.s) (ht : c.tags = b.tags) : RegWrite n o ls val a c := by
  have hreg : ∀ l, c.reg n o l = b.reg n o l := fun l => by cases o <;> simp only [Warp.reg, hv, hs]
  exact ⟨fun k hk l hl => (hreg l).trans (h.v_lanes k hk l hl), hv ▸ h.v_rest,
    fun k hk l hl => (hreg l).trans (h.s_value k hk l hl), hs ▸ h.s_rest, ht.trans h.tags⟩

/-- A write of a predicate depends on the values of its lanes alone. -/
theorem PredWrite.congr {o : Opnd} {ls : List Nat} {val val' : Nat → Bool} {a b : Warp} (h : PredWrite o ls val a b)
    (hval : ∀ l ∈ ls, val l = val' l) : PredWrite o ls val' a b :=
  ⟨fun k l hk hl => (h.1 k l hk hl).trans (by split <;> simp_all), h.2⟩

/-- What `addc` and `subb` do to their warp (04_isa_core.md:R104). -/
theorem carryEff_spec (w : W) (sub : Bool) (i : Iss) (a : Warp) :
    RegWrite 1 w.d i.lanes (fun l => (carrySum w sub i l % 2 ^ 32).toNat) a (carryEff w sub i a) ∧
      PredWrite w.e i.lanes (fun l => decide (2 ^ 32 ≤ carrySum w sub i l ∨ carrySum w sub i l < 0)) a (carryEff w sub i a) ∧
      (carryEff w sub i a).fenv = a.fenv ∧ OnlyRegs a (carryEff w sub i a) := by
  have hreg := regWrite_put a 1 w.d i.lanes (fun l => (carrySum w sub i l % 2 ^ 32).toNat) (fun _ hl => lanesOf_lt hl)
  have hpred := predWrite_putP (a.put 1 w.d i.lanes (fun l => (carrySum w sub i l % 2 ^ 32).toNat)) w.e i.lanes
    (fun l => decide (2 ^ 32 ≤ carrySum w sub i l ∨ carrySum w sub i l < 0))
  refine ⟨hreg.congr (putP_v ..) (putP_s ..) (putP_tags ..), ?_, ?_, onlyRegs_trans (put_onlyRegs ..) (putP_onlyRegs ..)⟩
  · rw [PredWrite, put_p] at hpred
    exact hpred
  · simp [carryEff]

/-- The entry of `addc` and `subb` (04_isa_core.md:R104). -/
theorem entry_carry (hop : op = .addc ∨ op = .subb) (m imm : Nat) : entry op m imm =
    if m = 0 then some { d := .reg 1, a := nSrc, b := nSrc, c := .ps, e := .opt .pd } else none := by
  rcases hop with rfl | rfl <;> simp [entry]

/-- A source of 32 bits holds a value of 32 bits. -/
theorem src_lt_of_judge {o : Opnd} (h : nSrc.judge w.imm.toNat o = 0) {l : Nat} (hl : l < 32) : i.src w 1 o l < 2 ^ 32 := by
  rcases judge_src h with ⟨k, rfl⟩ | ⟨k, rfl⟩ | ⟨c, rfl, hc⟩
  · simpa [Iss.src, Warp.src, Warp.reg] using (cget i.warp.v (32 * k.val + l)).isLt
  · simpa [Iss.src, Warp.src, Warp.reg] using (cget i.warp.s k.val).isLt
  · have himm := w.imm.isLt
    cases c <;> simp_all [selOk, Iss.src, Warp.src, selValue]
    omega

/-- The fields of a legal `addc` or `subb`. -/
theorem carry_fields (hop : op = .addc ∨ op = .subb) (h : w.subCause op = 0) : w.mod = 0 ∧ w.sat = false ∧ w.nf = false ∧
    (Cls.reg 1).judge w.imm.toNat w.d = 0 ∧ nSrc.judge w.imm.toNat w.a = 0 ∧ nSrc.judge w.imm.toNat w.b = 0 ∧
    Cls.ps.judge w.imm.toNat w.c = 0 ∧ (Cls.opt .pd).judge w.imm.toNat w.e = 0 := by
  obtain ⟨t, ht, hd, ha, hb, hc, he, -, -, -, hsat, hnf, -⟩ := legal_entry h
  rw [entry_carry hop] at ht
  split at ht
  case isTrue hm =>
    cases ht
    exact ⟨BitVec.eq_of_toNat_eq hm, by simpa using hsat, by simpa using hnf, hd, ha, hb, hc, he⟩
  case isFalse => cases ht

/-- Settles O1: `carryEff_spec` says what both words do; a sum is never negative and a difference of 32-bit words never reaches 2^32, so
each has the carry or borrow of its own, and the entry gives the fields. -/
theorem carryChain : Obligations.CarryChain := by
  intro s w i
  refine ⟨fun hi => ?_, fun hi => ?_, rfl, rfl, fun op hop h => ?_⟩
  · obtain ⟨hreg, hpred, hrest⟩ := carryEff_spec w false i i.warp
    refine ⟨_, issueW_local (carryEff w false) hi, hreg, hpred.congr (fun l hl => ?_), hrest⟩
    have hpos : 0 ≤ carrySum w false i l := by
      simp only [carrySum, Bool.false_eq_true, if_false]
      split <;> omega
    exact decide_eq_decide.2 ⟨fun h => h.resolve_right hpos.not_gt, .inl⟩
  · obtain ⟨hreg, hpred, hrest⟩ := carryEff_spec w true i i.warp
    obtain ⟨-, -, -, -, ha, -⟩ := carry_fields (.inr rfl) (issues_legal hi)
    refine ⟨_, issueW_local (carryEff w true) hi, hreg, hpred.congr (fun l hl => ?_), hrest⟩
    have hlt : carrySum w true i l < 2 ^ 32 := by
      have := src_lt_of_judge (i := i) ha (lanesOf_lt hl)
      simp only [carrySum, if_true]
      split <;> omega
    exact decide_eq_decide.2 ⟨fun h => h.resolve_left hlt.not_ge, .inr⟩
  · obtain ⟨hm, hsat, hnf, hd, ha, hb, hc, he⟩ := carry_fields hop h
    refine ⟨hm, hsat, hnf, judge_reg hd, (judge_opt he).imp_left judge_pd, judge_ps hc, fun o ho => ?_⟩
    have hsrc : nSrc.judge w.imm.toNat o = 0 := by
      rcases List.mem_cons.1 ho with rfl | ho
      · exact ha
      · rwa [List.mem_singleton.1 ho]
    exact (judge_src hsrc).imp_right (Or.imp_right (fun ⟨c, hc, _⟩ => ⟨c, hc⟩))

end Sys2Proof.Machine
end

section
/-! ## O2. Predicate logic -/

namespace Sys2Proof.Machine

/-- The entry of the predicate instructions (04_isa_core.md:R113). -/
theorem entry_predicate {op : Op} (hop : op = .pand ∨ op = .por ∨ op = .pxor ∨ op = .pnot) (m imm : Nat) : entry op m imm =
    if m = 0 then some { d := .pd, a := .ps, b := if op = .pnot then .no else .ps } else none := by
  rcases hop with rfl | rfl | rfl | rfl <;> simp [entry]

/-- Settles O2: each word writes its truth value lane by lane, and its entry admits `MOD` 0 and predicates alone. -/
theorem predicateLogic : Obligations.PredicateLogic := by
  intro s w i
  refine ⟨fun hi => predWord_of_local hi rfl (fun _ => rfl), fun hi => predWord_of_local hi rfl (fun _ => rfl),
    fun hi => predWord_of_local hi rfl (fun _ => congrFun₂ Bool.bne_eq_xor _ _), fun hi => predWord_of_local hi rfl (fun _ => rfl),
    rfl, rfl, rfl, rfl, fun op hop h => ?_⟩
  obtain ⟨t, ht, hd, ha, hb, -⟩ := legal_entry h
  rw [entry_predicate hop] at ht
  split at ht
  case isTrue hm =>
    cases ht
    exact ⟨BitVec.eq_of_toNat_eq hm, judge_pd hd, judge_ps ha, fun hne => judge_ps (by simpa [hne] using hb)⟩
  case isFalse => cases ht

end Sys2Proof.Machine
end

section
/-! ## O36. Logic, shifts and rotates -/

namespace Sys2Proof.Machine

variable {i : Iss} {w : W}

/-- The logic instructions act bit by bit (04_isa_core.md:R108). -/
theorem logicResults : Claims.LogicResults := fun _ _ _ =>
  ⟨fun hi => laneWord_of_plain hi rfl (fun _ => rfl), fun hi => laneWord_of_plain hi rfl (fun _ => rfl),
    fun hi => laneWord_of_plain hi rfl (fun _ => rfl), fun hi => laneWord_of_plain hi rfl (fun _ => rfl),
    fun hi => laneWord_of_plain hi rfl (fun _ => rfl), fun hi => laneWord_of_plain hi rfl (fun _ => rfl)⟩

/-- The two pieces of a rotated word of 32 bits share no bit: joining them is adding them. -/
theorem rotated_pieces {x m : Nat} (hx : x < 2 ^ 32) (hm : m ≤ 32) :
    x * 2 ^ m % 2 ^ 32 ||| x / 2 ^ (32 - m) = (x * 2 ^ m + x / 2 ^ (32 - m)) % 2 ^ 32 := by
  have hpow : 2 ^ (32 - m) * 2 ^ m = 2 ^ 32 := by rw [← Nat.pow_add, Nat.sub_add_cancel hm]
  have hlow : x / 2 ^ (32 - m) < 2 ^ m := Nat.div_lt_of_lt_mul (by rwa [hpow])
  have hhigh : x * 2 ^ m % 2 ^ 32 = x % 2 ^ (32 - m) * 2 ^ m := by rw [← hpow, Nat.mul_mod_mul_right]
  have hsum : x % 2 ^ (32 - m) * 2 ^ m + x / 2 ^ (32 - m) < 2 ^ 32 := by
    have hr : x % 2 ^ (32 - m) + 1 ≤ 2 ^ (32 - m) := Nat.mod_lt _ (Nat.two_pow_pos _)
    have := Nat.mul_le_mul_right (2 ^ m) hr
    rw [hpow, Nat.add_mul] at this
    omega
  rw [← Nat.mod_add_mod, hhigh, Nat.mod_eq_of_lt hsum, ← Nat.shiftLeft_eq, Nat.shiftLeft_add_eq_or_of_lt hlow]

theorem toNat_shlW (x n : Nat) : (shlW (BitVec.ofNat 32 x) n).toNat = x % 2 ^ 32 * 2 ^ n % 2 ^ 32 := by
  rw [shlW, BitVec.toNat_shiftLeft, BitVec.toNat_ofNat, Nat.shiftLeft_eq]

theorem toNat_shrW (x n : Nat) : (shrW (BitVec.ofNat 32 x) n).toNat = x % 2 ^ 32 / 2 ^ n := by
  rw [shrW, BitVec.toNat_ushiftRight, BitVec.toNat_ofNat, Nat.shiftRight_eq_div_pow]

theorem toNat_sarW (a : Word) (n : Nat) : (sarW a n).toNat = (BitVec.ofInt 32 (a.toInt / 2 ^ n)).toNat := by
  rw [sarW, BitVec.sshiftRight_eq, Int.shiftRight_eq_div_pow]
  norm_cast

theorem toNat_rolW (x n : Nat) : (rolW (BitVec.ofNat 32 x) n).toNat =
    (x % 2 ^ 32 * 2 ^ (n % 32) + x % 2 ^ 32 / 2 ^ (32 - n % 32)) % 2 ^ 32 := by
  rw [rolW, BitVec.toNat_rotateLeft, BitVec.toNat_ofNat, Nat.mod_mod, Nat.shiftLeft_eq, Nat.shiftRight_eq_div_pow,
    rotated_pieces (Nat.mod_lt _ (by decide)) (Nat.mod_lt _ (by decide)).le]

theorem toNat_rorW (x n : Nat) : (rorW (BitVec.ofNat 32 x) n).toNat =
    (x % 2 ^ 32 / 2 ^ (n % 32) + x % 2 ^ 32 * 2 ^ (32 - n % 32)) % 2 ^ 32 := by
  have h := rotated_pieces (x := x % 2 ^ 32) (m := 32 - n % 32) (Nat.mod_lt _ (by decide)) (Nat.sub_le ..)
  rw [Nat.sub_sub_self (Nat.mod_lt n (by decide)).le] at h
  rw [rorW, BitVec.toNat_rotateRight, BitVec.toNat_ofNat, Nat.mod_mod, Nat.shiftLeft_eq, Nat.shiftRight_eq_div_pow, Nat.or_comm, h,
    Nat.add_comm]

/-- The shifts and rotates (04_isa_core.md:R108). -/
theorem shiftResults : Claims.ShiftResults := fun _ _ _ =>
  ⟨fun hi => laneWord_of_plain hi rfl (fun _ => toNat_shlW ..), fun hi => laneWord_of_plain hi rfl (fun _ => toNat_shrW ..),
    fun hi => laneWord_of_plain hi rfl (fun _ => toNat_sarW ..),
    fun hi => laneWord_of_plain hi rfl (fun _ => toNat_rolW ..), fun hi => laneWord_of_plain hi rfl (fun _ => toNat_rorW ..)⟩

/-- Settles O36: the logic words are their bitwise operation, and each shift is a product or quotient by a power of two; the two pieces
of a rotated word add up without a carry (`rotated_pieces`). -/
theorem logicAndShifts : Obligations.LogicAndShifts := ⟨logicResults, shiftResults⟩

end Sys2Proof.Machine
end

section
/-! ## O37. Bit fields -/

namespace Sys2Proof.Machine

variable {i : Iss} {w : W}

/-- A value extended to 32 bits: its own bits, then by the type copies of the last one (04_isa_core.md:R102). -/
theorem testBit_extInt {sg : Bool} {len j : Nat} (hlen : len ≤ 32) (hj : j < 32) (x : Int) : (extInt sg len 32 x).testBit j =
    if j < len then (BitVec.ofInt len x).getLsbD j else sg && (BitVec.ofInt len x).getLsbD (len - 1) := by
  rw [extInt_eq hlen, BitVec.testBit_toNat]
  cases sg
  · by_cases h : j < len
    · simp [h, hj]
    · simp [h, hj, BitVec.getLsbD_of_ge _ _ (not_lt.1 h)]
  · simp only [if_true, BitVec.getLsbD_signExtend, hj, decide_true, Bool.true_and, BitVec.msb_eq_getLsbD_last]

/-- A field of a value of 32 bits that its type extends without limit: bit k of the field is bit p + k of the value
(04_isa_core.md:R110). -/
theorem getLsbD_field {sg : Bool} {len k : Nat} (hlen : len ≤ 32) (hk : k < len) (x p : Nat) :
    (BitVec.ofInt len (readInt sg 32 x / 2 ^ p)).getLsbD k =
      (x.testBit (if p + k < 32 then p + k else 31) && (decide (p + k < 32) || sg)) := by
  have hk32 : k < 32 := hk.trans_le hlen
  have hcast : (2 : Int) ^ p = ((2 ^ p : Nat) : Int) := by push_cast; rfl
  cases sg
  · have hread : readInt false 32 x / 2 ^ p = ((BitVec.ofNat 32 x >>> p).toNat : Int) := by
      rw [BitVec.toNat_ushiftRight, BitVec.toNat_ofNat, Nat.shiftRight_eq_div_pow, Int.natCast_ediv, hcast]
      rfl
    rw [hread, BitVec.ofInt_natCast, BitVec.getLsbD_ofNat, BitVec.testBit_toNat, BitVec.getLsbD_ushiftRight, BitVec.getLsbD_ofNat]
    by_cases h : p + k < 32 <;> simp [h, hk]
  · have hread : readInt true 32 x / 2 ^ p = ((BitVec.ofNat 32 x).sshiftRight p).toInt := by
      rw [BitVec.toInt_sshiftRight, Int.shiftRight_eq_div_pow, hcast, BitVec.toInt_eq_toNat_cond, BitVec.toNat_ofNat]
      congr 1
      simp only [readInt, Bool.true_and, decide_eq_true_eq]
      split <;> split <;> push_cast <;> omega
    rw [hread]
    show (((BitVec.ofNat 32 x).sshiftRight p).signExtend len).getLsbD k = _
    simp only [BitVec.getLsbD_signExtend, BitVec.getLsbD_sshiftRight, BitVec.msb_eq_getLsbD_last, BitVec.getLsbD_ofNat, hk, hk32]
    by_cases h : p + k < 32 <;> simp [h, hk32.not_ge]

/-- The bits of a mask of `len` ones at a position. -/
theorem testBit_fieldMask (p len j : Nat) : ((2 ^ len - 1) * 2 ^ p).testBit j = decide (p ≤ j ∧ j < p + len) := by
  rw [Nat.testBit_mul_two_pow, Nat.testBit_two_pow_sub_one, ← Bool.decide_and]
  exact decide_eq_decide.2 (by omega)

/-- `bfx` gives the bits of a field (04_isa_core.md:R110). -/
theorem testBit_bfxRes {l j p len : Nat} (hj : j < 32) (hf : fieldPos w i w.b w.c l = (p, len)) (hlen : len ≤ 32) :
    let sg := !w.mod.getLsbD 0
    let a := fun k => (i.src w 1 w.a l).testBit (if k < 32 then k else 31) && (decide (k < 32) || sg)
    (bfxRes w i l).testBit j = if len = 0 then false else if j < len then a (p + j) else sg && a (p + len - 1) := by
  simp only [bfxRes, hf]
  by_cases h0 : len = 0
  · simp [h0]
  · have hlast : p + len - 1 = p + (len - 1) := by omega
    rw [if_neg h0, if_neg h0, testBit_extInt hlen hj, hlast, getLsbD_field hlen (Nat.sub_one_lt h0)]
    split
    · exact getLsbD_field hlen ‹_› _ _
    · rfl

/-- `bfi` replaces the bits of a field (04_isa_core.md:R110). -/
theorem testBit_bfiRes {l j p len : Nat} (hj : j < 32) (hf : fieldPos w i w.c w.e l = (p, len)) : (bfiRes w i l).testBit j =
    if p ≤ j ∧ j < p + len then (i.src w 1 w.b l).testBit (j - p) else (i.src w 1 w.a l).testBit j := by
  simp only [bfiRes, hf, BitVec.testBit_toNat, BitVec.getLsbD_or, BitVec.getLsbD_and, BitVec.getLsbD_not, BitVec.getLsbD_ofNat, hj,
    testBit_fieldMask]
  rw [Nat.testBit_mul_two_pow]
  by_cases h : p ≤ j ∧ j < p + len
  · simp [h]
  · simp [h]

/-- The position and length of a bit field are bytes, of the field or of two operands (04_isa_core.md:R110). -/
theorem fieldPos_eq (pos len : Opnd) (l : Nat) : fieldPos w i pos len l =
    (if w.mod.getLsbD 1 then bits w.imm 0 8 else i.src w 1 pos l % 256,
      min (if w.mod.getLsbD 1 then bits w.imm 8 8 else i.src w 1 len l % 256) 32) := by
  unfold fieldPos
  split <;> rfl

/-- The bit-field words (04_isa_core.md:R110). -/
theorem bitFieldResults : Claims.BitFieldResults := fun _ _ _ =>
  ⟨fun hi => ⟨_, laneWord_of_plain hi rfl (fun _ => rfl),
      fun _ _ hj => testBit_bfxRes hj (fieldPos_eq ..) (min_le_right ..)⟩,
    fun hi => ⟨_, laneWord_of_plain hi rfl (fun _ => rfl), fun _ _ hj => testBit_bfiRes hj (fieldPos_eq ..)⟩⟩

end Sys2Proof.Machine
end

section
/-! ## O37. Bit counts -/

namespace Sys2Proof.Machine

theorem fld_one_eq (x k : Nat) : (fld x k 1 == 1) = x.testBit k := by
  rw [Nat.testBit_eq_decide_div_mod_eq, fld, pow_one]
  rfl

theorem revBits_succ (n x : Nat) : revBits (n + 1) x = 2 * revBits n x + (x.testBit n).toNat := by
  have hbit : fld x n 1 = (x.testBit n).toNat := by
    rw [Nat.toNat_testBit, fld, pow_one]
  rw [revBits, List.range_succ, List.foldl_append, ← hbit]
  rfl

/-- The bits of a number in reverse order (04_isa_core.md:R111). -/
theorem testBit_revBits {n j : Nat} (h : j < n) (x : Nat) : (revBits n x).testBit j = x.testBit (n - 1 - j) := by
  induction n generalizing j with
  | zero => omega
  | succ n ih =>
    rw [revBits_succ]
    cases j with
    | zero => cases h : x.testBit n <;> simp [h, Nat.testBit_zero]
    | succ j =>
      have hhalf : (2 * revBits n x + (x.testBit n).toNat) / 2 = revBits n x := by
        have := Bool.toNat_lt (x.testBit n)
        omega
      rw [Nat.testBit_succ, hhalf, ih (by omega)]
      congr 1
      omega

theorem popBits_eq (n x : Nat) : popBits n x = (List.range n).countP (fun k => (x % 2 ^ n).testBit k) := by
  rw [popBits, ← List.countP_eq_length_filter]
  refine List.countP_congr (fun k hk => ?_)
  rw [fld_one_eq, Nat.testBit_mod_two_pow, decide_eq_true (List.mem_range.1 hk), Bool.true_and]

/-- The trailing zeros of a number: the place of its lowest 1 bit among the first `n`, or `n` (04_isa_core.md:R111). -/
theorem trailZeros_eq (n x : Nat) : trailZeros n x = ((List.range n).find? (fun k => x.testBit k)).getD n := by
  simp only [trailZeros, fld_one_eq]

theorem trailZeros_spec (n x : Nat) : trailZeros n x ≤ n ∧ (∀ j, j < trailZeros n x → x.testBit j = false) ∧
    (trailZeros n x < n → x.testBit (trailZeros n x) = true) := by
  rw [trailZeros_eq]
  cases h : (List.range n).find? (fun k => x.testBit k) with
  | none =>
    have hnone := List.find?_range_eq_none.1 h
    exact ⟨le_rfl, fun j hj => by simpa using hnone j hj, fun hn => absurd hn (lt_irrefl n)⟩
  | some t =>
    obtain ⟨ht, hmem, hlow⟩ := List.find?_range_eq_some.1 h
    exact ⟨(List.mem_range.1 hmem).le, fun j hj => by simpa using hlow j hj, fun _ => ht⟩

theorem trailZeros_unique {n x t : Nat} (ht : t ≤ n) (hlow : ∀ j, j < t → x.testBit j = false)
    (hbit : t < n → x.testBit t = true) : trailZeros n x = t := by
  obtain ⟨hle, hlow', hbit'⟩ := trailZeros_spec n x
  rcases lt_trichotomy (trailZeros n x) t with h | h | h
  · simp [hlow _ h] at hbit'
    omega
  · exact h
  · simp [hlow' _ h] at hbit
    omega

/-- The leading zeros of a number of `n` bits, by its logarithm (04_isa_core.md:R111). -/
theorem leadZeros_eq (n x : Nat) : leadZeros n x = if x % 2 ^ n = 0 then n else n - 1 - Nat.log2 (x % 2 ^ n) := by
  have hrev : ∀ j, j < n → (revBits n x).testBit j = (x % 2 ^ n).testBit (n - 1 - j) := fun j hj => by
    rw [testBit_revBits hj, Nat.testBit_mod_two_pow, decide_eq_true (by omega : n - 1 - j < n), Bool.true_and]
  have hlt : x % 2 ^ n < 2 ^ n := Nat.mod_lt _ (Nat.two_pow_pos n)
  generalize x % 2 ^ n = a at hrev hlt
  split
  case isTrue h => exact trailZeros_unique le_rfl (fun j hj => by rw [hrev j hj, h, Nat.zero_testBit]) (fun h => absurd h (lt_irrefl n))
  case isFalse h =>
    have hlog : Nat.log2 a < n := (Nat.log2_lt h).2 hlt
    refine trailZeros_unique (by omega) (fun j hj => ?_) (fun ht => ?_)
    · rw [hrev j (by omega)]
      exact Nat.testBit_lt_two_pow ((Nat.log2_lt h).1 (by omega))
    · rw [hrev _ ht, show n - 1 - (n - 1 - Nat.log2 a) = Nat.log2 a by omega]
      exact Nat.testBit_log2 h

/-- A number and its low bits have the same trailing zeros among these. -/
theorem trailZeros_mod (n x : Nat) : trailZeros n (x % 2 ^ n) = trailZeros n x := by
  obtain ⟨hle, hlow, hbit⟩ := trailZeros_spec n x
  exact trailZeros_unique hle (fun j hj => by rw [Nat.testBit_mod_two_pow, hlow j hj, Bool.and_false])
    (fun h => by rw [Nat.testBit_mod_two_pow, hbit h, decide_eq_true h, Bool.and_true])

theorem bitCounts : Claims.BitCounts := by
  intro s w i
  refine ⟨fun hi => ⟨_, laneWord_of_plain hi rfl (fun _ => rfl), fun l j hj => ?_⟩,
    fun hi => laneWord_of_plain hi rfl (fun _ => popBits_eq ..), fun hi => laneWord_of_plain hi rfl (fun _ => leadZeros_eq ..),
    fun hi => ⟨_, laneWord_of_plain hi rfl (fun _ => rfl), fun l => ?_⟩⟩
  · rw [testBit_revBits hj, Nat.testBit_mod_two_pow, decide_eq_true (by omega), Bool.true_and]
  · rw [← trailZeros_mod]
    exact trailZeros_spec _ _

end Sys2Proof.Machine
end

section
/-! ## O37. Byte permutation -/

namespace Sys2Proof.Machine

variable {s : State} {w : W} {i : Iss}

/-- The eight bytes of the two sources of `perm` (04_isa_core.md:R109). -/
theorem fld_pair_byte {j : Nat} (hj : j < 8) (a b : Nat) : fld (a % 2 ^ 32 + b * 2 ^ 32) (8 * j) 8 =
    (if j < 4 then a % 2 ^ 32 / 2 ^ (8 * j) else b / 2 ^ (8 * (j - 4))) % 256 := by
  have ha : a % 2 ^ 32 < 2 ^ 32 := Nat.mod_lt _ (by decide)
  generalize a % 2 ^ 32 = x at ha
  rw [fld, show 2 ^ 8 = 256 from rfl]
  split
  case isTrue h =>
    have hpow : 2 ^ 32 = 2 ^ (8 * j) * (256 * 2 ^ (24 - 8 * j)) := by
      rw [show (256 : Nat) = 2 ^ 8 from rfl, ← Nat.pow_add, ← Nat.pow_add]
      congr 1
      omega
    rw [hpow, show b * (2 ^ (8 * j) * (256 * 2 ^ (24 - 8 * j))) = 2 ^ (8 * j) * (256 * (b * 2 ^ (24 - 8 * j))) by ring,
      Nat.add_mul_div_left _ _ (Nat.two_pow_pos _)]
    exact Nat.add_mul_mod_self_left ..
  case isFalse h =>
    have hpow : 2 ^ (8 * j) = 2 ^ 32 * 2 ^ (8 * (j - 4)) := by
      rw [← Nat.pow_add]
      congr 1
      omega
    rw [hpow, ← Nat.div_div_eq_div_mul, Nat.add_mul_div_right _ _ (by decide), Nat.div_eq_of_lt ha, Nat.zero_add]

/-- A result byte of `perm` (04_isa_core.md:R109). -/
theorem permByte_eq (ab sel : Nat) : permByte ab sel =
    if sel / 8 = 0 then fld ab (8 * (sel % 8)) 8
    else if sel / 8 = 1 then (if 128 ≤ fld ab (8 * (sel % 8)) 8 then 255 else 0) else 0 := by
  unfold permByte
  split <;> simp_all

theorem permByte_lt (ab sel : Nat) : permByte ab sel < 256 := by
  have : fld ab (8 * (sel % 8)) 8 < 2 ^ 8 := Nat.mod_lt _ (by decide)
  rw [permByte_eq]
  split_ifs <;> omega

theorem foldl_range_four {α : Type} (f : α → Nat → α) (x : α) : (List.range 4).foldl f x = f (f (f (f x 0) 1) 2) 3 := rfl

/-- The bytes of a word that is put together from four. -/
theorem byte_of_sum {g : Nat → Nat} (hg : ∀ k, g k < 256) {k : Nat} (hk : k < 4) :
    (List.range 4).foldl (fun x k => x + g k * 2 ^ (8 * k)) 0 / 2 ^ (8 * k) % 256 = g k := by
  have h0 := hg 0
  have h1 := hg 1
  have h2 := hg 2
  have h3 := hg 3
  rw [foldl_range_four]
  interval_cases k <;> omega

/-- The four bytes of the result of `perm` (04_isa_core.md:R109). -/
theorem permWord_byte {k : Nat} (hk : k < 4) (a b sel : Nat) :
    permWord a b sel / 2 ^ (8 * k) % 256 = permByte (a % 2 ^ 32 + b * 2 ^ 32) (fld sel (5 * k) 5) := by
  rw [permWord]
  exact byte_of_sum (g := fun k => permByte (a % 2 ^ 32 + b * 2 ^ 32) (fld sel (5 * k) 5)) (fun _ => permByte_lt ..) hk

/-- A result byte of `perm` from the bytes of its sources (04_isa_core.md:R109). -/
theorem permWord_byte_eq {k : Nat} (hk : k < 4) (a b sel : Nat) :
    let s := sel / 2 ^ (5 * k) % 32
    let byte := fun j => (if j < 4 then a % 2 ^ 32 / 2 ^ (8 * j) else b / 2 ^ (8 * (j - 4))) % 256
    permWord a b sel / 2 ^ (8 * k) % 256 =
      if s / 8 = 0 then byte (s % 8) else if s / 8 = 1 then (if 128 ≤ byte (s % 8) then 255 else 0) else 0 := by
  rw [permWord_byte hk, permByte_eq, fld_pair_byte (Nat.mod_lt _ (by decide))]
  rfl

/-- A reserved selector among the four (04_isa_core.md:R109). -/
theorem permReserved_iff (sel : Nat) : permReserved sel = true ↔ ∃ k, k < 4 ∧ sel / 2 ^ (5 * k) % 32 / 8 = 3 := by
  have hfld : ∀ k, fld sel (5 * k + 3) 2 = sel / 2 ^ (5 * k) % 32 / 8 := fun k => by
    rw [fld, Nat.pow_add, ← Nat.div_div_eq_div_mul]
    omega
  simp only [permReserved, List.any_eq_true, List.mem_range, beq_iff_eq, hfld]

/-- The lanes of a mask that satisfy a predicate. -/
theorem getLsbD_maskBy (m : Word) (p : Nat → Bool) (l : Nat) : (maskBy m p).getLsbD l = true ↔ l ∈ lanesOf m ∧ p l = true := by
  rw [maskBy, getLsbD_maskOf, ← Bool.decide_and, decide_eq_true_eq, List.mem_filter]
  exact and_iff_right_of_imp (fun h => lanesOf_lt h.1)

/-- `perm` as it issues: the trap of the lanes with a reserved selector, or the permuted bytes. -/
theorem exec_perm (hi : Issues .perm w s i) : exec (.perm w) s =
    .next (finish i (if maskBy i.act (fun l => permReserved (permSel w i l)) ≠ 0 then
        .trap s { cause := 3, mask := maskBy i.act (fun l => permReserved (permSel w i l)) }
      else localOp (laneOut 1 w (plain (fun i l => permWord (i.src w 1 w.a l) (i.src w 1 w.b l) (permSel w i l)))) i s)) := by
  show execPerm w s = _
  rw [execPerm, issueW_issues _ hi]

/-- `perm` permutes bytes, or traps in the lanes with a reserved selector (04_isa_core.md:R109). -/
theorem bytePermutation : Claims.BytePermutation := by
  intro s w i hi
  refine ⟨fun hgood => ?_, fun hbad => ?_⟩
  · have hnone : maskBy i.act (fun l => permReserved (permSel w i l)) = 0 :=
      maskBy_eq_zero_iff.2 (fun l hl => Bool.eq_false_iff.2 (mt (permReserved_iff _).1 (hgood l hl)))
    have hexec := exec_perm hi
    rw [if_neg (not_not.2 hnone)] at hexec
    have hword := laneWord_of (plain (fun i l => permWord (i.src w 1 w.a l) (i.src w 1 w.b l) (permSel w i l))) hexec
    simp only [plain, unlessNF_zero] at hword
    exact ⟨_, hword, fun l _ k hk => permWord_byte_eq hk ..⟩
  · have hmem : ∀ l, (maskBy i.act (fun l => permReserved (permSel w i l))).getLsbD l = true ↔
        l ∈ i.lanes ∧ permReserved (permSel w i l) = true := getLsbD_maskBy _ _
    have hsome : maskBy i.act (fun l => permReserved (permSel w i l)) ≠ 0 := fun h0 => by
      obtain ⟨l, hl, hres⟩ := hbad
      have := (hmem l).2 ⟨hl, (permReserved_iff _).2 hres⟩
      simp [h0] at this
    refine ⟨_, hsome, fun l => (hmem l).trans (and_congr_right' (permReserved_iff _)), ?_⟩
    rw [exec_perm hi, if_pos hsome]
    rfl

end Sys2Proof.Machine
end

section
/-! ## O37. Moves -/

namespace Sys2Proof.Machine

/-- A word that writes a register and raises no flag. -/
theorem laneWord_of_put {s : State} {ins : Instr} {i : Iss} {n : Nat} {d : Opnd} {val : Nat → Nat}
    (h : Completes ins s i (s.updRef i.r (fun a => a.put n d i.lanes val))) : LaneWord ins s i n d val noFlags :=
  ⟨_, h, regWrite_put _ _ _ _ _ (fun _ hl => lanesOf_lt hl),
    ⟨by rw [put_fenv], fun l _ => by rw [put_fenv]; simp [noFlags]⟩, put_p .., put_onlyRegs ..⟩

/-- Moves and selection (04_isa_core.md:R112). -/
theorem moves : Claims.Moves := by
  intro s w i
  refine ⟨fun hi hm => ?_, fun hi hm => ?_, fun hi => laneWord_of_plain hi rfl (fun _ => rfl),
    fun hi => laneWord_of_put (issueW_local (ldihEff w) hi), fun hi => laneWord_of_plain hi rfl (fun _ => rfl)⟩
  · refine laneWord_of_plain (f := fun i l => i.src w (bWords w.mod.toNat) w.a l) hi ?_ (fun _ => rfl)
    show execMov w s = _
    rw [execMov, movEff, if_neg hm]
  · refine predWord_of_local (f := fun i l => i.warp.pred w.a l) hi ?_ (fun _ => rfl)
    show execMov w s = _
    rw [execMov, movEff, if_pos hm]

/-- Settles O37: the fields are read bit by bit (`testBit_bfxRes`, `testBit_bfiRes`), the counts are those of the bits, `perm` is read byte
by byte (`permWord_byte_eq`), and the moves are their own values. -/
theorem bitsBytesAndMoves : Obligations.BitsBytesAndMoves := ⟨bitFieldResults, bitCounts, bytePermutation, moves⟩

end Sys2Proof.Machine
end

section
/-! ## O26. The words that the spec writes out -/

namespace Sys2Proof.Machine

/-- Settles O26: the decoder is evaluated on each word. -/
theorem specWordsDecode : Obligations.SpecWordsDecode := ⟨rfl, rfl, rfl, rfl, rfl, rfl, rfl, rfl⟩

end Sys2Proof.Machine
end

section
/-! ## O45. Paths that move and meet -/

namespace Sys2Proof.Machine

/-- Some path of a list holds a lane and stands at word `n` of the clause at `hdr`. -/
def standsIn (l : List Path) (lane : Nat) (hdr : DWord) (n : Nat) : Prop :=
  ∃ q ∈ l, q.mask.getLsbD lane = true ∧ q.hdr = hdr ∧ q.word = n

theorem standsAt_iff {a : Warp} {lane : Nat} {hdr : DWord} {n : Nat} : a.standsAt lane hdr n ↔ standsIn a.paths lane hdr n := Iff.rfl

variable {p q : Path} {l : List Path} {lane : Nat} {hdr : DWord} {n : Nat}

/-- Two paths that join stand at word 0 of one clause (04_isa_core.md:R123). -/
theorem joins_iff : (p.fresh && q.fresh && p.hdr == q.hdr) = true ↔ p.fresh = true ∧ q.fresh = true ∧ p.hdr = q.hdr := by
  simp only [Bool.and_eq_true, beq_iff_eq, and_assoc]

theorem word_of_fresh (h : p.fresh = true) : p.word = 0 := by
  simp only [Path.fresh, Bool.and_eq_true, beq_iff_eq] at h
  exact h.1

theorem joinPath_cons_of_joins (h : (p.fresh && q.fresh && p.hdr == q.hdr) = true) :
    joinPath p (q :: l) = { q with mask := q.mask ||| p.mask } :: l := if_pos h

theorem joinPath_cons_of_not (h : ¬ (p.fresh && q.fresh && p.hdr == q.hdr) = true) : joinPath p (q :: l) = q :: joinPath p l := if_neg h

/-- The lanes of a path that is added stand where it stands. -/
theorem standsIn_joinPath_self (h : p.mask.getLsbD lane = true) : standsIn (joinPath p l) lane p.hdr p.word := by
  induction l with
  | nil =>
    have hne : p.mask ≠ 0 := fun h0 => by simp [h0] at h
    exact ⟨p, by rw [joinPath, if_neg hne]; exact List.mem_singleton_self p, h, rfl, rfl⟩
  | cons q r ih =>
    by_cases hj : (p.fresh && q.fresh && p.hdr == q.hdr) = true
    · obtain ⟨hp, hq, hhdr⟩ := joins_iff.1 hj
      rw [joinPath_cons_of_joins hj]
      exact ⟨_, List.mem_cons_self, by simp [h], hhdr.symm, (word_of_fresh hq).trans (word_of_fresh hp).symm⟩
    · obtain ⟨x, hx, hrest⟩ := ih
      rw [joinPath_cons_of_not hj]
      exact ⟨x, List.mem_cons_of_mem _ hx, hrest⟩

/-- Adding a path moves no lane of the others. -/
theorem standsIn_joinPath (h : standsIn l lane hdr n) : standsIn (joinPath p l) lane hdr n := by
  induction l with
  | nil => simp [standsIn] at h
  | cons q r ih =>
    obtain ⟨x, hx, hmask, hat⟩ := h
    by_cases hj : (p.fresh && q.fresh && p.hdr == q.hdr) = true
    · rw [joinPath_cons_of_joins hj]
      rcases List.mem_cons.1 hx with rfl | hr
      · exact ⟨_, List.mem_cons_self, by simp [hmask], hat⟩
      · exact ⟨x, List.mem_cons_of_mem _ hr, hmask, hat⟩
    · rw [joinPath_cons_of_not hj]
      rcases List.mem_cons.1 hx with rfl | hr
      · exact ⟨x, List.mem_cons_self, hmask, hat⟩
      · obtain ⟨y, hy, hrest⟩ := ih ⟨x, hr, hmask, hat⟩
        exact ⟨y, List.mem_cons_of_mem _ hy, hrest⟩

theorem standsIn_foldl_joinPath {ps : List Path} (h : standsIn l lane hdr n) :
    standsIn (ps.foldl (fun l p => joinPath p l) l) lane hdr n := by
  induction ps generalizing l with
  | nil => exact h
  | cons p r ih => exact ih (standsIn_joinPath h)

/-- The lanes of the paths that replace another stand where these stand. -/
theorem standsAt_replacePath {a : Warp} {ps : List Path} {k : Nat} (hp : p ∈ ps) (h : p.mask.getLsbD lane = true) :
    (a.replacePath k ps).standsAt lane p.hdr p.word := by
  rw [standsAt_iff, Warp.replacePath]
  obtain ⟨before, after, rfl⟩ := List.append_of_mem hp
  simp only [List.foldl_append, List.foldl_cons]
  exact standsIn_foldl_joinPath (standsIn_joinPath_self h)

/-- A path of a list after one is added: it stands where one of the list stood, or is the one added. -/
theorem mem_joinPath {x : Path} (h : x ∈ joinPath p l) : (∃ q ∈ l, x.fresh = q.fresh ∧ x.hdr = q.hdr) ∨ x = p := by
  induction l with
  | nil =>
    rw [joinPath] at h
    split at h
    · cases h
    · exact .inr (List.mem_singleton.1 h)
  | cons q r ih =>
    by_cases hj : (p.fresh && q.fresh && p.hdr == q.hdr) = true
    · rw [joinPath_cons_of_joins hj] at h
      rcases List.mem_cons.1 h with rfl | hr
      · exact .inl ⟨q, List.mem_cons_self, rfl, rfl⟩
      · exact .inl ⟨x, List.mem_cons_of_mem _ hr, rfl, rfl⟩
    · rw [joinPath_cons_of_not hj] at h
      rcases List.mem_cons.1 h with rfl | hr
      · exact .inl ⟨x, List.mem_cons_self, rfl, rfl⟩
      · exact (ih hr).imp_left (fun ⟨y, hy, hrest⟩ => ⟨y, List.mem_cons_of_mem _ hy, hrest⟩)

/-- Paths that meet at a clause boundary form one (04_isa_core.md:R123). -/
theorem pathsMeet : Claims.PathsMeet := by
  intro p l apart
  induction l with
  | nil =>
    intro _
    rw [joinPath]
    split
    · exact List.Pairwise.nil
    · exact List.pairwise_singleton ..
  | cons q r ih =>
    intro h
    obtain ⟨hq, hr⟩ := List.pairwise_cons.1 h
    by_cases hj : (p.fresh && q.fresh && p.hdr == q.hdr) = true
    · rw [joinPath_cons_of_joins hj]
      exact List.pairwise_cons.2 ⟨hq, hr⟩
    · rw [joinPath_cons_of_not hj]
      refine List.pairwise_cons.2 ⟨fun x hx ⟨hqf, hxf, hhdr⟩ => ?_, ih hr⟩
      rcases mem_joinPath hx with ⟨y, hy, hyf, hyh⟩ | rfl
      · exact hq y hy ⟨hqf, hyf ▸ hxf, hhdr.trans hyh⟩
      · exact hj (joins_iff.2 ⟨hxf, hqf, hhdr.symm⟩)

end Sys2Proof.Machine
end

section
/-! ## O45. Transfers and exits -/

namespace Sys2Proof.Machine

variable {s : State} {op : Op} {w : W} {i : Iss} {ins : Instr} {l : Nat}

theorem yielded_eq (a : Warp) (p : Path) : a.yielded p = { a with pass := (a.yielded p).pass } := by
  unfold Warp.yielded
  split <;> rfl

/-- A transfer changes the paths of its warp, and the turn that it passes (03_encoding.md:R63, R65). -/
theorem transfer_eq (a : Warp) (p : Path) (ls : List Nat) (target : Nat → DWord) : a.transfer p ls target =
    { a with paths := (a.transfer p ls target).paths, pass := (a.transfer p ls target).pass } := by
  rw [Warp.transfer, yielded_eq]
  rfl

theorem sameRegs_transfer (a : Warp) (p : Path) (ls : List Nat) (target : Nat → DWord) : SameRegs a (a.transfer p ls target) := by
  rw [transfer_eq]
  exact ⟨rfl, rfl, rfl, rfl, rfl⟩

/-- The lanes of a path without some of them. -/
theorem getLsbD_without {m : Word} {ls : List Nat} (h : m.getLsbD l = true) (hl : l ∉ ls) : (m &&& ~~~(maskOf ls)).getLsbD l = true := by
  have hlt : l < 32 := BitVec.lt_of_getLsbD h
  simp only [BitVec.getLsbD_and, BitVec.getLsbD_not, getLsbD_maskOf, h, hl, hlt, decide_true, decide_false, Bool.and_false, Bool.not_false,
    Bool.and_self]

theorem getLsbD_maskOf_singleton (h : l < 32) : (maskOf [l]).getLsbD l = true := by
  simp [getLsbD_maskOf, h]

/-- The lanes that a transfer names stand at their targets. -/
theorem standsAt_transfer_target (a : Warp) (p : Path) {ls : List Nat} (target : Nat → DWord) (hl : l ∈ ls) (hlt : l < 32) :
    (a.transfer p ls target).standsAt l (target l) 0 :=
  standsAt_replacePath (p := Path.at (maskOf [l]) (target l)) (List.mem_cons_of_mem _ (List.mem_map.2 ⟨l, hl, rfl⟩))
    (getLsbD_maskOf_singleton hlt)

/-- The other lanes of the path stand at the next clause. -/
theorem standsAt_transfer_rest (a : Warp) (p : Path) {ls : List Nat} (target : Nat → DWord) (h : p.mask.getLsbD l = true)
    (hl : l ∉ ls) : (a.transfer p ls target).standsAt l (nextClause p.hdr p.held) 0 :=
  standsAt_replacePath (p := Path.at (p.mask &&& ~~~(maskOf ls)) (nextClause p.hdr p.held)) List.mem_cons_self (getLsbD_without h hl)

/-- A TRANSFER AS IT ISSUES: with good targets the lanes move, and the registers are those that `pre` leaves; otherwise the first failing
target traps (03_encoding.md:R66). -/
theorem transferWord_of {target : Iss → Nat → DWord} {goal : Nat → DWord} {pre : Iss → Warp → Warp} {regs : Warp → Warp → Prop}
    (hi : Issues op w s i) (he : exec ins s = issueW op w (transferOp target pre) s) (ht : ∀ l, target i l = goal l)
    (hpre : pre i i.warp = { i.warp with v := (pre i i.warp).v, s := (pre i i.warp).s, tags := (pre i i.warp).tags })
    (hregs : ∀ b, SameRegs (pre i i.warp) b → regs i.warp b) : TransferWord ins s i goal regs := by
  obtain rfl : target i = goal := funext ht
  rw [issueW_issues _ hi, transferOp] at he
  refine ⟨fun hgood => ⟨fun a => (pre i a).transfer i.path i.lanes (target i), ?_, hregs _ (sameRegs_transfer ..),
    fun l hl => standsAt_transfer_target _ _ _ hl (lanesOf_lt hl), fun l hl hnot => standsAt_transfer_rest _ _ _ hl hnot, ?_⟩,
    fun t hbad => ?_⟩
  · rw [hgood] at he
    exact he
  · dsimp only
    rw [transfer_eq, hpre]
  · rw [hbad] at he
    exact he

/-- A target relative to the clause's header (04_isa_core.md:R123). -/
theorem relTarget_eq (w : W) (i : Iss) (l : Nat) : relTarget w i l = i.path.hdr + BitVec.ofInt 64 (16 * w.imm.toInt) := by
  rw [relTarget, BitVec.ofNat_mul, BitVec.ofNat_toNat, BitVec.setWidth_eq, BitVec.ofInt_mul]
  rfl

theorem nextClause_eq (hdr : DWord) (held : QWord) :
    nextClause hdr held = hdr + BitVec.ofNat 64 (16 * (held.toNat % 16 + 1)) := by
  rw [nextClause, hdrWcnt, bits, fld, pow_zero, Nat.div_one]
  rfl

/-- The four transfers (04_isa_core.md:R123). -/
theorem controlTransfers : Claims.ControlTransfers := by
  intro s w i
  refine ⟨fun hi => transferWord_of hi rfl (relTarget_eq w i) rfl (fun _ h => h),
    fun hi => transferWord_of hi rfl (fun _ => rfl) rfl (fun _ h => h),
    fun hi => transferWord_of hi rfl (fun _ => rfl) rfl (fun _ h => h),
    fun hi => transferWord_of hi rfl (fun l => ?_) (put_eq ..) (fun b ⟨hv, hs, hp, htags, hfenv⟩ => ?_)⟩
  · split
    · exact relTarget_eq w i l
    · rfl
  · rw [← nextClause_eq]
    exact ⟨(regWrite_put _ _ _ _ _ (fun _ hl => lanesOf_lt hl)).congr hv hs htags, hp.trans (put_p ..), hfenv.trans (put_fenv ..)⟩

/-- An exit ends its lanes, and changes the paths of its warp and the turn that it passes (04_isa_core.md:R124). -/
theorem exitLanes_eq (a : Warp) (p : Path) (ls : List Nat) : a.exitLanes p ls =
    { a with live := a.live &&& ~~~(maskOf ls), paths := (a.exitLanes p ls).paths, pass := (a.exitLanes p ls).pass } := by
  rw [Warp.exitLanes, yielded_eq]
  rfl

/-- `exit` ends its lanes and moves the others on; a handler may not (04_isa_core.md:R124; 18_recovery.md:R322). -/
theorem lanesExit : Claims.LanesExit := by
  intro s w i hi
  have hexec : exec (.exit w) s = .next (finish i (if i.r.handler then i.illegal s
      else .moved (s.updRef i.r (fun a => a.exitLanes i.path i.lanes)))) := by
    show execExit w s = _
    rw [execExit, issueW_issues _ hi]
  refine ⟨fun hh => ?_, fun hh => ⟨fun a => a.exitLanes i.path i.lanes, ?_, fun l hl => ?_, fun l hl hnot => ?_, ?_⟩⟩
  · rw [hh] at hexec
    exact hexec
  · rw [hh] at hexec
    exact hexec
  · dsimp only
    rw [exitLanes_eq, BitVec.getLsbD_and, BitVec.getLsbD_not, getLsbD_maskOf]
    simp only [hl, decide_true, Bool.true_and, decide_not]
  · exact standsAt_replacePath (p := Path.at (i.path.mask &&& ~~~(maskOf i.lanes)) (nextClause i.path.hdr i.path.held))
      List.mem_cons_self (getLsbD_without hl hnot)
  · dsimp only
    rw [exitLanes_eq]

/-- `waitlt` and `nop` (04_isa_core.md:R122, R128). -/
theorem waitsAndNops : Claims.WaitsAndNops := by
  intro s w i
  refine ⟨fun hi hlt => ?_, fun hi hle => ?_, fun hi => ?_⟩
  · show execWaitlt w s = _
    rw [execWaitlt, issueW_issues _ hi]
    simp only [hlt, if_true]
    rfl
  · show execWaitlt w s = _
    rw [execWaitlt, issueW_issues _ hi]
    simp only [hle.not_gt, if_false]
    rfl
  · show execNop w s = _
    rw [execNop, issueW_issues _ hi]
    rfl

/-- Settles O45: a transfer adds the paths of its lanes one by one, and an added path moves no lane of the others
(`standsIn_joinPath_self`, `standsIn_joinPath`). -/
theorem transferWords : Obligations.TransferWords := ⟨controlTransfers, lanesExit, pathsMeet, waitsAndNops⟩

end Sys2Proof.Machine
end

section
/-! ## O46. A return beside a waiting path -/

namespace Sys2Proof.Machine

/-- The path of lane 0 at word 1 of its clause, where it traps. -/
def trappingPath : Path := { mask := 1, hdr := 0x10000, word := 1, held := loadHeader, park := .run }

/-- The path of lane 1 at a word of another clause, a `waitw` on the doubleword at 0x20000 (11_isa_memory.md:R259). -/
def waitingPath : Path := { mask := 2, hdr := 0x30000, word := 1, held := loadHeader, park := .waitw false 0x20000 0 0 none }

/-- The software trap of lane 0. -/
def laneZeroTrap : TrapV := { cause := 7, mask := 1 }

/-- A warp whose lane 0 has trapped while its lane 1 waits for a word of memory. -/
def trappedBesideWait : Warp :=
  { Warp.start 0 0 0 0 0x10000 with paths := [trappingPath, waitingPath] }.takeTrap 0 0 laneZeroTrap

/-- The record of that trap. -/
def besideWaitRecord : TrapRec := laneZeroTrap.record 1 0x10000 1 (Warp.start 0 0 0 0 0x10000).ckpt 0

/-- The record is the warp's own, and its path is the path of lane 0. -/
theorem trappedBesideWait_trap : trappedBesideWait.trap = some besideWaitRecord ∧
    trappedBesideWait.path? (lowLane besideWaitRecord.path) = some trappingPath := ⟨rfl, rfl⟩

/-- The trap leaves the waiting path parked. -/
theorem trappedBesideWait_paths : trappedBesideWait.paths = [trappingPath, waitingPath] := rfl

/-- The return lets the waiting path issue its `waitw` again (20_isa_system.md:R361). -/
theorem returnFrom_besideWait : (trappedBesideWait.returnFrom besideWaitRecord .retry).paths =
    [trappingPath, { waitingPath with park := .run }] := rfl

/-- Refutes O46, in its part on returns: under `.retry` the statement keeps every path of the warp as it is, its park included, but a
return unparks a `waitw` of another path of the warp, which evaluates its condition afresh (`Path.rewait`). The places of the paths,
which the prose speaks of, do stay. -/
theorem not_trapEntryAndReturn : ¬ Obligations.TrapEntryAndReturn := by
  rintro ⟨-, -, -, hreturns, -⟩
  obtain ⟨-, -, -, hretry, -⟩ := hreturns trappedBesideWait besideWaitRecord trappingPath .retry trappedBesideWait_trap.2
  have hsame := hretry rfl
  rw [returnFrom_besideWait, trappedBesideWait_paths] at hsame
  exact absurd hsame (by decide)

end Sys2Proof.Machine
end

section
/-! ## O43. Issuing a collective -/

namespace Sys2Proof.Machine

variable {s : State} {op : Op} {w : W} {i : Iss}

/-- The new parts of a collective that disagree, each with the first part that it disagrees with (04_isa_core.md:R116, R117). -/
def clashes (op : Op) (w : W) (i : Iss) : List (CollPart × CollPart) :=
  (newParts op w i).filterMap (fun n =>
    ((i.warp.colls ++ newParts op w i).find? (fun o => partsClash i.warp n o)).map (fun o => (n, o)))

/-- A new part disagrees with a part of its warp, old or new (04_isa_core.md:R116, R117). -/
def Clash (op : Op) (w : W) (i : Iss) (n o : CollPart) : Prop :=
  n ∈ newParts op w i ∧ o ∈ i.warp.colls ++ newParts op w i ∧ partsClash i.warp n o = true

theorem clash_of_mem {x : CollPart × CollPart} (h : x ∈ clashes op w i) : Clash op w i x.1 x.2 := by
  obtain ⟨n, hn, hx⟩ := List.mem_filterMap.1 h
  obtain ⟨o, ho, rfl⟩ := Option.map_eq_some_iff.1 hx
  exact ⟨hn, List.mem_of_find?_eq_some ho, List.find?_some ho⟩

/-- Every part that disagrees is listed. -/
theorem mem_clashes {n o : CollPart} (h : Clash op w i n o) : ∃ o', (n, o') ∈ clashes op w i := by
  obtain ⟨hn, ho, hc⟩ := h
  obtain ⟨o', ho'⟩ := Option.isSome_iff_exists.1 (List.find?_isSome.2 ⟨o, ho, hc⟩)
  exact ⟨o', List.mem_filterMap.2 ⟨n, hn, by rw [ho']; rfl⟩⟩

theorem clashes_eq_nil (h : ∀ n o, ¬ Clash op w i n o) : clashes op w i = [] :=
  List.eq_nil_iff_forall_not_mem.2 (fun _ hx => h _ _ (clash_of_mem hx))

/-- The lanes whose parts disagree. -/
theorem getLsbD_clash_lanes {l : Nat} (hl : l < 32) : (maskOf ((clashes op w i).map (fun x => x.1.lane))).getLsbD l = true ↔
    ∃ n o, Clash op w i n o ∧ n.lane = l := by
  rw [getLsbD_maskOf, decide_eq_true hl, Bool.true_and, decide_eq_true_eq, List.mem_map]
  refine ⟨fun ⟨x, hx, hlane⟩ => ⟨x.1, x.2, clash_of_mem hx, hlane⟩, fun ⟨n, o, hc, hlane⟩ => ?_⟩
  obtain ⟨o', ho'⟩ := mem_clashes hc
  exact ⟨_, ho', hlane⟩

/-- A collective whose parts agree is fixed, parked and performed as far as it can be (04_isa_core.md:R116). -/
theorem collective_of_agree (s : State) (h : clashes op w i = []) : collective op w i s = .moved (s.updRef i.r (fun wp =>
    (({ wp with colls := wp.colls ++ newParts op w i }.parkAt i.r.lane .coll).collect (i.path.mask &&& ~~~i.act)).yielded i.path)) := by
  rw [clashes] at h
  simp only [collective, h]

/-- A collective with a part that disagrees traps (04_isa_core.md:R116, R117). -/
theorem collective_of_clash (s : State) {c : CollPart × CollPart} {r : List (CollPart × CollPart)} (h : clashes op w i = c :: r) :
    collective op w i s = .trap s { cause := 9, mask := maskOf ((clashes op w i).map (fun x => x.1.lane)), addr := c.2.hdr, other := c.2.word } := by
  rw [h]
  rw [clashes] at h
  simp only [collective, h]

/-- The collectives issue by one meaning. -/
theorem exec_collective (hop : op ∈ [Op.vote, .shfl, .red, .scan]) (hi : Issues op w s i) :
    exec (Instr.ofOp op w) s = .next (finish i (collective op w i s)) := by
  have he : exec (Instr.ofOp op w) s = issueW op w (collective op w) s := by
    obtain rfl | hop := List.mem_cons.1 hop
    · rfl
    obtain rfl | hop := List.mem_cons.1 hop
    · rfl
    obtain rfl | hop := List.mem_cons.1 hop
    · rfl
    obtain rfl := List.mem_singleton.1 hop
    rfl
  rw [he, issueW_issues _ hi]

end Sys2Proof.Machine
end

section
/-! ## O43. When parts disagree, and when an occurrence is performed -/

namespace Sys2Proof.Machine

/-- Two masks agree in a squad exactly when they agree in each of its lanes. -/
theorem agree_iff (x y sq : Word) : x &&& sq = y &&& sq ↔
    ∀ l, l < 32 → sq.getLsbD l = true → (x.getLsbD l = true ↔ y.getLsbD l = true) := by
  refine ⟨fun h l _ hsq => ?_, fun h => BitVec.eq_of_getLsbD_eq (fun l hl => ?_)⟩
  · have hbit : (x &&& sq).getLsbD l = (y &&& sq).getLsbD l := by rw [h]
    rw [BitVec.getLsbD_and, BitVec.getLsbD_and, hsq, Bool.and_true, Bool.and_true] at hbit
    rw [hbit]
  · rw [BitVec.getLsbD_and, BitVec.getLsbD_and]
    cases hsq : sq.getLsbD l
    · rw [Bool.and_false, Bool.and_false]
    · rw [Bool.and_true, Bool.and_true, Bool.eq_iff_iff]
      exact h l hl hsq

/-- Two masks disagree in one of two squads exactly when they disagree in a lane of either (04_isa_core.md:R116). -/
theorem disagree_iff (x y sq sq' : Word) : (¬ x &&& sq = y &&& sq ∨ ¬ y &&& sq' = x &&& sq') ↔
    ∃ l, l < 32 ∧ (sq.getLsbD l = true ∨ sq'.getLsbD l = true) ∧ ¬ (x.getLsbD l = true ↔ y.getLsbD l = true) := by
  simp only [agree_iff, not_forall]
  constructor
  · rintro (⟨l, hl, hsq, hne⟩ | ⟨l, hl, hsq, hne⟩)
    · exact ⟨l, hl, .inl hsq, hne⟩
    · exact ⟨l, hl, .inr hsq, fun h => hne h.symm⟩
  · rintro ⟨l, hl, hsq | hsq, hne⟩
    · exact .inl ⟨l, hl, hsq, hne⟩
    · exact .inr ⟨l, hl, hsq, fun h => hne h.symm⟩

/-- The part of a lane in an occurrence of a word. -/
theorem partOf_isNone_iff (wp : Warp) (hdr : DWord) (word ord lane : Nat) : (wp.partOf hdr word ord lane).isNone = true ↔
    ∀ p ∈ wp.colls, ¬ (p.hdr = hdr ∧ p.word = word ∧ p.ord = ord ∧ p.lane = lane) := by
  simp only [Warp.partOf, Option.isNone_iff_eq_none, List.find?_eq_none, Bool.and_eq_true, beq_iff_eq, and_assoc]

/-- A named lane is no longer waited for (04_isa_core.md:R116). -/
theorem settled_iff (wp : Warp) (hdr : DWord) (word ord lane : Nat) : wp.settled hdr word ord lane = true ↔
    wp.live.getLsbD lane = false ∨ ∃ p ∈ wp.colls, p.hdr = hdr ∧ p.word = word ∧ p.ord = ord ∧ p.lane = lane := by
  have hnone := partOf_isNone_iff wp hdr word ord lane
  rw [Warp.settled, Bool.or_eq_true, Bool.not_eq_true', or_comm]
  refine or_congr_right ?_
  rw [← Option.not_isNone, Bool.not_eq_true', ← Bool.not_eq_true, hnone]
  push Not
  rfl

/-- When two parts disagree (04_isa_core.md:R116, R117). -/
theorem partsClash_iff (wp : Warp) (n o : CollPart) : partsClash wp n o = true ↔ n.arrived = true ∧ o.arrived = true ∧ n.lane ≠ o.lane ∧
    (((n.hdr = o.hdr ∧ n.word = o.word) ∧ n.ord = o.ord ∧ (n.named.getLsbD o.lane = true ∨ o.named.getLsbD n.lane = true) ∧
        (n.width ≠ o.width ∨ ∃ l, l < 32 ∧ ((squadOf n.width n.lane).getLsbD l = true ∨ (squadOf o.width o.lane).getLsbD l = true) ∧
          ¬ (n.named.getLsbD l = true ↔ o.named.getLsbD l = true))) ∨
      (¬ (n.hdr = o.hdr ∧ n.word = o.word) ∧ o.named.getLsbD n.lane = true ∧ n.named.getLsbD o.lane = true ∧
        ∀ p ∈ wp.colls, ¬ (p.hdr = o.hdr ∧ p.word = o.word ∧ p.ord = o.ord ∧ p.lane = n.lane))) := by
  unfold partsClash
  simp only [Bool.and_eq_true, bne_iff_ne, ne_eq, and_assoc]
  refine and_congr_right' (and_congr_right' (and_congr_right' ?_))
  by_cases hsame : n.hdr = o.hdr ∧ n.word = o.word
  · simp only [if_true, hsame, Bool.and_eq_true, Bool.or_eq_true, Bool.not_eq_true', bne_iff_ne, beq_iff_eq, beq_eq_false_iff_ne,
      ne_eq, or_assoc, disagree_iff, not_true_eq_false, false_and, or_false, true_and, and_assoc]
  · rw [if_neg (by simpa only [beq_iff_eq] using hsame)]
    simp only [Bool.and_eq_true, partOf_isNone_iff]
    tauto

/-- What a collective does as it issues (04_isa_core.md:R115 to R117). -/
theorem collectivesIssue : Claims.CollectivesIssue := by
  refine ⟨fun s w i op hop hi => ⟨fun hagree => ?_, fun ⟨n, o, hc⟩ => ?_⟩, fun wp n o => partsClash_iff wp n o⟩
  · show exec _ s = _
    rw [exec_collective hop hi, collective_of_agree s (clashes_eq_nil hagree)]
    rfl
  · obtain ⟨o', ho'⟩ := mem_clashes hc
    obtain ⟨c, r, hcr⟩ := List.exists_cons_of_ne_nil (List.ne_nil_of_mem ho')
    refine ⟨_, c.1, c.2, clash_of_mem (hcr ▸ List.mem_cons_self), fun l hl => getLsbD_clash_lanes hl, ?_⟩
    show exec _ s = _
    rw [exec_collective hop hi, collective_of_clash s hcr]
    rfl

/-- The lanes of a squad: the groups of `wd` lanes (02_state.md:R41; 04_isa_core.md:R115). -/
theorem getLsbD_squadOf {wd lane l : Nat} (hw : 0 < wd) (hl : l < 32) :
    (squadOf wd lane).getLsbD l = decide (l / wd = lane / wd) := by
  rw [squadOf, getLsbD_maskOf, decide_eq_true hl, Bool.true_and, decide_eq_decide, List.mem_map]
  have hbase : lane - lane % wd = wd * (lane / wd) := by
    have := Nat.div_add_mod lane wd
    omega
  rw [hbase]
  refine ⟨fun ⟨k, hk, hkl⟩ => ?_, fun h => ⟨l % wd, List.mem_range.2 (Nat.mod_lt _ hw), by rw [← h, Nat.div_add_mod]⟩⟩
  rw [← hkl, Nat.mul_add_div hw, Nat.div_eq_of_lt (List.mem_range.1 hk), Nat.add_zero]

/-- When an occurrence is performed (04_isa_core.md:R116). -/
theorem complete_iff (wp : Warp) (c : CollPart) : wp.complete? c = true ↔ c.ord = 0 ∧
    (∀ l, l < 32 → c.named.getLsbD l = true →
      wp.live.getLsbD l = false ∨ ∃ p ∈ wp.colls, p.hdr = c.hdr ∧ p.word = c.word ∧ p.ord = 0 ∧ p.lane = l) ∧
    (c.arrived = true ∨ ∀ p ∈ wp.colls, p.arrived = true → p.hdr = c.hdr → p.word = c.word → p.ord = c.ord →
      p.named.getLsbD c.lane = false ∧ c.named.getLsbD p.lane = false) := by
  rw [Warp.complete?, Bool.and_eq_true, Bool.and_eq_true, and_assoc, beq_iff_eq, List.all_eq_true, Bool.or_eq_true, Bool.not_eq_true',
    List.any_eq_false]
  refine and_congr_right' (and_congr ?_ (or_congr_right ?_))
  · simp only [mem_lanesOf, settled_iff, and_imp]
  · refine forall₂_congr (fun p _ => ?_)
    simp only [CollPart.namedBy, Bool.and_eq_true, Bool.or_eq_true, beq_iff_eq]
    grind

/-- Named sets, and the lanes that an occurrence waits for (04_isa_core.md:R115, R116). -/
theorem collectivesWait : Claims.CollectivesWait := by
  intro w wp c code lane _ _ _ width m
  refine ⟨fun l hl => ?_, complete_iff wp c⟩
  show (squadOf width lane &&& m).getLsbD l = _
  rw [BitVec.getLsbD_and]
  exact congrArg (· && m.getLsbD l) (getLsbD_squadOf (Nat.two_pow_pos code) hl)

/-- Settles O43: the listed clashes are those of the statement (`clash_of_mem`, `mem_clashes`), so a collective traps exactly where one
is; `partsClash_iff` and `complete_iff` say when parts disagree and when an occurrence is performed. -/
theorem collectiveWords : Obligations.CollectiveWords := ⟨collectivesIssue, collectivesWait⟩

end Sys2Proof.Machine
end

section
/-! ## O44. Performing an occurrence -/

namespace Sys2Proof.Machine

variable {wp : Warp} {c : CollPart}

/-- The effect of an occurrence on the registers: D of the lanes `ls`, a predicate where `pd` says so, and their flags
(04_isa_core.md:R117 to R121). -/
def collOut (wp : Warp) (c : CollPart) (pd : Bool) (ls : List Nat) : Warp :=
  (if pd then wp.putP c.w.d ls (fun l => (wp.collRes c l).2.1) else wp.put c.words c.w.d ls (fun l => (wp.collRes c l).1)).raiseFlags ls
    (fun l => unlessNF c.w.nf (wp.collRes c l).2.2)

/-- A `vote` writes its contributing lanes. -/
theorem performColl_vote (h : c.op = .vote) : (wp.performColl c).1 =
    { collOut wp c (c.w.mod == 1 || c.w.mod == 2 || c.w.mod == 3) (wp.contributors c) with colls := (wp.performColl c).1.colls } := by
  simp only [Warp.performColl, collOut, h]

/-- A `shfl` writes the lanes that have arrived (04_isa_core.md:R119). -/
theorem performColl_shfl (h : c.op = .shfl) : (wp.performColl c).1 =
    { collOut wp c false (lanesOf (wp.performColl c).2) with colls := (wp.performColl c).1.colls } := by
  simp only [Warp.performColl, collOut, h]

/-- A reduction or a scan writes its contributing lanes. -/
theorem performColl_tree (h : c.op = .red ∨ c.op = .scan) : (wp.performColl c).1 =
    { collOut wp c false (wp.contributors c) with colls := (wp.performColl c).1.colls } := by
  rcases h with h | h <;> simp only [Warp.performColl, collOut, h]

theorem contributors_lt {l : Nat} (h : l ∈ wp.contributors c) : l < 32 := lanesOf_lt (List.mem_filter.1 h).1

theorem contributors_nodup : (wp.contributors c).Nodup := (lanesOf_nodup _).filter _

theorem regWrite_collOut {ls : List Nat} {u : Warp} (hls : ∀ l ∈ ls, l < 32) (hu : u = { collOut wp c false ls with colls := u.colls }) :
    RegWrite c.words c.w.d ls (fun l => (wp.collRes c l).1) wp u := by
  rw [hu]
  exact (regWrite_put wp c.words c.w.d ls _ hls).congr rfl rfl rfl

theorem predWrite_collOut {ls : List Nat} {u : Warp} (hu : u = { collOut wp c true ls with colls := u.colls }) :
    PredWrite c.w.d ls (fun l => (wp.collRes c l).2.1) wp u := by
  rw [hu]
  exact predWrite_putP wp c.w.d ls _

theorem flagRaise_collOut {ls : List Nat} {u : Warp} (hls : ls.Nodup) (hu : u = { collOut wp c false ls with colls := u.colls }) :
    FlagRaise ls (fun l => unlessNF c.w.nf (wp.collRes c l).2.2) wp u := by
  have h := flagRaise_raiseFlags (wp.put c.words c.w.d ls (fun l => (wp.collRes c l).1)) ls
    (fun l => unlessNF c.w.nf (wp.collRes c l).2.2) hls
  rw [hu]
  rw [FlagRaise, put_fenv] at h
  exact h

/-- A register write depends on the values of its lanes alone, modulo the width. -/
theorem RegWrite.congr_val {n : Nat} {o : Opnd} {ls : List Nat} {val val' : Nat → Nat} {a b : Warp} (h : RegWrite n o ls val a b)
    (hval : ∀ l ∈ ls, val l % 2 ^ (32 * n) = val' l % 2 ^ (32 * n)) : RegWrite n o ls val' a b :=
  ⟨fun k hk l hl => (h.v_lanes k hk l hl).trans (hval l hl), h.v_rest,
    fun k hk l hl => (h.s_value k hk l hl).trans (hval l (List.mem_of_mem_head? hl)), h.s_rest, h.tags⟩

/-- What a `vote` with a register result writes. -/
theorem regWrite_vote {m : Nat} (h : c.op = .vote) (hm : c.w.mod.toNat = m) (hpd : m ≠ 1 ∧ m ≠ 2 ∧ m ≠ 3) :
    RegWrite 1 c.w.d (wp.contributors c) (fun l => (wp.collRes c l).1) wp (wp.performColl c).1 := by
  have hb : (c.w.mod == 1 || c.w.mod == 2 || c.w.mod == 3) = false := by
    simp [← BitVec.toNat_inj, hm, hpd]
  have hu := performColl_vote (wp := wp) h
  rw [hb] at hu
  have hwords : c.words = 1 := by rw [CollPart.words, h]
  exact hwords ▸ regWrite_collOut (fun _ hl => contributors_lt hl) hu

/-- What a `vote` with a predicate result writes. -/
theorem predWrite_vote (h : c.op = .vote) (hpd : (c.w.mod == 1 || c.w.mod == 2 || c.w.mod == 3) = true) :
    PredWrite c.w.d (wp.contributors c) (fun l => (wp.collRes c l).2.1) wp (wp.performColl c).1 := by
  have hu := performColl_vote (wp := wp) h
  rw [hpd] at hu
  exact predWrite_collOut hu

/-- What a `shfl` writes (04_isa_core.md:R119). -/
theorem regWrite_shfl (h : c.op = .shfl) : RegWrite (if c.w.mod.getLsbD 2 then 2 else 1) c.w.d (lanesOf (wp.performColl c).2)
    (fun l => (wp.collRes c l).1) wp (wp.performColl c).1 := by
  have hwords : c.words = if c.w.mod.getLsbD 2 then 2 else 1 := by rw [CollPart.words, h]
  exact hwords ▸ regWrite_collOut (fun _ hl => lanesOf_lt hl) (performColl_shfl h)

/-- What a reduction or a scan writes and raises (04_isa_core.md:R120, R121). -/
theorem regWrite_tree (h : c.op = .red ∨ c.op = .scan) :
    RegWrite 1 c.w.d (wp.contributors c) (fun l => (wp.collRes c l).1) wp (wp.performColl c).1 ∧
      FlagRaise (wp.contributors c) (fun l => unlessNF c.w.nf (wp.collRes c l).2.2) wp (wp.performColl c).1 := by
  have hwords : c.words = 1 := by rcases h with h | h <;> rw [CollPart.words, h]
  exact ⟨hwords ▸ regWrite_collOut (fun _ hl => contributors_lt hl) (performColl_tree h),
    flagRaise_collOut contributors_nodup (performColl_tree h)⟩

/-- A contributing lane of the pending occurrence has arrived. -/
theorem contributor_arrived {l : Nat} (h0 : c.ord = 0) (h : l ∈ wp.contributors c) : l ∈ lanesOf (wp.performColl c).2 := by
  obtain ⟨hl, hp⟩ := List.mem_filter.1 h
  obtain ⟨p, hpart⟩ : ∃ p, wp.partOf c.hdr c.word c.ord l = some p := by
    cases hpart : wp.partOf c.hdr c.word c.ord l with
    | none => simp [hpart] at hp
    | some p => exact ⟨p, rfl⟩
  simp only [hpart] at hp
  obtain ⟨hnamed, hlt⟩ : c.named.getLsbD l = true ∧ l < 32 := (mem_lanesOf.1 hl).symm
  have hmem : p ∈ wp.colls := List.mem_of_find?_eq_some hpart
  have hat := List.find?_some hpart
  simp only [Bool.and_eq_true, beq_iff_eq, and_assoc] at hat
  obtain ⟨hhdr, hword, hord, rfl⟩ := hat
  have hin : wp.inInstance c p = true := by
    simp [Warp.inInstance, hhdr, hword, hord, h0, hnamed]
  have hlanes : (maskOf ((wp.colls.filter (wp.inInstance c)).map CollPart.lane)).getLsbD p.lane = true := by
    rw [getLsbD_maskOf, decide_eq_true hlt, Bool.true_and, decide_eq_true_eq]
    exact List.mem_map.2 ⟨p, List.mem_filter.2 ⟨hmem, hin⟩, rfl⟩
  refine mem_lanesOf.2 ⟨hlt, ?_⟩
  rw [Warp.performColl, getLsbD_maskOf, decide_eq_true hlt, Bool.true_and, decide_eq_true_eq]
  exact List.mem_map.2 ⟨p, List.mem_filter.2 ⟨hmem, by
    simp only [hhdr, hword, hord, h0, hp, hlanes, beq_self_eq_true, Bool.and_self]⟩, rfl⟩

end Sys2Proof.Machine
end

section
/-! ## O44. Votes -/

namespace Sys2Proof.Machine

variable {wp : Warp} {c : CollPart}

/-- Whether position `k` of the squad of a part contributes true. -/
def votesTrue (wp : Warp) (c : CollPart) (k : Nat) : Bool := decide (k < c.width) && nth (wp.contributions c) k none == some 1

/-- The positions that contribute true, ascending. -/
def trueVotes (wp : Warp) (c : CollPart) : List Nat :=
  (List.range c.width).filter (fun k => nth (wp.contributions c) k none == some 1)

theorem mem_trueVotes {k : Nat} : k ∈ trueVotes wp c ↔ votesTrue wp c k = true := by
  simp [trueVotes, votesTrue]

theorem contributions_length : (wp.contributions c).length = c.width := by simp [Warp.contributions]

theorem nth_eq_getD {α : Type} (l : List α) (i : Nat) (d : α) : nth l i d = l.getD i d := by
  induction l generalizing i with
  | nil => rfl
  | cons x r ih => cases i <;> simp [nth, ih]

/-- Some position contributes true exactly when a true contribution is listed. -/
theorem exists_votesTrue_iff : (∃ k, votesTrue wp c k = true) ↔ some 1 ∈ wp.contributions c := by
  simp only [votesTrue, Bool.and_eq_true, decide_eq_true_eq, beq_iff_eq, nth_eq_getD, List.mem_iff_getElem, contributions_length]
  refine exists_congr (fun k => ⟨fun ⟨hk, h⟩ => ⟨hk, ?_⟩, fun ⟨hk, h⟩ => ⟨hk, ?_⟩⟩)
  · rwa [List.getD_eq_getElem _ _ (contributions_length (c := c) ▸ hk)] at h
  · rwa [List.getD_eq_getElem _ _ (contributions_length (c := c) ▸ hk)]

/-- The word of true contributions has the bit of each lane that contributes true. -/
theorem testBit_trueVotes {base j : Nat} (hj : j < 32) : (maskOf ((trueVotes wp c).map (· + base))).toNat.testBit j =
    (decide (base ≤ j) && votesTrue wp c (j - base)) := by
  rw [BitVec.testBit_toNat, getLsbD_maskOf, decide_eq_true hj, Bool.true_and, Bool.eq_iff_iff, decide_eq_true_eq, Bool.and_eq_true,
    decide_eq_true_eq, List.mem_map]
  constructor
  · rintro ⟨k, hk, rfl⟩
    exact ⟨Nat.le_add_left .., by rw [Nat.add_sub_cancel]; exact mem_trueVotes.1 hk⟩
  · rintro ⟨hle, hk⟩
    exact ⟨j - base, mem_trueVotes.2 hk, Nat.sub_add_cancel hle⟩

theorem trueVotes_ne_nil : (trueVotes wp c != []) = (wp.contributions c).any (· == some 1) := by
  have hex : trueVotes wp c ≠ [] ↔ ∃ k, votesTrue wp c k = true :=
    ⟨fun h => (List.exists_mem_of_ne_nil _ h).imp (fun _ => mem_trueVotes.1), fun ⟨_, hk⟩ => List.ne_nil_of_mem (mem_trueVotes.2 hk)⟩
  rw [Bool.eq_iff_iff, bne_iff_ne, List.any_eq_true, hex, exists_votesTrue_iff]
  simp only [beq_iff_eq, exists_eq_right]

theorem trueVotes_length : (trueVotes wp c).length = (List.range c.width).countP (votesTrue wp c) := by
  rw [trueVotes, ← List.countP_eq_length_filter]
  refine List.countP_congr (fun k hk => ?_)
  rw [votesTrue, decide_eq_true (List.mem_range.1 hk), Bool.true_and]

/-- The first position that contributes true comes before the others. -/
theorem trueVotes_cons {k : Nat} {r : List Nat} (h : trueVotes wp c = k :: r) :
    votesTrue wp c k = true ∧ ∀ j, j < k → votesTrue wp c j = false := by
  have hmem : ∀ j, votesTrue wp c j = true ↔ j ∈ k :: r := fun j => h ▸ mem_trueVotes.symm
  have hsorted : (k :: r).Pairwise (· < ·) := h ▸ List.pairwise_lt_range.filter _
  refine ⟨(hmem k).2 List.mem_cons_self, fun j hj => Bool.eq_false_iff.2 (fun hjt => ?_)⟩
  rcases List.mem_cons.1 ((hmem j).1 hjt) with rfl | hjr
  · exact lt_irrefl _ hj
  · exact lt_asymm hj ((List.pairwise_cons.1 hsorted).1 j hjr)

theorem all_present_eq_one (xs : List (Option Nat)) :
    (xs.filterMap id).all (· == 1) = xs.all (fun x => x == none || x == some 1) := by
  induction xs with
  | nil => rfl
  | cons x r ih => cases x <;> simp_all

theorem all_eq_head (l : List Nat) : l.all (fun x => x == l.headD 0) = l.all (fun x => l.all (fun y => x == y)) := by
  rw [Bool.eq_iff_iff]
  simp only [List.all_eq_true, beq_iff_eq]
  cases l with
  | nil => simp
  | cons a r => exact ⟨fun h x hx y hy => (h x hx).trans (h y hy).symm, fun h x hx => h x hx a List.mem_cons_self⟩

theorem collRes_vote_word (h : c.op = .vote) (hm : c.w.mod = 0) (l : Nat) :
    (wp.collRes c l).1 = (maskOf ((trueVotes wp c).map (· + (c.lane - c.lane % c.width)))).toNat := by
  simp only [Warp.collRes, collResult, h, hm]
  rfl

theorem collRes_vote_any (h : c.op = .vote) (hm : c.w.mod = 1) (l : Nat) : (wp.collRes c l).2.1 = (trueVotes wp c != []) := by
  simp only [Warp.collRes, collResult, h, hm]
  rfl

theorem collRes_vote_all (h : c.op = .vote) (hm : c.w.mod = 2) (l : Nat) :
    (wp.collRes c l).2.1 = ((wp.contributions c).filterMap id).all (· == 1) := by
  simp only [Warp.collRes, collResult, h, hm]
  rfl

theorem collRes_vote_same (h : c.op = .vote) (hm : c.w.mod = 3) (l : Nat) : (wp.collRes c l).2.1 =
    ((wp.contributions c).filterMap id).all (fun x => x == ((wp.contributions c).filterMap id).headD 0) := by
  simp only [Warp.collRes, collResult, h, hm]
  rfl

theorem collRes_vote_count (h : c.op = .vote) (hm : c.w.mod = 4) (l : Nat) : (wp.collRes c l).1 = (trueVotes wp c).length := by
  simp only [Warp.collRes, collResult, h, hm]
  rfl

theorem collRes_vote_first (h : c.op = .vote) (hm : c.w.mod = 5) (l : Nat) :
    (wp.collRes c l).1 = ((trueVotes wp c).head?.map (c.lane - c.lane % c.width + ·)).getD 32 := by
  simp only [Warp.collRes, collResult, h, hm]
  change (match trueVotes wp c with | [] => 32 | k :: _ => c.lane - c.lane % c.width + k) = _
  cases trueVotes wp c <;> rfl

/-- A `shfl` gives the value of the source lane, or the lane's own (04_isa_core.md:R119). -/
theorem collRes_shfl (h : c.op = .shfl) (l : Nat) : (wp.collRes c l).1 =
    let base := c.lane - c.lane % c.width
    let p := (wp.partOf c.hdr c.word c.ord l).getD c
    let src := if c.w.mod.toNat % 4 = 0 then base + p.sel % c.width
      else if c.w.mod.toNat % 4 = 1 then (if p.sel ≤ l - base then l - p.sel else l)
      else if c.w.mod.toNat % 4 = 2 then (if l - base + p.sel < c.width then l + p.sel else l)
      else base + ((l - base) ^^^ (p.sel % c.width))
    if (wp.contributors c).contains src then (nth (wp.contributions c) (src - base) none).getD p.val.toNat else p.val.toNat := by
  simp only [Warp.collRes, collResult, h]
  have hlt : c.w.mod.toNat % 4 < 4 := Nat.mod_lt _ (by decide)
  generalize c.w.mod.toNat % 4 = m at hlt
  match m, hlt with
  | 0, _ | 1, _ | 2, _ | 3, _ => rfl

/-- Votes and shuffles, by operation (04_isa_core.md:R118, R119). -/
theorem votesAndShuffles : Claims.VotesAndShuffles := by
  intro wp c _ _
  refine ⟨fun h hm => ⟨_, (regWrite_vote h (congrArg BitVec.toNat hm) (by decide)).congr_val (fun l _ => by rw [collRes_vote_word h hm]),
      fun j hj => testBit_trueVotes hj⟩,
    fun h hm => (predWrite_vote h (by rw [hm]; rfl)).congr (fun l _ => by rw [collRes_vote_any h hm, trueVotes_ne_nil]),
    fun h hm => (predWrite_vote h (by rw [hm]; rfl)).congr (fun l _ => by rw [collRes_vote_all h hm, all_present_eq_one]),
    fun h hm => (predWrite_vote h (by rw [hm]; rfl)).congr (fun l _ => by rw [collRes_vote_same h hm, all_eq_head]),
    fun h hm => (regWrite_vote h (congrArg BitVec.toNat hm) (by decide)).congr_val
      (fun l _ => by rw [collRes_vote_count h hm, trueVotes_length]; rfl),
    fun h hm => ⟨_, (regWrite_vote h (congrArg BitVec.toNat hm) (by decide)).congr_val (fun l _ => by rw [collRes_vote_first h hm]),
      fun ⟨k, hk⟩ => ?_, fun hnone => ?_⟩,
    fun h => (regWrite_shfl h).congr_val (fun l _ => by rw [collRes_shfl h]),
    fun h0 l hl => contributor_arrived h0 hl⟩
  · obtain ⟨k0, r, hcons⟩ := List.exists_cons_of_ne_nil (List.ne_nil_of_mem (mem_trueVotes.2 hk))
    obtain ⟨htrue, hfirst⟩ := trueVotes_cons hcons
    rw [hcons]
    exact ⟨Nat.le_add_right .., (Nat.add_sub_cancel_left ..).symm ▸ htrue, fun j hj => hfirst j (hj.trans_eq (Nat.add_sub_cancel_left ..))⟩
  · have hnil : trueVotes wp c = [] := List.eq_nil_iff_forall_not_mem.2 (fun k hk =>
      Bool.false_ne_true ((hnone k).symm.trans (mem_trueVotes.1 hk)))
    rw [hnil]
    rfl

end Sys2Proof.Machine
end

section
/-! ## O44. The tree of R120 -/

namespace Sys2Proof.Machine

variable {wp : Warp} {c : CollPart} {ty op : Nat}

theorem treeLevel_none (y : Option Nat) (r : List (Option Nat)) :
    (treeLevel ty op (none :: y :: r)).1 = y :: (treeLevel ty op r).1 := rfl

theorem treeLevel_some_none (x : Nat) (r : List (Option Nat)) :
    (treeLevel ty op (some x :: none :: r)).1 = some x :: (treeLevel ty op r).1 := rfl

theorem treeLevel_some_some (x y : Nat) (r : List (Option Nat)) :
    (treeLevel ty op (some x :: some y :: r)).1 = some (combine ty op x y).1 :: (treeLevel ty op r).1 := rfl

theorem treeLevel_length : ∀ xs : List (Option Nat), (treeLevel ty op xs).1.length = (xs.length + 1) / 2
  | [] => rfl
  | [_] => by simp [treeLevel]
  | none :: y :: r => by
    rw [treeLevel_none, List.length_cons, treeLevel_length r]
    simp only [List.length_cons]
    omega
  | some x :: none :: r => by
    rw [treeLevel_some_none, List.length_cons, treeLevel_length r]
    simp only [List.length_cons]
    omega
  | some x :: some y :: r => by
    rw [treeLevel_some_some, List.length_cons, treeLevel_length r]
    simp only [List.length_cons]
    omega

/-- A level has a present value exactly when the one below has. -/
theorem treeLevel_eq_nil_iff : ∀ xs : List (Option Nat), (treeLevel ty op xs).1.filterMap id = [] ↔ xs.filterMap id = []
  | [] | [_] => Iff.rfl
  | none :: none :: r => by simpa [treeLevel_none] using treeLevel_eq_nil_iff r
  | none :: some y :: r => by simp [treeLevel_none]
  | some x :: none :: r => by simp [treeLevel_some_none]
  | some x :: some y :: r => by simp [treeLevel_some_some]

/-- The contributions that are present, read by `φ` and combined in order. -/
def totalOf {M : Type} (φ : Nat → M) (mul : M → M → M) (e : M) (xs : List (Option Nat)) : M :=
  (xs.filterMap id).foldr (fun x m => mul (φ x) m) e

section
variable {M : Type} {φ : Nat → M} {mul : M → M → M} {e : M}

theorem totalOf_none (r : List (Option Nat)) : totalOf φ mul e (none :: r) = totalOf φ mul e r := rfl

theorem totalOf_some (x : Nat) (r : List (Option Nat)) : totalOf φ mul e (some x :: r) = mul (φ x) (totalOf φ mul e r) := rfl

/-- One level of the tree keeps the total (04_isa_core.md:R120). -/
theorem totalOf_treeLevel (hassoc : ∀ x y z, mul (mul x y) z = mul x (mul y z))
    (hφ : ∀ x y, φ (combine ty op x y).1 = mul (φ x) (φ y)) :
    ∀ xs : List (Option Nat), totalOf φ mul e (treeLevel ty op xs).1 = totalOf φ mul e xs
  | [] | [_] => rfl
  | none :: none :: r => totalOf_treeLevel hassoc hφ r
  | none :: some y :: r => by
    rw [treeLevel_none, totalOf_none, totalOf_some, totalOf_some, totalOf_treeLevel hassoc hφ r]
  | some x :: none :: r => by
    rw [treeLevel_some_none, totalOf_some, totalOf_some, totalOf_none, totalOf_treeLevel hassoc hφ r]
  | some x :: some y :: r => by
    rw [treeLevel_some_some, totalOf_some, totalOf_some, totalOf_some, totalOf_treeLevel hassoc hφ r, hφ, hassoc]

/-- THE TREE (04_isa_core.md:R120): over 2^k positions it gives the total of the contributions that are present, where its step is an
associative operation under `φ`, and nothing exactly when none is. -/
theorem reduceTree_spec (hassoc : ∀ x y z, mul (mul x y) z = mul x (mul y z)) (he : ∀ x, mul x e = x)
    (hφ : ∀ x y, φ (combine ty op x y).1 = mul (φ x) (φ y)) {k : Nat} {xs : List (Option Nat)} (hlen : xs.length ≤ 2 ^ k) :
    (∀ v, (reduceTree ty op k xs).1 = some v → φ v = totalOf φ mul e xs) ∧
      ((reduceTree ty op k xs).1 = none ↔ xs.filterMap id = []) := by
  induction k generalizing xs with
  | zero =>
    match xs, hlen with
    | [], _ => exact ⟨fun _ h => (nomatch h), by simp [reduceTree]⟩
    | [none], _ => exact ⟨fun _ h => (nomatch h), by simp [reduceTree]⟩
    | [some x], _ => exact ⟨fun v h => Option.some.inj h ▸ (he _).symm, by simp [reduceTree]⟩
  | succ k ih =>
    have hhalf : (treeLevel ty op xs).1.length ≤ 2 ^ k := by
      rw [treeLevel_length]
      rw [pow_succ] at hlen
      omega
    obtain ⟨hsome, hnone⟩ := ih hhalf
    exact ⟨fun v h => (hsome v h).trans (totalOf_treeLevel hassoc hφ xs), hnone.trans (treeLevel_eq_nil_iff xs)⟩

/-- The tree with a value for no contribution that reads as the unit of the operation. -/
theorem reduceTree_getD (hassoc : ∀ x y z, mul (mul x y) z = mul x (mul y z)) (he : ∀ x, mul x e = x)
    (hφ : ∀ x y, φ (combine ty op x y).1 = mul (φ x) (φ y)) {k d : Nat} (hd : φ d = e) {xs : List (Option Nat)}
    (hlen : xs.length ≤ 2 ^ k) : φ ((reduceTree ty op k xs).1.getD d) = totalOf φ mul e xs := by
  obtain ⟨hsome, hnone⟩ := reduceTree_spec hassoc he hφ hlen
  cases h : (reduceTree ty op k xs).1 with
  | none =>
    rw [totalOf, hnone.1 h]
    exact hd
  | some v => exact hsome v h

end

/-- The integer steps of the tree (04_isa_core.md:R120). -/
theorem combine_add (hty : ty < 2) (x y : Nat) :
    (combine ty 0 x y).1 = extInt false 32 32 (readInt (ty == 0) 32 x + readInt (ty == 0) 32 y) := by
  rw [combine, if_neg (by omega)]
  rfl

theorem combine_and (hty : ty < 2) (x y : Nat) : (combine ty 3 x y).1 = x &&& y := by
  rw [combine, if_neg (by omega)]
  rfl

theorem combine_or (hty : ty < 2) (x y : Nat) : (combine ty 4 x y).1 = x ||| y := by
  rw [combine, if_neg (by omega)]
  rfl

theorem combine_xor (hty : ty < 2) (x y : Nat) : (combine ty 5 x y).1 = x ^^^ y := by
  rw [combine, if_neg (by omega)]
  rfl

/-- A value of 32 bits, read by either type, wraps to itself. -/
theorem ofInt_readInt (sg : Bool) (x : Nat) : BitVec.ofInt 32 (readInt sg 32 x) = BitVec.ofNat 32 x := by
  apply BitVec.eq_of_toNat_eq
  rw [toNat_ofInt_eq, BitVec.toNat_ofNat, readInt]
  split <;> omega

/-- The sum of the tree is the sum of the contributions (04_isa_core.md:R120). -/
theorem reduceTree_sum (hty : ty < 2) {xs : List (Option Nat)} (hlen : xs.length ≤ 32) :
    (reduceTree ty 0 5 xs).1.getD 0 % 2 ^ 32 = (xs.filterMap id).sum % 2 ^ 32 := by
  have hφ : ∀ x y, BitVec.ofNat 32 (combine ty 0 x y).1 = BitVec.ofNat 32 x + BitVec.ofNat 32 y := fun x y => by
    rw [combine_add hty, extInt_eq le_rfl, if_neg Bool.false_ne_true, BitVec.zeroExtend, BitVec.setWidth_eq, BitVec.ofNat_toNat,
      BitVec.setWidth_eq, BitVec.ofInt_add, ofInt_readInt, ofInt_readInt]
  have htotal : totalOf (BitVec.ofNat 32) (· + ·) 0 xs = BitVec.ofNat 32 (xs.filterMap id).sum := by
    rw [totalOf]
    induction xs.filterMap id with
    | nil => rfl
    | cons x r ih => rw [List.foldr_cons, ih, List.sum_cons, BitVec.ofNat_add]
  have h := reduceTree_getD (e := (0 : BitVec 32)) BitVec.add_assoc BitVec.add_zero hφ (d := 0) rfl (k := 5) hlen
  rw [htotal] at h
  simpa only [BitVec.toNat_ofNat] using congrArg BitVec.toNat h

/-- A bitwise step of the tree acts on each bit of the contributions (04_isa_core.md:R120). -/
theorem testBit_reduceTree {f : Bool → Bool → Bool} {e : Bool} (hassoc : ∀ x y z, f (f x y) z = f x (f y z)) (he : ∀ x, f x e = x)
    {j : Nat} (hf : ∀ x y, (combine ty op x y).1.testBit j = f (x.testBit j) (y.testBit j)) {xs : List (Option Nat)}
    (hlen : xs.length ≤ 32) : ((reduceTree ty op 5 xs).1.getD 0).testBit j =
      if xs.filterMap id = [] then false else (xs.filterMap id).foldr (fun x b => f (x.testBit j) b) e := by
  obtain ⟨hsome, hnone⟩ := reduceTree_spec (φ := fun x => x.testBit j) hassoc he hf (k := 5) hlen
  cases h : (reduceTree ty op 5 xs).1 with
  | none => rw [if_pos (hnone.1 h), Option.getD_none, Nat.zero_testBit]
  | some v =>
    have hne : ¬ xs.filterMap id = [] := fun hnil => by simp [hnone.2 hnil] at h
    rw [if_neg hne]
    exact hsome v h

theorem foldr_and (p : Nat → Bool) (l : List Nat) : l.foldr (fun x b => p x && b) true = l.all p := by
  induction l with
  | nil => rfl
  | cons x r ih => rw [List.foldr_cons, ih, List.all_cons]

theorem foldr_or (p : Nat → Bool) (l : List Nat) : l.foldr (fun x b => p x || b) false = l.any p := by
  induction l with
  | nil => rfl
  | cons x r ih => rw [List.foldr_cons, ih, List.any_cons]

theorem foldr_xor (p : Nat → Bool) (l : List Nat) : l.foldr (fun x b => p x ^^ b) false = (l.countP p % 2 == 1) := by
  induction l with
  | nil => rfl
  | cons x r ih =>
    rw [List.foldr_cons, ih, List.countP_cons]
    rcases Nat.mod_two_eq_zero_or_one (r.countP p) with h | h <;> cases p x <;> simp [h, Nat.add_mod]

end Sys2Proof.Machine
end

section
/-! ## O44. Reductions and scans -/

namespace Sys2Proof.Machine

variable {wp : Warp} {c : CollPart}

theorem collRes_red (h : c.op = .red) (l : Nat) : wp.collRes c l =
    ((reduceTree (c.w.mod.toNat / 8) (c.w.mod.toNat % 8) 5 (wp.contributions c)).1.getD 0, false,
      (reduceTree (c.w.mod.toNat / 8) (c.w.mod.toNat % 8) 5 (wp.contributions c)).2) := by
  simp only [Warp.collRes, collResult, h]

/-- How many positions of the squad a scan combines for a lane (04_isa_core.md:R121). -/
def scanCut (c : CollPart) (l : Nat) : Nat :=
  if c.w.mod.toNat / 4 % 2 = 1 then l - (c.lane - c.lane % c.width) else l - (c.lane - c.lane % c.width) + 1

/-- A scan of `.ex` leaves out the lane's own position. -/
theorem scanCut_eq (c : CollPart) (l : Nat) : scanCut c l =
    if c.w.mod.getLsbD 2 then l - (c.lane - c.lane % c.width) else l - (c.lane - c.lane % c.width) + 1 := by
  rw [← BitVec.testBit_toNat, Nat.testBit_eq_decide_div_mod_eq]
  simp only [scanCut, decide_eq_true_eq, Nat.reducePow]

/-- The contributions that a scan combines for a lane: those up to its position, or before it (04_isa_core.md:R121). -/
def scanned (wp : Warp) (c : CollPart) (l : Nat) : List (Option Nat) :=
  (wp.contributions c).take (scanCut c l) ++ List.replicate (c.width - scanCut c l) none

/-- The operation of a scan, as the tree numbers it (04_isa_core.md:R121). -/
def scanOp (c : CollPart) : Nat := if c.w.mod.toNat % 4 = 3 then 4 else c.w.mod.toNat % 4

theorem collRes_scan (h : c.op = .scan) (l : Nat) : wp.collRes c l =
    ((reduceTree (c.w.mod.toNat / 8) (scanOp c) 5 (scanned wp c l)).1.getD
        (scanIdentity (c.w.mod.toNat / 8) (if scanOp c = 4 then 3 else scanOp c)), false,
      (reduceTree (c.w.mod.toNat / 8) (scanOp c) 5 (scanned wp c l)).2) := by
  simp only [Warp.collRes, collResult, h, scanned, scanOp, scanCut]
  rfl

theorem scanned_length (l : Nat) : (scanned wp c l).length = c.width := by
  rw [scanned, List.length_append, List.length_take, List.length_replicate, contributions_length]
  omega

/-- The places that a scan leaves out hold no contribution. -/
theorem scanned_present (l : Nat) :
    (scanned wp c l).filterMap id = ((wp.contributions c).take (scanCut c l)).filterMap id := by
  simp [scanned, List.filterMap_append]

/-- What a reduction writes. -/
theorem regWrite_red (h : c.op = .red) : RegWrite 1 c.w.d (wp.contributors c)
    (fun _ => (reduceTree (c.w.mod.toNat / 8) (c.w.mod.toNat % 8) 5 (wp.contributions c)).1.getD 0) wp (wp.performColl c).1 :=
  (regWrite_tree (.inl h)).1.congr_val (fun l _ => by rw [collRes_red h])

/-- Reductions and scans (04_isa_core.md:R120, R121). -/
theorem reductions : Claims.Reductions := by
  intro wp c _ hw base xs from_ u there ty op cut sop tree
  have hwidth : c.width ≤ 32 := (by decide : ∀ n ∈ [2, 4, 8, 16, 32], n ≤ 32) _ hw
  have hlen : xs.length ≤ 32 := contributions_length.trans_le hwidth
  have hscan : ∀ l, scanned wp c l = xs.take (cut l) ++ List.replicate (c.width - cut l) none := fun l => by
    rw [scanned, scanCut_eq]
  refine ⟨fun h hty hop => (regWrite_red h).congr_val (fun l _ => ?_), fun h hty hop => ⟨_, regWrite_red h, fun j _ => ?_⟩,
    fun h hty hop => ⟨_, regWrite_red h, fun j _ => ?_⟩, fun h hty hop => ⟨_, regWrite_red h, fun j _ => ?_⟩,
    fun h => ⟨regWrite_red h, ?_⟩, fun h hty hop => (regWrite_tree (.inr h)).1.congr_val (fun l _ => ?_), fun h => ⟨?_, ?_⟩⟩
  · rw [Nat.mul_one, Nat.mod_mod, show c.w.mod.toNat % 8 = 0 from hop]
    exact reduceTree_sum hty hlen
  · rw [show c.w.mod.toNat % 8 = 3 from hop, testBit_reduceTree (f := (· && ·)) Bool.and_assoc Bool.and_true
      (fun x y => by rw [combine_and hty, Nat.testBit_and]) hlen, foldr_and]
    by_cases hnil : there = []
    · rw [if_pos hnil, hnil]
      rfl
    · rw [if_neg hnil, bne_iff_ne.2 hnil, Bool.true_and]
  · rw [show c.w.mod.toNat % 8 = 4 from hop, testBit_reduceTree (f := (· || ·)) Bool.or_assoc Bool.or_false
      (fun x y => by rw [combine_or hty, Nat.testBit_or]) hlen, foldr_or]
    by_cases hnil : there = []
    · rw [if_pos hnil, hnil]
      rfl
    · rw [if_neg hnil]
  · rw [show c.w.mod.toNat % 8 = 5 from hop, testBit_reduceTree (f := (· ^^ ·)) Bool.xor_assoc Bool.xor_false
      (fun x y => by rw [combine_xor hty, Nat.testBit_xor]) hlen, foldr_xor]
    by_cases hnil : there = []
    · rw [if_pos hnil, hnil]
      rfl
    · rw [if_neg hnil]
  · have hfl := (regWrite_tree (wp := wp) (.inl h)).2
    simp only [collRes_red h] at hfl
    exact hfl
  · have hcut : ((wp.contributions c).take (scanCut c l)).filterMap id = (xs.take (cut l)).filterMap id := by rw [scanCut_eq]
    rw [Nat.mul_one, Nat.mod_mod, collRes_scan h, show scanOp c = 0 from hop, ← hcut, ← scanned_present]
    exact reduceTree_sum hty ((scanned_length l).trans_le hwidth)
  · exact (regWrite_tree (.inr h)).1.congr_val (fun l _ => by rw [collRes_scan h, hscan]; rfl)
  · have hfl := (regWrite_tree (wp := wp) (.inr h)).2
    simp only [collRes_scan h, hscan] at hfl
    exact hfl

/-- Settles O44: an occurrence writes its lanes from `collRes`; the votes are those of its true positions, and the tree of R120 keeps the
total of the contributions level by level (`totalOf_treeLevel`), read as a number modulo 2^32 or bit by bit. -/
theorem collectiveResults : Obligations.CollectiveResults := ⟨votesAndShuffles, reductions⟩

end Sys2Proof.Machine
end

section
/-! ## O41. A value that a format represents rounds to itself -/

namespace Sys2Proof.Machine

variable {f : Fmt} {mode : Mode} {sat neg : Bool} {m x : Nat} {e q : Int}

/-- A multiple of the quantum is kept as it is (05_numbers.md:R133). -/
theorem quant_of_le (h : q ≤ e) : quant mode neg m e q = (m * 2 ^ (e - q).toNat, false) := if_pos h

/-- A significand and an exponent that a format holds do not exceed it, at whatever quantum they are written. -/
theorem exceeds_of_le (hm : m ≤ f.maxM) (hq : q ≤ e) (he : e ≤ f.emax - (f.p - 1)) :
    f.exceeds (m * 2 ^ (e - q).toNat) q = false := by
  by_cases htop : f.emax - (f.p - 1) ≤ q
  · have hqe : e = q := by omega
    have hqt : q = f.emax - (f.p - 1) := by omega
    simpa [Fmt.exceeds, hqe, ← hqt] using hm
  · have hpow : m * 2 ^ (e - q).toNat ≤ f.maxM * 2 ^ (f.emax - (f.p - 1) - q).toNat :=
      Nat.mul_le_mul hm (Nat.pow_le_pow_right (by decide) (by omega))
    exact (if_neg htop).trans (decide_eq_false (not_lt.2 hpow))

/-- Round of a value ± m × 2^e that an IEEE-style format represents, normal or subnormal, is its encoding, without a flag
(05_numbers.md:R153). -/
theorem round_fin_exact (hk : f.kind = .ieee) (h0 : m ≠ 0) (hm : m < 2 ^ f.p) (hlo : f.emin - (f.p - 1) ≤ e)
    (hhi : e ≤ f.emax - (f.p - 1)) (hn : 2 ^ (f.p - 1) ≤ m ∨ e = f.emin - (f.p - 1)) :
    round f mode sat false (.fin neg m e) = ⟨f.encode neg m e, 0⟩ := by
  have hlog : Nat.log2 m < f.p := (Nat.log2_lt h0).2 hm
  have hmax : m ≤ f.maxM := by simpa only [Fmt.maxM, hk] using Nat.le_sub_one_of_lt hm
  have hqt : expOf m e - (f.p - 1) ≤ e := by unfold expOf; omega
  have hqy : max (expOf m e - (f.p - 1)) (f.emin - (f.p - 1)) = e := by
    rcases hn with hn | hn
    · have : f.p - 1 ≤ Nat.log2 m := (Nat.le_log2 h0).2 hn
      unfold expOf at hqt ⊢
      omega
    · omega
  simp [round, quant_of_le hqt, exceeds_of_le hmax hqt hhi, hqy, quant_of_le (le_refl e)]

/-! ### Bit strings and their values -/

/-- The fields of a bit string, put together again (05_numbers.md:R139). -/
theorem signBit_add_fields (hp : 1 ≤ f.p) (hx : x < 2 ^ (f.eb + f.p)) :
    f.signBit (fld x (f.eb + f.p - 1) 1 == 1) + fld x (f.p - 1) f.eb * 2 ^ (f.p - 1) + fld x 0 (f.p - 1) = x := by
  have htop : f.eb + f.p - 1 = f.eb + (f.p - 1) := by omega
  have hhigh : x / 2 ^ (f.eb + (f.p - 1)) < 2 :=
    Nat.div_lt_of_lt_mul (by rwa [← pow_succ, Nat.add_assoc, Nat.sub_add_cancel hp])
  have hsign : f.signBit (fld x (f.eb + f.p - 1) 1 == 1) = x / 2 ^ (f.eb + (f.p - 1)) * 2 ^ (f.eb + (f.p - 1)) := by
    rw [Fmt.signBit, fld, htop, pow_one, Nat.mod_eq_of_lt hhigh]
    interval_cases x / 2 ^ (f.eb + (f.p - 1)) <;> simp
  have hexp := Nat.div_add_mod (x / 2 ^ (f.p - 1)) (2 ^ f.eb)
  rw [Nat.div_div_eq_div_mul, ← Nat.pow_add, Nat.add_comm (f.p - 1)] at hexp
  calc _ = (2 ^ f.eb * (x / 2 ^ (f.eb + (f.p - 1))) + x / 2 ^ (f.p - 1) % 2 ^ f.eb) * 2 ^ (f.p - 1) + x % 2 ^ (f.p - 1) := by
        rw [hsign, fld, fld, pow_zero, Nat.div_one, pow_add]
        ring
    _ = x := by rw [hexp, Nat.mul_comm, Nat.div_add_mod]

theorem decodeF_ieee (hk : f.kind = .ieee) : decodeF f false x =
    (if fld x (f.p - 1) f.eb = 2 ^ f.eb - 1 then
      if fld x 0 (f.p - 1) = 0 then .inf (fld x (f.eb + f.p - 1) 1 == 1)
      else .nan (f.p != 3 && fld x 0 (f.p - 1) / 2 ^ (f.p - 2) == 0)
    else if fld x (f.p - 1) f.eb = 0 then
      Num.mk (fld x (f.eb + f.p - 1) 1 == 1) (fld x 0 (f.p - 1)) (f.emin - (f.p - 1))
    else .fin (fld x (f.eb + f.p - 1) 1 == 1) (fld x 0 (f.p - 1) + 2 ^ (f.p - 1))
      (fld x (f.p - 1) f.eb - f.bias - (f.p - 1))) := by
  simp [decodeF, hk]

theorem encode_subnormal (h : m < 2 ^ (f.p - 1)) : f.encode neg m q = f.signBit neg + m := if_pos h

theorem encode_normal {b : Nat} (hp : 1 ≤ f.p) (h : m < 2 ^ (f.p - 1)) :
    f.encode neg (m + 2 ^ (f.p - 1)) (b - f.bias - (f.p - 1)) = f.signBit neg + b * 2 ^ (f.p - 1) + m := by
  have hpow : 2 ^ f.p = 2 * 2 ^ (f.p - 1) := by rw [← pow_succ', Nat.sub_add_cancel hp]
  have hbias : ((b : Int) - f.bias - (f.p - 1) + (f.p - 1) + f.bias).toNat = b := by omega
  rw [Fmt.encode, if_neg (by omega), if_neg (by omega), hbias, Nat.add_sub_cancel]

/-- A bit string of an IEEE-style format that is no NaN: rounding its value gives it back and raises no flag. -/
theorem round_decodeF (hk : f.kind = .ieee) (hp : 1 ≤ f.p) (heb : 2 ≤ f.eb) (hx : x < 2 ^ (f.eb + f.p))
    (hnan : (decodeF f false x).isNan = false) : round f mode sat false (decodeF f false x) = ⟨x, 0⟩ := by
  have hsum := signBit_add_fields hp hx
  have hfr : fld x 0 (f.p - 1) < 2 ^ (f.p - 1) := Nat.mod_lt _ (Nat.two_pow_pos _)
  have hexp : fld x (f.p - 1) f.eb < 2 ^ f.eb := Nat.mod_lt _ (Nat.two_pow_pos _)
  have hpow : 2 ^ f.p = 2 * 2 ^ (f.p - 1) := by rw [← pow_succ', Nat.sub_add_cancel hp]
  have hemax : f.emax = 2 ^ f.eb - 2 - f.bias := by simp only [Fmt.emax, hk]
  have hemin : f.emin ≤ f.emax := by
    have : (4 : Int) ≤ 2 ^ f.eb := le_trans (by decide) (pow_le_pow_right₀ (by decide) heb : (2 : Int) ^ 2 ≤ 2 ^ f.eb)
    rw [hemax, Fmt.emin]
    omega
  rw [decodeF_ieee hk] at hnan ⊢
  generalize fld x 0 (f.p - 1) = fr at *
  generalize hE : fld x (f.p - 1) f.eb = b at *
  generalize (fld x (f.eb + f.p - 1) 1 == 1) = neg at *
  split_ifs at hnan ⊢ with hb hz hb0
  · simp [round, Fmt.infinity, hk, Fmt.infBits, ← hsum, hb, hz]
  · cases hnan
  · by_cases hz : fr = 0
    · simp [Num.mk, hz, round, ← hsum, hb0]
    · rw [Num.mk, if_neg hz, round_fin_exact hk hz (by omega) le_rfl (by omega) (.inr rfl), encode_subnormal hfr,
        ← hsum, hb0, Nat.zero_mul, Nat.add_zero]
  · have hlo : f.emin ≤ b - f.bias := by rw [Fmt.emin]; omega
    have hhi : b - f.bias ≤ f.emax := by
      have : ((2 ^ f.eb : Nat) : Int) = 2 ^ f.eb := by norm_cast
      omega
    rw [round_fin_exact hk (by omega) (by omega) (by omega) (by omega) (.inl (Nat.le_add_left ..)), encode_normal hp hfr, hsum]

/-- A value that a format represents rounds to its own bits (05_numbers.md:R153). -/
theorem roundingIsExact : Claims.RoundingIsExact := by
  intro f mode sat x hf hx hnan
  obtain ⟨hk, hp, heb⟩ : f.kind = .ieee ∧ 1 ≤ f.p ∧ 2 ≤ f.eb := by
    rcases hf with hf | ⟨l, -, -, rfl⟩
    · exact (by decide : ∀ f ∈ [fmt32, fmt16, fmtBf16, fmt64, fmtE5m2], f.kind = .ieee ∧ 1 ≤ f.p ∧ 2 ≤ f.eb) f hf
    · exact ⟨rfl, Nat.le_add_left 1 l, (by decide : 2 ≤ 15)⟩
  exact round_decodeF hk hp heb hx hnan

end Sys2Proof.Machine
end

section
/-! ## O41. What rounding writes fits its format -/

namespace Sys2Proof.Machine

variable {f : Fmt} {mode : Mode} {sat neg : Bool} {m c : Nat} {e q : Int}

/-- A format whose codes all fit in its bits: the facts about a format that bound what Round writes in it. -/
structure Fmt.Bounded (f : Fmt) : Prop where
  p_pos : 1 ≤ f.p
  maxM_lt : f.maxM < 2 ^ f.p
  emin_le : f.emin ≤ f.emax
  emax_lt : f.emax + f.bias < (2 ^ f.eb : Nat)
  nan_lt : f.nanBits < 2 ^ (f.eb + f.p)
  codes_lt : ∀ neg, f.signBit neg < 2 ^ (f.eb + f.p) ∧ f.infBits neg < 2 ^ (f.eb + f.p) ∧ f.maxBits neg < 2 ^ (f.eb + f.p)

theorem quant_le_div_succ : (quant mode neg m e q).1 ≤ if q ≤ e then m * 2 ^ (e - q).toNat else m / 2 ^ (q - e).toNat + 1 := by
  by_cases h : q ≤ e
  · rw [quant_of_le h, if_pos h]
  · simp only [quant, if_neg h]
    exact iteInduction (motive := (· ≤ m / 2 ^ (q - e).toNat + 1)) (fun _ => le_rfl) (fun _ => Nat.le_succ _)

/-- A value below 2^(q + k) rounds to 2^k multiples of 2^q at most. -/
theorem quant_le {k : Nat} (h : expOf m e < q + k) : (quant mode neg m e q).1 ≤ 2 ^ k := by
  have hm : m < 2 ^ (Nat.log2 m + 1) := Nat.lt_log2_self
  unfold expOf at h
  refine quant_le_div_succ.trans ?_
  split
  case isTrue hqe =>
    calc m * 2 ^ (e - q).toNat ≤ 2 ^ (Nat.log2 m + 1) * 2 ^ (e - q).toNat := Nat.mul_le_mul_right _ hm.le
      _ = 2 ^ (Nat.log2 m + 1 + (e - q).toNat) := (pow_add ..).symm
      _ ≤ 2 ^ k := Nat.pow_le_pow_right (by decide) (by omega)
  case isFalse hqe =>
    refine Nat.div_lt_of_lt_mul (hm.trans_le ?_)
    rw [← pow_add]
    exact Nat.pow_le_pow_right (by decide) (by omega)

/-- A significand of `p` bits that does not exceed the format stands at an exponent that the format holds. -/
theorem exponent_le_of_not_exceeds (hf : f.Bounded) (h : f.exceeds m q = false) :
    (2 ^ (f.p - 1) ≤ m → q ≤ f.emax - (f.p - 1)) ∧ (m = 2 ^ f.p → q + 1 ≤ f.emax - (f.p - 1)) := by
  have hmax := hf.maxM_lt
  have hpow : 2 ^ f.p = 2 * 2 ^ (f.p - 1) := by rw [← pow_succ', Nat.sub_add_cancel hf.p_pos]
  by_cases htop : f.emax - (f.p - 1) ≤ q
  · have hle : m * 2 ^ (q - (f.emax - (f.p - 1))).toNat ≤ f.maxM := by simpa [Fmt.exceeds, htop] using h
    have hm : m ≤ f.maxM := le_trans (Nat.le_mul_of_pos_right m (Nat.two_pow_pos _)) hle
    refine ⟨fun hlow => ?_, fun hm => by omega⟩
    by_contra hq
    have : 2 ≤ 2 ^ (q - (f.emax - (f.p - 1))).toNat := Nat.le_self_pow (by omega) 2
    have := Nat.mul_le_mul hlow this
    omega
  · omega

/-- The bits of a significand at an exponent that the format holds are a code of the format. -/
theorem encode_lt (hf : f.Bounded) (hm : m ≤ 2 ^ f.p) (hlow : 2 ^ (f.p - 1) ≤ m → q ≤ f.emax - (f.p - 1))
    (htop : m = 2 ^ f.p → q + 1 ≤ f.emax - (f.p - 1)) : f.encode neg m q < 2 ^ (f.eb + f.p) := by
  have hp := hf.p_pos
  have hemax := hf.emax_lt
  have hpow : 2 ^ f.p = 2 * 2 ^ (f.p - 1) := by rw [← pow_succ', Nat.sub_add_cancel hp]
  have hbits : 2 ^ (f.eb + f.p) = 2 ^ f.eb * 2 ^ (f.p - 1) + 2 ^ f.eb * 2 ^ (f.p - 1) := by rw [pow_add, hpow]; ring
  have hsign : f.signBit neg ≤ 2 ^ f.eb * 2 ^ (f.p - 1) := by
    rw [Fmt.signBit, ← pow_add, Nat.add_sub_assoc hp]
    split
    · exact le_rfl
    · exact Nat.zero_le _
  have hfield : ∀ b : Nat, b < 2 ^ f.eb → b * 2 ^ (f.p - 1) + 2 ^ (f.p - 1) ≤ 2 ^ f.eb * 2 ^ (f.p - 1) := fun b hb => by
    rw [← Nat.succ_mul]
    exact Nat.mul_le_mul_right _ hb
  have hone := Nat.two_pow_pos (f.p - 1)
  unfold Fmt.encode
  split_ifs with h1 h2
  · have := hfield 0 (Nat.two_pow_pos _)
    omega
  · have := hfield (q + 1 + (f.p - 1) + f.bias).toNat (by have := htop h2; have := Nat.two_pow_pos f.eb; omega)
    omega
  · have := hfield (q + (f.p - 1) + f.bias).toNat (by have := hlow (by omega); have := Nat.two_pow_pos f.eb; omega)
    omega

theorem overflow_lt (hf : f.Bounded) : (f.overflow neg mode sat).bits < 2 ^ (f.eb + f.p) := by
  obtain ⟨-, hinf, hmax⟩ := hf.codes_lt neg
  unfold Fmt.overflow
  split_ifs
  · exact hmax
  · exact hf.nan_lt
  · exact iteInduction (motive := (· < 2 ^ (f.eb + f.p))) (fun _ => hinf) (fun _ => hmax)

theorem infinity_lt (hf : f.Bounded) : (f.infinity neg sat).bits < 2 ^ (f.eb + f.p) := by
  obtain ⟨-, hinf, hmax⟩ := hf.codes_lt neg
  unfold Fmt.infinity
  split
  · exact hinf
  · split
    · exact hmax
    · exact hf.nan_lt
  · exact hmax

/-- Round writes a code of its format. -/
theorem round_lt (hf : f.Bounded) (ftz : Bool) (x : Num) : (round f mode sat ftz x).bits < 2 ^ (f.eb + f.p) := by
  have hp := hf.p_pos
  cases x with
  | nan => exact hf.nan_lt
  | inf => exact infinity_lt hf
  | zero n => exact (hf.codes_lt n).1
  | fin n m e =>
    rw [round]
    refine iteInduction (motive := fun r : FRes => r.bits < _) (fun _ => overflow_lt hf) fun hex => ?_
    refine iteInduction (motive := fun r : FRes => r.bits < _) (fun _ => (hf.codes_lt n).1) fun _ => ?_
    by_cases hq : f.emin ≤ expOf m e
    · rw [max_eq_left (by omega)]
      obtain ⟨hlow, htop⟩ := exponent_le_of_not_exceeds hf (Bool.eq_false_iff.2 hex)
      exact encode_lt hf (quant_le (by omega)) hlow htop
    · rw [max_eq_right (by omega)]
      have hemin := hf.emin_le
      have hm : (quant mode n m e (f.emin - (f.p - 1))).1 ≤ 2 ^ (f.p - 1) := quant_le (by omega)
      have hpow : 2 ^ (f.p - 1) < 2 ^ f.p := Nat.pow_lt_pow_right (by decide) (by omega)
      exact encode_lt hf (hm.trans hpow.le) (fun _ => by omega) (fun h => by omega)

/-- The float formats that the packed conversions write. -/
theorem bounded_of_mem (h : f ∈ [fmt32, fmtBf16, fmt16, fmtE4m3, fmtE5m2, fmtE2m1]) : f.Bounded := by
  have hdec : ∀ f ∈ [fmt32, fmtBf16, fmt16, fmtE4m3, fmtE5m2, fmtE2m1], (1 ≤ f.p ∧ f.maxM < 2 ^ f.p ∧ f.emin ≤ f.emax ∧
      f.emax + f.bias < (2 ^ f.eb : Nat) ∧ f.nanBits < 2 ^ (f.eb + f.p)) ∧
      ∀ neg, f.signBit neg < 2 ^ (f.eb + f.p) ∧ f.infBits neg < 2 ^ (f.eb + f.p) ∧ f.maxBits neg < 2 ^ (f.eb + f.p) := by
    decide
  obtain ⟨⟨hp, hmax, hemin, hemax, hnan⟩, hcodes⟩ := hdec f h
  exact ⟨hp, hmax, hemin, hemax, hnan, hcodes⟩

theorem writeType_lt (hc : codeFmt c = some f) (hf : f.Bounded) (x : Num) :
    (writeType c mode sat x).bits < 2 ^ (f.eb + f.p) := by
  have h := round_lt (mode := mode) (sat := sat) hf false x
  simp only [writeType, hc, FRes.nv]
  split
  · exact h
  · exact h

/-- A conversion writes a code of its destination's format (06_isa_float.md:R168). -/
theorem convert_lt (hc : codeFmt c = some f) (hf : f.Bounded) (src sf : Nat) (x : Num) (scale : Nat) :
    (convert c src sf mode sat x scale).bits < 2 ^ (f.eb + f.p) := by
  simp only [convert, hc]
  split
  · exact writeType_lt hc hf x
  · split
    · exact hf.nan_lt
    · split
      · exact hf.nan_lt
      · exact writeType_lt hc hf _

end Sys2Proof.Machine
end

section
/-! ## O41. Elements packed in a word -/

namespace Sys2Proof.Machine

variable {wd n k : Nat} {g : Nat → Nat}

/-- `n` elements of `wd` bits, the first lowest: what `cvtn`, `cvtw` and `cbdec` put together (06_isa_float.md:R169, R170). -/
def packed (wd n : Nat) (g : Nat → Nat) : Nat := (List.range n).foldl (fun a k => a + g k * 2 ^ (wd * k)) 0

theorem foldl_zip_map (r : Nat → FRes) :
    ((List.range n).zip ((List.range n).map r)).foldl (fun a k => a + k.2.bits * 2 ^ (wd * k.1)) 0 =
      packed wd n (fun k => (r k).bits) := by
  rw [← List.map_prod_left_eq_zip, List.foldl_map, packed]

theorem packed_succ : packed wd (n + 1) g = packed wd n g + g n * 2 ^ (wd * n) := by
  rw [packed, List.range_succ, List.foldl_append]
  rfl

theorem packed_lt (hg : ∀ k, k < n → g k < 2 ^ wd) : packed wd n g < 2 ^ (wd * n) := by
  induction n with
  | zero => exact Nat.two_pow_pos _
  | succ n ih =>
    have hlow := ih (fun k hk => hg k (by omega))
    have hhigh : (g n + 1) * 2 ^ (wd * n) ≤ 2 ^ wd * 2 ^ (wd * n) := Nat.mul_le_mul_right _ (hg n (Nat.lt_succ_self n))
    rw [packed_succ, Nat.mul_succ, pow_add, Nat.mul_comm (2 ^ (wd * n))]
    rw [Nat.add_mul, Nat.one_mul] at hhigh
    omega

/-- Each element reads back. -/
theorem packed_elt (hg : ∀ k, k < n → g k < 2 ^ wd) (hk : k < n) : packed wd n g / 2 ^ (wd * k) % 2 ^ wd = g k := by
  induction n with
  | zero => omega
  | succ n ih =>
    have hg' : ∀ k, k < n → g k < 2 ^ wd := fun k hk => hg k (by omega)
    rw [packed_succ]
    rcases Nat.lt_succ_iff_lt_or_eq.1 hk with hk | rfl
    · have hpow : g n * 2 ^ (wd * n) = 2 ^ (wd * k) * (2 ^ wd * (g n * 2 ^ (wd * (n - k - 1)))) := by
        have : wd * n = wd * k + wd + wd * (n - k - 1) := by
          rw [← Nat.mul_succ, ← Nat.mul_add]
          congr 1
          omega
        rw [this, pow_add, pow_add]
        ring
      rw [hpow, Nat.add_mul_div_left _ _ (Nat.two_pow_pos _), Nat.add_mul_mod_self_left, ih hg' hk]
    · rw [Nat.add_mul_div_right _ _ (Nat.two_pow_pos _), Nat.div_eq_of_lt (packed_lt hg'), Nat.zero_add,
        Nat.mod_eq_of_lt (hg k hk)]

end Sys2Proof.Machine
end

section
/-! ## O41. The packed conversions -/

namespace Sys2Proof.Machine

variable {w : W} {i : Iss} {l k c : Nat}

/-- The flags of `n` elements, raised together (06_isa_float.md:R169). -/
def raisedBy (n : Nat) (r : Nat → FRes) (fl : Flags) : Flags := (List.range n).foldl (fun f k => f ||| (r k).fl) fl

theorem foldl_flags_map (n : Nat) (r : Nat → FRes) (fl : Flags) :
    ((List.range n).map r).foldl (fun f r => f ||| r.fl) fl = raisedBy n r fl := by
  rw [List.foldl_map, raisedBy]

theorem raisedBy_of_none {r : Nat → FRes} (h : ∀ k, (r k).fl = 0) (n : Nat) (fl : Flags) : raisedBy n r fl = fl := by
  induction n with
  | zero => rfl
  | succ n ih =>
    rw [raisedBy] at ih ⊢
    rw [List.range_succ, List.foldl_append, ih, List.foldl_cons, List.foldl_nil, h]
    exact BitVec.or_zero

/-- The elements of a narrow type and their width (06_isa_float.md:R169). -/
theorem packOf_eq (c : Nat) : packOf c = (if c = 2 ∨ c = 3 then 2 else 4, if c = 2 ∨ c = 3 then 16 else if c = 6 then 4 else 8) := by
  unfold packOf
  split_ifs <;> rfl

/-- A narrow type is a float format as wide as its elements. -/
theorem narrow_format (h2 : 2 ≤ c) (h6 : c ≤ 6) : ∃ f, codeFmt c = some f ∧ f.Bounded ∧ f.eb + f.p = (packOf c).2 := by
  interval_cases c
  · exact ⟨fmtBf16, rfl, bounded_of_mem (by decide), rfl⟩
  · exact ⟨fmt16, rfl, bounded_of_mem (by decide), rfl⟩
  · exact ⟨fmtE4m3, rfl, bounded_of_mem (by decide), rfl⟩
  · exact ⟨fmtE5m2, rfl, bounded_of_mem (by decide), rfl⟩
  · exact ⟨fmtE2m1, rfl, bounded_of_mem (by decide), rfl⟩

/-! ### `cvtn` -/

/-- Element `k` of `cvtn` in a lane, converted (06_isa_float.md:R169). -/
def cvtnElt (w : W) (i : Iss) (l k : Nat) : FRes :=
  convert (cvDst w) 1 (cvScale w) (i.warp.modeOf w.mod l) w.sat
    (readType 1 (fld (i.src w (packOf (cvDst w)).1 w.a l) (32 * k) 32)) (i.src w 1 w.b l)

/-- The elements of `cvtn` in a lane, packed. -/
def cvtnPacked (w : W) (i : Iss) (l : Nat) : Nat :=
  packed (packOf (cvDst w)).2 (packOf (cvDst w)).1 (fun k => (cvtnElt w i l k).bits)

/-- `cvtn` in a lane, by its elements (06_isa_float.md:R169). -/
theorem cvtnRes_eq (w : W) (i : Iss) (l : Nat) : cvtnRes w i l =
    (if cvDst w = 6 then
      if packLo w = 16 then i.warp.reg 1 w.d l % 2 ^ 16 + cvtnPacked w i l * 2 ^ 16
      else i.warp.reg 1 w.d l / 2 ^ 16 * 2 ^ 16 + cvtnPacked w i l
    else cvtnPacked w i l, raisedBy (packOf (cvDst w)).1 (cvtnElt w i l) 0) := by
  rw [cvtnRes, foldl_zip_map, foldl_flags_map]
  rfl

theorem cvtnElt_lt (h2 : 2 ≤ cvDst w) (h6 : cvDst w ≤ 6) (k : Nat) : (cvtnElt w i l k).bits < 2 ^ (packOf (cvDst w)).2 := by
  obtain ⟨f, hc, hf, hwd⟩ := narrow_format h2 h6
  rw [← hwd]
  exact convert_lt hc hf ..

theorem cvtnPacked_elt (h2 : 2 ≤ cvDst w) (h6 : cvDst w ≤ 6) (hk : k < (packOf (cvDst w)).1) :
    cvtnPacked w i l / 2 ^ ((packOf (cvDst w)).2 * k) % 2 ^ (packOf (cvDst w)).2 = (cvtnElt w i l k).bits :=
  packed_elt (g := fun k => (cvtnElt w i l k).bits) (fun k _ => cvtnElt_lt h2 h6 k) hk

theorem cvtnPacked_lt (h2 : 2 ≤ cvDst w) (h6 : cvDst w ≤ 6) :
    cvtnPacked w i l < 2 ^ ((packOf (cvDst w)).2 * (packOf (cvDst w)).1) :=
  packed_lt (fun k _ => cvtnElt_lt h2 h6 k)

theorem reg_one_lt (a : Warp) (o : Opnd) (l : Nat) : a.reg 1 o l < 2 ^ 32 := by
  cases o with
  | v j => simpa [Warp.reg] using (cget a.v (32 * j + l)).isLt
  | s j => simpa [Warp.reg] using (cget a.s j).isLt
  | _ => exact Nat.two_pow_pos 32

theorem packLo_hi (h : w.imm.getLsbD 20 = true) : packLo w = 16 := if_pos h

theorem packLo_lo (h : w.imm.getLsbD 20 = false) : packLo w = 0 := if_neg (Bool.eq_false_iff.1 h)

theorem cvtnRes_full (hc : cvDst w ≠ 6) : (cvtnRes w i l).1 = cvtnPacked w i l := by
  rw [cvtnRes_eq]
  exact if_neg hc

theorem cvtnRes_hi (hc : cvDst w = 6) (h : w.imm.getLsbD 20 = true) :
    (cvtnRes w i l).1 = i.warp.reg 1 w.d l % 2 ^ 16 + cvtnPacked w i l * 2 ^ 16 := by
  rw [cvtnRes_eq, packLo_hi h]
  exact if_pos hc

theorem cvtnRes_lo (hc : cvDst w = 6) (h : w.imm.getLsbD 20 = false) :
    (cvtnRes w i l).1 = i.warp.reg 1 w.d l / 2 ^ 16 * 2 ^ 16 + cvtnPacked w i l := by
  rw [cvtnRes_eq, packLo_lo h]
  exact if_pos hc

/-- Where `cvtn` puts its elements, and what it keeps of D (06_isa_float.md:R169). -/
theorem cvtn_places (h2 : 2 ≤ cvDst w) (h6 : cvDst w ≤ 6) (hhi : cvDst w ≠ 6 → w.imm.getLsbD 20 = false) :
    (∀ k, k < (packOf (cvDst w)).1 → (cvtnRes w i l).1 / 2 ^ (packLo w + (packOf (cvDst w)).2 * k) %
      2 ^ (packOf (cvDst w)).2 = (cvtnElt w i l k).bits) ∧
    (cvtnRes w i l).1 < 2 ^ 32 ∧
    (cvDst w = 6 → if w.imm.getLsbD 20 then (cvtnRes w i l).1 % 2 ^ 16 = i.warp.reg 1 w.d l % 2 ^ 16
      else (cvtnRes w i l).1 / 2 ^ 16 = i.warp.reg 1 w.d l / 2 ^ 16) := by
  have hlt := cvtnPacked_lt (i := i) (l := l) h2 h6
  have helt := fun k hk => cvtnPacked_elt (i := i) (l := l) (k := k) h2 h6 hk
  have hold := reg_one_lt i.warp w.d l
  by_cases hc : cvDst w = 6
  · rw [show packOf (cvDst w) = (4, 4) by rw [hc]; rfl] at hlt helt ⊢
    dsimp only at hlt helt ⊢
    cases hi : w.imm.getLsbD 20
    · rw [cvtnRes_lo hc hi, packLo_lo hi]
      refine ⟨fun k hk => ?_, by omega, fun _ => by simp only [Bool.false_eq_true, if_false]; omega⟩
      rw [← helt k hk]
      interval_cases k <;> omega
    · rw [cvtnRes_hi hc hi, packLo_hi hi]
      refine ⟨fun k hk => ?_, by omega, fun _ => by simp only [if_true]; omega⟩
      rw [pow_add, ← Nat.div_div_eq_div_mul, Nat.add_mul_div_right _ _ (by decide), Nat.div_eq_of_lt (Nat.mod_lt _ (by decide)),
        Nat.zero_add, helt k hk]
  · have hfull : (packOf (cvDst w)).2 * (packOf (cvDst w)).1 = 32 := by
      simp only [packOf_eq, hc, if_false]
      split <;> rfl
    rw [hfull] at hlt
    rw [cvtnRes_full hc, packLo_lo (hhi hc)]
    exact ⟨by simpa only [Nat.zero_add] using helt, hlt, fun h => absurd h hc⟩

/-! ### `cvtw` -/

/-- Element `k` of `cvtw` in a lane, converted (06_isa_float.md:R169). -/
def cvtwElt (w : W) (i : Iss) (l k : Nat) : FRes :=
  convert 1 (cvDst w) (cvScale w) (i.warp.modeOf w.mod l) w.sat
    (readType (cvDst w) (i.src w 1 w.a l / 2 ^ (packLo w + (packOf (cvDst w)).2 * k) % 2 ^ (packOf (cvDst w)).2)) (i.src w 1 w.b l)

/-- `cvtw` in a lane, by its elements (06_isa_float.md:R169). -/
theorem cvtwRes_eq (w : W) (i : Iss) (l : Nat) : cvtwRes w i l =
    (packed 32 (packOf (cvDst w)).1 (fun k => (cvtwElt w i l k).bits), raisedBy (packOf (cvDst w)).1 (cvtwElt w i l) 0) := by
  rw [cvtwRes, foldl_zip_map, foldl_flags_map]
  simp only [fld, Nat.div_div_eq_div_mul, ← pow_add]
  rfl

/-- `cvtw` gives its elements as `.f32` words (06_isa_float.md:R169). -/
theorem cvtw_places (hk : k < (packOf (cvDst w)).1) :
    (cvtwRes w i l).1 / 2 ^ (32 * k) % 2 ^ 32 = (cvtwElt w i l k).bits := by
  rw [cvtwRes_eq]
  exact packed_elt (g := fun k => (cvtwElt w i l k).bits)
    (fun _ _ => convert_lt (f := fmt32) rfl (bounded_of_mem (by decide)) ..) hk

end Sys2Proof.Machine
end

section
/-! ## O41. Codebooks -/

namespace Sys2Proof.Machine

variable {w : W} {i : Iss} {l j idx scale : Nat}

/-- The sign of value `j` of a codebook index: its own bit, and for the last the parity of the others (05_numbers.md:R144). -/
def codeNeg (idx j : Nat) : Bool :=
  if j < 7 then idx.testBit (8 + j) else (List.range 7).countP (fun m => idx.testBit (8 + m)) % 2 == 1

/-- Twice the magnitude of value `j` of a codebook index (05_numbers.md:R144). -/
def codeTwice (table : Cells 32) (idx j : Nat) : Nat := 2 * ((cget table (idx % 256)).toNat / 2 ^ (4 * j) % 16) + idx / 2 ^ 15 % 2

/-- Value `j` of a codebook index under a scale byte (05_numbers.md:R144). -/
def codeValue (table : Cells 32) (idx scale j : Nat) : Num :=
  if codeTwice table idx j = 0 then .zero false else .fin (codeNeg idx j) (codeTwice table idx j) ((scale : Int) - 128)

theorem sign_field (hj : j < 7) : (fld (fld idx 8 7) j 1 == 1) = idx.testBit (8 + j) := by
  rw [fld_one_eq, fld, Nat.testBit_mod_two_pow, decide_eq_true hj, Bool.true_and, Nat.testBit_div_two_pow, Nat.add_comm]

theorem codeNeg_eq : (if j < 7 then fld (fld idx 8 7) j 1 == 1
    else ((List.range 7).filter (fun j => fld (fld idx 8 7) j 1 == 1)).length % 2 == 1) = codeNeg idx j := by
  unfold codeNeg
  split
  case isTrue hj => exact sign_field hj
  case isFalse =>
    rw [← List.countP_eq_length_filter, List.countP_congr (fun m hm => by rw [sign_field (List.mem_range.1 hm)])]

/-- The values of a codebook index, under a scale that is no NaN (05_numbers.md:R144). -/
theorem cbDecode_scale (table : Cells 32) (hs : scale ≠ 255) :
    cbDecode table idx (scaleValue true scale) = (List.range 8).map (codeValue table idx scale) := by
  have hsc : scaleValue true scale = some (.fin false 1 ((scale : Int) - 127)) := by simp [scaleValue, hs]
  have hexp : (-1 : Int) + (scale - 127) = scale - 128 := by omega
  rw [hsc, cbDecode]
  refine List.map_congr_left fun j _ => ?_
  simp only [codeNeg_eq, Num.mul, Bool.bne_false, Nat.mul_one, hexp]
  rfl

/-- A codebook index under a NaN scale gives NaNs (05_numbers.md:R144). -/
theorem cbDecode_nan (table : Cells 32) (idx : Nat) :
    cbDecode table idx (scaleValue true 255) = (List.range 8).map (fun _ => .nan false) := rfl

/-- The type of `cbdec` (06_isa_float.md:R170). -/
def cbFmt (w : W) : Fmt := if w.mod = 0 then fmtBf16 else fmt16

theorem cbFmt_spec (w : W) : (cbFmt w).Bounded ∧ (cbFmt w).eb + (cbFmt w).p = 16 ∧ (cbFmt w).kind = .ieee := by
  unfold cbFmt
  split
  · exact ⟨bounded_of_mem (by decide), rfl, rfl⟩
  · exact ⟨bounded_of_mem (by decide), rfl, rfl⟩

/-- Value `x` of `cbdec`, rounded (06_isa_float.md:R170). -/
def cbRound (w : W) (i : Iss) (x : Num) : FRes := round (cbFmt w) .rne (w.sat || slotSat (i.grid.slot w.c.resIx)) false x

theorem cbRound_lt (w : W) (i : Iss) (x : Num) : (cbRound w i x).bits < 2 ^ 16 := by
  obtain ⟨hf, hwd, -⟩ := cbFmt_spec w
  rw [← hwd]
  exact round_lt hf false x

/-- NaNs raise nothing by themselves: the flag of a NaN scale is raised once (05_numbers.md:R136). -/
theorem cbRound_nan (w : W) (i : Iss) : cbRound w i (.nan false) = ⟨(cbFmt w).nanBits, 0⟩ := by
  obtain ⟨-, -, hk⟩ := cbFmt_spec w
  simp [cbRound, round, Fmt.nan, hk]

/-- The scale byte 255 alone is a NaN (05_numbers.md:R140). -/
theorem scaleValue_isNone (scale : Nat) : (scaleValue true scale).isNone = decide (scale = 255) := by
  by_cases h : scale = 255
  · rw [h]
    rfl
  · simp [scaleValue, h]

/-- `cbdec` in a lane, by the eight values of its index (06_isa_float.md:R170). -/
theorem cbdecRes_eq {x : Nat → Num} (h : cbDecode (i.grid.table w.c.resIx) (i.src w 1 w.a l)
      (scaleValue true (i.src w 1 w.b l % 256)) = (List.range 8).map x) :
    cbdecRes w i l = (packed 16 8 (fun j => (cbRound w i (x j)).bits), raisedBy 8 (fun j => cbRound w i (x j))
      (if i.src w 1 w.b l % 256 = 255 then fNV else 0)) := by
  rw [cbdecRes, h, List.map_map, foldl_zip_map, foldl_flags_map]
  simp only [scaleValue_isNone, decide_eq_true_eq]
  rfl

/-- `cbdec` puts value `j` into halfword `j` (06_isa_float.md:R170). -/
theorem cbdec_places {x : Nat → Num} (h : cbDecode (i.grid.table w.c.resIx) (i.src w 1 w.a l)
      (scaleValue true (i.src w 1 w.b l % 256)) = (List.range 8).map x) (hj : j < 8) :
    (cbdecRes w i l).1 / 2 ^ (16 * j) % 2 ^ 16 = (cbRound w i (x j)).bits := by
  rw [cbdecRes_eq h]
  exact packed_elt (g := fun j => (cbRound w i (x j)).bits) (fun _ _ => cbRound_lt ..) hj

/-- `cbdec` under a NaN scale (05_numbers.md:R140, R144). -/
theorem cbdecRes_nan_scale (hs : i.src w 1 w.b l % 256 = 255) :
    (∀ j, j < 8 → (cbdecRes w i l).1 / 2 ^ (16 * j) % 2 ^ 16 = (cbFmt w).nanBits) ∧ (cbdecRes w i l).2 = fNV := by
  have h := cbDecode_nan (i.grid.table w.c.resIx) (i.src w 1 w.a l)
  rw [← hs] at h
  refine ⟨fun j hj => ?_, ?_⟩
  · rw [cbdec_places h hj, cbRound_nan]
  · rw [cbdecRes_eq h, if_pos hs]
    exact raisedBy_of_none (r := fun _ => cbRound w i (.nan false)) (fun _ => by rw [cbRound_nan]) 8 fNV

end Sys2Proof.Machine
end

section
/-! ## O41. The statements -/

namespace Sys2Proof.Machine

variable {w : W} {i : Iss}

/-- Where the packed conversions and `cbdec` put their elements (05_numbers.md:R143, R144; 06_isa_float.md:R169, R170). -/
theorem packedElements : Claims.PackedElements := by
  intro w i l c hi n wd lo conv packs unpacks all old legal f slot idx scale table row twice neg weight
  have hn : (packOf (cvDst w)).1 = n := by rw [packOf_eq]; rfl
  have hwd : (packOf (cvDst w)).2 = wd := by rw [packOf_eq]; rfl
  have hpacks : cvtnElt w i l = packs := by
    funext k
    rw [cvtnElt, hn]
    rfl
  have hunpacks : cvtwElt w i l = unpacks := by
    funext k
    rw [cvtwElt, hwd]
    rfl
  refine ⟨fun ⟨h2, h6, hhi⟩ => ?_, fun _ => ⟨fun k hk => ?_, ?_⟩, fun hs => ?_, fun hs => ?_⟩
  · obtain ⟨helt, hlt, hkeep⟩ := cvtn_places (i := i) (l := l) h2 h6 hhi
    rw [hn, hwd, hpacks] at helt
    refine ⟨helt, hlt, hkeep, ?_⟩
    rw [cvtnRes_eq, hn, hpacks]
    rfl
  · rw [cvtw_places (hn.symm ▸ hk), hunpacks]
  · rw [cvtwRes_eq, hn, hunpacks]
    rfl
  · have h := cbDecode_scale (idx := idx) table hs
    refine ⟨fun j hj => cbdec_places h hj, ?_⟩
    rw [cbdecRes_eq h, if_neg hs]
    rfl
  · exact cbdecRes_nan_scale hs

/-- `cbdec` acts where the slot holds a codebook, and traps where it does not (06_isa_float.md:R170). -/
theorem exec_cbdec {s : State} (hi : Issues .cbdec w s i) : exec (.cbdec w) s = .next (finish i
    (if slotElt (i.grid.slot w.c.resIx) ≠ 7 then i.illegal s else localOp (laneOut 4 w (cbdecRes w)) i s)) := by
  have hexec : exec (.cbdec w) s = execCbdec w s := rfl
  rw [hexec, execCbdec, issueW_issues _ hi]

/-- The conversions complete with their lanes' results (06_isa_float.md:R168 to R170). -/
theorem conversions : Claims.Conversions := by
  intro s w i
  refine ⟨fun hi => laneWord_of_local hi rfl (fun _ => rfl) (fun _ => rfl),
    fun hi => laneWord_of_local hi rfl (fun _ => rfl) (fun _ => rfl),
    fun hi => laneWord_of_local hi rfl (fun _ => rfl) (fun _ => rfl), fun hi h7 => ?_, fun hi h7 => ?_⟩
  · have hslot : slotElt (i.grid.slot w.c.resIx) = 7 := h7
    refine laneWord_of (cbdecRes w) ((exec_cbdec hi).trans ?_)
    rw [if_neg (not_not.2 hslot), localOp, finish_done]
  · have hslot : slotElt (i.grid.slot w.c.resIx) ≠ 7 := h7
    rw [exec_cbdec hi, if_pos hslot, Iss.illegal, finish_trap]

/-- Settles O41: a represented value is a multiple of its quantum and within its format, so Round keeps it (`round_fin_exact`); what a
conversion writes fits its type (`convert_lt`), so packed elements read back (`packed_elt`); the values of an index are those of
`codeValue`. -/
theorem floatConversions : Obligations.FloatConversions := ⟨roundingIsExact, conversions, packedElements⟩

end Sys2Proof.Machine
end

section
/-! ## O39. Words that round once, and words that test -/

namespace Sys2Proof.Machine

variable {s : State} {op : Op} {w : W} {i : Iss} {ins : Instr} {x : Nat → Num} {nv dz : Nat → Bool}

/-- A word with a predicate destination, by the truth values and flags of its lanes. -/
theorem predWord_of_local_flags {f : Iss → Nat → Bool × Flags} {val : Nat → Bool} {fl : Nat → Flags} (hi : Issues op w s i)
    (he : exec ins s = issueW op w (localOp (predOut w f)) s) (hval : ∀ l, (f i l).1 = val l)
    (hfl : ∀ l, unlessNF w.nf (f i l).2 = fl l) : PredWord ins s i w.d val fl := by
  obtain rfl : (fun l => (f i l).1) = val := funext hval
  obtain rfl : (fun l => unlessNF w.nf (f i l).2) = fl := funext hfl
  exact predWord_of f (he.trans (issueW_local _ hi))

theorem flags_or_zero (fl : Flags) : fl ||| 0 = fl := BitVec.or_zero

theorem flags_zero_or (fl : Flags) : 0 ||| fl = fl := BitVec.zero_or

@[simp] theorem FRes.nv_bits (r : FRes) (b : Bool) : (r.nv b).bits = r.bits := by cases b <;> rfl

@[simp] theorem FRes.nv_fl (r : FRes) (b : Bool) : (r.nv b).fl = r.fl ||| (if b then fNV else 0) := by
  cases b
  · exact (flags_or_zero _).symm
  · rfl

@[simp] theorem Num.isSig_negate (x : Num) : x.negate.isSig = x.isSig := by cases x <;> rfl

/-- A flag raised under a condition, beside others. -/
theorem or_flag_ite (fl g : Flags) (b : Bool) : (if b then fl ||| g else fl) = fl ||| (if b then g else 0) := by
  cases b
  · exact (flags_or_zero _).symm
  · rfl

/-- A word of float type, by its rounded value and the flag of a division by zero (06_isa_float.md:R162). -/
theorem floatWord_of_local {f : Iss → Nat → Nat × Flags} (hi : Issues op w s i)
    (he : exec ins s = issueW op w (localOp (laneOut 1 w f)) s)
    (hf : ∀ l, f i l = ((fround w i l (x l) (nv l)).1, (fround w i l (x l) (nv l)).2 ||| (if dz l then fDZ else 0))) :
    FloatWord ins w s i x nv dz :=
  laneWord_of_local hi he (fun l => by rw [hf, fround, FRes.nv_bits]) (fun l => by rw [hf, fround, FRes.nv_fl])

/-- A word of float type that divides nothing. -/
theorem floatWord_of_fround {f : Iss → Nat → Nat × Flags} (hi : Issues op w s i)
    (he : exec ins s = issueW op w (localOp (laneOut 1 w f)) s) (hf : ∀ l, f i l = fround w i l (x l) (nv l)) :
    FloatWord ins w s i x nv (fun _ => false) :=
  floatWord_of_local hi he (fun l => (hf l).trans (Prod.ext rfl (flags_or_zero _).symm))

end Sys2Proof.Machine
end

section
/-! ## O39. The sign bit -/

namespace Sys2Proof.Machine

variable {x t j : Nat}

theorem testBit_add_two_pow (h : x < 2 ^ t) : (x + 2 ^ t).testBit j = (x.testBit j ^^ decide (j = t)) := by
  have hor : x + 2 ^ t = 2 ^ t ||| x := by
    rw [Nat.add_comm]
    simpa using Nat.two_pow_add_eq_or_of_lt h 1
  rw [hor, Nat.testBit_or, Nat.testBit_two_pow]
  by_cases hj : j = t
  · simp [hj, Nat.testBit_lt_two_pow h]
  · simp [hj, Ne.symm hj]

/-- Turning the top bit of a value over by adding or taking away its weight. -/
theorem testBit_turn_top (h : x < 2 ^ (t + 1)) :
    (if x < 2 ^ t then x + 2 ^ t else x - 2 ^ t).testBit j = (x.testBit j ^^ decide (j = t)) := by
  split
  case isTrue hlt => exact testBit_add_two_pow hlt
  case isFalse hge =>
    have hlow : x - 2 ^ t < 2 ^ t := by
      rw [pow_succ] at h
      omega
    have hx := testBit_add_two_pow (j := j) hlow
    rw [Nat.sub_add_cancel (not_lt.1 hge)] at hx
    rw [hx, Bool.xor_assoc, Bool.xor_self, Bool.xor_false]

/-- Clearing the top bit of a value. -/
theorem testBit_clear_top (h : x < 2 ^ (t + 1)) : (x % 2 ^ t).testBit j = (x.testBit j && decide (j ≠ t)) := by
  rw [Nat.testBit_mod_two_pow]
  rcases lt_trichotomy j t with hj | hj | hj
  · simp [hj, hj.ne]
  · simp [hj]
  · have hbit : x.testBit j = false := Nat.testBit_lt_two_pow (h.trans_le (Nat.pow_le_pow_right (by decide) hj))
    simp [hbit]

/-- A float type has a sign bit. -/
theorem wFmt_width (w : W) : 1 ≤ (wFmt w).eb + (wFmt w).p := by
  unfold wFmt fltFmt
  split_ifs <;> decide

theorem fbits_lt (i : Iss) (w : W) (o : Opnd) (l : Nat) :
    i.fbits w (wFmt w) o l < 2 ^ ((wFmt w).eb + (wFmt w).p - 1 + 1) := by
  rw [Nat.sub_add_cancel (wFmt_width w)]
  exact Nat.mod_lt _ (Nat.two_pow_pos _)

end Sys2Proof.Machine
end

section
/-! ## O39. Comparison, classification, and the statements -/

namespace Sys2Proof.Machine

/-- The eight conditions of a float comparison, by their code (06_isa_float.md:R163). -/
theorem fcond_value (c : Nat) (a b : Num) : (fcond c a b).1 =
    (if c = 0 then a.eqv b else if c = 1 then !a.eqv b else if c = 2 then a.lt b else if c = 3 then a.lt b || a.eqv b
      else if c = 4 then b.lt a else if c = 5 then b.lt a || a.eqv b else if c = 6 then a.isNan || b.isNan
      else !(a.isNan || b.isNan)) := by
  match c with
  | 0 | 1 | 2 | 3 | 4 | 5 | 6 | _ + 7 => rfl

theorem low_three_bits (m : BitVec 5) : bits m 0 3 = m.toNat % 8 := by
  rw [bits, fld, pow_zero, Nat.div_one]
  rfl

theorem eqv_eq (a b : Num) : a.eqv b = (!(a.isNan || b.isNan) && !a.lt b && !b.lt a) := by
  rw [Num.eqv, Bool.not_or]

/-- The class bits, by a normal value's exponent (06_isa_float.md:R164). -/
theorem fclass_eq (f : Fmt) (x : Num) : fclass f x =
    (match x with
      | .nan true => 9
      | .nan false => 8
      | .inf true => 7
      | .fin true m e => if f.emin ≤ expOf m e then 6 else 5
      | .zero true => 4
      | .zero false => 3
      | .fin false m e => if f.emin ≤ expOf m e then 1 else 2
      | .inf false => 0) := by
  have hside : ∀ (e : Int) (p q : Nat), (if decide (e < f.emin) then p else q) = if f.emin ≤ e then q else p := fun e p q => by
    simp only [decide_eq_true_eq, ← not_le, ite_not]
  match x with
  | .nan true | .nan false | .inf true | .inf false | .zero true | .zero false => rfl
  | .fin true _ _ | .fin false _ _ => exact hside ..

/-- `fadd` to `fabs` (06_isa_float.md:R162). -/
theorem floatArithmetic : Claims.FloatArithmetic := by
  intro s w i a b c md sig2 no e top x
  refine ⟨fun hi => floatWord_of_fround hi rfl (fun _ => rfl), fun hi => floatWord_of_fround hi rfl (fun l => ?_),
    fun hi => floatWord_of_fround hi rfl (fun _ => rfl), fun hi => floatWord_of_fround hi rfl (fun _ => rfl),
    fun hi => floatWord_of_local hi rfl (fun _ => Prod.ext rfl (or_flag_ite ..)),
    fun hi => floatWord_of_fround hi rfl (fun _ => rfl), fun hi => floatWord_of_fround hi rfl (fun _ => rfl),
    fun hi => laneWord_of_local hi rfl (fun _ => rfl) (fun _ => rfl),
    fun hi => laneWord_of_local hi rfl (fun _ => rfl) (fun _ => rfl),
    fun hi => ⟨_, laneWord_of_plain hi rfl (fun _ => rfl), fun l j => testBit_turn_top (fbits_lt i w w.a l)⟩,
    fun hi => ⟨_, laneWord_of_plain hi rfl (fun _ => rfl), fun l j => testBit_clear_top (fbits_lt i w w.a l)⟩⟩
  show fround w i l ((a l).add (md l) (b l).negate) ((a l).isSig || (b l).negate.isSig || (a l).addInvalid (b l).negate) = _
  rw [Num.isSig_negate]

/-- `fcmp`, `fcls` and `frnd` (06_isa_float.md:R163 to R165). -/
theorem floatTests : Claims.FloatTests := by
  intro s w i a b un sig eq cond holds cls q
  refine ⟨fun hi => predWord_of_local_flags hi rfl (fun l => ?_) (fun l => ?_),
    fun hi => predWord_of_local hi rfl (fun l => ?_), fun hi => laneWord_of_local hi rfl (fun _ => rfl) (fun _ => rfl)⟩
  · show (fcond (bits w.mod 0 3) (a l) (b l)).1 = holds l
    rw [fcond_value, eqv_eq, low_three_bits]
  · show unlessNF w.nf (if sig l || (un l && decide (2 ≤ bits w.mod 0 3 ∧ bits w.mod 0 3 ≤ 5)) then fNV else 0) = _
    rw [low_three_bits]
  · exact congrArg w.imm.getLsbD (fclass_eq ..)

/-- Settles O39: every word of float type rounds its exact result once (`floatWord_of_local`), the sign words change the top bit alone
(`testBit_turn_top`, `testBit_clear_top`), and the tests are those of `fcond_value` and `fclass_eq`. -/
theorem floatResults : Obligations.FloatResults := ⟨floatArithmetic, floatTests⟩

end Sys2Proof.Machine
end

section
/-! ## O40. Results that a format represents -/

namespace Sys2Proof.Machine

variable {f : Fmt} {mode : Mode} {sat ftz neg : Bool} {t : TFun} {ver b : Nat} {x y : Num}

/-- A result that its format represents is written as it is in every version, with the flags of the special cases
(05_numbers.md:R157; 06_isa_float.md:R166). -/
theorem result_of_exact (hv : t.value x = y) (hr : round f .rne sat false y = ⟨b, 0⟩) :
    t.result ver f sat ftz x = ⟨b, t.special x⟩ := by
  have hexact : (round f .rne sat false (t.value x)).fl = 0 := by rw [hv, hr]
  rw [TFun.result, if_pos hexact, hv, hr, flags_zero_or]

theorem round_inf (hk : f.kind = .ieee) : round f mode sat ftz (.inf neg) = ⟨f.infBits neg, 0⟩ := by
  simp only [round, Fmt.infinity, hk]

theorem round_nan (hk : f.kind = .ieee) (sg : Bool) : round f mode sat ftz (.nan sg) = ⟨f.nanBits, 0⟩ := by
  simp [round, Fmt.nan, hk]

/-- The float types of the transcendental instructions represent ±1 (06_isa_float.md:R160). -/
theorem round_one (hf : f ∈ [fmt32, fmt16, fmtBf16]) (neg : Bool) :
    round f .rne false false (.fin neg 1 0) = ⟨f.signBit neg + f.oneBits, 0⟩ :=
  (by decide : ∀ f ∈ [fmt32, fmt16, fmtBf16], ∀ neg,
    round f .rne false false (.fin neg 1 0) = ⟨f.signBit neg + f.oneBits, 0⟩) f hf neg

/-- A NaN gives a NaN under every function (06_isa_float.md:R166). -/
theorem value_nan (t : TFun) (sg : Bool) : t.value (.nan sg) = .nan sg := by cases t <;> rfl

theorem special_nan (t : TFun) (sg : Bool) : t.special (.nan sg) = if sg then fNV else 0 := by
  cases sg
  · cases t <;> rfl
  · rfl

end Sys2Proof.Machine
end

section
/-! ## O40. The statements -/

namespace Sys2Proof.Machine

variable {s : State} {op : Op} {w : W} {i : Iss} {ins : Instr}

/-- A transcendental instruction completes with the result of its function (06_isa_float.md:R166). -/
theorem transWord (t : TFun) (hi : Issues op w s i) (he : exec ins s = issueW op w (localOp (transEff t w)) s) :
    LaneWord ins s i 1 w.d (fun l => (t.result i.grid.ftv (wFmt w) w.sat (wFtz w) (i.fnum w w.a l)).bits)
      (fun l => unlessNF w.nf (t.result i.grid.ftv (wFmt w) w.sat (wFtz w) (i.fnum w w.a l)).fl) :=
  laneWord_of_local hi he (fun _ => rfl) (fun _ => rfl)

/-- `fex2` to `frsq` (06_isa_float.md:R166). -/
theorem transcendentals : Claims.Transcendentals := fun _ _ _ =>
  ⟨fun hi => transWord .ex2 hi rfl, fun hi => transWord .lg2 hi rfl, fun hi => transWord .sinp hi rfl,
    fun hi => transWord .cosp hi rfl, fun hi => transWord .tnh hi rfl, fun hi => transWord .rcp hi rfl,
    fun hi => transWord .rsq hi rfl⟩

/-- The special results: each is a value that the format represents (06_isa_float.md:R166). -/
theorem transcendentalSpecials : Claims.TranscendentalSpecials := by
  intro f ver ftz n sg m e hf r one minus zero inf nan
  have hk : f.kind = .ieee := (by decide : ∀ f ∈ [fmt32, fmt16, fmtBf16], f.kind = .ieee) f hf
  have hzero (neg : Bool) : round f .rne false false (.zero neg) = ⟨zero neg, 0⟩ := rfl
  have hone (neg : Bool) : round f .rne false false (.fin neg 1 0) = ⟨zero neg + one, 0⟩ := round_one hf neg
  have hinf (neg : Bool) : round f .rne false false (.inf neg) = ⟨zero neg + inf, 0⟩ := round_inf hk
  have hnan (s : Bool) : round f .rne false false (.nan s) = ⟨nan, 0⟩ := (round_nan hk s).trans (by rw [Fmt.nanBits, hk])
  have hplus (x : Nat) : zero false + x = x := Nat.zero_add x
  have hone' := hone false
  have hinf' := hinf false
  rw [hplus] at hone' hinf'
  have hrcp0 : TFun.rcp.value (.zero n) = .inf n := congrArg Num.inf (Bool.false_bne n)
  have hrcpinf : TFun.rcp.value (.inf n) = .zero n := congrArg Num.zero (Bool.false_bne n)
  refine ⟨
    -- `fex2` at the zeros, +∞ and −∞
    result_of_exact rfl hone', result_of_exact rfl hinf', result_of_exact rfl (hzero false),
    -- `flg2` at the zeros, +∞, −∞, below zero and at one
    result_of_exact rfl (hinf true), result_of_exact rfl hinf', result_of_exact rfl (hnan false),
    result_of_exact rfl (hnan false), result_of_exact rfl (hzero false),
    -- `fsinp`, `fcosp`, `ftnh` and `frcp` at the zeros and the infinities
    result_of_exact rfl (hzero n), result_of_exact rfl (hnan false),
    result_of_exact rfl hone', result_of_exact rfl (hnan false),
    result_of_exact rfl (hzero n), result_of_exact rfl (hone n),
    result_of_exact hrcp0 (hinf n), result_of_exact hrcpinf (hzero n),
    -- `frsq` at the zeros, +∞, −∞ and below zero
    result_of_exact rfl (hinf n), result_of_exact rfl (hzero false), result_of_exact rfl (hnan false),
    result_of_exact rfl (hnan false), fun t => ?_⟩
  -- every function at a NaN
  rw [← special_nan t sg]
  exact result_of_exact (value_nan t sg) (hnan sg)

/-- Settles O40: each instruction gives `TFun.result` of its operand (`transWord`), and the value of every special case is a zero, a
one, an infinity or a NaN, which every version writes as it is (`result_of_exact`). -/
theorem transcendentalResults : Obligations.TranscendentalResults := ⟨transcendentals, transcendentalSpecials⟩

end Sys2Proof.Machine
end

section
/-! ## O42. Windows -/

namespace Sys2Proof.Machine

variable {a : Warp} {h k : Nat} {ls : List Nat} {b : Nat → Nat}

/-- The words of a value, the most significant first, put together again (05_numbers.md:R145). -/
theorem wordsDown_mod (x : Nat) {n : Nat} (hn : n ≤ k) :
    (List.range n).foldl (fun a j => a * 2 ^ 32 + (BitVec.ofNat 32 (x / 2 ^ (32 * (k - 1 - j)))).toNat) 0 =
      x / 2 ^ (32 * (k - n)) % 2 ^ (32 * n) := by
  induction n with
  | zero => exact (Nat.mod_one _).symm
  | succ n ih =>
    have hk : 32 * (k - n) = 32 * (k - 1 - n) + 32 := by omega
    have hk' : k - (n + 1) = k - 1 - n := by omega
    have hn' : 32 * (n + 1) = 32 + 32 * n := by omega
    rw [List.range_succ, List.foldl_append, ih (by omega), List.foldl_cons, List.foldl_nil, BitVec.toNat_ofNat, hk', hn', hk,
      pow_add 2 _ 32, ← Nat.div_div_eq_div_mul, pow_add, Nat.mod_mul]
    ring

/-- A window depends on the words that its registers hold. -/
theorem vfBits_congr {w : Warp} {g : Nat → Nat} {l : Nat} (hg : ∀ j, j < k → (cget w.v (32 * (h + j) + l)).toNat = g j) :
    w.vfBits h k l = (List.range k).foldl (fun a j => a * 2 ^ 32 + g j) 0 :=
  List.foldl_ext _ _ _ fun _ j hj => by rw [hg j (List.mem_range.1 hj)]

theorem vfBits_lt (w : Warp) (h k l : Nat) : w.vfBits h k l < 2 ^ (32 * k) := by
  induction k with
  | zero => exact Nat.one_pos
  | succ k ih =>
    have hword := (cget w.v (32 * (h + k) + l)).isLt
    have hsucc : w.vfBits h (k + 1) l = w.vfBits h k l * 2 ^ 32 + (cget w.v (32 * (h + k) + l)).toNat := by
      rw [Warp.vfBits, List.range_succ, List.foldl_append]
      rfl
    have hpow : 2 ^ (32 * (k + 1)) = 2 ^ (32 * k) * 2 ^ 32 := by rw [Nat.mul_succ, pow_add]
    rw [hsucc, hpow]
    omega

/-- The registers of a window after it is written (02_state.md:R50, R54). -/
theorem windowWrite_putWindow (a : Warp) (h k : Nat) (b : Nat → Nat) (hne : ls ≠ []) (hlt : ∀ l ∈ ls, l < 32) :
    WindowWrite h k ls b a (a.putWindow h k ls b) := by
  obtain ⟨l0, r, rfl⟩ := List.exists_cons_of_ne_nil hne
  refine ⟨fun l hl => ?_, fun j hj => ?_, cget_cset_same .., fun j hj => cget_cset_other _ _ hj⟩
  · rw [vfBits_congr (g := fun j => (BitVec.ofNat 32 (b l / 2 ^ (32 * (k - 1 - j)))).toNat), wordsDown_mod (b l) le_rfl,
      Nat.sub_self, Nat.mul_zero, pow_zero, Nat.div_one]
    intro j hj
    congr 1
    refine cget_csetAll_mem _ _ _ _ ⟨(_, _), List.mem_flatMap.2 ⟨j, List.mem_range.2 hj, List.mem_map.2 ⟨l, hl, rfl⟩⟩, rfl⟩ ?_
    intro e he hkey
    obtain ⟨j', -, he⟩ := List.mem_flatMap.1 he
    obtain ⟨l', hl', rfl⟩ := List.mem_map.1 he
    have hlane := hlt l hl
    have hlane' := hlt l' hl'
    dsimp only at hkey
    obtain ⟨rfl, rfl⟩ : j' = j ∧ l' = l := by omega
    rfl
  · refine cget_csetAll_other _ _ _ fun e he hkey => ?_
    obtain ⟨j', hj', he⟩ := List.mem_flatMap.1 he
    obtain ⟨l', hl', rfl⟩ := List.mem_map.1 he
    have hlane' := hlt l' hl'
    have hj' := List.mem_range.1 hj'
    dsimp only at hkey
    have hl : j % 32 = l' := by omega
    rcases hj with hj | hj
    · exact hj (hl ▸ hl')
    · omega

@[simp] theorem putWindow_fenv : (a.putWindow h k ls b).fenv = a.fenv := by cases ls <;> rfl
@[simp] theorem putWindow_s : (a.putWindow h k ls b).s = a.s := by cases ls <;> rfl
@[simp] theorem putWindow_p : (a.putWindow h k ls b).p = a.p := by cases ls <;> rfl

theorem putWindow_onlyRegs (a : Warp) (h k : Nat) (ls : List Nat) (b : Nat → Nat) : OnlyRegs a (a.putWindow h k ls b) := by
  cases ls <;> rfl

end Sys2Proof.Machine
end

section
/-! ## O42. Writing VF results -/

namespace Sys2Proof.Machine

variable {s : State} {op : Op} {w : W} {i : Iss} {ins : Instr} {k : Nat} {srcOk : Iss → Bool} {d : VfDst} {f : Iss → Nat → VfOut}

/-- The lanes that meet the precision-exhausted condition with PXEN set (06_isa_float.md:R176). -/
def pxStop (f : Iss → Nat → VfOut) (i : Iss) (l : Nat) : Bool := (f i l).any Prod.snd && precPxen (i.warp.precOf l)

/-- What a VF word does to its warp once nothing stops it: a window for each component, and the flags (02_state.md:R54). -/
def vfEff (w : W) (d : VfDst) (f : Iss → Nat → VfOut) (k : Nat) (i : Iss) (wp : Warp) : Warp :=
  (((d.heads k).zip (List.range 4)).foldl (fun wp h => wp.putWindow h.1 k i.lanes (fun l =>
    vfWindow k (precL (i.warp.precOf l)) (nth (f i l) h.2 (⟨0, 0⟩, false)).1.bits)) wp).raiseFlags i.lanes (fun l =>
      unlessNF w.nf ((f i l).foldl (fun a r => a ||| r.1.fl ||| (if r.2 then fPX else 0)) 0))

/-- A VF word whose sources are no windows, whose lanes agree on no window length, or whose destination is not fit for theirs
(02_state.md:R53, R54). -/
theorem vfWrite_illegal (h : i.warp.oneK i.lanes = none ∨ srcOk i = false ∨ ∃ k, i.warp.oneK i.lanes = some k ∧ d.ok k = false) :
    vfWrite w srcOk d f i s = i.illegal s := by
  unfold vfWrite
  cases hk : i.warp.oneK i.lanes with
  | none => rfl
  | some k =>
    have hbad : (!srcOk i || !d.ok k) = true := by
      rcases h with h | h | ⟨k', hk', h⟩
      · rw [hk] at h
        cases h
      · rw [h]
        rfl
      · obtain rfl : k = k' := Option.some.inj (hk.symm.trans hk')
        rw [h, Bool.not_false, Bool.or_true]
    exact if_pos hbad

/-- A VF word that is not illegal takes the precision trap, or has its effect (06_isa_float.md:R176). -/
theorem vfWrite_legal (hk : i.warp.oneK i.lanes = some k) (hs : srcOk i = true) (hd : d.ok k = true) :
    vfWrite w srcOk d f i s = if maskBy i.act (pxStop f i) ≠ 0 then .trap s { cause := 6, mask := maskBy i.act (pxStop f i) }
      else localOp (vfEff w d f k) i s := by
  have hgood : ¬ (!srcOk i || !d.ok k) = true := by rw [hs, hd]; decide
  unfold vfWrite
  rw [hk]
  exact if_neg hgood

theorem vfWrite_stops (hk : i.warp.oneK i.lanes = some k) (hs : srcOk i = true) (hd : d.ok k = true)
    (h : ∃ l ∈ i.lanes, pxStop f i l = true) :
    vfWrite w srcOk d f i s = .trap s { cause := 6, mask := maskBy i.act (pxStop f i) } := by
  obtain ⟨l, hl, hstop⟩ := h
  rw [vfWrite_legal hk hs hd, if_pos]
  intro h0
  rw [maskBy_eq_zero h0 l hl] at hstop
  cases hstop

theorem vfWrite_done (hk : i.warp.oneK i.lanes = some k) (hs : srcOk i = true) (hd : d.ok k = true)
    (h : ∀ l ∈ i.lanes, pxStop f i l = false) : vfWrite w srcOk d f i s = localOp (vfEff w d f k) i s := by
  rw [vfWrite_legal hk hs hd, if_neg (not_not.2 (maskBy_eq_zero_iff.2 h))]

/-- What a VF word with one window does to its warp (02_state.md:R54; 06_isa_float.md:R176). -/
theorem vfEff_one {r : Nat → FRes} {px : Nat → Bool} {o : Opnd} (hi : i.lanes ≠ []) (hf : ∀ l, f i l = [(r l, px l)]) (a : Warp) :
    WindowWrite o.vreg k i.lanes (fun l => vfWindow k (precL (i.warp.precOf l)) (r l).bits) a (vfEff w (vfDst1 o) f k i a) ∧
      FlagRaise i.lanes (fun l => unlessNF w.nf ((r l).fl ||| (if px l then fPX else 0))) a (vfEff w (vfDst1 o) f k i a) ∧
      (vfEff w (vfDst1 o) f k i a).s = a.s ∧ (vfEff w (vfDst1 o) f k i a).p = a.p ∧ OnlyRegs a (vfEff w (vfDst1 o) f k i a) := by
  have heff : vfEff w (vfDst1 o) f k i a =
      (a.putWindow o.vreg k i.lanes (fun l => vfWindow k (precL (i.warp.precOf l)) (r l).bits)).raiseFlags i.lanes
        (fun l => unlessNF w.nf ((r l).fl ||| (if px l then fPX else 0))) := by
    have hflags (l : Nat) : (f i l).foldl (fun a r => a ||| r.1.fl ||| (if r.2 then fPX else 0)) 0 =
        (r l).fl ||| (if px l then fPX else 0) := by
      rw [hf, List.foldl_cons, List.foldl_nil, flags_zero_or]
    simp only [vfEff, hflags]
    simp only [hf]
    rfl
  rw [heff]
  have hwin := windowWrite_putWindow a o.vreg k (fun l => vfWindow k (precL (i.warp.precOf l)) (r l).bits) hi (fun _ => lanesOf_lt)
  have hfl := flagRaise_raiseFlags (a.putWindow o.vreg k i.lanes (fun l => vfWindow k (precL (i.warp.precOf l)) (r l).bits)) i.lanes
    (fun l => unlessNF w.nf ((r l).fl ||| (if px l then fPX else 0))) (lanesOf_nodup _)
  rw [FlagRaise, putWindow_fenv] at hfl
  exact ⟨⟨hwin.value, hwin.rest, hwin.head, hwin.tags⟩, hfl, putWindow_s, putWindow_p,
    onlyRegs_trans (putWindow_onlyRegs ..) (raiseFlags_onlyRegs ..)⟩

/-- A VF word with one window completes or traps as R176 says. -/
theorem vfWord_of_write {ok : Bool} {r : Nat → FRes} {px : Nat → Bool} (hi : Issues op w s i)
    (he : exec ins s = .next (finish i (vfWrite w srcOk (vfDst1 w.d) f i s))) (hs : srcOk i = ok) (hf : ∀ l, f i l = [(r l, px l)]) :
    VfWord ins w s i ok r px := by
  have hstop : pxStop f i = fun l => px l && precPxen (i.warp.precOf l) := funext fun l => by
    rw [pxStop, hf]
    simp
  have hd : ∀ k, w.d.vreg % vfAlign k = 0 → (vfDst1 w.d).ok k = true := fun k h => beq_iff_eq.2 h
  refine ⟨fun k hk hok hal hnone => ?_, fun h => ?_, fun k hk hok hal hsome => ?_⟩
  · refine ⟨vfEff w (vfDst1 w.d) f k i, ?_, vfEff_one (issues_lanes hi) hf i.warp⟩
    rw [vfWrite_done hk (hs.trans hok) (hd k hal) (by rw [hstop]; exact hnone)] at he
    exact he
  · rw [vfWrite_illegal] at he
    · exact he
    · rw [hs]
      exact h.imp_right (Or.imp_right fun ⟨k, hk, hal⟩ => ⟨k, hk, beq_eq_false_iff_ne.2 hal⟩)
  · rw [vfWrite_stops hk (hs.trans hok) (hd k hal) (by rw [hstop]; exact hsome), hstop] at he
    exact he

end Sys2Proof.Machine
end

section
/-! ## O42. VF arithmetic -/

namespace Sys2Proof.Machine

variable {s : State} {op : Op} {w : W} {i : Iss} {ins : Instr}

/-- An exact result rounded once to a lane's L bits, with NV where `nv` says so and the flags `more` (06_isa_float.md:R171). -/
def vfRounded (w : W) (i : Iss) (l : Nat) (x : Num) (nv : Bool) (more : Flags) : FRes :=
  let r := round (fmtVf (precL (i.warp.precOf l))) (i.warp.modeOf w.mod l) w.sat false x
  ⟨r.bits, r.fl ||| (if nv then fNV else 0) ||| more⟩

theorem vfRound_or (w : W) (i : Iss) (l : Nat) (x : Num) (nv : Bool) (more : Flags) :
    ⟨(vfRound w i l x nv).bits, (vfRound w i l x nv).fl ||| more⟩ = vfRounded w i l x nv more := by
  rw [vfRound, FRes.nv_bits, FRes.nv_fl, vfRounded]

theorem vfRound_eq (w : W) (i : Iss) (l : Nat) (x : Num) (nv : Bool) : vfRound w i l x nv = vfRounded w i l x nv 0 := by
  rw [← vfRound_or, flags_or_zero]

variable {srcs : List Opnd} {f : Iss → Nat → VfOut} {ok : Bool} {x : Nat → Num} {nv px : Nat → Bool} {more : Nat → Flags}

/-- A VF arithmetic word, by its exact result, whether it is invalid, its other flags and its precision test
(06_isa_float.md:R171). -/
theorem vfWord_of_rounded (hi : Issues op w s i) (he : exec ins s = .next (finish i (vfOp w srcs f i s))) (hs : tagged srcs i = ok)
    (hf : ∀ l, f i l = [(⟨(vfRound w i l (x l) (nv l)).bits, (vfRound w i l (x l) (nv l)).fl ||| more l⟩, px l)]) :
    VfWord ins w s i ok (fun l => vfRounded w i l (x l) (nv l) (more l)) px :=
  vfWord_of_write hi he hs (fun l => by rw [hf, vfRound_or])

/-- The same for a word that raises no other flag. -/
theorem vfWord_of_vfRound (hi : Issues op w s i) (he : exec ins s = .next (finish i (vfOp w srcs f i s))) (hs : tagged srcs i = ok)
    (hf : ∀ l, f i l = [(vfRound w i l (x l) (nv l), px l)]) :
    VfWord ins w s i ok (fun l => vfRounded w i l (x l) (nv l) 0) px :=
  vfWord_of_write hi he hs (fun l => by rw [hf, vfRound_eq])

theorem tagged_one (i : Iss) (o : Opnd) : tagged [o] i = i.warp.vfTagged o := Bool.and_true _

theorem tagged_two (i : Iss) (o p : Opnd) : tagged [o, p] i = (i.warp.vfTagged o && i.warp.vfTagged p) := by
  rw [tagged, List.all_cons, List.all_cons, List.all_nil, Bool.and_true]

theorem tagged_three (i : Iss) (o p q : Opnd) :
    tagged [o, p, q] i = (i.warp.vfTagged o && i.warp.vfTagged p && i.warp.vfTagged q) := by
  rw [tagged, List.all_cons, List.all_cons, List.all_cons, List.all_nil, Bool.and_true, Bool.and_assoc]

/-- The result of `vfext.scl` in a lane (06_isa_float.md:R175). -/
def vfsclOut (w : W) (i : Iss) (l : Nat) : VfOut :=
  [(vfRound w i l ((i.vf w w.a l).scale (expArg (i.src w 1 w.b l))) (i.vf w w.a l).isSig, false)]

/-- `vfext.scl` is a VF word with one window (06_isa_float.md:R175). -/
theorem exec_vfext_scl (hi : Issues .vfext w s i) (hm : bits w.mod 3 2 ≠ 0) :
    exec (.vfext w) s = .next (finish i (vfOp w [w.a] (vfsclOut w) i s)) := by
  have hexec : exec (.vfext w) s = execVfext w s := rfl
  rw [hexec, execVfext, issueW_issues _ hi, if_neg hm]
  rfl

/-- `vfadd` to `vfrnd` and `vfext.scl` (06_isa_float.md:R171, R175, R176). -/
theorem vfArithmetic : Claims.VfArithmetic := by
  intro s w i a b c md rnd sig2 ab no lost sum dif acc q
  have hone := tagged_one i w.a
  have htwo := tagged_two i w.a w.b
  refine ⟨fun hi => vfWord_of_vfRound hi (issueW_issues _ hi) htwo (fun _ => rfl),
    fun hi => vfWord_of_vfRound hi (issueW_issues _ hi) htwo (fun l => ?_),
    fun hi => vfWord_of_vfRound hi (issueW_issues _ hi) htwo (fun _ => rfl),
    fun hi => vfWord_of_vfRound hi (issueW_issues _ hi) (tagged_three ..) (fun _ => rfl),
    fun hi => vfWord_of_rounded hi (issueW_issues _ hi) htwo (fun l => ?_),
    fun hi => vfWord_of_vfRound hi (issueW_issues _ hi) hone (fun _ => rfl),
    fun hi => vfWord_of_vfRound hi (issueW_issues _ hi) htwo (fun _ => rfl),
    fun hi => vfWord_of_vfRound hi (issueW_issues _ hi) htwo (fun _ => rfl),
    fun hi => vfWord_of_rounded hi (issueW_issues _ hi) hone (fun l => ?_),
    fun hi hm => vfWord_of_vfRound hi (exec_vfext_scl hi hm) hone (fun _ => rfl)⟩
  · show [(vfRound w i l (dif l) ((a l).isSig || (b l).negate.isSig || (a l).addInvalid (b l).negate), _)] = _
    rw [Num.isSig_negate]
    rfl
  · rw [← or_flag_ite]
    rfl
  · rw [← or_flag_ite]
    rfl

end Sys2Proof.Machine
end

section
/-! ## O42. Copies, comparisons and conversions of windows -/

namespace Sys2Proof.Machine

variable {s : State} {op : Op} {w : W} {i : Iss} {ins : Instr} {f : Nat → Nat → Nat}

/-! ### Copies -/

/-- A copy completes with a window of its source's own length (06_isa_float.md:R173). -/
theorem vfCopy_done (hi : Issues op w s i) (he : exec ins s = issueW op w (vfCopy w f) s) (ht : i.warp.vfTagged w.a = true)
    (hd : w.d.vreg % vfAlign (i.warp.tag w.a.vreg) = 0) :
    CompletesLocally ins s i (fun wp => wp.putWindow w.d.vreg (i.warp.tag w.a.vreg) i.lanes
      (fun l => f (2 ^ (32 * i.warp.tag w.a.vreg - 1)) (i.warp.vfBits w.a.vreg (i.warp.tag w.a.vreg) l))) := by
  have hgood : ¬ (!i.warp.vfTagged w.a || w.d.vreg % vfAlign (i.warp.tag w.a.vreg) != 0) = true := by
    rw [ht, hd]
    decide
  rw [CompletesLocally, Completes, he, issueW_issues _ hi, vfCopy, if_neg hgood]
  rfl

theorem vfCopy_illegal (hi : Issues op w s i) (he : exec ins s = issueW op w (vfCopy w f) s)
    (h : ¬ (i.warp.vfTagged w.a = true ∧ w.d.vreg % vfAlign (i.warp.tag w.a.vreg) = 0)) :
    exec ins s = .next { s.takeTrap i.r { cause := 3, mask := i.act } with cur := none } := by
  have hbad : (!i.warp.vfTagged w.a || w.d.vreg % vfAlign (i.warp.tag w.a.vreg) != 0) = true := by
    rw [Bool.or_eq_true, Bool.not_eq_true', bne_iff_ne]
    exact (not_and_or.1 h).imp_left Bool.eq_false_of_not_eq_true
  rw [he, issueW_issues _ hi, vfCopy, if_pos hbad]
  rfl

/-- A copy writes its source's bits, its sign bit changed, and raises no flag; or it is illegal (06_isa_float.md:R173). -/
theorem vfCopy_spec (bit : Nat → Bool → Bool) (hi : Issues op w s i) (he : exec ins s = issueW op w (vfCopy w f) s)
    (hbit : ∀ x j, x < 2 ^ (32 * i.warp.tag w.a.vreg) → j < 32 * i.warp.tag w.a.vreg →
      (f (2 ^ (32 * i.warp.tag w.a.vreg - 1)) x).testBit j = bit j (x.testBit j)) :
    let k := i.warp.tag w.a.vreg
    (i.warp.vfTagged w.a = true → w.d.vreg % vfAlign k = 0 → ∃ g val, CompletesLocally ins s i g ∧
      WindowWrite w.d.vreg k i.lanes val i.warp (g i.warp) ∧
      (∀ l j, j < 32 * k → (val l).testBit j = bit j ((i.warp.vfBits w.a.vreg k l).testBit j)) ∧
      (g i.warp).s = i.warp.s ∧ (g i.warp).p = i.warp.p ∧ (g i.warp).fenv = i.warp.fenv ∧ OnlyRegs i.warp (g i.warp)) ∧
    (¬ (i.warp.vfTagged w.a = true ∧ w.d.vreg % vfAlign k = 0) →
      exec ins s = .next { s.takeTrap i.r { cause := 3, mask := i.act } with cur := none }) :=
  ⟨fun ht hd => ⟨_, _, vfCopy_done hi he ht hd, windowWrite_putWindow _ _ _ _ (issues_lanes hi) (fun _ => lanesOf_lt),
      fun _ j hj => hbit _ j (vfBits_lt ..) hj, putWindow_s, putWindow_p, putWindow_fenv, putWindow_onlyRegs ..⟩,
    vfCopy_illegal hi he⟩

variable {k x j : Nat}

theorem testBit_vfneg (hx : x < 2 ^ (32 * k)) (hj : j < 32 * k) :
    (if x < 2 ^ (32 * k - 1) then x + 2 ^ (32 * k - 1) else x - 2 ^ (32 * k - 1)).testBit j =
      if j = 32 * k - 1 then !x.testBit j else x.testBit j := by
  rw [testBit_turn_top (by rwa [Nat.sub_add_cancel (by omega)])]
  by_cases h : j = 32 * k - 1 <;> simp [h]

theorem testBit_vfabs (hx : x < 2 ^ (32 * k)) (hj : j < 32 * k) :
    (x % 2 ^ (32 * k - 1)).testBit j = if j = 32 * k - 1 then false else x.testBit j := by
  rw [testBit_clear_top (by rwa [Nat.sub_add_cancel (by omega)])]
  by_cases h : j = 32 * k - 1 <;> simp [h]

/-! ### Words that read windows -/

variable {n : Nat}

/-- A word that completes with a register destination, by the values and flags of its lanes. -/
theorem laneWord_of_finish {f : Iss → Nat → Nat × Flags} {val : Nat → Nat} {fl : Nat → Flags}
    (he : exec ins s = .next (finish i (localOp (laneOut n w f) i s))) (hval : ∀ l, (f i l).1 = val l)
    (hfl : ∀ l, unlessNF w.nf (f i l).2 = fl l) : LaneWord ins s i n w.d val fl := by
  obtain rfl : (fun l => (f i l).1) = val := funext hval
  obtain rfl : (fun l => unlessNF w.nf (f i l).2) = fl := funext hfl
  exact laneWord_of f he

/-- `vfcmp` acts where its sources are windows, and is illegal where one is not (02_state.md:R53; 06_isa_float.md:R172). -/
theorem exec_vfcmp (hi : Issues .vfcmp w s i) : exec (.vfcmp w) s = .next (finish i
    (if !tagged [w.a, w.b] i then i.illegal s
      else localOp (predOut w (fun i l => fcond (bits w.mod 0 3) (i.vf w w.a l) (i.vf w w.b l))) i s)) := by
  have hexec : exec (.vfcmp w) s = execVfcmp w s := rfl
  rw [hexec, execVfcmp, issueW_issues _ hi]

/-- `vfcvt` into VF writes a window; out of VF it needs one (06_isa_float.md:R174). -/
theorem exec_vfcvt_in (hi : Issues .vfcvt w s i) (hm : bits w.mod 3 1 = 0) :
    exec (.vfcvt w) s = .next (finish i (vfWrite w (fun _ => true) (vfDst1 w.d) (vfcvtIn w) i s)) := by
  have hexec : exec (.vfcvt w) s = execVfcvt w s := rfl
  rw [hexec, execVfcvt, issueW_issues _ hi, if_pos hm]

theorem exec_vfcvt_out (hi : Issues .vfcvt w s i) (hm : bits w.mod 3 1 ≠ 0) : exec (.vfcvt w) s = .next (finish i
    (if !tagged [w.a] i then i.illegal s else localOp (laneOut (regsOfCode (bits w.imm 0 8)) w (vfcvtOutRes w)) i s)) := by
  have hexec : exec (.vfcvt w) s = execVfcvt w s := rfl
  rw [hexec, execVfcvt, issueW_issues _ hi, if_neg hm]

/-- `vfext.exp` needs a window (06_isa_float.md:R175). -/
theorem exec_vfext_exp (hi : Issues .vfext w s i) (hm : bits w.mod 3 2 = 0) : exec (.vfext w) s = .next (finish i
    (if !tagged [w.a] i then i.illegal s else localOp (laneOut 1 w (plain (vfexpRes w))) i s)) := by
  have hexec : exec (.vfext w) s = execVfext w s := rfl
  rw [hexec, execVfext, issueW_issues _ hi, if_pos hm]

variable {ok : Bool} {r : Res}

/-- A word that needs windows, where its sources are windows. -/
theorem exec_of_windows (he : exec ins s = .next (finish i (if !ok then i.illegal s else r))) (h : ok = true) :
    exec ins s = .next (finish i r) := by
  subst h
  exact he

/-- A word that needs windows, where a source is none (02_state.md:R53). -/
theorem exec_of_no_window (he : exec ins s = .next (finish i (if !ok then i.illegal s else r))) (h : ok = false) :
    exec ins s = .next { s.takeTrap i.r { cause := 3, mask := i.act } with cur := none } := by
  subst h
  exact he

/-- The exponent that `vfext.exp` extracts (06_isa_float.md:R175). -/
theorem extInt_word (x : Int) : extInt true 32 32 x = (BitVec.ofInt 32 x).toNat := by
  rw [extInt_eq le_rfl, if_pos rfl, BitVec.signExtend_eq]

/-- `vfcmp` to `vfmov`, `vfcvt` and `vfext.exp` (06_isa_float.md:R172 to R175). -/
theorem vfMoves : Claims.VfMoves := by
  intro s w i k x illegal copy ab c out read into
  have hone := tagged_one i w.a
  have htwo := tagged_two i w.a w.b
  refine ⟨fun hi => vfCopy_spec (fun j y => if j = 32 * k - 1 then !y else y) hi rfl (fun _ _ => testBit_vfneg),
    fun hi => vfCopy_spec (fun j y => if j = 32 * k - 1 then false else y) hi rfl (fun _ _ => testBit_vfabs),
    fun hi => vfCopy_spec (fun _ y => y) hi rfl (fun _ _ _ _ => rfl),
    fun hi ht => predWord_of _ (exec_of_windows (exec_vfcmp hi) (htwo.trans ht)),
    fun hi ht => exec_of_no_window (exec_vfcmp hi) (htwo.trans ht),
    fun hi hm => vfWord_of_write hi (exec_vfcvt_in hi hm) rfl (fun l => ?_),
    fun hi hm ht => laneWord_of_finish (exec_of_windows (exec_vfcvt_out hi hm) (hone.trans ht)) (fun _ => rfl) (fun _ => rfl),
    fun hi hm ht => exec_of_no_window (exec_vfcvt_out hi hm) (hone.trans ht),
    fun hi hm ht => laneWord_of_finish (exec_of_windows (exec_vfext_exp hi hm) (hone.trans ht)) (fun l => ?_)
      (fun _ => unlessNF_zero _),
    fun hi hm ht => exec_of_no_window (exec_vfext_exp hi hm) (hone.trans ht)⟩
  · show [(vfRound w i l (read l) (read l).isSig, false)] = _
    rw [vfRound_eq, vfRounded, flags_or_zero]
  · show vfexpRes w i l = _
    unfold vfexpRes
    cases i.vf w w.a l with
    | fin _ m e => exact extInt_word _
    | zero | inf | nan => rfl

/-- Settles O42: a VF word with one window completes or traps by its lanes' lengths, its sources' tags and its precision tests
(`vfWord_of_write`), a write puts the words of each result into its window (`windowWrite_putWindow`), and a copy changes the top bit
alone (`vfCopy_spec`). -/
theorem variableFloats : Obligations.VariableFloats := ⟨vfArithmetic, vfMoves⟩

end Sys2Proof.Machine
end

section
/-! ## O3. Transforms by their type -/

namespace Sys2Proof.Machine

variable {s : State} {op : Op} {w : W} {i : Iss} {ins : Instr} {k : Nat} {ds : List Opnd} {g : Iss → Nat → List FRes}
  {srcOk : Iss → Bool} {d : VfDst} {f : Iss → Nat → VfOut} {r : Iss → State → Res}

/-- What a `.f32` transform does to its warp: a register for each component, and the flags (06_isa_float.md:R178). -/
def xf32Eff (w : W) (ds : List Opnd) (g : Iss → Nat → List FRes) (i : Iss) (wp : Warp) : Warp :=
  ((ds.zip (List.range 4)).foldl (fun wp d => wp.put 1 d.1 i.lanes (fun l => (nth (g i l) d.2 ⟨0, 0⟩).bits)) wp).raiseFlags
    i.lanes (fun l => unlessNF w.nf ((g i l).foldl (fun a r => a ||| r.fl) 0))

theorem xf32_eq : xf32 w ds g = localOp (xf32Eff w ds g) := rfl

theorem xfIs32_iff : xfIs32 w = true ↔ bits w.mod 3 2 = 0 := beq_iff_eq

/-- A transform of type `.f32` completes with its components. -/
theorem completes_f32 (hi : Issues op w s i) (he : exec ins s = issueW op w (if xfIs32 w then xf32 w ds g else r) s)
    (h : bits w.mod 3 2 = 0) : CompletesLocally ins s i (xf32Eff w ds g i) := by
  rw [if_pos (xfIs32_iff.2 h), xf32_eq] at he
  exact he.trans (issueW_local _ hi)

/-- A VF word that nothing stops completes with a window for each component (06_isa_float.md:R176, R177). -/
theorem completes_of_vfWrite (he : exec ins s = .next (finish i (vfWrite w srcOk d f i s)))
    (hk : i.warp.oneK i.lanes = some k) (hs : srcOk i = true) (hd : d.ok k = true) (hp : ∀ l ∈ i.lanes, pxStop f i l = false) :
    CompletesLocally ins s i (vfEff w d f k i) := by
  rw [vfWrite_done hk hs hd hp] at he
  exact he

/-- A transform of type `.vf` that nothing stops. -/
theorem completes_vf (hi : Issues op w s i) (he : exec ins s = issueW op w (if xfIs32 w then r else vfWrite w srcOk d f) s)
    (h : ¬ bits w.mod 3 2 = 0) (hk : i.warp.oneK i.lanes = some k) (hs : srcOk i = true) (hd : d.ok k = true)
    (hp : ∀ l ∈ i.lanes, pxStop f i l = false) : CompletesLocally ins s i (vfEff w d f k i) := by
  rw [if_neg (mt xfIs32_iff.1 h)] at he
  exact completes_of_vfWrite (he.trans (issueW_issues _ hi)) hk hs hd hp

end Sys2Proof.Machine
end

section
/-! ## O3. The components of each word -/

namespace Sys2Proof.Machine

variable {s : State} {w : W} {i : Iss}

/-- The components of `bfly`, `cmul` and `cbfly` in a lane, rounded to binary32 (06_isa_float.md:R178). -/
def bfly32 (w : W) (i : Iss) (l : Nat) : List FRes := (bflyComps (i.f32 w w.a l) (i.f32 w w.b l)).map (comp32 w i l)
/-- See `bfly32`. -/
def cmul32 (w : W) (i : Iss) (l : Nat) : List FRes := (cmulComps (i.cx32 w w.a l) (i.cx32 w w.b l)).map (comp32 w i l)
/-- See `bfly32`. -/
def cbfly32 (w : W) (i : Iss) (l : Nat) : List FRes :=
  (cbflyComps (i.cx32 w w.a l) (i.cx32 w w.b l) (i.cx32 w w.c l)).map (comp32 w i l)

/-- The components of `bfly`, `cmul` and `cbfly` in a lane, rounded to its L bits (06_isa_float.md:R178). -/
def bflyVf (w : W) (i : Iss) (l : Nat) : VfOut := (bflyComps (i.vf w w.a l) (i.vf w w.b l)).map (compVf w i l)
/-- See `bflyVf`. -/
def cmulVf (w : W) (i : Iss) (l : Nat) : VfOut := (cmulComps (i.cxVf w.a l) (i.cxVf w.b l)).map (compVf w i l)
/-- See `bflyVf`. -/
def cbflyVf (w : W) (i : Iss) (l : Nat) : VfOut := (cbflyComps (i.cxVf w.a l) (i.cxVf w.b l) (i.cxVf w.c l)).map (compVf w i l)

/-- The components of `twid` in a lane, in both types (06_isa_float.md:R179). -/
def twid32 (w : W) (i : Iss) (l : Nat) : List FRes :=
  [round fmt32 (i.warp.modeOf w.mod l) false false (i.twid w l).1, round fmt32 (i.warp.modeOf w.mod l) false false (i.twid w l).2]
/-- See `twid32`. -/
def twidVfs (w : W) (i : Iss) (l : Nat) : VfOut := [twidVf w i l (i.twid w l).1, twidVf w i l (i.twid w l).2]

/-- Whether the exponent m of a lane of `twid` is too great (06_isa_float.md:R179). -/
def twidBad (w : W) (i : Iss) (l : Nat) : Bool := decide (20 < i.src w 1 w.b l)

theorem twidBad_none_iff : maskBy i.act (twidBad w i) = 0 ↔ ∀ l ∈ i.lanes, i.src w 1 w.b l ≤ 20 := by
  simp only [maskBy_eq_zero_iff, twidBad, decide_eq_false_iff_not, not_lt, Iss.lanes]

/-- What `twid` does once it issues: it judges its exponents, and then acts by its type (06_isa_float.md:R179). -/
theorem exec_twid (hi : Issues .twid w s i) : exec (.twid w) s = .next (finish i (
    if maskBy i.act (twidBad w i) ≠ 0 then .trap s { cause := 3, mask := maskBy i.act (twidBad w i) }
    else if xfIs32 w then xf32 w [w.d, oddReg w.d] (twid32 w) i s
    else vfWrite w (fun _ => true) (cxDst1 w.d) (twidVfs w) i s)) := by
  have hexec : exec (.twid w) s = execTwid w s := rfl
  rw [hexec, execTwid, issueW_issues _ hi]
  rfl

theorem twid_f32 (hi : Issues .twid w s i) (h : bits w.mod 3 2 = 0) (hm : ∀ l ∈ i.lanes, i.src w 1 w.b l ≤ 20) :
    CompletesLocally (.twid w) s i (xf32Eff w [w.d, oddReg w.d] (twid32 w) i) := by
  have he := exec_twid hi
  rw [if_neg (not_not.2 (twidBad_none_iff.2 hm)), if_pos (xfIs32_iff.2 h)] at he
  exact he

theorem twid_vf {k : Nat} (hi : Issues .twid w s i) (h : ¬ bits w.mod 3 2 = 0) (hm : ∀ l ∈ i.lanes, i.src w 1 w.b l ≤ 20)
    (hk : i.warp.oneK i.lanes = some k) (hd : (cxDst1 w.d).ok k = true) (hp : ∀ l ∈ i.lanes, pxStop (twidVfs w) i l = false) :
    CompletesLocally (.twid w) s i (vfEff w (cxDst1 w.d) (twidVfs w) k i) := by
  have he := exec_twid hi
  rw [if_neg (not_not.2 (twidBad_none_iff.2 hm)), if_neg (mt xfIs32_iff.1 h)] at he
  exact completes_of_vfWrite he hk rfl hd hp

theorem twid_trap (hi : Issues .twid w s i) (hm : ¬ ∀ l ∈ i.lanes, i.src w 1 w.b l ≤ 20) : exec (.twid w) s =
    .next { s.takeTrap i.r { cause := 3, mask := maskBy i.act (twidBad w i) } with cur := none } := by
  rw [exec_twid hi, if_pos (mt twidBad_none_iff.1 hm), finish_trap]

/-- Settles O3: a transform completes by its type (`completes_f32`, `completes_vf`), and `twid` first judges its exponents
(`exec_twid`). -/
theorem transforms : Obligations.Transforms := by
  intro s w i md fx f32 vf is32 small
  exact ⟨fun hi h => completes_f32 (g := bfly32 w) hi rfl h, fun hi h => completes_f32 (g := cmul32 w) hi rfl h,
    fun hi h => completes_f32 (g := cbfly32 w) hi rfl h, twid_f32,
    fun hi h k hk hs hd hp => completes_vf (f := bflyVf w) hi rfl h hk hs hd hp,
    fun hi h k hk hs hd hp => completes_vf (f := cmulVf w) hi rfl h hk hs hd hp,
    fun hi h k hk hs hd hp => completes_vf (f := cbflyVf w) hi rfl h hk hs hd hp,
    fun hi h hm k hk _ hd hp => twid_vf hi h hm hk hd hp, twid_trap⟩

end Sys2Proof.Machine
end

section
/-! ## Words that may wait, and their lanes -/

namespace Sys2Proof.Machine

variable {s : State} {w : W} {i : Iss} {k : Iss → State → Res}

/-- A long-latency word whose counter may rise acts by its meaning (02_state.md:R31). -/
theorem withCounter_raises (h : i.warp.canRaise (i.counter w) = true) : withCounter w k i s = k i s := if_pos h

/-- An access that has room acts by its meaning (01_device.md:R12; 10_ordering.md:R225). -/
theorem withRoom_room {acc : Acc} {rs : List (Nat × Nat × Nat)} (h : HasRoom s i acc rs) : withRoom acc rs k i s = k i s := by
  obtain ⟨hbehind, hroom⟩ := h
  exact if_pos (by simp [hbehind, hroom])

theorem not_inScratch_iff {off len : Nat} : (!i.inScratch off len) = true ↔ ¬ off + len ≤ i.blk.cores.length * i.scr := by
  simp [Iss.inScratch]

/-- Some lane of a mask satisfies a predicate exactly when the lanes that do are no empty mask. -/
theorem maskBy_ne_zero_iff {m : Word} {p : Nat → Bool} : maskBy m p ≠ 0 ↔ ∃ l ∈ lanesOf m, p l = true := by
  rw [ne_eq, maskBy_eq_zero_iff]
  simp

end Sys2Proof.Machine
end

section
/-! ## O50. The sum-tree words -/

namespace Sys2Proof.Machine

variable {s : State} {op : Op} {w v : W} {i : Iss} {ins : Instr} {words : Nat} {bad : Iss → Nat → Bool} {f : Iss → LaneOp}

/-- A sum-tree word refuses the lanes over its limit first, then a poisoned register, and otherwise performs its lane-operations
(07_isa_matrix.md:R205, R206, R209). -/
theorem treeWord_of {inside : Nat → Prop} {g : LaneOp} (hi : Issues op w s i) (he : exec ins s = issueW op w (treeOp v words bad f) s)
    (hbad : ∀ l, bad i l = true ↔ ¬ inside l) (hf : f i = g) : TreeWord ins v s i words inside g := by
  subst hf
  rw [issueW_issues _ hi, treeOp] at he
  have hin : (∀ l ∈ i.lanes, inside l) → ¬ maskBy i.act (bad i) ≠ 0 := fun h hne => by
    obtain ⟨l, hl, hb⟩ := maskBy_ne_zero_iff.1 hne
    exact (hbad l).1 hb (h l hl)
  refine ⟨fun h hp => ?_, fun h hp => ?_, fun ⟨l, hl, h⟩ => ?_⟩
  · rwa [if_neg (hin h), hp] at he
  · rwa [if_neg (hin h), hp] at he
  · have hne : maskBy i.act (bad i) ≠ 0 := maskBy_ne_zero_iff.2 ⟨l, hl, (hbad l).2 h⟩
    rw [if_pos hne] at he
    exact ⟨_, hne, he⟩

theorem overLeaf_iff (l : Nat) : overLeaf w i l = true ↔ ¬ i.src w 1 w.b l < 64 * 2 ^ i.grid.rec_.wtl := by
  rw [overLeaf, decide_eq_true_eq, not_lt, Iss.ix, Grid.leaves]

theorem overEnd_iff (l : Nat) : overEnd w i l = true ↔ ¬ i.src w 1 w.b l ≤ 64 * 2 ^ i.grid.rec_.wtl := by
  rw [overEnd, decide_eq_true_eq, not_le, Iss.ix, Grid.leaves]

theorem noLimit_iff (l : Nat) : noLimit i l = true ↔ ¬ True := by simp [noLimit]

/-- The greatest value of a leaf (05_numbers.md:R151). -/
theorem leafTop_eq (g : Grid) : 2 ^ g.leafBits - 1 = if g.rec_.wtm then 2 ^ 32 - 1 else 2 ^ 16 - 1 := by
  unfold Grid.leafBits
  split <;> rfl

theorem leafTop_cast (g : Grid) : (2 : Int) ^ g.leafBits - 1 = ((if g.rec_.wtm then 2 ^ 32 - 1 else 2 ^ 16 - 1 : Nat) : Int) := by
  unfold Grid.leafBits
  split <;> rfl

/-- `stclr` clears its register, whatever it holds (07_isa_matrix.md:R206). -/
theorem completes_stclr (hi : Issues .stclr w s i) :
    Completes (.stclr w) s i (i.updBlk s (fun b => { b with trees := updAt b.trees w.a.resIx (fun _ => Tree.empty) })) := by
  have hexec : exec (.stclr w) s = execStclr w s := rfl
  rwa [execStclr, issueW_issues _ hi] at hexec

/-- Each sum-tree word performs its lane-operation (07_isa_matrix.md:R205, R206). -/
theorem sumTreeWords : Claims.SumTreeWords := by
  intro s w i size top b u c leaf leafIn endIn any find
  refine ⟨completes_stclr, fun hi => treeWord_of hi rfl overLeaf_iff ?_, fun hi => treeWord_of hi rfl overLeaf_iff ?_,
    fun hi => treeWord_of hi rfl overLeaf_iff rfl, fun hi => treeWord_of hi rfl overEnd_iff rfl, fun hi => treeWord_of hi rfl noLimit_iff rfl,
    fun hi => treeWord_of hi rfl noLimit_iff rfl, fun hi => treeWord_of hi rfl overEnd_iff rfl, fun hi => treeWord_of hi rfl noLimit_iff rfl,
    fun hi => treeWord_of hi rfl (fun l => ?_) rfl⟩
  · unfold stsetOp
    rw [leafTop_eq]
    rfl
  · unfold staddOp
    rw [leafTop_cast]
    rfl
  · rw [Bool.or_eq_true, overLeaf_iff, decide_eq_true_eq]
    simp only [leafIn, b, size]
    omega

end Sys2Proof.Machine
end

section
/-! ## O50. The sums of a register -/

namespace Sys2Proof.Machine

variable {w : Nat}

/-- A canonical store lists no key below its bound. -/
theorem cget_below {c : Cells w} {lo k : Nat} (h : cwfFrom lo c = true) (hk : k < lo) : cget c k = 0 := by
  induction c generalizing lo with
  | nil => rfl
  | cons e r ih =>
    obtain ⟨j, v⟩ := e
    simp only [cwfFrom, Bool.and_eq_true, decide_eq_true_eq] at h
    obtain ⟨⟨hlo, -⟩, hr⟩ := h
    rw [cget_cons, if_neg (by omega), ih hr (by omega)]

/-- Reading a key after some keys were forgotten. -/
theorem cget_filter_key (c : Cells w) (p : Nat → Bool) (k : Nat) : cget (c.filter (fun e => p e.1)) k = if p k then cget c k else 0 := by
  induction c with
  | nil => simp
  | cons e r ih =>
    obtain ⟨j, v⟩ := e
    by_cases hk : j = k <;> by_cases hp : p j <;> simp_all [cget_cons]

/-- The sum of the leaves below a number (07_isa_matrix.md:R203). -/
def leafSum (c : Cells 32) (n : Nat) : Nat := ((List.range n).map (fun k => (cget c k).toNat)).sum

theorem leafSum_below {c : Cells 32} {lo n : Nat} (h : cwfFrom lo c = true) (hn : n ≤ lo) : leafSum c n = 0 := by
  refine List.sum_eq_zero fun x hx => ?_
  obtain ⟨k, hk, rfl⟩ := List.mem_map.1 hx
  rw [cget_below h (lt_of_lt_of_le (List.mem_range.1 hk) hn)]
  rfl

/-- The first leaf that a canonical store lists counts in the sums beyond it. -/
theorem leafSum_cons {k lo : Nat} {v : BitVec 32} {r : Cells 32} (h : cwfFrom lo ((k, v) :: r) = true) (n : Nat) :
    leafSum ((k, v) :: r) n = (if k < n then v.toNat else 0) + leafSum r n := by
  simp only [cwfFrom, Bool.and_eq_true] at h
  have hk : cget r k = 0 := cget_below h.2 (Nat.lt_succ_self k)
  induction n with
  | zero => rfl
  | succ n ih =>
    have hsucc : ∀ c, leafSum c (n + 1) = leafSum c n + (cget c n).toNat := fun c => by simp [leafSum, List.range_succ]
    rw [hsucc, hsucc, ih, cget_cons]
    by_cases hn : k = n
    · subst hn
      simp [hk, Nat.add_comm]
    · have hlt : k < n + 1 ↔ k < n := by omega
      simp only [if_neg hn, hlt, Nat.add_assoc]

/-- Prefix(i) is the sum of the leaves below i (07_isa_matrix.md:R203). -/
theorem prefix_eq {c : Cells 32} {lo : Nat} (h : cwfFrom lo c = true) (n acc : Nat) :
    c.foldl (fun a x => if x.1 < n then a + x.2.toNat else a) acc = acc + leafSum c n := by
  induction c generalizing lo acc with
  | nil => simp [leafSum]
  | cons e r ih =>
    obtain ⟨k, v⟩ := e
    rw [List.foldl_cons, leafSum_cons h]
    simp only [cwfFrom, Bool.and_eq_true] at h
    rw [ih h.2]
    dsimp only
    split <;> omega

/-- The total is the Prefix beyond every leaf. -/
theorem total_eq_prefix {t : Tree} {n : Nat} (h : ∀ e ∈ t.leaves, e.1 < n) : t.total = t.prefix_ n :=
  List.foldl_ext _ _ _ fun _ e he => (if_pos (h e he)).symm

/-- The leaf found lies where the running sum passes the value (07_isa_matrix.md:R205). -/
theorem findLeaf_some {c : Cells 32} {lo u k acc : Nat} (h : cwfFrom lo c = true) (hacc : acc ≤ u) (hf : findLeaf u c acc = some k) :
    u < acc + leafSum c (k + 1) ∧ acc + leafSum c k ≤ u := by
  induction c generalizing lo acc with
  | nil => cases hf
  | cons e r ih =>
    obtain ⟨j, v⟩ := e
    have hsum := leafSum_cons h
    simp only [cwfFrom, Bool.and_eq_true] at h
    rw [findLeaf] at hf
    split at hf
    next hu =>
      obtain rfl : j = k := by simpa using hf
      rw [hsum, hsum, if_pos (Nat.lt_succ_self j), if_neg (lt_irrefl j), leafSum_below h.2 (Nat.le_succ j)]
      omega
    next hu =>
      obtain ⟨hlt, hle⟩ := ih h.2 (not_lt.1 hu) hf
      have hjk : j < k := by
        by_contra hjk
        rw [leafSum_below h.2 (by omega)] at hlt
        omega
      rw [hsum, hsum, if_pos (by omega), if_pos hjk]
      omega

theorem le_foldl_leaves (c : Cells 32) (acc : Nat) : acc ≤ c.foldl (fun a x => a + x.2.toNat) acc := by
  induction c generalizing acc with
  | nil => exact le_rfl
  | cons e r ih => exact (Nat.le_add_right acc _).trans (ih _)

/-- No leaf is found exactly when the value is not below the total (07_isa_matrix.md:R205). -/
theorem findLeaf_none_iff {c : Cells 32} {u acc : Nat} :
    findLeaf u c acc = none ∧ acc ≤ u ↔ c.foldl (fun a x => a + x.2.toNat) acc ≤ u := by
  induction c generalizing acc with
  | nil => simp [findLeaf]
  | cons e r ih =>
    rw [List.foldl_cons, ← ih, findLeaf]
    split <;> simp <;> omega

/-- The sums of a register in canonical form, and what a written leaf and a cut leave (07_isa_matrix.md:R203, R205). -/
theorem treeSums : Claims.TreeSums := by
  intro t n u k x lo hi j h sum
  have hprefix : t.prefix_ n = sum n := (prefix_eq h n 0).trans (Nat.zero_add _)
  refine ⟨hprefix, fun hn => (total_eq_prefix hn).trans hprefix, fun hf => ?_, ?_, cget_cset .., ?_, cwf_cset _ _ h,
    cwfFrom_filter _ _ _ h, fun data => cwf_csetAll _ rfl⟩
  · have hfound := findLeaf_some h (Nat.zero_le u) hf
    rwa [Nat.zero_add, Nat.zero_add] at hfound
  · exact (and_iff_left (Nat.zero_le u)).symm.trans findLeaf_none_iff
  · rw [Tree.cut, cget_filter_key t.leaves (fun k => !(decide (lo ≤ k ∧ k < hi)))]
    by_cases hj : lo ≤ j ∧ j < hi <;> simp [hj]

end Sys2Proof.Machine
end

section
/-! ## O50. Masses -/

namespace Sys2Proof.Machine

variable {w : W} {i : Iss} {l m y : Nat} {k : Int}

/-- The integer nearest to m ÷ 2h, of its quotient and remainder (05_numbers.md:R133): the quotient when the remainder is below half of
the divisor, the next one when it is above, and the even one of the two between. -/
theorem nearest_quotient {h : Nat} (h0 : 0 < h) (hlo : 2 * m ≤ 2 * h + 2 * (y * (2 * h))) (hhi : 2 * (y * (2 * h)) ≤ 2 * m + 2 * h)
    (htie : 2 * m = 2 * h + 2 * (y * (2 * h)) ∨ 2 * (y * (2 * h)) = 2 * m + 2 * h → y % 2 = 0) :
    y = if h < m % (2 * h) ∨ (m % (2 * h) = h ∧ m / (2 * h) % 2 = 1) then m / (2 * h) + 1 else m / (2 * h) := by
  have hdiv := Nat.div_add_mod m (2 * h)
  have hmod : m % (2 * h) < 2 * h := Nat.mod_lt _ (by omega)
  generalize m % (2 * h) = r at *
  generalize m / (2 * h) = q at *
  rw [Nat.mul_comm] at hdiv
  have hge : q ≤ y := by
    by_contra hlt
    have := Nat.mul_le_mul_right (2 * h) (Nat.succ_le_of_lt (not_le.1 hlt))
    rw [Nat.succ_mul y] at this
    omega
  have hle : y ≤ q + 1 := by
    by_contra hlt
    have := Nat.mul_le_mul_right (2 * h) (Nat.succ_le_of_lt (not_le.1 hlt))
    rw [Nat.succ_mul, Nat.succ_mul q] at this
    omega
  obtain rfl | rfl : y = q ∨ y = q + 1 := by omega
  · split <;> omega
  · rw [Nat.succ_mul q] at hlo hhi htie
    split <;> omega

/-- The integer nearest to m × 2^k, and whether it is another number, are what rounding to nearest gives (05_numbers.md:R133). -/
theorem quant_nearest (h : RoundsTo m k y) :
    quant .rne false m k 0 = (y, !decide (0 ≤ k ∨ m % 2 ^ (-k).toNat = 0)) := by
  unfold RoundsTo at h
  by_cases hk : 0 ≤ k
  · rw [if_pos hk] at h
    simp [quant_of_le hk, h, hk]
  · rw [if_neg hk] at h
    obtain ⟨d, hd⟩ : ∃ d, (-k).toNat = d + 1 := ⟨(-k).toNat - 1, by omega⟩
    obtain ⟨hlo, hhi, htie⟩ := h
    rw [hd, pow_succ'] at hlo hhi htie ⊢
    have hd0 : (0 - k).toNat = d + 1 := by omega
    have hy := nearest_quotient (Nat.two_pow_pos d) hlo hhi htie
    rw [quant, if_neg hk]
    simp only [zero_sub, hd, Nat.add_sub_cancel, pow_succ' 2 d, Bool.or_eq_true, Bool.and_eq_true, decide_eq_true_eq, beq_iff_eq, ← hy, hk,
      false_or]
    simp only [Prod.mk.injEq, true_and]
    rfl

/-- The significand of a bit string with some exponent and fraction fields (05_numbers.md:R139). -/
def significand (fb ex frac : Nat) : Nat := if ex = 0 then frac else frac + 2 ^ fb

/-- The value of a bit string of an IEEE-style format, by its fields (05_numbers.md:R139): a NaN, an infinity, a zero, or its significand
at the exponent that the field gives. -/
theorem decodeF_fields {f : Fmt} {fb x : Nat} (hk : f.kind = .ieee) (hp : f.p = fb + 1) :
    let ex := x / 2 ^ fb % 2 ^ f.eb
    let neg := x / 2 ^ (fb + f.eb) % 2 == 1
    let m := significand fb ex (x % 2 ^ fb)
    (ex = 2 ^ f.eb - 1 → x % 2 ^ fb ≠ 0 → ∃ sg, decodeF f false x = .nan sg) ∧
    (ex = 2 ^ f.eb - 1 → x % 2 ^ fb = 0 → decodeF f false x = .inf neg) ∧
    (ex ≠ 2 ^ f.eb - 1 → m = 0 → decodeF f false x = .zero neg) ∧
    (ex ≠ 2 ^ f.eb - 1 → m ≠ 0 → decodeF f false x = .fin neg m (max ex 1 - (2 ^ (f.eb - 1) - 1) - fb)) := by
  intro ex neg m
  have hd := decodeF_ieee hk (x := x)
  have hsub : f.p - 1 = fb := by omega
  have hcast : (f.p : Int) - 1 = fb := by omega
  have htop : f.eb + f.p - 1 = fb + f.eb := by omega
  simp only [fld, hsub, htop, hcast, pow_zero, Nat.div_one, pow_one, Fmt.emin, Fmt.bias] at hd
  refine ⟨fun he hf => ⟨_, hd.trans ((if_pos he).trans (if_neg hf))⟩, fun he hf => hd.trans ((if_pos he).trans (if_pos hf)), ?_⟩
  by_cases hex : ex = 0
  · have hm : m = x % 2 ^ fb := if_pos hex
    have hexp : max ex 1 = 1 := by omega
    have hsub : ex ≠ 2 ^ f.eb - 1 → decodeF f false x = Num.mk neg m (1 - (2 ^ (f.eb - 1) - 1) - fb) := fun he => by
      rw [hm]
      exact hd.trans ((if_neg he).trans (if_pos hex))
    rw [hexp]
    exact ⟨fun he h0 => (hsub he).trans (if_pos h0), fun he h0 => (hsub he).trans (if_neg h0)⟩
  · have hm : m = x % 2 ^ fb + 2 ^ fb := if_neg hex
    have hpos : 0 < 2 ^ fb := Nat.two_pow_pos fb
    have hexp : max ex 1 = ex := by omega
    refine ⟨fun _ h0 => by omega, fun he _ => ?_⟩
    rw [hexp, hm]
    exact hd.trans ((if_neg he).trans (if_neg hex))

/-- A weight has some mass and raises some flags under a scale, on leaves of `b` bits; a signaling NaN raises no more than that. -/
def HasMass (n : Num) (scale : Int) (b v : Nat) (fl : Flags) : Prop :=
  massFromFloat n scale b = (v, fl) ∧ (n.isSig = true → fl = fNV)

/-- The mass of a positive value, by the integer nearest to it (05_numbers.md:R151). -/
theorem hasMass_fin {e scale : Int} (h : RoundsTo m (e + scale) y) (b : Nat) :
    let exact := 0 ≤ e + scale ∨ m % 2 ^ (-(e + scale)).toNat = 0
    (2 ^ b - 1 < y → HasMass (.fin false m e) scale b (2 ^ b - 1) fSAT) ∧
    (y ≤ 2 ^ b - 1 → exact → HasMass (.fin false m e) scale b y 0) ∧
    (y ≤ 2 ^ b - 1 → ¬ exact → HasMass (.fin false m e) scale b y fNX) := by
  intro exact
  have hmass : massFromFloat (.fin false m e) scale b =
      if 2 ^ b - 1 < y then (2 ^ b - 1, fSAT) else (y, if !decide exact then fNX else 0) := by
    rw [massFromFloat, quant_nearest h]
    rfl
  exact ⟨fun hy => ⟨hmass.trans (if_pos hy), nofun⟩,
    fun hy he => ⟨hmass.trans (by rw [if_neg (not_lt.2 hy), decide_eq_true he]; rfl), nofun⟩,
    fun hy he => ⟨hmass.trans (by rw [if_neg (not_lt.2 hy), decide_eq_false he]; rfl), nofun⟩⟩

/-- The mass of a weight that an IEEE-style format holds, by the fields of its bits (05_numbers.md:R151). -/
theorem hasMass_of_fields {f : Fmt} {fb x : Nat} (hk : f.kind = .ieee) (hp : f.p = fb + 1) (heb : 1 ≤ f.eb) (scale : Int) (b : Nat) :
    let frac := x % 2 ^ fb
    let ex := x / 2 ^ fb % 2 ^ f.eb
    let neg := x / 2 ^ (fb + f.eb) % 2 = 1
    let nan := ex = 2 ^ f.eb - 1 ∧ frac ≠ 0
    let inf := ex = 2 ^ f.eb - 1 ∧ frac = 0
    let m := significand fb ex frac
    let e : Int := max ex 1 - (2 ^ (f.eb - 1) - 1) - fb
    let gives := HasMass (decodeF f false x) scale b
    (nan → gives 0 fNV) ∧ (neg → ¬ nan → m ≠ 0 → gives 0 fNV) ∧
    (m = 0 → gives 0 0) ∧ (inf → ¬ neg → gives (2 ^ b - 1) fSAT) ∧
      (¬ nan → ¬ inf → ¬ neg → m ≠ 0 → decodeF f false x = .fin false m e) := by
  intro frac ex neg nan inf m e gives
  obtain ⟨hnan, hinf, hzero, hfin⟩ := decodeF_fields (x := x) hk hp
  have htop : ¬ nan → ¬ inf → ex ≠ 2 ^ f.eb - 1 := by simp only [nan, inf]; tauto
  have hneg : neg → (x / 2 ^ (fb + f.eb) % 2 == 1) = true := beq_iff_eq.2
  have hpos : ¬ neg → (x / 2 ^ (fb + f.eb) % 2 == 1) = false := beq_eq_false_iff_ne.2
  refine ⟨fun h => ?nan, fun h hnn h0 => ?neg, fun h0 => ?zero, fun h hn => ?inf, fun hnn hni hn h0 => ?fin⟩
  case nan =>
    obtain ⟨sg, hd⟩ := hnan h.1 h.2
    exact ⟨by rw [hd]; rfl, fun _ => rfl⟩
  case neg =>
    by_cases hni : inf
    · have hd := hinf hni.1 hni.2
      rw [hneg h] at hd
      exact ⟨by rw [hd]; rfl, fun _ => rfl⟩
    · have hd := hfin (htop hnn hni) h0
      rw [hneg h] at hd
      exact ⟨by rw [hd]; rfl, fun _ => rfl⟩
  case zero =>
    have hex : ex = 0 := by
      by_contra hex
      have hm : m = frac + 2 ^ fb := if_neg hex
      have : 0 < 2 ^ fb := Nat.two_pow_pos fb
      omega
    have hmax : 2 ^ 1 ≤ 2 ^ f.eb := Nat.pow_le_pow_right Nat.zero_lt_two heb
    have hd := hzero (fun he => by omega) h0
    exact ⟨by rw [hd]; rfl, by rw [hd]; nofun⟩
  case inf =>
    have hd := hinf h.1 h.2
    rw [hpos hn] at hd
    exact ⟨by rw [hd]; rfl, by rw [hd]; nofun⟩
  case fin =>
    have hd := hfin (htop hnn hni) h0
    rwa [hpos hn] at hd

/-- The type of the weight that `stq` reads (07_isa_matrix.md:R205). -/
theorem stqFmt_fields (w : W) : (stqFmt w).kind = .ieee ∧ (stqFmt w).eb = (if w.mod = 1 then 5 else 8) ∧
    (stqFmt w).p = (if w.mod = 0 then 23 else if w.mod = 1 then 10 else 7) + 1 := by
  unfold stqFmt
  by_cases h0 : w.mod = 0
  · simp only [h0, if_true]
    exact ⟨rfl, rfl, rfl⟩
  · by_cases h1 : w.mod = 1
    · simp only [h1, if_true]
      exact ⟨rfl, rfl, rfl⟩
    · simp only [h0, h1, if_false]
      exact ⟨rfl, rfl, rfl⟩

/-- `stq` writes the mass of its weight (07_isa_matrix.md:R205). -/
theorem stqOp_of_mass {t : Tree} {fl : Flags} (h : HasMass (decodeF (stqFmt w) false (i.warp.src w.imm 1 (stqFmt w).oneBits w.c l))
    (stqScale w i l) i.grid.leafBits y fl) : stqOp w i l t = (t.setLeaf (i.src w 1 w.b l) y, 0, false, fl) := by
  obtain ⟨hmass, hsig⟩ := h
  have hfl : fl ||| (if (decodeF (stqFmt w) false (i.warp.src w.imm 1 (stqFmt w).oneBits w.c l)).isSig then fNV else 0) = fl := by
    split
    next hs =>
      rw [hsig hs]
      rfl
    next => exact flags_or_zero fl
  simp only [stqOp, hmass, hfl, Iss.ix]

/-- The mass of a weight (05_numbers.md:R151). -/
theorem masses : Claims.Masses := by
  intro w i l y t _ f eb fb x b frac ex neg nan inf m k exact gives
  obtain ⟨hk, heb, hp⟩ := stqFmt_fields w
  have h1 : 1 ≤ (stqFmt w).eb := by
    rw [heb]
    split <;> decide
  have hmass := hasMass_of_fields (x := x) hk hp h1 (stqScale w i l) b
  rw [heb] at hmass
  obtain ⟨hnan, hneg, hzero, hinf, hfin⟩ := hmass
  refine ⟨fun h => stqOp_of_mass (hnan h), fun h hnn h0 => stqOp_of_mass (hneg h hnn h0), fun h0 => stqOp_of_mass (hzero h0),
    fun h hn => stqOp_of_mass (hinf h hn), fun hnn hni hn h0 hy => ?_⟩
  obtain ⟨hsat, hexact, hinexact⟩ := hasMass_fin hy b
  have hd : decodeF f false x = .fin false m (max ex 1 - (2 ^ (eb - 1) - 1) - fb) := hfin hnn hni hn h0
  rw [← hd] at hsat hexact hinexact
  exact ⟨fun h => stqOp_of_mass (hsat h), fun h he => stqOp_of_mass (hexact h he), fun h he => stqOp_of_mass (hinexact h he)⟩

end Sys2Proof.Machine
end
section
/-! ## O50. Transfers of a register -/

namespace Sys2Proof.Machine

variable {s : State} {w : W} {i : Iss}

/-- The address of a transfer of a sum-tree register (07_isa_matrix.md:R206). -/
abbrev treeAddr (w : W) (i : Iss) : Nat := i.uni w (if w.mod == 1 then 2 else 1) w.b

/-- The bytes that a transfer of a sum-tree register moves, as one range of the lowest active lane. -/
abbrev treeRange (w : W) (i : Iss) : List (Nat × Nat × Nat) := [(i.lane0, treeAddr w i, i.grid.treeLen)]

/-- Whether a transfer of a sum-tree register lies in the scratchpad of its block. -/
abbrev treeInside (w : W) (i : Iss) : Prop := treeAddr w i + i.grid.treeLen ≤ i.blk.cores.length * i.scr

/-- The register after a load of some bytes, and its poison bit (07_isa_matrix.md:R206). -/
abbrev treeLoaded (w : W) (i : Iss) (s : State) (d : List Byte) (p : Bool) : State :=
  i.updBlk s (fun b => { b with trees := updAt b.trees w.a.resIx (fun _ =>
    { leaves := treeOfBytes i.grid.leaves (i.grid.leafBits / 8) d, poison := p }) })

/-- `stld` refuses its address first, then loads from its space (07_isa_matrix.md:R206). -/
theorem exec_stld (hi : Issues .stld w s i) (hc : i.warp.canRaise (i.counter w) = true) :
    (treeAddr w i % 16 ≠ 0 ∨ (¬ w.mod = 1 ∧ ¬ treeInside w i) → Traps (.stld w) s i { cause := 3, mask := i.act }) ∧
    (∀ u, treeAddr w i % 16 = 0 → ¬ w.mod = 1 → treeInside w i → i.detect 0 (i.detScratch (treeRange w i)) s = .ok u →
      Completes (.stld w) s i (treeLoaded w i u (i.blk.spRead i.scr (treeAddr w i) i.grid.treeLen)
        (i.blk.spPoisoned i.scr (treeAddr w i) i.grid.treeLen))) ∧
    (treeAddr w i % 16 = 0 → w.mod = 1 → s.laneFault i.ctx .load (treeRange w i) = none → HasRoom s i .load (treeRange w i) →
      ∀ u, i.detect 0 (s.detSectors i.ctx .load (treeRange w i)) s = .ok u →
        let x := u.loadRange i.r i.warp.core i.ctx (treeAddr w i) i.grid.treeLen
        Completes (.stld w) s i (treeLoaded w i x.2.2 x.1 x.2.1)) := by
  have he : exec (.stld w) s = execStld w s := rfl
  rw [execStld, issueW_issues _ hi, withCounter_raises hc] at he
  dsimp only at he
  refine ⟨fun h => ?_, fun u h16 hg hin hd => ?_, fun h16 hg hf hr u hd => ?_⟩
  · by_cases h16 : treeAddr w i % 16 ≠ 0
    · rwa [if_pos h16] at he
    · obtain ⟨hg, hin⟩ := h.resolve_left h16
      rwa [if_neg h16, if_neg (mt eq_of_beq hg), if_pos (not_inScratch_iff.2 hin)] at he
  · rwa [if_neg (not_not.2 h16), if_neg (mt eq_of_beq hg), if_neg (mt not_inScratch_iff.1 (not_not.2 hin)), hd] at he
  · rwa [if_neg (not_not.2 h16), if_pos (beq_iff_eq.2 hg), hf, withRoom_room hr, hd] at he

/-- `stst` refuses its address first, then stores to its space (07_isa_matrix.md:R206). -/
theorem exec_stst (hi : Issues .stst w s i) (hc : i.warp.canRaise (i.counter w) = true) :
    let t := nth i.blk.trees w.a.resIx Tree.empty
    (treeAddr w i % 16 ≠ 0 ∨ (¬ w.mod = 1 ∧ ¬ treeInside w i) → Traps (.stst w) s i { cause := 3, mask := i.act }) ∧
    (∀ u, treeAddr w i % 16 = 0 → ¬ w.mod = 1 → treeInside w i → i.detect 1 (i.detScratch (treeRange w i)) s = .ok u →
      Completes (.stst w) s i (i.updBlk u (fun b => b.spWrite i.scr (treeAddr w i) (treeBytes i.grid t) t.poison))) ∧
    (treeAddr w i % 16 = 0 → w.mod = 1 → s.laneFault i.ctx .store (treeRange w i) = none → HasRoom s i .store (treeRange w i) →
      ∀ u, i.detect 1 (s.detSectors i.ctx .store (treeRange w i)) s = .ok u →
        Completes (.stst w) s i (u.issueStores i w 2 [(treeAddr w i, treeBytes i.grid t)] t.poison)) := by
  have he : exec (.stst w) s = execStst w s := rfl
  rw [execStst, issueW_issues _ hi, withCounter_raises hc] at he
  dsimp only at he
  refine ⟨fun h => ?_, fun u h16 hg hin hd => ?_, fun h16 hg hf hr u hd => ?_⟩
  · by_cases h16 : treeAddr w i % 16 ≠ 0
    · rwa [if_pos h16] at he
    · obtain ⟨hg, hin⟩ := h.resolve_left h16
      rwa [if_neg h16, if_neg (mt eq_of_beq hg), if_pos (not_inScratch_iff.2 hin)] at he
  · rwa [if_neg (not_not.2 h16), if_neg (mt eq_of_beq hg), if_neg (mt not_inScratch_iff.1 (not_not.2 hin)), hd] at he
  · rwa [if_neg (not_not.2 h16), if_pos (beq_iff_eq.2 hg), hf, withRoom_room hr, hd] at he

/-- The transfers of a register, to and from each space (07_isa_matrix.md:R206). -/
theorem treeTransfers : Claims.TreeTransfers := by
  intro s w i hc glob a n t put x rs inside
  refine ⟨fun u hi => ?_, fun hi => ?_, fun u hi => ?_, fun hi => ?_, fun hi => ?_, fun hi => ?_⟩
  · obtain ⟨-, hscratch, -⟩ := exec_stld hi hc
    exact hscratch u
  · obtain ⟨-, -, hglobal⟩ := exec_stld hi hc
    exact hglobal
  · obtain ⟨-, hscratch, -⟩ := exec_stst hi hc
    exact hscratch u
  · obtain ⟨-, -, hglobal⟩ := exec_stst hi hc
    exact hglobal
  · obtain ⟨hrefused, -, -⟩ := exec_stld hi hc
    exact hrefused
  · obtain ⟨hrefused, -, -⟩ := exec_stst hi hc
    exact hrefused

/-- Settles O50: a sum-tree word folds its lane-operation over its lanes (`treeWord_of`), the mass of a weight follows the fields of its
bits (`hasMass_of_fields`) and the integer nearest to it (`quant_nearest`), and the sums are those of the leaves listed (`prefix_eq`,
`findLeaf_some`). -/
theorem sumTrees : Obligations.SumTrees := ⟨sumTreeWords, masses, treeSums, treeTransfers⟩

end Sys2Proof.Machine
end

section
/-! ## Lists of named resources -/

namespace Sys2Proof.Machine

variable {α : Type} {l : List (Nat × α)} {a b : Nat} {x : α}

/-- A name that is unbound is found no more, and every other name is found as before. -/
theorem find?_unbind : (l.filter (fun t => t.1 != a)).find? (fun t => t.1 == b) =
    if b = a then none else l.find? (fun t => t.1 == b) := by
  rw [List.find?_filter]
  split
  next h => simp [h]
  next h =>
    refine List.find?_congr fun t _ => ?_
    by_cases ht : t.1 = b <;> simp_all

/-- A name that is bound anew gives its new value, and every other name what it gave before. -/
theorem find?_rebind : (l.filter (fun t => t.1 != a) ++ [(a, x)]).find? (fun t => t.1 == b) =
    if b = a then some (a, x) else l.find? (fun t => t.1 == b) := by
  rw [List.find?_append, find?_unbind]
  split
  next h => simp [h]
  next h => simp [Ne.symm h]

theorem bound_rebind : bound (l.filter (fun t => t.1 != a) ++ [(a, x)]) a = true := by simp [bound]

theorem bound_unbind : bound (l.filter (fun t => t.1 != a)) a = false := by simp [bound]

end Sys2Proof.Machine
end

section
/-! ## O49. Maps, handles and scrum registers -/

namespace Sys2Proof.Machine

variable {s : State} {w : W} {i : Iss} {c : BlockCore}

theorem boundTo_rebind (l : List (Nat × QWord)) (n m : Nat) (q : QWord) : boundTo (rebind l n q) m = if m = n then q else boundTo l m := by
  rw [boundTo, rebind, find?_rebind]
  split <;> rfl

/-- The words that declare an operand, once they issue: they judge the value, and change the core alone (07_isa_matrix.md:R185, R186). -/
theorem exec_omset (hi : Issues .omset w s i) : let q := BitVec.ofNat 128 (i.uni w 4 w.a)
    (mapOk q = true → Completes (.omset w) s i (i.updCore s (fun c => { c with maps := rebind c.maps w.d.resIx q }))) ∧
    (mapOk q = false → Traps (.omset w) s i { cause := 3, mask := i.act }) := by
  have he : exec (.omset w) s = execOmset w s := rfl
  rw [execOmset, issueW_issues _ hi] at he
  dsimp only at he
  exact ⟨fun h => by rwa [if_pos h] at he, fun h => by rwa [if_neg (by simp [h])] at he⟩

/-- See `exec_omset`. -/
theorem exec_thset (hi : Issues .thset w s i) : let q := BitVec.ofNat 128 (i.uni w 4 w.a)
    (handleOk q = true → Completes (.thset w) s i (i.updCore s (fun c => { c with handles := rebind c.handles w.d.resIx q }))) ∧
    (handleOk q = false → Traps (.thset w) s i { cause := 3, mask := i.act }) := by
  have he : exec (.thset w) s = execThset w s := rfl
  rw [execThset, issueW_issues _ hi] at he
  dsimp only at he
  exact ⟨fun h => by rwa [if_pos h] at he, fun h => by rwa [if_neg (by simp [h])] at he⟩

/-- `kinit` declares a count in a scrum register that none has signed (07_isa_matrix.md:R190). -/
theorem exec_kinit (hi : Issues .kinit w s i) (hcore : i.core? = some c) :
    let n := i.uni w 1 w.b
    let bad := n = 0 ∨ 3072 < n ∨ (nth c.scrums w.d.resIx Scrum.empty).signed ≠ 0
    (¬ bad → Completes (.kinit w) s i (i.updCore s (fun c => { c with scrums := updAt c.scrums w.d.resIx (fun k : Scrum =>
      { k with declared := n, signed := 0, pend := none }) }))) ∧
    (bad → Traps (.kinit w) s i { cause := 3, mask := i.act }) := by
  have he : exec (.kinit w) s = execKinit w s := rfl
  rw [execKinit, issueW_issues _ hi, hcore] at he
  dsimp only at he
  exact ⟨fun h => by rwa [if_neg h] at he, fun h => by rwa [if_pos h] at he⟩

/-- The words that bind and declare (07_isa_matrix.md:R185, R186, R190). -/
theorem mapsAndScrums : Claims.MapsAndScrums := by
  intro s w i c hcore q n map handle count
  have hmap : mapOk q = true ↔ map := by simp [mapOk, map, and_assoc]
  have hhandle : handleOk q = true ↔ handle := by simp [handleOk, handle, and_assoc]
  have hcount : count ↔ ¬ (n = 0 ∨ 3072 < n ∨ (nth c.scrums w.d.resIx Scrum.empty).signed ≠ 0) := by
    simp only [count]
    omega
  refine ⟨fun hi h => ⟨_, (exec_omset hi).1 (hmap.2 h), bound_rebind, (boundTo_rebind ..).trans (if_pos rfl),
      fun m hm => (boundTo_rebind ..).trans (if_neg hm), rfl⟩, fun hi h => (exec_omset hi).2 (by simpa using mt hmap.1 h),
    fun hi h => ⟨_, (exec_thset hi).1 (hhandle.2 h), bound_rebind, (boundTo_rebind ..).trans (if_pos rfl),
      fun m hm => (boundTo_rebind ..).trans (if_neg hm), rfl⟩, fun hi h => (exec_thset hi).2 (by simpa using mt hhandle.1 h),
    fun hi h => ⟨_, (exec_kinit hi hcore).1 (hcount.1 h), fun hlt => ?_, fun m hm => nth_updAt_other _ _ _ hm, rfl⟩,
    fun hi h => (exec_kinit hi hcore).2 (not_not.1 (mt hcount.2 h))⟩
  dsimp only
  rw [nth_updAt _ _ _ _ _ hlt, if_pos rfl]
  exact ⟨rfl, rfl⟩

end Sys2Proof.Machine
end

section
/-! ## O49. Fetching a handle -/

namespace Sys2Proof.Machine

variable {s : State} {core ctx n : Nat} {m : MmaRec}

theorem missing_of_handle_false (h : m.handle = false) : m.missing = 0 := by simp [MmaRec.missing, h]

/-- A record whose fetch is over has nothing that stops it. -/
theorem fetchHandle_of_missing_zero (h : m.missing = 0) : s.fetchHandle core ctx m = (m, s) := by
  rw [State.fetchHandle, h]
  rfl

/-- One more group leaves one fewer missing (07_isa_matrix.md:R195). -/
theorem missing_fetchGroup : (s.fetchGroup core ctx m).1.missing = m.missing - 1 := by
  have hhandle : (s.fetchGroup core ctx m).1.handle = m.handle := rfl
  have hk : mmaK (s.fetchGroup core ctx m).1.w = mmaK m.w := rfl
  have hrows : (s.fetchGroup core ctx m).1.rows.length = m.rows.length + 1 := by simp [State.fetchGroup]
  rw [MmaRec.missing, MmaRec.missing, hhandle, hk, hrows]
  split <;> omega

/-- A fetch adds groups to its record, and changes nothing else of it (07_isa_matrix.md:R195). -/
theorem fetchGroups_rows : ∃ l, (s.fetchGroups core ctx n m).1 = { m with rows := m.rows ++ l } := by
  induction n generalizing s m with
  | zero => exact ⟨[], by simp [State.fetchGroups]⟩
  | succ n ih =>
    rw [State.fetchGroups]
    split
    · exact ⟨[], by simp⟩
    · obtain ⟨l, hl⟩ := ih (s := (s.fetchGroup core ctx m).2) (m := (s.fetchGroup core ctx m).1)
      exact ⟨_ :: l, hl.trans (by simp [State.fetchGroup]; rfl)⟩

/-- A fetch ends with no group missing, or at one that does not translate (07_isa_matrix.md:R195, R196). -/
theorem fetchGroups_stops (h : m.missing ≤ n) : let x := s.fetchGroups core ctx n m
    x.1.missing = 0 ∨ (x.2.fetchFault ctx x.1).isSome = true := by
  induction n generalizing s m with
  | zero => exact .inl (Nat.le_zero.1 h)
  | succ n ih =>
    rw [State.fetchGroups]
    split
    next hstop => exact hstop
    next => exact ih (by rw [missing_fetchGroup]; omega)

end Sys2Proof.Machine
end

section
/-! ## O49. Signing -/

namespace Sys2Proof.Machine

variable {s : State} {op : Op} {w : W} {i : Iss} {c : BlockCore}

/-- A signing word that has not signed yet signs (07_isa_matrix.md:R191, R196). -/
theorem signWord_signs (hc : i.warp.canRaise (i.counter w) = true) (hmma : ∀ m, i.path.park ≠ .mma m)
    (hrel : ∀ ok v, i.path.park ≠ .released ok v) : signWord op w i s = mmaSign op w i s := by
  rw [signWord, withCounter_raises hc]
  split
  next hp => exact absurd hp (hrel _ _)
  next hp => exact absurd hp (hmma _)
  next => rfl

/-- `mma` and `mmaz` sign by their meaning (07_isa_matrix.md:R191, R193). -/
theorem exec_sign (hop : op = .mma ∨ op = .mmaz) (hi : Issues op w s i) (hc : i.warp.canRaise (i.counter w) = true)
    (hmma : ∀ m, i.path.park ≠ .mma m) (hrel : ∀ ok v, i.path.park ≠ .released ok v) :
    exec (Instr.ofOp op w) s = .next (finish i (mmaSign op w i s)) := by
  have he : exec (Instr.ofOp op w) s = issueW op w (signWord op w) s := by rcases hop with rfl | rfl <;> rfl
  rw [he, issueW_issues _ hi, signWord_signs hc hmma hrel]

/-- A stalled word waits at its place (02_state.md:R31; 07_isa_matrix.md:R189). -/
theorem stalls_of_stall {ins : Instr} {why : Option Nat} (he : exec ins s = .next (finish i (i.stall why s))) : Stalls ins s i why := by
  rw [Iss.stall] at he
  refine ⟨fun h => ?_, fun a n y h => ?_⟩
  · split at he
    next hp => exact absurd hp (h _ _ _)
    next => exact he
  · rwa [h] at he

/-- Signing judges the word and its captured operands, then waits behind the warp's asynchronous operations, then asks the detector
(07_isa_matrix.md:R191; 10_ordering.md:R225, R234). -/
theorem scrumSigning : Claims.ScrumSigning := by
  intro s w i c op hop hi hcore hc hmma hrel ins k n rec_ sg raised judged set good free
  have he : exec ins s = .next (finish i (mmaSign op w i s)) := exec_sign hop hi hc hmma hrel
  rw [mmaSign, hcore] at he
  dsimp only at he
  have hmatch : (!rec_.matches op w || decide (k.declared < k.signed + n)) = false ↔
      rec_.matches op w = true ∧ k.signed + n ≤ k.declared := by
    simp
  have hfirst : (k.pend.isNone && !i.mmaOk rec_) = false ↔ (k.pend = none → i.mmaOk rec_ = true) := by simp
  have hwaits : (k.pend.isNone && i.behind .load rec_.handleRows s) = false ↔ free := by simp [free]
  by_cases hgood : good
  case neg =>
    refine ⟨fun _ => ?_, fun h => absurd h hgood, fun _ h => absurd h hgood, fun _ h => absurd h hgood⟩
    by_cases hm : rec_.matches op w = true ∧ k.signed + n ≤ k.declared
    · have hok : ¬ (k.pend = none → i.mmaOk rec_ = true) := fun h => hgood ⟨hm.1, hm.2, h⟩
      rwa [if_neg (by rw [hmatch.2 hm]; decide), if_pos (Bool.eq_true_of_not_eq_false (mt hfirst.1 hok))] at he
    · rwa [if_pos (Bool.eq_true_of_not_eq_false (mt hmatch.1 hm))] at he
  obtain ⟨hm, hle, hok⟩ := hgood
  rw [if_neg (Bool.eq_false_iff.1 (hmatch.2 ⟨hm, hle⟩)), if_neg (Bool.eq_false_iff.1 (hfirst.2 hok))] at he
  by_cases hfree : free
  case neg =>
    rw [if_pos (Bool.eq_true_of_not_eq_false (mt hwaits.1 hfree))] at he
    exact ⟨fun h => absurd ⟨hm, hle, hok⟩ h, fun _ _ => stalls_of_stall he, fun _ _ h => absurd h hfree,
      fun _ _ h => absurd h hfree⟩
  rw [if_neg (Bool.eq_false_iff.1 (hwaits.2 hfree))] at he
  refine ⟨fun h => absurd ⟨hm, hle, hok⟩ h, fun _ h => absurd hfree h, fun t _ _ hj => ?_, fun u _ _ hj => ?_⟩
  · rwa [show i.detectRows k.pend.isNone rec_ s = .error t from hj] at he
  rw [show i.detectRows k.pend.isNone rec_ s = .ok u from hj] at he
  dsimp only [State.newId] at he
  simp only [Option.isNone_iff_eq_none] at he
  intro named x v issued full
  refine ⟨fun h => ?_, fun h hz => ?_, fun h hz => ?_, fun h => ?_, fetchGroups_stops le_rfl⟩
  · rwa [if_pos h] at he
  · rwa [if_neg h.not_lt, if_neg (not_not.2 hz)] at he
  · rwa [if_neg h.not_lt, if_pos hz] at he
  · have hhandle : named.handle = false := by
      simp only [named]
      split <;> exact h
    exact fetchHandle_of_missing_zero (missing_of_handle_false hhandle)

/-- Settles O49: a word that binds or declares judges its value and changes the core alone; a signing word is judged against the scrum
register before it raises its counter. -/
theorem matrixWords : Obligations.MatrixWords := ⟨mapsAndScrums, scrumSigning⟩

end Sys2Proof.Machine
end

section
/-! ## The order of waiting requests -/

namespace Sys2Proof.Machine

variable {x y z : Block × Warp × Nat × Nat × Nat} {l : List (Block × Warp × Nat × Nat × Nat)}

/-- The order of requests is that of three keys, the first one first (13_progress.md:R271). -/
theorem earlier_iff : earlier x y = true ↔ x.1.lsq < y.1.lsq ∨ x.1.lsq = y.1.lsq ∧
    (x.1.tkt * 129 + x.2.1.idx < y.1.tkt * 129 + y.2.1.idx ∨
      x.1.tkt * 129 + x.2.1.idx = y.1.tkt * 129 + y.2.1.idx ∧ x.2.2.2.2 < y.2.2.2.2) := by simp [earlier]

theorem not_earlier_trans (hxy : earlier x y = false) (hyz : earlier y z = false) : earlier x z = false := by
  rw [← Bool.not_eq_true, earlier_iff] at *
  omega

theorem earlier_asymm (h : earlier x y = true) : earlier y x = false := by
  rw [← Bool.not_eq_true]
  rw [earlier_iff] at *
  omega

theorem oldestOf_none (h : oldestOf l = none) : l = [] := by
  cases l with
  | nil => rfl
  | cons a r =>
    rw [oldestOf] at h
    split at h
    · cases h
    · split at h <;> cases h

/-- The oldest of a list is in it, and no request of the list is earlier. -/
theorem oldestOf_some (h : oldestOf l = some x) : x ∈ l ∧ ∀ y ∈ l, earlier y x = false := by
  induction l generalizing x with
  | nil => cases h
  | cons a r ih =>
    have hself : earlier a a = false := by
      rw [← Bool.not_eq_true, earlier_iff]
      omega
    rw [oldestOf] at h
    split at h
    next hr =>
      obtain rfl := Option.some.inj h
      simp [oldestOf_none hr, hself]
    next y hr =>
      obtain ⟨hmem, hleast⟩ := ih hr
      split at h
      next hlt =>
        obtain rfl := Option.some.inj h
        exact ⟨List.mem_cons_of_mem _ hmem, List.forall_mem_cons.2 ⟨earlier_asymm hlt, hleast⟩⟩
      next hge =>
        obtain rfl := Option.some.inj h
        exact ⟨List.mem_cons_self, List.forall_mem_cons.2
          ⟨hself, fun z hz => not_earlier_trans (hleast z hz) (Bool.eq_false_iff.2 hge)⟩⟩

end Sys2Proof.Machine
end

section
/-! ## The order of a tile -/

namespace Sys2Proof.Machine

variable {s : State} {i : Iss} {p : Path} {k : Iss → State → Res} {park : Nat → Park} {core a n : Nat}

/-- The place of a stalled word, by the tile that it waits on (07_isa_matrix.md:R189). -/
theorem placed_eq_some {y : Park} : y.placed = some (a, n) ↔ (∃ why, y = .tile a n why) ∨ y = .aput a n := by
  cases y <;> simp [Park.placed]

theorem place?_eq_some : p.place? = some n ↔ HoldsPlace p n := by
  simp [Path.place?, HoldsPlace, placed_eq_some]

theorem behind_iff : p.behind n = true ↔ ∀ k, HoldsPlace p k → n < k := by
  simp only [← place?_eq_some, Path.behind, Option.all_eq_true, decide_eq_true_eq]

theorem mem_placesOn {b : Block} : n ∈ b.placesOn core a ↔
    ∃ wp ∈ b.warps ++ (b.handler.map Activation.warp).toList, wp.core = core ∧
    ∃ p ∈ wp.paths, (∃ y, p.park = .tile a n y) ∨ p.park = .aput a n := by
  simp only [Block.placesOn, List.mem_flatMap]
  refine exists_congr fun wp => and_congr_right fun _ => ?_
  by_cases hcore : wp.core = core
  · rw [if_neg (not_not.2 hcore)]
    simp [hcore, List.mem_filterMap, ← placed_eq_some]
  · simp [hcore]

/-- The turn of a word on a tile has come exactly when no place of its order comes before the word (07_isa_matrix.md:R189). -/
theorem tileTurn_eq (b : Block) : b.tileTurn core a p.place? =
    ((b.mmasOn core a).map MmaOp.op ++ b.placesOn core a).all (fun n => !p.behind n) := by
  have hle : ∀ k n : Nat, decide (k ≤ n) = !decide (n < k) := fun k n => by
    rw [← decide_not, decide_eq_decide, not_lt]
  cases h : p.place? <;> simp [Block.tileTurn, Path.behind, h, hle]

theorem tileTurn_iff : i.blk.tileTurn i.warp.core a i.path.place? = true ↔ TileFree i a := by
  simp only [tileTurn_eq, List.all_append, Bool.and_eq_true, List.all_eq_true, List.forall_mem_map, Bool.not_eq_true', ← Bool.not_eq_true,
    behind_iff, TileFree]
  refine and_congr ?_ ?_
  · simp [Block.mmasOn]
  · simp only [mem_placesOn]
    exact ⟨fun h wp hwp hcore p hp n hn => h n ⟨wp, hwp, hcore, p, hp, hn⟩,
      fun h n ⟨wp, hwp, hcore, p, hp, hn⟩ => h wp hwp hcore p hp n hn⟩

/-- A tile operation whose turn has come acts by its meaning. -/
theorem tilePlaced_free (h : TileFree i a) : tilePlaced park a k i s = k i s := if_pos (tileTurn_iff.2 h)

theorem tileOrdered_free (h : TileFree i a) : tileOrdered a k i s = k i s := tilePlaced_free h

/-- A tile operation whose turn has not come takes a place and waits at it (07_isa_matrix.md:R189). -/
theorem queues_of_tilePlaced {ins : Instr} (he : exec ins s = .next (finish i (tilePlaced park a k i s))) (h : ¬ TileFree i a) :
    Queues ins s i park := by
  rw [tilePlaced, if_neg (mt tileTurn_iff.1 h)] at he
  refine ⟨fun hnone => ?_, fun n hn => ?_⟩
  · have hp : i.path.place? = none := Option.eq_none_iff_forall_ne_some.2 fun n hn => hnone n (place?_eq_some.1 hn)
    rwa [hp] at he
  · rwa [place?_eq_some.2 hn] at he

end Sys2Proof.Machine
end

section
/-! ## O48. Granting a tile -/

namespace Sys2Proof.Machine

variable {b : Block} {c : BlockCore} {core a k : Nat}

/-- A tile just bound reads +0 and is not poisoned, and the other tiles of the core are as before (07_isa_matrix.md:R183). -/
theorem tile_bindTile : (c.bindTile a).tile k = if k = a then { el := [], poison := false } else c.tile k := by
  rw [BlockCore.tile, BlockCore.bindTile, find?_rebind]
  split <;> rfl

/-- A tile just unbound is gone, and the other tiles of the core are as before (07_isa_matrix.md:R184). -/
theorem tile_unbind (hk : k ≠ a) : ({ c with tiles := c.tiles.filter (fun t => t.1 != a) } : BlockCore).tile k = c.tile k := by
  rw [BlockCore.tile, find?_unbind, if_neg hk]
  rfl

theorem coreAt_grantTile : (b.grantTile core a).coreAt k = (b.coreAt k).map (fun c => if c.core = core then c.bindTile a else c) := by
  have h := find_updIf (fun c : BlockCore => c.core == core) (fun c => c.core == k) (fun c => c.bindTile a) b.cores (fun _ => rfl)
  simpa [Block.coreAt, Block.grantTile] using h

theorem core_of_coreAt (h : b.coreAt k = some c) : c.core = k := by simpa using List.find?_some h

/-- A grant binds the tile on its core. -/
theorem coreAt_grantTile_same (h : b.coreAt core = some c) : (b.grantTile core a).coreAt core = some (c.bindTile a) := by
  rw [coreAt_grantTile, h, Option.map_some, if_pos (core_of_coreAt h)]

/-- A grant changes no other core. -/
theorem coreAt_grantTile_other (hk : k ≠ core) : (b.grantTile core a).coreAt k = b.coreAt k := by
  rw [coreAt_grantTile]
  cases h : b.coreAt k with
  | none => rfl
  | some c => rw [Option.map_some, if_neg (by rwa [core_of_coreAt h])]

/-- A grant moves no path. -/
theorem rejudge_place (p : Path) : ((p.rejudge a).mask, (p.rejudge a).hdr, (p.rejudge a).word) = (p.mask, p.hdr, p.word) := by
  unfold Path.rejudge
  split
  · split <;> rfl
  · rfl

/-- What a grant keeps of a warp: all but the state that its paths wait in. -/
abbrev warpPlaces (w : Warp) : Warp × List (Word × DWord × Nat) :=
  ({ w with paths := [] }, w.paths.map (fun p => (p.mask, p.hdr, p.word)))

theorem warpPlaces_rejudge (w : Warp) : warpPlaces { w with paths := w.paths.map (Path.rejudge a) } = warpPlaces w := by
  simp [warpPlaces, rejudge_place]

/-- A grant moves no path of its block (07_isa_matrix.md:R183). -/
theorem places_grantTile :
    let places := fun b : Block => (b.warps.map warpPlaces, b.handler.map (fun x => (x.firmware, warpPlaces x.warp)))
    places (b.grantTile core a) = places b := by
  refine Prod.ext ?_ ?_
  · simp only [Block.grantTile, updIf, List.map_map]
    refine List.map_congr_left fun w _ => ?_
    rw [Function.comp_apply]
    split
    · exact warpPlaces_rejudge w
    · rfl
  · simp only [Block.grantTile, Option.map_map]
    refine Option.map_congr fun x _ => ?_
    rw [Function.comp_apply]
    split
    · exact congrArg (Prod.mk x.firmware) (warpPlaces_rejudge x.warp)
    · rfl

end Sys2Proof.Machine
end

section
/-! ## O48. Binding, unbinding and clearing -/

namespace Sys2Proof.Machine

variable {s : State} {op : Op} {w : W} {i : Iss} {c : BlockCore} {core a : Nat}

/-- A word's next state follows its outcome. -/
theorem finish_congr {ins : Instr} {r r' : Res} (he : exec ins s = .next (finish i r)) (h : r = r') :
    exec ins s = .next (finish i r') := h ▸ he

/-- The request of the issuing path, were it to wait now (13_progress.md:R271). -/
abbrev tileRequest (s : State) (i : Iss) (a : Nat) : Block × Warp × Nat × Nat × Nat :=
  (i.blk, { i.warp with idx := i.r.wrp }, i.r.lane, a, s.nextId)

/-- A tile can be taken now when one can be granted to the block and no request that one could be granted to is earlier
(13_progress.md:R271). -/
theorem tileNow_iff : s.tileNow i a = true ↔ s.tileGrantable i.warp.core i.blk = true ∧
    ∀ x ∈ s.tileWaiters i.warp.core, s.tileGrantable i.warp.core x.1 = true → earlier x (tileRequest s i a) = false := by
  rw [State.tileNow, Bool.and_eq_true, State.nextTile]
  refine and_congr_right fun _ => ?_
  split
  next x hx =>
    obtain ⟨hmem, hleast⟩ := oldestOf_some hx
    obtain ⟨hwaits, hgrant⟩ := List.mem_filter.1 hmem
    rw [Bool.not_eq_true']
    exact ⟨fun h y hy hg => not_earlier_trans (hleast y (List.mem_filter.2 ⟨hy, hg⟩)) h, fun h => h x hwaits hgrant⟩
  next hx =>
    have hnone := List.filter_eq_nil_iff.1 (oldestOf_none hx)
    exact ⟨fun _ x hx hg => absurd hg (hnone x hx), fun _ => rfl⟩

/-- `aget` is illegal on a bound name, binds a tile that can be taken now, and waits for one otherwise
(07_isa_matrix.md:R183; 13_progress.md:R271). -/
theorem exec_aget (hi : Issues .aget w s i) (hcore : i.core? = some c) : let a := w.d.resIx
    (bound c.tiles a = true → Traps (.aget w) s i { cause := 3, mask := i.act }) ∧
    (bound c.tiles a = false → s.tileNow i a = true → Completes (.aget w) s i (i.updBlk s (fun b => b.grantTile i.warp.core a))) ∧
    (bound c.tiles a = false → ¬ s.tileNow i a = true → exec (.aget w) s =
      .next { ({ s with nextId := s.nextId + 1 }.updRef i.r (fun wp => wp.parkAt i.r.lane (.aget a s.nextId))) with cur := none }) := by
  have he : exec (.aget w) s = execAget w s := rfl
  rw [execAget, issueW_issues _ hi, hcore] at he
  dsimp only at he
  refine ⟨fun h => ?_, fun h hnow => ?_, fun h hnow => ?_⟩
  · rwa [if_pos h] at he
  · rwa [if_neg (Bool.eq_false_iff.1 h), if_pos hnow] at he
  · rwa [if_neg (Bool.eq_false_iff.1 h), if_neg hnow] at he

/-- Whether a pending operation of the core names a tile (07_isa_matrix.md:R184). -/
abbrev tilePending (c : BlockCore) (a : Nat) : Bool :=
  c.scrums.any (fun k => match k.pend with | some r => r.w.d.resIx == a | none => false)

/-- `aput` is illegal while a pending operation names its tile, and unbinds it in the tile order otherwise
(07_isa_matrix.md:R184, R189). -/
theorem exec_aput (hi : Issues .aput w s i) (hcore : i.core? = some c) : let a := w.d.resIx
    (tilePending c a = true → Traps (.aput w) s i { cause := 3, mask := i.act }) ∧
    (tilePending c a = false → TileFree i a →
      Completes (.aput w) s i (i.updCore s (fun c => { c with tiles := c.tiles.filter (fun t => t.1 != a) }))) ∧
    (tilePending c a = false → ¬ TileFree i a → Queues (.aput w) s i (.aput a)) := by
  have he : exec (.aput w) s = execAput w s := rfl
  rw [execAput, issueW_issues _ hi, hcore] at he
  exact ⟨fun h => (finish_congr he (if_pos h) :), fun h hfree =>
      (finish_congr he ((if_neg (Bool.eq_false_iff.1 h)).trans (tilePlaced_free hfree)) :),
    fun h hfree => queues_of_tilePlaced (finish_congr he (if_neg (Bool.eq_false_iff.1 h))) hfree⟩

/-- `azero` clears its tile in the tile order (07_isa_matrix.md:R189, R200). -/
theorem exec_azero (hi : Issues .azero w s i) : let a := w.d.resIx
    (TileFree i a → Completes (.azero w) s i (i.updCore s (fun c => c.updTile a (fun _ => { el := [], poison := false })))) ∧
    (¬ TileFree i a → Queues (.azero w) s i (fun n => .tile a n)) := by
  have he : exec (.azero w) s = execAzero w s := rfl
  rw [execAzero, issueW_issues _ hi] at he
  refine ⟨fun hfree => ?_, fun hfree => queues_of_tilePlaced he hfree⟩
  rwa [tileOrdered_free hfree] at he

/-- An `aput` of the tile waits before the word of a path (07_isa_matrix.md:R184, R189). -/
theorem putBefore_iff {b : Block} {p : Path} : b.putBefore core a p = true ↔
    ∃ wp ∈ b.warps ++ (b.handler.map Activation.warp).toList, wp.core = core ∧
      ∃ q ∈ wp.paths, ∃ n, q.park = .aput a n ∧ ∀ k, HoldsPlace p k → n < k := by
  rw [Block.putBefore, List.any_eq_true]
  refine exists_congr fun wp => and_congr_right fun _ => ?_
  rw [Bool.and_eq_true, beq_iff_eq, List.any_eq_true]
  refine and_congr_right fun _ => exists_congr fun q => and_congr_right fun _ => ?_
  simp only [← behind_iff]
  cases q.park <;> simp

/-- A word whose resources are missing takes the register-allocation trap on its path, in a handler too when it names no `v`
register there (02_state.md:R33, R56). -/
theorem precheck_of_resMissing (hs : i.subCause op w = 0) (hh : i.r.handler = true → spansOf op w i.warp i.path.mask = [] ∨ i.act = 0)
    (hw : i.path.waited = false) (hr : resMissing op w i = true) : i.precheck op w = some { cause := 2, mask := i.path.mask } := by
  cases hhand : i.r.handler with
  | false => simp [Iss.precheck, hs, hhand, hw, hr]
  | true =>
    have hnames : ¬ (spansOf op w i.warp i.path.mask ≠ [] ∧ i.act ≠ 0) := fun h => (hh hhand).elim h.1 h.2
    simp only [Iss.precheck, hs, hhand, hw, hr, ne_eq, not_true_eq_false, if_false, if_true]
    rw [if_neg hnames]
    rfl

/-- A word on a tile that an earlier `aput` is to unbind misses it (07_isa_matrix.md:R184, R189). -/
theorem resMissing_of_putBefore (hop : op ∈ [Op.aput, .azero, .ast, .ascl, .ald, .aconv, .mma, .mmaz])
    (h : i.blk.putBefore i.warp.core (if op = .ald ∨ op = .aconv then w.a.resIx else w.d.resIx) i.path = true) :
    resMissing op w i = true := by
  simp only [List.mem_cons, List.not_mem_nil, or_false] at hop
  rcases hop with rfl | rfl | rfl | rfl | rfl | rfl | rfl | rfl <;> simp_all [resMissing]

/-- A word behind an `aput` of its tile takes the register-allocation trap (07_isa_matrix.md:R184, R189). -/
theorem traps_behind_aput (hop : op ∈ [Op.aput, .azero, .ast, .ascl, .ald, .aconv, .mma, .mmaz]) (hi : s.issuer w = some i)
    (hs : i.subCause op w = 0) (hh : i.r.handler = true → spansOf op w i.warp i.path.mask = [] ∨ i.act = 0)
    (hrel : ∀ ok v, i.path.park ≠ .released ok v) (hmma : ∀ m, i.path.park ≠ .mma m)
    (h : i.blk.putBefore i.warp.core (if op = .ald ∨ op = .aconv then w.a.resIx else w.d.resIx) i.path = true) :
    Traps (Instr.ofOp op w) s i { cause := 2, mask := i.path.mask } := by
  have hwaited : i.path.waited = false := by
    rw [Path.waited]
    split
    next hp => exact absurd hp (hrel _ _)
    next hp => exact absurd hp (hmma _)
    next => rfl
  exact exec_trap hi (precheck_of_resMissing hs hh hwaited (resMissing_of_putBefore hop h))

/-- Tiles are bound, unbound and cleared in the tile order (07_isa_matrix.md:R183, R184, R189, R200). -/
theorem tileBinding : Claims.TileBinding := by
  intro s w i c hcore a core me now still places put pending
  refine ⟨fun hi => ?_, fun hi hfree hn => ?_, fun hi hfree hn => ?_, fun hi => ?_, fun hi hp hfree => ?_, fun hi => ?_, fun hi => ?_,
    fun hi => ?_, fun op hop hi hs hh hrel hmma hput => traps_behind_aput hop hi hs hh hrel hmma (putBefore_iff.2 hput)⟩
  · obtain ⟨hbound, -, -⟩ := exec_aget hi hcore
    exact hbound
  · obtain ⟨-, hgrant, -⟩ := exec_aget hi hcore
    refine ⟨fun b => b.grantTile core a, c.bindTile a, hgrant hfree (tileNow_iff.2 hn), coreAt_grantTile_same hcore, bound_rebind,
      congrArg Tile.poison (tile_bindTile.trans (if_pos rfl)), fun e => ?_, fun k hk => tile_bindTile.trans (if_neg hk), rfl,
      fun k => coreAt_grantTile_other, places_grantTile, rfl⟩
    rw [tile_bindTile, if_pos rfl]
    rfl
  · obtain ⟨-, -, hwaits⟩ := exec_aget hi hcore
    exact hwaits hfree (mt tileNow_iff.1 hn)
  · obtain ⟨hpending, -, -⟩ := exec_aput hi hcore
    exact hpending
  · obtain ⟨-, hunbinds, -⟩ := exec_aput hi hcore
    exact ⟨_, hunbinds hp hfree, bound_unbind, fun k hk => tile_unbind hk, rfl⟩
  · obtain ⟨hclears, -⟩ := exec_azero hi
    exact hclears
  · obtain ⟨-, -, hqueues⟩ := exec_aput hi hcore
    exact hqueues
  · obtain ⟨-, hqueues⟩ := exec_azero hi
    exact hqueues

end Sys2Proof.Machine
end

section
/-! ## Writes in the order of lanes -/

namespace Sys2Proof.Machine

variable {n : Nat}

theorem csetAll_append (l r : List (Nat × BitVec n)) : ∀ c : Cells n, csetAll c (l ++ r) = csetAll (csetAll c l) r := by
  induction l with
  | nil => exact fun _ => rfl
  | cons e l ih => exact fun c => ih (cset c e.1 e.2)

theorem lanesOf_ascending (m : Word) : (lanesOf m).Pairwise (· < ·) := List.pairwise_lt_range.filter _

/-- Of writes made lane by lane, ascending, the one of the highest lane that names a key remains. -/
theorem cget_csetAll_lanes {ls : List Nat} (hs : ls.Pairwise (· < ·)) (g : Nat → List (Nat × BitVec n)) {l e : Nat} {v : BitVec n}
    (c : Cells n) (hl : l ∈ ls) (he : ∃ x ∈ g l, x.1 = e) (hv : ∀ x ∈ g l, x.1 = e → x.2 = v)
    (hlast : ∀ m ∈ ls, l < m → ∀ x ∈ g m, x.1 ≠ e) : cget (csetAll c (ls.flatMap g)) e = v := by
  obtain ⟨a, b, rfl⟩ := List.append_of_mem hl
  have hbelow : ∀ m ∈ b, l < m := (List.pairwise_cons.1 (List.pairwise_append.1 hs).2.1).1
  rw [List.flatMap_append, List.flatMap_cons, csetAll_append, csetAll_append, cget_csetAll_other]
  · exact cget_csetAll_mem _ _ _ _ he hv
  · intro x hx
    obtain ⟨m, hm, hx⟩ := List.mem_flatMap.1 hx
    exact hlast m (by simp [hm]) (hbelow m hm) x hx

end Sys2Proof.Machine
end

section
/-! ## O48. Elements of a tile -/

namespace Sys2Proof.Machine

variable {s : State} {w : W} {i : Iss} {c : BlockCore}

/-- The row and column of a lane are within the limits (07_isa_matrix.md:R199). -/
abbrev tileInside (w : W) (i : Iss) (l : Nat) : Prop :=
  i.src w 1 w.b l ≤ 63 ∧ i.src w 1 w.c l ≤ 63 ∧ i.src w 1 w.c l % tileCount w = 0

theorem tileBad_eq_zero_iff : tileBad w i = 0 ↔ ∀ l ∈ i.lanes, tileInside w i l := by
  rw [tileBad, maskBy_eq_zero_iff]
  exact forall₂_congr fun l _ => by simp [tileInside, and_assoc]

/-- The elements that a lane of `ald` reads (07_isa_matrix.md:R199). -/
abbrev tileRead (w : W) (t : Tile) (i : Iss) (l : Nat) : Nat :=
  packed 32 (tileCount w) (fun k => (cget t.el (tileAt w i l + k)).toNat)

/-- The writes of a lane of `ast` (07_isa_matrix.md:R199). -/
abbrev tileWrites (w : W) (i : Iss) (l : Nat) : List (Nat × BitVec 32) := (List.range (tileCount w)).map (fun k =>
  (tileAt w i l + k, BitVec.ofNat 32 (i.src w (tileCount w) w.a l / 2 ^ (32 * k))))

/-- `ald` judges its rows and columns first, then the poison bit of its tile (07_isa_matrix.md:R199). -/
theorem exec_ald (hi : Issues .ald w s i) (hcore : i.core? = some c) (hfree : TileFree i w.a.resIx) : let t := c.tile w.a.resIx
    (tileBad w i ≠ 0 → Traps (.ald w) s i { cause := 3, mask := tileBad w i }) ∧
    (tileBad w i = 0 → t.poison = true → Traps (.ald w) s i { cause := 5, mask := i.act }) ∧
    (tileBad w i = 0 → t.poison = false → LaneWord (.ald w) s i (tileCount w) w.d (tileRead w t i) noFlags) := by
  have he : exec (.ald w) s = execAld w s := rfl
  rw [execAld, issueW_issues _ hi, tileOrdered_free hfree, hcore] at he
  dsimp only at he
  refine ⟨fun h => ?_, fun h hp => ?_, fun h hp => ?_⟩
  · rwa [if_pos h] at he
  · rwa [if_neg (not_not.2 h), if_pos hp] at he
  · rw [if_neg (not_not.2 h), if_neg (Bool.eq_false_iff.1 hp)] at he
    exact laneWord_of_finish he (fun _ => rfl) (fun _ => unlessNF_zero _)

/-- `ast` judges its rows and columns, then writes its tile lane by lane (07_isa_matrix.md:R199). -/
theorem exec_ast (hi : Issues .ast w s i) (hfree : TileFree i w.d.resIx) :
    (tileBad w i ≠ 0 → Traps (.ast w) s i { cause := 3, mask := tileBad w i }) ∧
    (tileBad w i = 0 → Completes (.ast w) s i (i.updCore s (fun c => c.updTile w.d.resIx (fun t =>
      { t with el := csetAll t.el (i.lanes.flatMap (tileWrites w i)) })))) := by
  have he : exec (.ast w) s = execAst w s := rfl
  rw [execAst, issueW_issues _ hi, tileOrdered_free hfree] at he
  refine ⟨fun h => ?_, fun h => ?_⟩
  · rwa [if_pos h] at he
  · rwa [if_neg (not_not.2 h)] at he

/-- The value of the highest lane that writes an element remains in it (07_isa_matrix.md:R199). -/
theorem cget_tileWrites_last (el : Cells 32) {l k e : Nat} (hl : l ∈ i.lanes) (hk : k < tileCount w) (hke : tileAt w i l + k = e)
    (hlast : ∀ m ∈ i.lanes, l < m → ∀ j, j < tileCount w → tileAt w i m + j ≠ e) :
    cget (csetAll el (i.lanes.flatMap (tileWrites w i))) e = BitVec.ofNat 32 (i.src w (tileCount w) w.a l / 2 ^ (32 * k)) := by
  refine cget_csetAll_lanes (lanesOf_ascending _) _ el hl ⟨_, List.mem_map.2 ⟨k, List.mem_range.2 hk, rfl⟩, hke⟩ ?_ ?_
  · intro x hx hxe
    obtain ⟨j, -, rfl⟩ := List.mem_map.1 hx
    rw [Nat.add_left_cancel (hxe.trans hke.symm)]
  · intro m hm hlt x hx
    obtain ⟨j, hj, rfl⟩ := List.mem_map.1 hx
    exact hlast m hm hlt j (List.mem_range.1 hj)

theorem cget_tileWrites_other (el : Cells 32) {e : Nat} (hne : ∀ l ∈ i.lanes, ∀ k, k < tileCount w → tileAt w i l + k ≠ e) :
    cget (csetAll el (i.lanes.flatMap (tileWrites w i))) e = cget el e := by
  refine cget_csetAll_other _ _ _ fun x hx => ?_
  obtain ⟨l, hl, hx⟩ := List.mem_flatMap.1 hx
  obtain ⟨j, hj, rfl⟩ := List.mem_map.1 hx
  exact hne l hl j (List.mem_range.1 hj)

/-- The lanes of `ascl` whose row or column is out of range (07_isa_matrix.md:R200). -/
abbrev scaleBad (w : W) (i : Iss) : Word := maskBy i.act (fun l => decide (63 < i.src w 1 w.b l))

theorem scaleBad_eq_zero_iff : scaleBad w i = 0 ↔ ∀ l ∈ i.lanes, i.src w 1 w.b l ≤ 63 := by
  rw [maskBy_eq_zero_iff]
  exact forall₂_congr fun l _ => by simp

/-- `ascl` judges its rows or columns, then scales them lane by lane (07_isa_matrix.md:R200). -/
theorem exec_ascl (hi : Issues .ascl w s i) (hfree : TileFree i w.d.resIx) :
    (scaleBad w i ≠ 0 → Traps (.ascl w) s i { cause := 3, mask := scaleBad w i }) ∧
    (scaleBad w i = 0 → Completes (.ascl w) s i (i.updCore s (fun c => c.updTile w.d.resIx (fun t =>
      { t with el := i.lanes.foldl (fun el l =>
        scaleLine el (w.mod.getLsbD 3) (i.src w 1 w.b l) (i.f32 w w.a l) (i.warp.modeOf w.mod l) w.sat) t.el })))) := by
  have he : exec (.ascl w) s = execAscl w s := rfl
  rw [execAscl, issueW_issues _ hi, tileOrdered_free hfree] at he
  dsimp only at he
  refine ⟨fun h => ?_, fun h => ?_⟩
  · rwa [if_pos h] at he
  · rwa [if_neg (not_not.2 h)] at he

/-- A line of a tile is scaled element by element, and nothing else changes (07_isa_matrix.md:R200). -/
theorem cget_scaleLine (el : Cells 32) (tall : Bool) {k : Nat} (x : Num) (md : Mode) (sat : Bool) (e : Nat) (hk : k < 64) :
    cget (scaleLine el tall k x md sat) e = if e < 4096 ∧ (if tall then e % 64 else e / 64) = k then
      BitVec.ofNat 32 (round fmt32 md sat false ((decodeF fmt32 false (cget el e).toNat).mul x)).bits else cget el e := by
  have hline : (∃ j < 64, (if tall then 64 * j + k else 64 * k + j) = e) ↔ e < 4096 ∧ (if tall then e % 64 else e / 64) = k := by
    cases tall
    · exact ⟨fun ⟨j, hj, he⟩ => by simp at *; omega, fun h => ⟨e % 64, by simp at *; omega⟩⟩
    · exact ⟨fun ⟨j, hj, he⟩ => by simp at *; omega, fun h => ⟨e / 64, by simp at *; omega⟩⟩
  rw [scaleLine]
  by_cases h : e < 4096 ∧ (if tall then e % 64 else e / 64) = k
  · obtain ⟨j, hj, hje⟩ := hline.2 h
    rw [if_pos h]
    refine cget_csetAll_mem _ _ _ _ ⟨_, List.mem_map.2 ⟨j, List.mem_range.2 hj, rfl⟩, hje⟩ fun y hy hye => ?_
    obtain ⟨j', -, rfl⟩ := List.mem_map.1 hy
    rw [← hye]
  · rw [if_neg h]
    refine cget_csetAll_other _ _ _ fun y hy hye => h (hline.1 ?_)
    obtain ⟨j, hj, rfl⟩ := List.mem_map.1 hy
    exact ⟨j, List.mem_range.1 hj, hye⟩

/-- Elements are read, written and scaled in the tile order (07_isa_matrix.md:R198, R199, R200). -/
theorem tileAccess : Claims.TileAccess := by
  intro s w i c hcore n row col at_ good t scale free
  have hgood : tileBad w i = 0 ↔ good := tileBad_eq_zero_iff
  refine ⟨fun hi hf h hp => ?_, fun hi hf h => ?_, fun hi hf h => ?_, fun hi hf h => ?_, fun hi hf h => ?_, fun hi hf h => ?_, fun hi hf h => ?_,
    fun el tall k x md e hk => cget_scaleLine el tall x md w.sat e hk⟩
  · obtain ⟨-, -, hreads⟩ := exec_ald hi hcore hf
    exact ⟨_, hreads (hgood.2 h) hp, fun l k hk => packed_elt (fun _ _ => BitVec.isLt _) hk⟩
  · obtain ⟨-, hpoison, -⟩ := exec_ald hi hcore hf
    exact hpoison (hgood.2 h)
  · obtain ⟨hrefused, -, -⟩ := exec_ald hi hcore hf
    exact ⟨_, mt hgood.1 h, hrefused (mt hgood.1 h)⟩
  · obtain ⟨hrefused, -⟩ := exec_ast hi hf
    exact ⟨_, mt hgood.1 h, hrefused (mt hgood.1 h)⟩
  · obtain ⟨-, hwrites⟩ := exec_ast hi hf
    exact ⟨fun el => csetAll el (i.lanes.flatMap (tileWrites w i)), hwrites (hgood.2 h), fun el e =>
      ⟨fun l hl k hk => cget_tileWrites_last el hl hk, cget_tileWrites_other el⟩⟩
  · obtain ⟨-, hscales⟩ := exec_ascl hi hf
    exact hscales (scaleBad_eq_zero_iff.2 h)
  · obtain ⟨hrefused, -⟩ := exec_ascl hi hf
    exact ⟨_, mt scaleBad_eq_zero_iff.1 h, hrefused (mt scaleBad_eq_zero_iff.1 h)⟩

end Sys2Proof.Machine
end

section
/-! ## O48. Converting a tile to memory -/

namespace Sys2Proof.Machine

variable {s : State} {w : W} {i : Iss} {c : BlockCore}

/-- The element type that `aconv` writes: `.f32` raw, or that of its slot (07_isa_matrix.md:R201). -/
abbrev convElt (w : W) (i : Iss) : Nat := if w.mod.getLsbD 4 then 1 else slotElt (i.grid.slot w.e.resIx)

/-- The bytes of a row that `aconv` writes. -/
abbrev convLen (w : W) (i : Iss) : Nat := 64 * eltBits (convElt w i) / 8

/-- The first address that `aconv` writes. -/
abbrev convAddr (w : W) (i : Iss) : Nat := i.uni w (if w.mod.getLsbD 3 then 2 else 1) w.b

/-- The bytes from a row of `aconv` to the next. -/
abbrev convStride (w : W) (i : Iss) : Nat := i.uni w 1 w.c

/-- The rows that `aconv` writes (07_isa_matrix.md:R201). -/
abbrev convRows (w : W) (i : Iss) (t : Tile) : List (Nat × List Byte) := (List.range 64).map (fun r =>
  (convAddr w i + r * convStride w i, aconvRow t (w.mod.getLsbD 4) (convElt w i) (i.warp.modeOf w.mod i.lane0)
    (w.sat || (!w.mod.getLsbD 4 && slotSat (i.grid.slot w.e.resIx))) r))

/-- The ranges of those rows. -/
abbrev convRanges (w : W) (i : Iss) (t : Tile) : List (Nat × Nat × Nat) := (convRows w i t).map (fun r => (i.lane0, r.1, convLen w i))

/-- The slot of `aconv` is one that it converts to. -/
abbrev convSlotOk (w : W) (i : Iss) : Prop :=
  w.mod.getLsbD 4 = true ∨ 1 ≤ convElt w i ∧ convElt w i ≤ 5 ∧ slotBsz (i.grid.slot w.e.resIx) = 0

/-- The address and stride of `aconv` are aligned, and its rows do not overlap. -/
abbrev convPlaceOk (w : W) (i : Iss) : Prop := convAddr w i % 16 = 0 ∧ convStride w i % 16 = 0 ∧ convLen w i ≤ convStride w i

/-- The rows of `aconv` lie inside the scratchpads of the block (11_isa_memory.md:R238). -/
abbrev convInside (w : W) (i : Iss) : Prop := convAddr w i + 63 * convStride w i + convLen w i ≤ i.blk.cores.length * i.scr

/-- `aconv` judges its slot, address and stride, then its space (07_isa_matrix.md:R201, R202). -/
theorem exec_aconv (hi : Issues .aconv w s i) (hcore : i.core? = some c) (hc : i.warp.canRaise (i.counter w) = true)
    (hfree : TileFree i w.a.resIx) : let t := c.tile w.a.resIx
    (¬ (convSlotOk w i ∧ convPlaceOk w i) → Traps (.aconv w) s i { cause := 3, mask := i.act }) ∧
    (convSlotOk w i ∧ convPlaceOk w i → w.mod.getLsbD 3 = false →
      (¬ convInside w i → Traps (.aconv w) s i { cause := 3, mask := i.act }) ∧
      (convInside w i → t.poison = true → Traps (.aconv w) s i { cause := 5, mask := i.act }) ∧
      (∀ u, convInside w i → t.poison = false → i.detect 1 (i.detScratch (convRanges w i t)) s = .ok u →
        Completes (.aconv w) s i (i.updBlk u (fun b => b.spStores i.scr (convRows w i t))))) ∧
    (convSlotOk w i ∧ convPlaceOk w i → w.mod.getLsbD 3 = true → s.laneFault i.ctx .store (convRanges w i t) = none →
      HasRoom s i .store (convRanges w i t) → ∀ u, i.detect 1 (s.detSectors i.ctx .store (convRanges w i t)) s = .ok u →
        Completes (.aconv w) s i (u.issueStores i w 2 (convRows w i t) t.poison)) := by
  have he : exec (.aconv w) s = execAconv w s := rfl
  rw [execAconv, issueW_issues _ hi, withCounter_raises hc, tileOrdered_free hfree, hcore] at he
  dsimp only at he
  have hslot : (!w.mod.getLsbD 4 && decide (convElt w i = 0 ∨ 5 < convElt w i ∨ slotBsz (i.grid.slot w.e.resIx) ≠ 0)) = false ↔
      convSlotOk w i := by
    rw [Bool.and_eq_false_iff, Bool.not_eq_false', decide_eq_false_iff_not]
    exact or_congr_right (by omega)
  have hplace : (convAddr w i % 16 ≠ 0 ∨ convStride w i % 16 ≠ 0 ∨ convStride w i < convLen w i) ↔ ¬ convPlaceOk w i := by
    simp only [convPlaceOk]
    omega
  have hinside : (!i.inScratch (convAddr w i) (63 * convStride w i + convLen w i)) = true ↔ ¬ convInside w i := by
    rw [not_inScratch_iff, ← Nat.add_assoc]
  by_cases hs : convSlotOk w i
  case neg =>
    rw [if_pos (Bool.eq_true_of_not_eq_false (mt hslot.1 hs))] at he
    exact ⟨fun _ => he, fun h => absurd h.1 hs, fun h => absurd h.1 hs⟩
  rw [if_neg (Bool.eq_false_iff.1 (hslot.2 hs))] at he
  by_cases hp : convPlaceOk w i
  case neg =>
    rw [if_pos (hplace.2 hp)] at he
    exact ⟨fun _ => he, fun h => absurd h.2 hp, fun h => absurd h.2 hp⟩
  rw [if_neg (mt hplace.1 (not_not.2 hp))] at he
  refine ⟨fun h => absurd ⟨hs, hp⟩ h, fun _ hg => ?_, fun _ hg hf hr u hd => ?_⟩
  · rw [if_neg (Bool.eq_false_iff.1 hg)] at he
    refine ⟨fun hin => ?_, fun hin hpoison => ?_, fun u hin hpoison hd => ?_⟩
    · rwa [if_pos (hinside.2 hin)] at he
    · rwa [if_neg (mt hinside.1 (not_not.2 hin)), if_pos hpoison] at he
    · rwa [if_neg (mt hinside.1 (not_not.2 hin)), if_neg (Bool.eq_false_iff.1 hpoison), hd] at he
  · rwa [if_pos hg, hf, withRoom_room hr, hd] at he

/-- The conversion of a tile, to each space (07_isa_matrix.md:R201, R202). -/
theorem tileConversion : Claims.TileConversion := by
  intro s w i c hi hcore hc hfree glob raw q elt n b st t rows rs good
  obtain ⟨hrefused, hscratch, hglobal⟩ := exec_aconv hi hcore hc hfree
  refine ⟨hrefused, fun u hg hglob => ?_, fun hg hglob => ?_, fun hg hglob hover => ?_, hglobal⟩
  · obtain ⟨-, -, hstores⟩ := hscratch hg hglob
    exact hstores u
  · obtain ⟨-, hpoison, -⟩ := hscratch hg hglob
    exact hpoison
  · obtain ⟨hout, -, -⟩ := hscratch hg hglob
    exact hout (not_le.2 hover)

/-- Settles O48: the tile order decides whether a word acts or waits (`tileTurn_iff`, `queues_of_tilePlaced`), a tile is granted in the
order of requests (`tileNow_iff`), and a word behind an `aput` of its tile misses it (`resMissing_of_putBefore`). -/
theorem tileWords : Obligations.TileWords := ⟨tileBinding, tileAccess, tileConversion⟩

end Sys2Proof.Machine
end

section
/-! ## O14. Retiring and fetching -/

namespace Sys2Proof.Machine

variable {s : State} {op : Nat} {b : Block} {g : Grid} {m : MmaOp} {w : Warp}

/-- An issued operation is found by its own name. -/
theorem op_of_findMma (h : s.findMma op = some (b, g, m)) : m.op = op := by
  obtain ⟨b', -, hb⟩ := List.exists_of_findSome?_eq_some h
  split at hb
  next x y hx hy =>
    obtain ⟨-, -, rfl⟩ : b' = b ∧ y = g ∧ x = m := by simpa using hb
    simpa using List.find?_some hx
  next => cases hb

/-- An issued operation that is first on its tile is performed to its end, or stays (07_isa_matrix.md:R192, R193). -/
theorem exec_mmaRetire (h : s.findMma op = some (b, g, m)) (hfirst : b.mmaFirst m = true) :
    (b.res ≠ .saved → m.rec_.missing = 0 → cget s.groupsDown m.core = 0 → Goes (.mmaRetire op) s
      (m.signers.foldl (fun s k => s.updRef (b.opRef k.wrp) (fun w => w.lower k.ctr))
        ((s.mmaAdvance b g m (mmaK m.rec_.w / 16 - m.prog)).dropMma b op))) ∧
    ((b.res = .saved ∨ m.rec_.missing ≠ 0 ∨ cget s.groupsDown m.core ≠ 0) → Goes (.mmaRetire op) s s) := by
  have he : exec (.mmaRetire op) s = execMmaRetire op s := rfl
  rw [execMmaRetire, h] at he
  dsimp only at he
  refine ⟨fun hres hmiss hruns => ?_, fun hstays => ?_⟩
  · rwa [if_neg (by simp [hfirst, hres, hmiss, hruns])] at he
  · rwa [if_pos (by simp [hfirst]; tauto)] at he

/-- A record that needs no fetch, or whose block is saved, stays (07_isa_matrix.md:R196). -/
theorem exec_handleFetchFault_idle (h : s.findMma op = some (b, g, m)) (hidle : b.res = .saved ∨ m.rec_.missing = 0) :
    Goes (.handleFetchFault op) s s := by
  have he : exec (.handleFetchFault op) s = execHandleFetchFault op s := rfl
  rw [execHandleFetchFault, h] at he
  dsimp only at he
  rwa [if_pos (by simp; tauto)] at he

/-- In a killed block the fetch goes on, or the operation is over (07_isa_matrix.md:R196). -/
theorem exec_handleFetchFault_killed (h : s.findMma op = some (b, g, m)) (hres : b.res = .killed) (hmiss : m.rec_.missing ≠ 0) :
    (s.fetchFault g.rec_.ctx m.rec_ = none → Goes (.handleFetchFault op) s (s.fetchOn b g m)) ∧
    ((s.fetchFault g.rec_.ctx m.rec_).isSome = true → Goes (.handleFetchFault op) s (s.dropMma b op)) := by
  have he : exec (.handleFetchFault op) s = execHandleFetchFault op s := rfl
  rw [execHandleFetchFault, h] at he
  dsimp only at he
  rw [if_neg (by simp [hres, hmiss]), if_pos hres] at he
  refine ⟨fun hf => ?_, fun hf => ?_⟩
  · rwa [hf] at he
  · rwa [if_pos hf] at he

/-- While the last signer's warp runs, the fetch goes on, or the fault that stops it is taken in the operation's turn
(07_isa_matrix.md:R195, R196). -/
theorem exec_handleFetchFault_running (h : s.findMma op = some (b, g, m)) (hfirst : b.mmaFirst m = true) (hres : b.res = .resident)
    (hw : b.refWarp? m.last = some w) (hstop : w.stopped = false) (hmiss : m.rec_.missing ≠ 0) : let k := m.rec_.rows.length
    (s.fetchFault g.rec_.ctx m.rec_ = none → Goes (.handleFetchFault op) s (s.fetchOn b g m)) ∧
    ∀ t p, s.fetchFault g.rec_.ctx m.rec_ = some t → w.path? m.last.lane = some p → p.park = .mma op →
      (cget s.groupsDown m.core = 0 → Goes (.handleFetchFault op) s (((s.mmaAdvance b g m (k - m.prog)).takeTrap m.last
        { t with mask := p.mask, prog := k }).updRef m.last (fun w => w.parkAt m.last.lane (.mma op)))) ∧
      (¬ cget s.groupsDown m.core = 0 → Goes (.handleFetchFault op) s s) := by
  have he : exec (.handleFetchFault op) s = execHandleFetchFault op s := rfl
  rw [execHandleFetchFault, h] at he
  dsimp only at he
  rw [if_neg (by simp [hres, hmiss]), if_neg (by simp [hres]), hw] at he
  dsimp only at he
  rw [if_neg (by simp [hstop])] at he
  refine ⟨fun hf => ?_, fun t p hf hpath hpark => ?_⟩
  · rwa [hf] at he
  · have hsign : w.signing? m = some p := by
      rw [Warp.signing?, hpath, Option.filter_some, if_pos (by simp [hpark, op_of_findMma h])]
    rw [hf, hsign] at he
    dsimp only at he
    refine ⟨fun hruns => ?_, fun hdown => ?_⟩
    · rwa [if_neg (by simp [State.faultDue, hfirst, hruns])] at he
    · rwa [if_pos (by rw [State.faultDue, beq_eq_false_iff_ne.2 hdown, Bool.and_false, Bool.not_false])] at he

end Sys2Proof.Machine
end

section
/-! ## O14. One group of a matrix operation -/

namespace Sys2Proof.Machine

variable {α : Type} {l : List α} {n : Nat} {x : α × Nat}

/-- An entry of a list with its index. -/
theorem mem_zip_range (d : α) (h : l.length = n) : x ∈ l.zip (List.range n) ↔ x.2 < n ∧ x.1 = l.getD x.2 d := by
  subst h
  obtain ⟨a, k⟩ := x
  rw [List.mem_iff_getElem]
  constructor
  · rintro ⟨j, hj, hx⟩
    rw [List.getElem_zip, List.getElem_range, Prod.mk.injEq] at hx
    obtain ⟨rfl, rfl⟩ := hx
    have hlt : j < l.length := by simpa using hj
    exact ⟨hlt, (List.getD_eq_getElem _ _ hlt).symm⟩
  · rintro ⟨hk, ha⟩
    refine ⟨k, by simpa using hk, ?_⟩
    rw [List.getElem_zip, List.getElem_range, ← List.getD_eq_getElem _ d hk]
    exact congrArg (·, k) ha.symm

/-- A group adds to each element of the tile by its own row and column (05_numbers.md:R154). -/
theorem cget_addGroup (t : Tile) (int sat poison : Bool) {as bs : List (List Num)} {i j : Nat} (has : as.length = 64) (hbs : bs.length = 64)
    (hi : i < 64) (hj : j < 64) : cget (t.addGroup int sat as bs poison).el (64 * i + j) =
      groupElement int sat (cget t.el (64 * i + j)) (as.getD i []) (bs.getD j []) := by
  refine cget_csetAll_mem _ _ _ _ ⟨(_, _), List.mem_flatMap.2 ⟨(as.getD i [], i), (mem_zip_range [] has).2 ⟨hi, rfl⟩,
    List.mem_map.2 ⟨(bs.getD j [], j), (mem_zip_range [] hbs).2 ⟨hj, rfl⟩, rfl⟩⟩, rfl⟩ fun e he hkey => ?_
  obtain ⟨x, hx, he⟩ := List.mem_flatMap.1 he
  obtain ⟨y, hy, rfl⟩ := List.mem_map.1 he
  obtain ⟨-, hxrow⟩ := (mem_zip_range [] has).1 hx
  obtain ⟨hlt, hyrow⟩ := (mem_zip_range [] hbs).1 hy
  obtain ⟨hxi, hyj⟩ : x.2 = i ∧ y.2 = j := by omega
  rw [hxrow, hyrow, hxi, hyj]

end Sys2Proof.Machine
end

section
/-! ## O14. Grants and compaction -/

namespace Sys2Proof.Machine

variable {s u : State} {core part : Nat} {b : Block} {w : Warp} {lane a n spot o : Nat} {g : Grid}

/-- A core grants a tile to the oldest request that it can grant (13_progress.md:R271). -/
theorem exec_tileGrant (h : s.nextTile core = some (b, w, lane, a, o)) : Goes (.tileGrant core) s
    (s.updBlock b.lsq b.tkt (fun b => (b.grantTile core a).updRef (b.opRef w.idx) (fun w => w.advance lane))) := by
  have he : exec (.tileGrant core) s = execTileGrant core s := rfl
  rwa [execTileGrant, h] at he

/-- A partition grants an extended block to the oldest request that it can grant (13_progress.md:R271; 14_isa_sync.md:R288). -/
theorem exec_extregGrant (h : s.nextExt core part = some (b, w, lane, n, o)) (hspot : s.extSpot core part n = some spot)
    (hg : s.grid? b.lsq = some g) :
    Goes (.extregGrant core part) s (s.updWarp b.lsq b.tkt w.idx (fun w => (w.takeExt g.rec_.base n spot).advance lane)) := by
  have he : exec (.extregGrant core part) s = execExtregGrant core part s := rfl
  rw [execExtregGrant, h] at he
  dsimp only at he
  rwa [hspot, hg] at he

/-- A step of compaction holds warps, or moves storage once every held warp is at rest (02_state.md:R48). -/
theorem compact_cases {wanted : List Seat} (h : s.compact wanted core part = some u) : (∃ ks, u = s.holdWarps core part ks) ∨
    (∃ room, u = s.repack core part room) ∧
      ¬ ∃ x ∈ s.warpsOn core part, x.2.hold = true ∧ (x.2.atRest = false ∨ x.2.busy ≠ []) := by
  unfold State.compact at h
  extract_lets ws held ks at h
  by_cases hne : (ks != held) = true
  · rw [if_pos hne] at h
    exact .inl ⟨ks, (Option.some.inj h).symm⟩
  rw [if_neg hne] at h
  by_cases hrest : ks = [] ∨ ws.any (fun x => x.2.hold && (!x.2.atRest || x.2.busy != [])) = true
  · rw [if_pos hrest] at h
    cases h
  · rw [if_neg hrest] at h
    obtain ⟨room, -, hu⟩ := Option.map_eq_some_iff.1 h
    exact .inr ⟨⟨room, hu.symm⟩, fun hx => hrest (.inr (by simpa using hx))⟩

/-- What warps keep under an update, the blocks keep. -/
theorem map_updWarps {f : Warp → Warp} {g : Block → Warp → Warp} {p : Block → Bool} {q : Warp → Bool}
    (hg : ∀ b w, f (g b w) = f w) (bs : List Block) : (updIf p (fun b => { b with warps := updIf q (g b) b.warps }) bs).map (fun b => { b with warps := b.warps.map f }) =
      bs.map (fun b => { b with warps := b.warps.map f }) := by
  rw [updIf, List.map_map]
  refine List.map_congr_left fun b _ => ?_
  rw [Function.comp_apply]
  split
  · simp only [updIf, List.map_map, Block.mk.injEq, true_and, and_true]
    refine List.map_congr_left fun w _ => ?_
    rw [Function.comp_apply]
    split
    · exact hg b w
    · rfl
  · rfl

/-- A step of compaction moves or holds warps, and changes nothing else of a state (02_state.md:R48, R49). -/
theorem compact_frame {wanted : List Seat} (h : s.compact wanted core part = some u) :
    let moved := fun w : Warp => { w with baseAt := 0, extAt := 0, hold := false }
    let all := fun (f : Warp → Warp) (b : Block) => { b with warps := b.warps.map f }
    u.blocks.map (all moved) = s.blocks.map (all moved) ∧ u = { s with blocks := u.blocks } := by
  obtain ⟨ks, rfl⟩ | ⟨⟨room, rfl⟩, -⟩ := compact_cases h
  · refine ⟨map_updWarps ?_ _, rfl⟩
    exact fun _ _ => rfl
  · refine ⟨map_updWarps ?_ _, rfl⟩
    exact fun _ _ => rfl

/-- While a held warp is not at rest, a step of compaction moves no storage (02_state.md:R48). -/
theorem compact_holds {wanted : List Seat} (h : s.compact wanted core part = some u)
    (hx : ∃ x ∈ s.warpsOn core part, x.2.hold = true ∧ (x.2.atRest = false ∨ x.2.busy ≠ [])) :
    let freed := fun w : Warp => { w with hold := false }
    let all := fun (f : Warp → Warp) (b : Block) => { b with warps := b.warps.map f }
    u.blocks.map (all freed) = s.blocks.map (all freed) := by
  obtain ⟨ks, rfl⟩ | ⟨-, hrest⟩ := compact_cases h
  · refine map_updWarps ?_ _
    exact fun _ _ => rfl
  · exact absurd hx hrest

theorem exec_compaction (h : s.compact s.wantedSeats core part = some u) : Goes (.compaction core part) s u := by
  have he : exec (.compaction core part) s = .next ((s.compact s.wantedSeats core part).getD s) := rfl
  rwa [h] at he

theorem exec_compaction_idle (h : s.compact s.wantedSeats core part = none) : Goes (.compaction core part) s s := by
  have he : exec (.compaction core part) s = .next ((s.compact s.wantedSeats core part).getD s) := rfl
  rwa [h] at he

/-- Settles O14: an issued operation retires or faults in its turn (`exec_mmaRetire`, `exec_handleFetchFault_running`), a grant serves the
oldest request (`oldestOf_some`), and a step of compaction either holds warps or moves their storage (`compact_cases`). -/
theorem coreEvents : Obligations.CoreEvents := by
  refine ⟨fun s op b g m hm hfirst => ?_, fun s core ctx m => ⟨fetchHandle_of_missing_zero, fetchGroups_rows, fun h => ?_⟩,
    fun t int sat poison as bs i j has hbs hi hj => cget_addGroup t int sat poison has hbs hi hj,
    fun s core part b w lane a n spot o g => ⟨exec_tileGrant, exec_extregGrant, exec_compaction_idle, fun u hu => ?_⟩,
    fun l x => oldestOf_some⟩
  · intro runs retired u
    have hk : mmaK m.rec_.w = m.rec_.w.imm.toNat % 2 ^ 16 := by rw [mmaK, bits, fld, pow_zero, Nat.div_one]
    obtain ⟨hretires, hstays⟩ := exec_mmaRetire hm hfirst
    rw [hk] at hretires
    refine ⟨hretires, hstays, exec_handleFetchFault_idle hm, fun hres hmiss => ?_,
      fun w hres hw hstop hmiss => exec_handleFetchFault_running hm hfirst hres hw hstop hmiss⟩
    obtain ⟨hon, hover⟩ := exec_handleFetchFault_killed hm hres hmiss
    exact ⟨hon, fun t ht => hover (by rw [ht]; rfl)⟩
  · exact (fetchGroups_stops le_rfl).resolve_left h
  · obtain ⟨hmoved, hframe⟩ := compact_frame hu
    exact ⟨exec_compaction hu, hmoved, hframe, compact_holds hu⟩

end Sys2Proof.Machine
end

section
/-! ## O10. Waits that end -/

namespace Sys2Proof.Machine

variable {s : State} {r : Ref} {b : Block} {g : Grid} {w : Warp} {p : Path}

theorem opsDone_iff {ops : List Nat} :
    s.opsDone ops = true ↔ ∀ o ∈ ops, (∀ x ∈ s.groups, x.op ≠ o) ∧ ∀ m ∈ s.fetches, m.id ≠ o := by
  simp [State.opsDone]

theorem statusDone_iff {ops : List Nat} :
    s.statusDone ops = true ↔ ∀ o ∈ ops, ∀ x ∈ s.copies, x.op = o → x.gcm = none ∨ x.data ≠ none := by
  simp only [State.statusDone, List.all_eq_true, Bool.not_eq_true', List.any_eq_false, Bool.and_eq_true, beq_iff_eq,
    and_assoc, not_and, Option.isSome_iff_ne_none, Option.isNone_iff_eq_none]
  exact forall₅_congr fun o _ x _ _ => by rw [imp_iff_not_or, not_not]

/-- The completion time that a fence beyond the chip waits for (10_ordering.md:R221, R230). -/
theorem wctOf_eq (w : Warp) (scope : Nat) :
    w.wctOf scope = if scope = 1 then w.wctc else tmax (if scope = 2 then w.wctp else w.wcts) w.lct := by
  unfold Warp.wctOf
  split
  · rfl
  · split <;> rfl

/-- WHETHER A PARKED WAIT MAY END NOW (10_ordering.md:R221, R230, R231): a fence of the core for the status words it waits for, a wider
fence and a drain for operations and a time, a barrier wait for the phase and its completion time. -/
theorem waitPassed_iff (s : State) (w : Warp) (b : Block) (scr : Nat) :
    (∀ ops, (s.fencePassed w (.fence 0 ops) || s.tbPassed b scr (.fence 0 ops)) = true ↔ s.statusDone ops = true) ∧
    (∀ scope ops, scope ≠ 0 → ((s.fencePassed w (.fence scope ops) || s.tbPassed b scr (.fence scope ops)) = true ↔
      s.opsDone ops = true ∧ (w.wctOf scope).toNat < s.time.toNat)) ∧
    (∀ kind ops c, (s.fencePassed w (.drain kind ops c) || s.tbPassed b scr (.drain kind ops c)) = true ↔
      s.opsDone ops = true ∧ (kind = 1 ∨ (tmax c (w.wctOf 2)).toNat < s.time.toNat)) ∧
    (∀ t ph l, (s.fencePassed w (.tbwait t ph (some l)) || s.tbPassed b scr (.tbwait t ph (some l))) = true ↔
      l.toNat < s.time.toNat) ∧
    ∀ t ph, (s.fencePassed w (.tbwait t ph none) || s.tbPassed b scr (.tbwait t ph none)) = true ↔
      (b.tbar scr t).ph ≠ ph ∧ (b.tbar scr t).lct.toNat < s.time.toNat := by
  refine ⟨fun ops => ?_, fun scope ops hscope => ?_, fun kind ops c => ?_, fun t ph l => ?_, fun t ph => ?_⟩
  · simp [State.fencePassed, State.tbPassed]
  · obtain ⟨n, rfl⟩ := Nat.exists_eq_succ_of_ne_zero hscope
    simp [State.fencePassed, State.tbPassed]
  · simp [State.fencePassed, State.tbPassed]
  · simp [State.fencePassed, State.tbPassed]
  · simp [State.fencePassed, State.tbPassed]

/-- A wait of a warp that runs ends once it may; a warp that is held or has trapped judges afresh as it resumes (20_isa_system.md:R361). -/
theorem exec_waitTimePassed (hb : s.block? r.lsq r.tkt = some b) (hg : s.grid? r.lsq = some g) (hw : b.refWarp? r = some w)
    (hp : w.path? r.lane = some p) :
    let ends := w.stopped = false ∧ (s.fencePassed w p.park || s.tbPassed b g.rec_.scr p.park) = true
    (ends → Goes (.waitTimePassed r) s (s.updRef r (fun w => w.parkAt r.lane (.released true 0)))) ∧
    (¬ ends → Goes (.waitTimePassed r) s s) := by
  have he : exec (.waitTimePassed r) s = execWaitTimePassed r s := rfl
  rw [execWaitTimePassed, hb, hg] at he
  dsimp only at he
  rw [hw] at he
  dsimp only at he
  rw [hp] at he
  dsimp only at he
  simp only [Bool.and_eq_true, Bool.not_eq_true'] at he
  exact ⟨fun h => by rwa [if_pos h] at he, fun h => by rwa [if_neg h] at he⟩

theorem awakeAt_eq (hw : s.warpAt r = some w) (hp : w.path? r.lane = some p) :
    (s.awakeAt r).map Path.park = if w.stopped = true then none else some p.park := by
  unfold State.warpAt at hw
  unfold State.awakeAt
  rw [hw]
  dsimp only
  split <;> simp [hp]

/-- A `waitw` whose deadline has passed ends with what it finds (11_isa_memory.md:R259), in a warp that runs. -/
theorem exec_waitwDeadline {sys : Bool} {pa cond : Nat} {cmp d : DWord} (hw : s.warpAt r = some w) (hp : w.path? r.lane = some p)
    (hk : p.park = .waitw sys pa cond cmp (some d)) :
    (w.stopped = false → d.toNat < s.time.toNat → Goes (.waitwDeadline r) s ((s.noteSys sys pa).updRef r (fun w =>
      w.parkAt r.lane (.released (waitwHolds cond (BitVec.ofNat 64 (s.mem.nat sys pa 8)) cmp) 0)))) ∧
    (w.stopped = true ∨ ¬ d.toNat < s.time.toNat → Goes (.waitwDeadline r) s s) := by
  have he : exec (.waitwDeadline r) s = execWaitwDeadline r s := rfl
  rw [execWaitwDeadline, awakeAt_eq hw hp] at he
  by_cases hs : w.stopped = true
  · rw [if_pos hs] at he
    exact ⟨fun h => absurd hs (by simp [h]), fun _ => he⟩
  · rw [if_neg hs, hk] at he
    dsimp only at he
    exact ⟨fun _ h => by rwa [if_pos h] at he, fun h => by rwa [if_neg (h.resolve_left hs)] at he⟩

/-- A `qwait` whose deadline has passed ends with what it finds (20_isa_system.md:R372), in a warp that runs. -/
theorem exec_qwaitDeadline {osq : Bool} {a d : DWord} {x : Nat × Bool} (hw : s.warpAt r = some w) (hp : w.path? r.lane = some p)
    (hk : p.park = .qwait osq a (some d)) (hx : s.qwaitEnd osq a.toNat (some d) = some x) :
    (w.stopped = false → d.toNat < s.time.toNat → Goes (.qwaitDeadline r) s
      (s.updRef r (fun w => w.parkAt r.lane (.released x.2 (BitVec.ofNat 64 x.1))))) ∧
    (w.stopped = true ∨ ¬ d.toNat < s.time.toNat → Goes (.qwaitDeadline r) s s) := by
  have he : exec (.qwaitDeadline r) s = execQwaitDeadline r s := rfl
  have hpast : (!s.past (some d)) = true ↔ ¬ d.toNat < s.time.toNat := by simp [State.past]
  rw [execQwaitDeadline, awakeAt_eq hw hp] at he
  by_cases hs : w.stopped = true
  · rw [if_pos hs] at he
    exact ⟨fun h => absurd hs (by simp [h]), fun _ => he⟩
  · rw [if_neg hs, hk] at he
    dsimp only at he
    rw [hx] at he
    exact ⟨fun _ h => by rwa [if_neg (mt hpast.1 (not_not.2 h))] at he,
      fun h => by rwa [if_pos (hpast.2 (h.resolve_left hs))] at he⟩

/-- Settles O10: a wait ends exactly when `State.fencePassed` or `State.tbPassed` lets it, which `waitPassed_iff` says park by park; a
deadline is judged on the path of a warp that runs (`awakeAt_eq`). -/
theorem waitsEnd : Obligations.WaitsEnd := by
  intro s r release done told past
  refine ⟨fun b g w p hb hg hw hp => ?_, fun w p sys pa cond cmp d hw hp hk => exec_waitwDeadline hw hp hk,
    fun w p osq a d x hw hp hk hx => exec_qwaitDeadline hw hp hk hx, rfl⟩
  intro ended
  obtain ⟨hcore, hfence, hdrain, hobserved, hfresh⟩ := waitPassed_iff s w b g.rec_.scr
  have hended : ended ↔ w.stopped = false ∧ (s.fencePassed w p.park || s.tbPassed b g.rec_.scr p.park) = true := by
    refine and_congr_right fun _ => ?_
    cases p.park with
    | fence scope ops =>
      dsimp only
      by_cases h0 : scope = 0
      · subst h0
        rw [if_pos rfl, hcore, statusDone_iff]
      · rw [if_neg h0, hfence scope ops h0, opsDone_iff, wctOf_eq]
    | drain kind ops c =>
      rw [hdrain, opsDone_iff]
      rfl
    | tbwait t ph l =>
      cases l with
      | some l => exact (hobserved t ph l).symm
      | none => exact (hfresh t ph).symm
    | _ => exact iff_of_false id (by simp [State.fencePassed, State.tbPassed])
  rw [hended]
  exact exec_waitTimePassed hb hg hw hp

end Sys2Proof.Machine
end

section
/-! ## A pending store at its home -/

namespace Sys2Proof.Machine

variable {s : State}

section
variable (core : Option Nat) (sys : Bool) (pa : Nat) (data : List Byte) (mark : Bool)

@[simp] theorem State.homeStore_time : (s.homeStore core sys pa data mark).time = s.time := by
  obtain ⟨_, _, _, _, _, h⟩ := s.homeStore_frame core sys pa data mark; rw [h]
@[simp] theorem State.homeStore_groups : (s.homeStore core sys pa data mark).groups = s.groups := by
  obtain ⟨_, _, _, _, _, h⟩ := s.homeStore_frame core sys pa data mark; rw [h]
@[simp] theorem State.homeStore_homeOps : (s.homeStore core sys pa data mark).homeOps = s.homeOps := by
  obtain ⟨_, _, _, _, _, h⟩ := s.homeStore_frame core sys pa data mark; rw [h]
@[simp] theorem State.homeStore_replies : (s.homeStore core sys pa data mark).replies = s.replies := by
  obtain ⟨_, _, _, _, _, h⟩ := s.homeStore_frame core sys pa data mark; rw [h]
@[simp] theorem State.homeStore_nextId : (s.homeStore core sys pa data mark).nextId = s.nextId := by
  obtain ⟨_, _, _, _, _, h⟩ := s.homeStore_frame core sys pa data mark; rw [h]

@[simp] theorem State.homeStore_lmax : (s.homeStore core sys pa data mark).mem.lmax = s.mem.lmax := by
  obtain ⟨_, _, h⟩ := s.homeStore_mem core sys pa data mark
  rw [h]
  exact Memory.write_lmax ..

end

@[simp] theorem Memory.clean_lmax (m : Memory) (core : Nat) (sys : Bool) (ks : List Nat) : (m.clean core sys ks).lmax = m.lmax := by
  cases sys <;> rfl

variable (h : HomeOp)

@[simp] theorem State.performHome_homeOps : (s.performHome h).homeOps = s.homeOps.filter (fun x => x.id != h.id) :=
  State.homeStore_homeOps ..
@[simp] theorem State.performHome_groups : (s.performHome h).groups = s.groups := State.homeStore_groups ..

/-- Every byte after a pending store has been performed (10_ordering.md:R213). -/
theorem State.performHome_byte (sys : Bool) (a : Nat) : (s.performHome h).mem.byte sys a =
    if sys = h.sys ∧ h.pa ≤ a ∧ a < h.pa + h.data.length then h.data.getD (a - h.pa) 0 else s.mem.byte sys a := by
  simp [State.performHome, State.byte_homeStore, Memory.byte_write]

/-- The reply of a home to a pending store, with its completion times (10_ordering.md:R218). -/
theorem State.performHome_replies : (s.performHome h).replies = s.replies ++
    [{ id := s.nextId, op := h.op, chip := !h.sys, cchip := tmax s.time (s.mem.lmaxOf h.sys h.pa)
       cpod := tmax s.time (s.mem.lmaxOf h.sys h.pa) + 40
       csys := if h.sys then s.time else tmax s.time (s.mem.lmaxOf h.sys h.pa) + 40
       link := s.mem.linked h.sys h.pa h.data.length }] := by
  simp [State.performHome, State.pushReply, State.queueReply, State.completion, State.coverDone, Memory.lmaxOf]

end Sys2Proof.Machine
end

section
/-! ## O11. Homes, replies and counters -/

namespace Sys2Proof.Machine

variable {s : State} {op : Nat}

/-- A home performs the first pending store of an operation (11_isa_memory.md:R239). -/
theorem exec_homePerformsAccess {h : HomeOp} (hid : s.homeOps.find? (fun x => x.id == op) = some h)
    (hfirst : s.homeOps.find? (fun x => x.op == h.op) = some h) : Goes (.homePerformsAccess op) s (s.performHome h) := by
  have he : exec (.homePerformsAccess op) s = execHomePerformsAccess op s := rfl
  rw [execHomePerformsAccess, hid] at he
  dsimp only at he
  rw [hfirst] at he
  dsimp only at he
  rwa [if_pos rfl] at he

/-- A reply that arrives counts for its operation (10_ordering.md:R218, R219). -/
theorem exec_completionReplyArrives {r : Reply} (hr : s.replies.find? (fun x => x.id == op) = some r) (told : Option RemoteReply) :
    let csys := if r.link then tmax r.csys (match told with | some x => x.csys | none => s.time) else r.csys
    Goes (.completionReplyArrives op told) s
      (({ s with replies := s.replies.filter (fun x => x.id != op) } : State).groupReply r.op r.chip r.cchip r.cpod csys) := by
  have he : exec (.completionReplyArrives op told) s = execCompletionReplyArrives op told s := rfl
  unfold execCompletionReplyArrives at he
  rw [hr] at he
  cases told <;> exact he

/-- The warp that a reference names, after an update of all warps that keeps their indices. -/
theorem warpAt_mapWarps (r : Ref) (f : Warp → Warp) (h : ∀ w, (f w).idx = w.idx) :
    (s.mapWarps f).warpAt r = (s.warpAt r).map f := by
  have hblock : (s.mapWarps f).block? r.lsq r.tkt = (s.block? r.lsq r.tkt).map (fun b =>
      { b with warps := b.warps.map f, handler := b.handler.map (fun a => { a with warp := f a.warp }) }) := by
    simp only [State.mapWarps, State.block?, List.find?_map]
    rfl
  unfold State.warpAt
  rw [hblock]
  cases s.block? r.lsq r.tkt with
  | none => rfl
  | some b =>
    simp only [Option.map_some, Option.bind_some, Block.refWarp?, Block.warp?]
    split
    · cases b.handler <;> rfl
    · rw [List.find?_map]
      simp only [Function.comp_def, h]

/-- The counters and times of an operation's warp after an update of the warp that keeps its index. -/
theorem timesAt_updOpWarp {g : OpGroup} {f : Warp → Warp}
    {after : List Nat × DWord × DWord × DWord → List Nat × DWord × DWord × DWord}
    (hidx : ∀ w, (f w).idx = w.idx)
    (hf : ∀ w, ((f w).cnt, (f w).wctc, (f w).wctp, (f w).wcts) = after (w.cnt, w.wctc, w.wctp, w.wcts)) :
    (s.updOpWarp g f).timesAt g.owner = (s.timesAt g.owner).map after := by
  rw [State.timesAt, State.timesAt, Option.map_map]
  refine (congrArg _ (warpAt_updRef s g.owner f hidx)).trans ?_
  rw [Option.map_map]
  exact congrArg₂ Option.map (funext hf) rfl

/-- The Cpod that an outgoing path keeps is no part of a warp's counters and times (10_ordering.md:R231). -/
@[simp] theorem timesAt_notePath (g : OpGroup) (r : Ref) : (s.notePath g).timesAt r = s.timesAt r := by
  unfold State.notePath
  split
  · rfl
  · rw [State.timesAt, State.mapPaths, warpAt_mapWarps, Option.map_map]
    · rfl
    · exact fun _ => rfl

@[simp] theorem notePath_groups (g : OpGroup) : (s.notePath g).groups = s.groups := by
  unfold State.notePath
  split <;> rfl

theorem lower_idx (w : Warp) (n : Option Nat) : (w.lower n).idx = w.idx := by cases n <;> rfl

/-- A reply to an operation (10_ordering.md:R219; 03_encoding.md:R62): with the last part the operation is over and its counter falls,
otherwise one part less is outstanding. -/
theorem groupReply_cases {chip : Bool} {c p y : DWord} {g : OpGroup} (hg : s.groups.find? (fun x => x.op == op) = some g) :
    let part := fun x : OpGroup => { x with left := x.left - 1, cpod := tmax x.cpod p }
    let t := ({ s with groups := updIf (fun x => x.op == op) part s.groups } : State).updOpWarp g (fun w => w.complete chip c p y)
    (g.left ≤ 1 → s.groupReply op chip c p y =
      (({ t with groups := t.groups.filter (fun x => x.op != op) } : State).updOpWarp (part g) (fun w => w.lower g.ctr)).notePath
        (part g)) ∧
    (1 < g.left → s.groupReply op chip c p y = t) := by
  intro part t
  have hop : g.op = op := by simpa using List.find?_some hg
  have hfind : t.groups.find? (fun x => x.op == op) = some (part g) := by
    refine (find_updIf (fun x => x.op == op) (fun x => x.op == op) part s.groups (fun _ => rfl)).trans ?_
    rw [hg, Option.map_some, if_pos (beq_iff_eq.2 hop)]
  have he : s.groupReply op chip c p y = t.closeGroup op := by
    rw [State.groupReply, hg]
  rw [State.closeGroup, hfind] at he
  dsimp only at he
  refine ⟨fun h => ?_, fun h => ?_⟩
  · rwa [if_pos (show (part g).left = 0 by simp only [part]; omega)] at he
  · rwa [if_neg (show (part g).left ≠ 0 by simp only [part]; omega)] at he

/-- What a reply does to the counters and times of its warp (10_ordering.md:R219; 03_encoding.md:R62). -/
theorem groupReply_timesAt {chip : Bool} {c p y : DWord} {g : OpGroup} (hg : s.groups.find? (fun x => x.op == op) = some g) :
    (s.groupReply op chip c p y).timesAt g.owner = (s.timesAt g.owner).map (fun x =>
      (match g.ctr with | some n => if g.left ≤ 1 then updAt x.1 n (· - 1) else x.1 | none => x.1,
       if chip then tmax x.2.1 c else x.2.1, tmax x.2.2.1 p, tmax x.2.2.2 y)) := by
  obtain ⟨hlast, hmore⟩ := groupReply_cases (chip := chip) (c := c) (p := p) (y := y) hg
  have hcomplete : ∀ t : State, (t.updOpWarp g (fun w => w.complete chip c p y)).timesAt g.owner = (t.timesAt g.owner).map
      (fun x => (x.1, if chip then tmax x.2.1 c else x.2.1, tmax x.2.2.1 p, tmax x.2.2.2 y)) :=
    fun t => timesAt_updOpWarp (fun _ => rfl) (fun _ => rfl)
  have hlower : ∀ (t : State) (k : OpGroup), k.owner = g.owner → (t.updOpWarp k (fun w => w.lower g.ctr)).timesAt g.owner =
      (t.timesAt g.owner).map (fun x => (match g.ctr with | some n => updAt x.1 n (· - 1) | none => x.1, x.2)) :=
    fun t k hk => hk ▸ timesAt_updOpWarp (fun w => lower_idx w g.ctr) (fun w => by cases g.ctr <;> rfl)
  by_cases hl : g.left ≤ 1
  · rw [hlast hl, timesAt_notePath]
    refine (hlower _ _ rfl).trans ((congrArg _ (hcomplete _)).trans ?_)
    rw [Option.map_map]
    refine congrArg₂ Option.map (funext fun x => ?_) rfl
    cases g.ctr <;> simp [hl]
  · rw [hmore (Nat.lt_of_not_le hl), hcomplete]
    refine congrArg₂ Option.map (funext fun x => ?_) rfl
    cases g.ctr <;> simp [hl]

/-- What a reply does to the operations under way: its own has one part less, or is over. -/
theorem groupReply_groups {chip : Bool} {c p y : DWord} {g : OpGroup} (hg : s.groups.find? (fun x => x.op == op) = some g)
    (hone : ∀ x ∈ s.groups, x.op = op → x = g) (x : OpGroup) : x ∈ (s.groupReply op chip c p y).groups ↔
      (x ∈ s.groups ∧ x.op ≠ op) ∨ (1 < g.left ∧ x = { g with left := g.left - 1, cpod := tmax g.cpod p }) := by
  have hop : g.op = op := by simpa using List.find?_some hg
  obtain ⟨hlast, hmore⟩ := groupReply_cases (chip := chip) (c := c) (p := p) (y := y) hg
  by_cases hl : g.left ≤ 1
  · rw [hlast hl]
    simp only [notePath_groups, updOpWarp_groups, List.mem_filter, mem_updIf, bne_iff_ne, hl.not_gt, false_and, or_false]
    constructor
    · rintro ⟨⟨z, hz, rfl⟩, hne⟩
      split at hne
      next h => exact absurd (eq_of_beq h) hne
      next h => rw [if_neg h]; exact ⟨hz, hne⟩
    · rintro ⟨hx, hne⟩
      exact ⟨⟨x, hx, if_neg (by simpa using hne)⟩, hne⟩
  · rw [hmore (Nat.lt_of_not_le hl)]
    simp only [updOpWarp_groups, mem_updIf, Nat.lt_of_not_le hl, true_and]
    constructor
    · rintro ⟨z, hz, rfl⟩
      by_cases h : z.op = op
      · rw [if_pos (beq_iff_eq.2 h), hone z hz h]
        exact .inr rfl
      · rw [if_neg (by simpa using h)]
        exact .inl ⟨hz, h⟩
    · rintro (⟨hx, hne⟩ | rfl)
      · exact ⟨x, hx, if_neg (by simpa using hne)⟩
      · exact ⟨g, List.mem_of_find?_eq_some hg, if_pos (beq_iff_eq.2 hop)⟩

end Sys2Proof.Machine
end

section
/-! ## O11. Results of remote atomics, walks and invalidations -/

namespace Sys2Proof.Machine

variable {s : State} {op : Nat}

/-- The result registers of a remote atomic land together once every lane's reply has come, or its path traps (03_encoding.md:R83;
11_isa_memory.md:R239). -/
theorem exec_registerWriteLands {o : RemoteOp} {d : Opnd} (ho : (s.rops.filter (fun x => x.grp == op)).head? = some o)
    (hd : o.dst = some d) :
    let os := s.rops.filter (fun x => x.grp == op)
    let t := ({ s with rops := s.rops.filter (fun x => x.grp != op) } : State).updRef o.src (fun w =>
      { w with busy := w.busy.filter (· != op) })
    let bad := os.filter (fun x => match x.result with | some v => v.2 | none => false)
    let val := fun l => match (os.find? (fun x => x.lane == l)).bind RemoteOp.result with | some v => v.1.toNat | none => 0
    let n := match o.kind with | .atom _ ty _ _ _ => atomBytes ty / 4 | _ => 1
    ((∃ x ∈ os, x.result = none) → Goes (.registerWriteLands op) s s) ∧
    ((∀ x ∈ os, x.result ≠ none) → bad = [] → Goes (.registerWriteLands op) s
      (t.updRef o.src (fun w => (w.put n d (os.map RemoteOp.lane) val).advance o.src.lane))) ∧
    (∀ x, (∀ y ∈ os, y.result ≠ none) → bad.head? = some x → Goes (.registerWriteLands op) s
      (t.takeTrap o.src { cause := 5, mask := maskOf (bad.map RemoteOp.lane), addr := podGlobal x.target x.off.toNat })) := by
  intro os t bad val n
  have he : exec (.registerWriteLands op) s = execRegisterWriteLands op s := rfl
  obtain ⟨rest, hos⟩ : ∃ rest, os = o :: rest := List.head?_eq_some_iff.1 ho
  unfold execRegisterWriteLands at he
  rw [show s.rops.filter (fun x => x.grp == op) = o :: rest from hos] at he
  dsimp only at he
  rw [hd] at he
  dsimp only at he
  rw [← hos] at he
  have hmissing : os.any (fun x => x.result.isNone) = true ↔ ∃ x ∈ os, x.result = none := by simp
  have hall : (∀ x ∈ os, x.result ≠ none) → ¬ os.any (fun x => x.result.isNone) = true :=
    fun h hc => (hmissing.1 hc).elim fun x hx => h x hx.1 hx.2
  refine ⟨fun h => ?_, fun h hbad => ?_, fun x h hbad => ?_⟩
  · rwa [if_pos (hmissing.2 h)] at he
  all_goals
    rw [if_neg (hall h)] at he
    generalize hl : List.filter _ os = l at he
    rw [show l = bad from hl.symm] at he
  · rw [hbad] at he
    exact he
  · obtain ⟨more, hmore⟩ : ∃ more, bad = x :: more := List.head?_eq_some_iff.1 hbad
    rw [hmore] at he ⊢
    exact he

/-- A fill of the TLB changes the TLB alone. -/
theorem State.fillTlb_frame (s : State) (ctx va : Nat) : s.fillTlb ctx va =
    { s with mem := { s.mem with tlb := (s.fillTlb ctx va).mem.tlb } } := by
  unfold State.fillTlb
  split
  · rfl
  · split <;> rfl

/-- What a lookup finds is an entry of the TLB that holds the address, or what its walk gives (16_isolation.md:R301). -/
theorem lookup_entry {ctx va : Nat} {e : TlbEnt} (h : s.lookup ctx va = .ok e) : e.ctx = ctx ∧ e.page = va / 2 ^ e.bits := by
  unfold State.lookup at h
  split at h
  next t ht =>
    cases h
    simpa using List.find?_some ht
  next =>
    dsimp only at h
    split at h
    · cases h
    · cases h
      exact ⟨rfl, rfl⟩

/-- A walk that succeeds leaves an entry for its address, and one that fails leaves the TLB (16_isolation.md:R304). -/
theorem fillTlb_lookup {ctx va : Nat} :
    (∀ e, s.lookup ctx va = .ok e → ∃ x ∈ (s.fillTlb ctx va).mem.tlb, x.ctx = ctx ∧ x.page = va / 2 ^ x.bits) ∧
    (∀ k, s.lookup ctx va = .error k → s.fillTlb ctx va = s) := by
  unfold State.fillTlb
  split
  next h =>
    obtain ⟨x, hx, hent⟩ := List.any_eq_true.1 h
    exact ⟨fun _ _ => ⟨x, hx, by simpa using hent⟩, fun _ _ => rfl⟩
  next h =>
    refine ⟨fun e he => ?_, fun k hk => by rw [hk]⟩
    rw [he]
    exact ⟨e, List.mem_append_right _ (List.mem_singleton_self e), lookup_entry he⟩

theorem exec_pageWalkComplete {ctx : Nat} {va : BitVec 64} (hva : va.toNat < 2 ^ 56) (hctx : (s.ctxDesc ctx).getLsbD 64 = true) :
    Goes (.pageWalkComplete ctx va) s (s.fillTlb ctx va.toNat) := if_pos ⟨hva, hctx⟩

@[simp] theorem dropFor_ctxs (ctx va units : Nat) : (s.dropFor ctx va units).ctxs = s.ctxs := by
  unfold State.dropFor
  split <;> rfl

/-- An invalidation completes once the operations that it waits for are done (16_isolation.md:R305); a command's ends the command,
and the context that it destroys is gone. -/
theorem exec_invalidationComplete {v : InvalOp} (hv : s.invals.find? (fun x => x.op == op) = some v) :
    let t := ({ s with invals := s.invals.filter (fun x => x.op != op) } : State).dropFor v.ctx v.va.toNat v.units
    (s.invalDone v = false → Goes (.invalidationComplete op) s s) ∧
    (∀ g, s.invalDone v = true → v.group = some g → Goes (.invalidationComplete op) s (t.groupDone g)) ∧
    (s.invalDone v = true → v.group = none → Goes (.invalidationComplete op) s
      ((if (s.ctxDesc v.ctx).getLsbD 64 = true then t else t.updCtx v.ctx CtxEnt.gone).complete 0 0)) := by
  intro t
  have hdesc : t.ctxDesc v.ctx = s.ctxDesc v.ctx := congrArg (fun l => (nth l v.ctx CtxEnt.absent).desc) (dropFor_ctxs ..)
  have he : exec (.invalidationComplete op) s = execInvalidationComplete op s := rfl
  rw [execInvalidationComplete, hv] at he
  dsimp only at he
  refine ⟨fun h => ?_, fun g h hg => ?_, fun h hg => ?_⟩
  · rwa [h] at he
  · rw [h, hg] at he
    exact he
  · rw [h, hg] at he
    rw [← hdesc]
    exact he

/-- Settles O11: a pending store is performed with its reply (`State.performHome_byte`, `State.performHome_replies`); a reply raises its
warp's times and, with the last part, lowers its counter (`groupReply_timesAt`). -/
theorem accessesLand : Obligations.AccessesLand := by
  refine ⟨fun s op h hid hfirst => ?_, fun s op r hr told => exec_completionReplyArrives hr told,
    fun s op chip c p y g hg hone => ⟨groupReply_timesAt hg, groupReply_groups hg hone, State.groupReply_mem ..⟩,
    fun s op o d ho hd => exec_registerWriteLands ho hd, fun s ctx va hva hctx => ?_, fun s op v hv => ?_⟩
  · intro c
    have hop : h.id = op := by simpa using List.find?_some hid
    exact ⟨_, exec_homePerformsAccess hid hfirst, State.performHome_byte h, hop ▸ State.performHome_homeOps h,
      State.performHome_groups h, State.performHome_replies h⟩
  · obtain ⟨hfills, hfails⟩ := fillTlb_lookup (s := s) (ctx := ctx) (va := va.toNat)
    exact ⟨_, exec_pageWalkComplete hva hctx, hfills, hfails, State.fillTlb_frame ..⟩
  · intro gone free t t'
    obtain ⟨hwaits, hgroup, hcommand⟩ := exec_invalidationComplete hv
    have hfree : s.invalDone v = true ↔ free := opsDone_iff
    refine ⟨fun h => hwaits (Bool.eq_false_iff.2 (mt hfree.1 h)), fun g h => hgroup g (hfree.2 h), fun h hg => ?_⟩
    have ht' : t' = if (s.ctxDesc v.ctx).getLsbD 64 = true then t else t.updCtx v.ctx CtxEnt.gone := by
      by_cases hd : (s.ctxDesc v.ctx).getLsbD 64 = true
      · rw [if_pos hd]
        exact if_neg (by simp only [gone, hd]; decide)
      · rw [if_neg hd]
        exact if_pos (by simp only [gone, Bool.not_eq_true']; exact Bool.eq_false_iff.2 hd)
    rw [ht']
    exact hcommand (hfree.2 h) hg

end Sys2Proof.Machine
end

section
/-! ## O13. Sectors of the copy engine -/

namespace Sys2Proof.Machine

variable {s : State} {op k : Nat} {o : CopyOp}

@[simp] theorem State.postEvent_time (s : State) (ctx typ code : Nat) (adr aux : DWord) (lsq tkt wrp mdl : Nat) :
    (s.postEvent ctx typ code adr aux lsq tkt wrp mdl).time = s.time :=
  State.postEvent_field (field := State.time) (log := by rintro _ ⟨_, _, rfl⟩; rfl) (ctxs := fun _ _ => rfl) (store := by simp) ..

/-- A report to a barrier takes no time. -/
@[simp] theorem State.report_time (s : State) (lsq tkt : Nat) (bar : Option Nat) (n : Nat) (f : SecFate) (cpod : Option DWord) :
    (s.report lsq tkt bar n f cpod).time = s.time := by
  unfold State.report
  split
  · split <;> simp
  · rfl

/-- A copy whose sectors an engine may perform: a confidential one has been judged (11_isa_memory.md:R250). -/
theorem copy_unjudged_iff : (o.gcm.isSome && o.data.isNone) = false ↔ o.gcm = none ∨ o.data ≠ none := by
  cases o.gcm <;> cases o.data <;> simp

/-- The engine performs a sector of a copy and counts it down, unless the warp's operations that come before it hold it
(10_ordering.md:R213, R228). -/
theorem exec_engineSectorReport (ho : s.copies.find? (fun o => o.op == op) = some o) (hk : k ∈ o.todo)
    (hd : o.gcm = none ∨ o.data ≠ none) :
    (s.copyWaits o = false → Goes (.engineSectorReport op k) s ((s.copySector o k).2.copyDone o k (s.copySector o k).1)) ∧
    (s.copyWaits o = true → Goes (.engineSectorReport op k) s s) := by
  have he : exec (.engineSectorReport op k) s = execEngineSectorReport op k s := rfl
  rw [execEngineSectorReport, ho] at he
  dsimp only at he
  rw [copy_unjudged_iff.2 hd, List.contains_iff_mem.2 hk] at he
  exact ⟨fun h => by rwa [h] at he, fun h => by rwa [h] at he⟩

/-- An uncorrectable error counts a sector down with `ERR` (10_ordering.md:R229). -/
theorem sectorError_copy (ho : s.copies.find? (fun o => o.op == op) = some o) (hk : k ∈ o.todo) (hd : o.gcm = none ∨ o.data ≠ none)
    (core : Nat) : s.sectorError op core k = s.copyDone o k { fate := .failed, cpod := some s.time, times := none } := by
  unfold State.sectorError
  rw [ho]
  dsimp only
  rw [copy_unjudged_iff.2 hd, List.contains_iff_mem.2 hk]
  rfl

/-- A sector that has been dealt with leaves its copy, and a copy with none left is over. -/
theorem copyDone_eq (ho : s.copies.find? (fun o => o.op == op) = some o) (u : State) (d : SecDone) :
    let cut := fun o : CopyOp => { o with todo := o.todo.filter (· != k) }
    u.copyDone o k d = ({ u with copies := (updIf (fun o : CopyOp => o.op == op) cut u.copies).filter (fun o => o.todo != []) } :
      State).sectorDone o.src o.bar op d := by
  have hop : o.op = op := by simpa using List.find?_some ho
  subst hop
  rfl

/-- A sector whose Csys the host link reports counts down in its group with that report (10_ordering.md:R218). -/
theorem sectorDone_times {src : Ref} {bar : Option Nat} {d : SecDone} {x : Bool × DWord × DWord × DWord} (hx : d.times = some x) :
    let u := s.report src.lsq src.tkt bar 1 d.fate d.cpod
    s.sectorDone src bar op d =
      if d.link then u.queueReply op true x.1 x.2.1 x.2.2.1 x.2.2.2 else u.groupReply op x.1 x.2.1 x.2.2.1 x.2.2.2 := by
  unfold State.sectorDone
  rw [hx]

/-- A sector lands in an allocation that is resident and admits its generation, and is dropped elsewhere (11_isa_memory.md:R252). -/
theorem engineScratch_cases {lsq tkt off : Nat} {gens : List Nat} {data : List Byte} {mark : Bool} {b : Block} {g : Grid}
    (hb : s.block? lsq tkt = some b) (hg : s.grid? lsq = some g) :
    let here := b.res = .resident ∧ (b.cores[off / g.rec_.scr]?).any (fun c => (gens[off / g.rec_.scr]?).any c.admits) = true
    (here → s.engineScratch lsq tkt gens off data mark =
      ({ fate := if mark then .poisoned else .landed, cpod := some s.time, times := none },
        s.updBlock lsq tkt (fun b => b.spWrite g.rec_.scr off data mark))) ∧
    (¬ here → s.engineScratch lsq tkt gens off data mark = ({ fate := .dropped, cpod := none, times := none }, s)) := by
  unfold State.engineScratch
  rw [hb, hg]
  exact ⟨fun h => if_pos h, fun h => if_neg h⟩

/-- An allocation admits the generation that it carries, or the one before while a save waits (18_recovery.md:R327). -/
theorem admits_iff {c : BlockCore} {n : Nat} : c.admits n = true ↔ n = (match c.old with | some k => k | none => c.gen) := by
  unfold BlockCore.admits
  rw [beq_iff_eq]
  cases c.old with
  | none => exact eq_comm
  | some _ => exact eq_comm

end Sys2Proof.Machine
end

section
/-! ## O13. The security engine -/

namespace Sys2Proof.Machine

variable {s : State} {op : Nat} {o : CopyOp} {p : GcmPar}

/-- The confidential copies of a path are judged in the order in which it issued them (11_isa_memory.md:R250). -/
theorem gcmFirst_iff : s.gcmFirst o = true ↔ ∀ x ∈ s.copies, x.gcm ≠ none → x.data = none → x.src.lsq = o.src.lsq →
    x.src.tkt = o.src.tkt → x.src.wrp = o.src.wrp → x.src.handler = o.src.handler → x.path &&& o.path ≠ 0 → o.op ≤ x.op := by
  simp only [State.gcmFirst, Ref.sameWarp, Bool.not_eq_true', List.any_eq_false, Bool.and_eq_true, not_and, and_imp,
    Option.isSome_iff_ne_none, Option.isNone_iff_eq_none, beq_iff_eq, bne_iff_ne, decide_eq_true_eq, Nat.not_lt]

/-- THE JUDGMENT OF A CONFIDENTIAL COPY, row by row (11_isa_memory.md:R250). -/
theorem gcmRow_cases (k : KeySlot) (ctx len : Nat) (p : GcmPar) (src : List Byte) (poison : Bool) :
    let own := k.bound = true ∧ k.ctx = ctx ∧ k.holds = true
    let fresh := k.mark.toNat < p.ctr.toNat
    let plain := gcmOpen (leBytes 32 k.key.toNat) (beBytes 4 p.fix.toNat ++ beBytes 8 p.ctr.toNat) (src.take len) (src.drop len)
    (¬ own → gcmRow k ctx p len src poison = (3, k.mark, none)) ∧
    (own → ¬ fresh → gcmRow k ctx p len src poison = (2, k.mark, none)) ∧
    (own → fresh → poison = true → gcmRow k ctx p len src poison = (1, p.ctr, none)) ∧
    (own → fresh → poison = false → src.length = len + 16 → plain = none → gcmRow k ctx p len src poison = (1, p.ctr, none)) ∧
    (∀ d, own → fresh → poison = false → src.length = len + 16 → plain = some d →
      gcmRow k ctx p len src poison = (0, p.ctr, some d)) := by
  intro own fresh plain
  have hown : (!k.bound || k.ctx != ctx || !k.holds) = false ↔ own := by simp [own, and_assoc]
  have hfresh : ¬ p.ctr.toNat ≤ k.mark.toNat ↔ fresh := Nat.not_le
  have hjudged : own → fresh → gcmRow k ctx p len src poison =
      (match (if poison || decide (src.length < len + 16) then none else plain) with
        | none => (1, p.ctr, none)
        | some d => (0, p.ctr, some d)) := fun h hf =>
    (if_neg (Bool.eq_false_iff.1 (hown.2 h))).trans (if_neg (hfresh.2 hf))
  refine ⟨fun h => ?_, fun h hf => ?_, fun h hf hp => ?_, fun h hf hp hl hd => ?_, fun d h hf hp hl hd => ?_⟩
  · rw [gcmRow, if_pos (Bool.eq_true_of_not_eq_false (mt hown.1 h))]
  · rw [gcmRow, if_neg (Bool.eq_false_iff.1 (hown.2 h)), if_pos (not_not.1 (mt hfresh.1 hf))]
  · rw [hjudged h hf, hp]
    rfl
  · rw [hjudged h hf, if_neg (by simp [hp, hl]), hd]
  · rw [hjudged h hf, if_neg (by simp [hp, hl]), hd]

/-- The security engine judges a copy by its slot, raises the mark, writes the status word, and lets the copy go on or counts its
sectors down (11_isa_memory.md:R250; 17_prog_copyin.md:R318). -/
theorem exec_gcmEngineJudge (ho : s.copies.find? (fun o => o.op == op) = some o) (hp : o.gcm = some p) (hd : o.data = none)
    (hfirst : s.gcmFirst o = true) :
    let x := s.engineRead o.src o.ctx o.from_ 0 (o.len + 16)
    let row := gcmRow (nth s.sec.slots p.ksl KeySlot.empty) o.ctx p o.len x.1 x.2.1
    let t := { x.2.2 with sec := { x.2.2.sec with slots := updAt x.2.2.sec.slots p.ksl (fun k => { k with mark := row.2.1 }) } }
    let u := (t.engineScratch o.src.lsq o.src.tkt o.gens (16 * p.sto) (leBytes 4 row.1) false).2
    (∀ d, row.2.2 = some d → Goes (.gcmEngineJudge op) s
      { u with copies := updIf (fun o : CopyOp => o.op == op) (fun o => { o with data := some d }) u.copies }) ∧
    (row.2.2 = none → Goes (.gcmEngineJudge op) s (o.todo.foldl (fun t _ =>
      t.sectorDone o.src o.bar op { fate := .failed, cpod := none, times := none })
      { u with copies := u.copies.filter (fun o => o.op != op) })) := by
  intro x row t u
  have he : exec (.gcmEngineJudge op) s = execGcmEngineJudge op s := rfl
  rw [execGcmEngineJudge, ho] at he
  dsimp only at he
  rw [hp] at he
  dsimp only at he
  rw [hd, hfirst] at he
  refine ⟨fun d h => ?_, fun h => ?_⟩
  · have he : exec (.gcmEngineJudge op) s = (match row.2.2 with | some _ => _ | none => _) := he
    rw [h] at he
    exact he
  · have he : exec (.gcmEngineJudge op) s = (match row.2.2 with | some _ => _ | none => _) := he
    rw [h] at he
    exact he

end Sys2Proof.Machine
end

section
/-! ## O13. Multicasts -/

namespace Sys2Proof.Machine

variable {s : State} {op core k : Nat} {o : CastOp} {t : CastTarget}

/-- A sector of a multicast reaches a target: dropped where the target is gone, otherwise written or failed, and counted down at both
ends (11_isa_memory.md:R251, R252). -/
theorem exec_mcastSectorArrival (ho : s.casts.find? (fun o => o.op == op) = some o)
    (ht : o.targets.find? (fun t => t.core == core) = some t) (hk : k ∈ t.todo) :
    let p := sectorPiece o.dst o.len k
    let x := s.engineRead o.src o.ctx o.from_ p.1 p.2
    Goes (.mcastSectorArrival op core k) s
      (x.2.2.castArrive o t k (if x.1.length < p.2 then none else some (x.1, x.2.1))) := by
  have he : exec (.mcastSectorArrival op core k) s = execMcastSectorArrival op core k s := rfl
  rw [execMcastSectorArrival, ho] at he
  dsimp only at he
  rw [ht] at he
  dsimp only at he
  rw [List.contains_iff_mem.2 hk] at he
  exact he

/-- A multicast with one sector less to come at a target. -/
def CastOp.cut (o : CastOp) (core k : Nat) : CastOp :=
  { o with targets := updIf (fun t : CastTarget => t.core == core) (fun t => { t with todo := t.todo.filter (· != k) }) o.targets }

/-- A state in which a sector of a multicast is dealt with at a target; a multicast with none left is over. -/
def State.castCut (s : State) (op core k : Nat) : State :=
  { s with
    casts := (updIf (fun o : CastOp => o.op == op) (fun o => o.cut core k) s.casts).filter
      (fun o => o.targets.any (fun t => t.todo != [])) }

/-- A sector of a multicast at a target that still takes it (11_isa_memory.md:R252): its fate, after its bytes are written where there
are any, is counted down at the receiver's barrier and the sender's. -/
def State.castTold (s : State) (o : CastOp) (b : Block) (g : Grid) (q : Nat) (fate : SecFate) (c : DWord) : State :=
  (s.report b.lsq b.tkt (o.rbar.map (· + q * g.rec_.scr)) 1 fate (some c)).sectorDone o.src o.bar o.op
    { fate := fate, cpod := some c, times := none }

/-- What becomes of a sector of a multicast, by where its target stands. -/
def State.castFate (s : State) (o : CastOp) (k : Nat) (data : Option (List Byte × Bool)) : Option (Block × Grid × Nat) → State
  | none => s.sectorDone o.src o.bar o.op { fate := .dropped, cpod := none, times := none }
  | some (b, g, q) =>
    match data with
    | none => s.castTold o b g q .failed s.time
    | some d => (s.updBlock b.lsq b.tkt (fun b => b.spWrite g.rec_.scr (q * g.rec_.scr + o.dst + (sectorPiece o.dst o.len k).1)
        d.1 d.2)).castTold o b g q (if d.2 then .poisoned else .landed) s.time

theorem castArrive_eq (s : State) (o : CastOp) (t : CastTarget) (k : Nat) (data : Option (List Byte × Bool)) :
    s.castArrive o t k data =
      (s.castCut o.op t.core k).castFate o k data ((s.castCut o.op t.core k).castHit o t) := by
  change (match (s.castCut o.op t.core k).castHit o t with | none => _ | some (_, _, _) => _) = _
  cases (s.castCut o.op t.core k).castHit o t with
  | none => rfl
  | some x =>
    cases data with
    | none =>
      simp only [State.castFate, State.castTold, State.report_time]
      rfl
    | some d =>
      simp only [State.castFate, State.castTold, State.report_time, updBlock_time]
      rfl

/-- Settles O13: the engine's sector (`exec_engineSectorReport`), the scratchpad's judgment of it (`engineScratch_cases`), the security
engine's judgment (`exec_gcmEngineJudge`, `gcmRow_cases`) and the arrival of a multicast (`castArrive_cases`). -/
theorem engineEvents : Obligations.EngineEvents := by
  refine ⟨fun s op k o ho hk hd => ?_, fun s lsq tkt off gens data mark b g hb hg => ?_,
    fun s op o p ho hp hd hfirst => exec_gcmEngineJudge ho hp hd hfirst, fun s o => gcmFirst_iff, gcmRow_cases,
    fun s op core k o t ho ht hk => ?_⟩
  · obtain ⟨hgoes, hwaits⟩ := exec_engineSectorReport ho hk hd
    refine ⟨fun h => ?_, hwaits, fun core => ?_, fun d x hx => sectorDone_times hx⟩
    · rw [← copyDone_eq ho]
      exact hgoes h
    · rw [sectorError_copy ho hk hd]
      exact copyDone_eq ho s _
  · obtain ⟨hlands, hdropped⟩ := engineScratch_cases (off := off) (gens := gens) (data := data) (mark := mark) hb hg
    intro here d
    have hhere : here ↔ b.res = .resident ∧
        (b.cores[off / g.rec_.scr]?).any (fun c => (gens[off / g.rec_.scr]?).any c.admits) = true := by
      simp only [here, Option.any_eq_true, admits_iff, exists_and_left] <;> rfl
    exact ⟨fun h => by simp only [d, hlands (hhere.1 h), and_self], fun h => by
      simp only [d, hdropped (mt hhere.2 h), and_self]⟩
  · have hop : o.op = op := by simpa using List.find?_some ho
    have hcore : t.core = core := by simpa using List.find?_some ht
    have harrives := exec_mcastSectorArrival ho ht hk
    subst hop hcore
    intro p x cut left u fate
    have harrives : Goes (.mcastSectorArrival o.op t.core k) s
        (x.2.2.castArrive o t k (if x.1.length < p.2 then none else some (x.1, x.2.1))) := harrives
    rw [castArrive_eq] at harrives
    change Goes _ s (u.castFate o k _ (u.castHit o t)) at harrives
    refine ⟨fun h => ?_, fun b g q h hlen => ?_, fun b g q h hlen => ?_⟩
    · rwa [h] at harrives
    · rwa [h, if_neg (by omega)] at harrives
    · rwa [h, if_pos hlen] at harrives

end Sys2Proof.Machine
end

section
/-! ## Words without room, and what a judgment of the detector leaves -/

namespace Sys2Proof.Machine

variable {s : State} {w : W} {i : Iss} {k : Iss → State → Res}

/-- An access without room stalls its warp (01_device.md:R12). -/
theorem withRoom_stalls {acc : Acc} {rs : List (Nat × Nat × Nat)} (h : ¬ HasRoom s i acc rs) :
    withRoom acc rs k i s = i.stall none s := by
  refine if_neg fun hc => h ?_
  simpa only [HasRoom, Bool.and_eq_true, Bool.not_eq_true', decide_eq_true_eq] using hc

/-- A long-latency word whose counter may not rise stalls its warp (02_state.md:R31). -/
theorem withCounter_stalls (h : ¬ i.warp.canRaise (i.counter w) = true) : withCounter w k i s = i.stall (i.counter w) s := if_neg h

/-- The detector notes accesses in the log of a grid alone (10_ordering.md:R234). -/
theorem Iss.detect_mem {kind : Nat} {ss : List (Nat × Nat × Nat)} {u : State} (h : i.detect kind ss s = .ok u) : u.mem = s.mem := by
  unfold Iss.detect at h
  split at h
  · cases h; rfl
  · split at h
    · cases h; rfl
    · simp only at h
      split at h
      · cases h
      · cases h; rfl

end Sys2Proof.Machine
end

section
/-! ## O51. What a load can change of memory -/

namespace Sys2Proof.Machine

variable {s t u : State}

/-- A state has come from another by performing stores that were pending there, and by changes that touch no byte: none is pending
that was not, and a byte outside them is as it was (10_ordering.md:R213). -/
def State.Performs (s t : State) : Prop :=
  (∀ h ∈ t.homeOps, h ∈ s.homeOps) ∧
    ∀ sys a, (∀ h ∈ s.homeOps, h.sys = sys → ¬ (h.pa ≤ a ∧ a < h.pa + h.data.length)) → t.mem.byte sys a = s.mem.byte sys a

theorem State.Performs.refl (s : State) : s.Performs s := ⟨fun _ => id, fun _ _ _ => rfl⟩

theorem State.Performs.trans (hst : s.Performs t) (htu : t.Performs u) : s.Performs u :=
  ⟨fun h hu => hst.1 h (htu.1 h hu), fun sys a hs =>
    (htu.2 sys a fun h ht => hs h (hst.1 h ht)).trans (hst.2 sys a hs)⟩

/-- Changes that touch no byte and no pending store. -/
theorem State.performs_of_eq (hops : t.homeOps = s.homeOps) (hbyte : ∀ sys a, t.mem.byte sys a = s.mem.byte sys a) : s.Performs t :=
  ⟨fun _ h => hops ▸ h, fun sys a _ => hbyte sys a⟩

theorem State.performs_foldl {α : Type} {f : State → α → State} (hf : ∀ (s : State) (a : α), s.Performs (f s a)) (l : List α)
    (s : State) :
    s.Performs (l.foldl f s) :=
  List.foldlRecOn l f (motive := s.Performs) (.refl s) fun t ht a _ => ht.trans (hf t a)

/-- A store that was pending is performed. -/
theorem State.Performs.performHome {h : HomeOp} (hst : s.Performs t) (hh : h ∈ s.homeOps) : s.Performs (t.performHome h) := by
  refine ⟨fun x hx => ?_, fun sys a hs => ?_⟩
  · rw [State.performHome_homeOps] at hx
    exact hst.1 x (List.mem_filter.1 hx).1
  · rw [State.performHome_byte, if_neg fun hc => hs h hh hc.1.symm hc.2]
    exact hst.2 sys a hs

theorem State.performs_flushOwn (s : State) (r : Ref) (x : Xlat) (len : Nat) : s.Performs (s.flushOwn r x len) :=
  List.foldlRecOn _ _ (motive := s.Performs) (.refl s) fun _ ht _ hh => ht.performHome (List.mem_filter.1 hh).1

theorem State.performs_fillTlb (s : State) (ctx va : Nat) : s.Performs (s.fillTlb ctx va) := by
  rw [s.fillTlb_frame ctx va]
  exact State.performs_of_eq rfl fun _ _ => rfl

theorem State.performs_fillRange (s : State) (ctx va len : Nat) : s.Performs (s.fillRange ctx va len) :=
  State.performs_foldl (fun s _ => s.performs_fillTlb ..) _ s

/-- A load of a line touches the copies of its core, the bound of the line's leases and the note of an access to host memory. -/
theorem State.performs_loadLine (s : State) (core ctx : Nat) (x : Xlat) (len : Nat) : s.Performs (s.loadLine core ctx x len).2.2 := by
  have hfill : s.Performs (s.fillLine core ctx x) := State.performs_of_eq rfl fun sys a => by
    unfold State.fillLine State.trimL1
    cases sys <;> dsimp only <;> split <;> rfl
  have hforget : s.Performs ((s.noteSys x.sys x.pa).forgetLines core x.sys x.pa len) := by
    unfold State.forgetLines State.noteSys
    refine State.performs_of_eq ?_ fun _ _ => ?_ <;> split <;> split <;> rfl
  unfold State.loadLine
  dsimp only
  split
  · split
    · exact .refl s
    · exact hfill
  · exact hforget

theorem State.performs_consume (s : State) (ctx : Nat) (ps : List (Xlat × Nat)) : s.Performs (s.consume ctx ps) := by
  obtain ⟨_, h⟩ := s.consume_log ctx ps
  rw [h]
  exact State.performs_of_eq rfl fun _ _ => rfl

theorem State.performs_loadRange (s : State) (r : Ref) (core ctx va len : Nat) : s.Performs (s.loadRange r core ctx va len).2.2 := by
  unfold State.loadRange
  extract_lets x
  have hx : s.Performs x.2.2 := List.foldlRecOn _ _
    (motive := fun y : List Byte × Bool × State => s.Performs y.2.2) (s.performs_fillRange ctx va len)
    fun y hy p _ => (hy.trans (State.performs_flushOwn ..)).trans (State.performs_loadLine ..)
  dsimp only
  split
  · exact hx.trans (State.performs_consume ..)
  · exact hx

/-- The loads of some lanes perform only stores that were pending (10_ordering.md:R213). -/
theorem State.performs_loadLanes (s : State) (i : Iss) (rs : List (Nat × Nat × Nat)) : s.Performs (s.loadLanes i rs).2.2 :=
  List.foldlRecOn _ _ (motive := fun y : List (Nat × List Byte) × Word × State => s.Performs y.2.2) (.refl s)
    fun _ hy _ _ => hy.trans (State.performs_loadRange ..)

end Sys2Proof.Machine
end

section
/-! ## O51. A range that lies in one line -/

namespace Sys2Proof.Machine

variable {s : State}

/-- A range inside one unit is one piece. -/
theorem splitRange_single {n a len : Nat} (hlen : 0 < len) (h : a % 2 ^ n + len ≤ 2 ^ n) : splitRange n a len = [(a, len)] := by
  have hmin : Nat.min len (2 ^ n - a % 2 ^ n) = len := Nat.min_eq_left (by omega)
  rw [splitRange, pieces, if_neg (by omega)]
  dsimp only
  rw [hmin, Nat.sub_self, pieces, if_pos rfl]

/-- With nothing pending there is nothing to perform before an access. -/
theorem State.flushOwn_nil (h : s.homeOps = []) (r : Ref) (x : Xlat) (len : Nat) : s.flushOwn r x len = s := by
  unfold State.flushOwn
  rw [h]
  rfl

/-- Filling the TLB changes the TLB alone (16_isolation.md:R304). -/
theorem State.fillRange_frame (s : State) (ctx va len : Nat) :
    ∃ l, s.fillRange ctx va len = { s with mem := { s.mem with tlb := l } } :=
  List.foldlRecOn _ _ (motive := fun t => ∃ l, t = { s with mem := { s.mem with tlb := l } }) ⟨_, rfl⟩ fun t ht c _ => by
    obtain ⟨l, rfl⟩ := ht
    exact ⟨_, State.fillTlb_frame ..⟩

/-- The bytes that a line gives do not depend on the TLB. -/
theorem State.loadLine_tlb (l : List TlbEnt) (core ctx : Nat) (x : Xlat) (len : Nat) :
    (({ s with mem := { s.mem with tlb := l } } : State).loadLine core ctx x len).1 = (s.loadLine core ctx x len).1 := by
  unfold State.loadLine
  dsimp only
  split
  · cases s.mem.l1.find? (fun c => c.core == core && c.line == x.pa / 128 && c.usable s.time) <;> rfl
  · rfl

/-- A range in one page and one line is one piece of memory. -/
theorem State.linePieces_single {ctx a k : Nat} {acc : Acc} {x : Xlat} (hk : 0 < k) (hx : s.translate ctx a acc = .ok x)
    (hpage : a % 65536 + k ≤ 65536) (hline : x.pa % 128 + k ≤ 128) : s.linePieces ctx a k acc = [(x, k)] := by
  have htrans : s.translateRange ctx a k acc = .ok [(x, k)] := by
    rw [State.translateRange, splitRange_single hk hpage, List.foldr_cons, List.foldr_nil, hx]
  rw [State.linePieces, htrans]
  dsimp only
  rw [List.flatMap_singleton, splitRange_single hk hline]
  rfl

/-- A load of a range in one line gives the bytes that its line gives (10_ordering.md:R213, R216). -/
theorem State.loadRange_single {r : Ref} {core ctx a k : Nat} {x : Xlat} (hops : s.homeOps = []) (hk : 0 < k)
    (hx : s.translate ctx a .load = .ok x) (hpage : a % 65536 + k ≤ 65536) (hline : x.pa % 128 + k ≤ 128) :
    (s.loadRange r core ctx a k).1 = (s.loadLine core ctx x k).1 := by
  obtain ⟨l, hl⟩ := s.fillRange_frame ctx a k
  rw [State.loadRange, State.linePieces_single hk hx hpage hline, hl]
  simp only [List.foldl_cons, List.foldl_nil, List.nil_append]
  rw [State.flushOwn_nil (by exact hops), State.loadLine_tlb]

end Sys2Proof.Machine
end

section
/-! ## O51. Load words -/

namespace Sys2Proof.Machine

variable {s : State} {w : W} {i : Iss}

/-- The size of a load's type, and whether it is sign-extended (11_isa_memory.md:R241). -/
theorem ldType_eq (m : Nat) : ldType m =
    (if m = 0 then 4 else if m = 1 then 8 else if m = 2 then 16 else if m ≤ 4 then 1 else 2, decide (m = 4 ∨ 6 ≤ m)) := by
  match m with
  | 0 => rfl
  | 1 => rfl
  | 2 => rfl
  | 3 => rfl
  | 4 => rfl
  | 5 => rfl
  | m + 6 => simp [ldType]

/-- A value of `wd` bits, read with its sign, wraps to itself. -/
theorem ofInt_readInt_signed (wd x : Nat) : BitVec.ofInt wd (readInt true wd x) = BitVec.ofNat wd x := by
  apply BitVec.eq_of_toNat_eq
  rw [BitVec.toNat_ofInt, BitVec.toNat_ofNat, readInt]
  have hpow : ((2 ^ wd : Nat) : Int) = 2 ^ wd := by push_cast; rfl
  have hwrap : ((x % 2 ^ wd : Nat) : Int) % ((2 ^ wd : Nat) : Int) = ((x % 2 ^ wd : Nat) : Int) := by
    rw [← Int.natCast_mod, Nat.mod_mod]
  split
  · rw [← hpow, Int.sub_emod_right, hwrap, Int.toNat_natCast]
  · rw [hwrap, Int.toNat_natCast]

/-- The value that a load writes: a narrow one is extended by its type (04_isa_core.md:R102). -/
theorem loadValue_eq (m : Nat) (d : List Byte) : loadValue m d = if m = 4 ∨ 6 ≤ m then
    ((BitVec.ofNat (8 * (ldType m).1) (leNat d)).signExtend 32).toNat else leNat d := by
  have hsize : m = 4 ∨ 6 ≤ m → 8 * (ldType m).1 ≤ 32 := fun h => by
    rw [ldType_eq]
    split_ifs <;> omega
  rw [loadValue]
  by_cases h : m = 4 ∨ 6 ≤ m
  · have hsigned : (ldType m).2 = true := by rw [ldType_eq]; exact decide_eq_true h
    rw [if_pos hsigned, if_pos h, extInt_eq (hsize h), ofInt_readInt_signed, if_pos rfl]
  · have hplain : (ldType m).2 = false := by rw [ldType_eq]; exact decide_eq_false h
    rw [hplain, if_neg Bool.false_ne_true, if_neg h]

/-- A load lands in D of its active lanes, and changes nothing else of the warp. -/
theorem landLoad_lands (w : W) (i : Iss) (d : Nat → List Byte) (wp : Warp) :
    RegWrite (ldWords w.mod.toNat) w.d i.lanes (fun l => loadValue w.mod.toNat (d l)) wp (landLoad w i d wp) ∧
      OnlyRegs wp (landLoad w i d wp) ∧ (landLoad w i d wp).p = wp.p ∧ (landLoad w i d wp).fenv = wp.fenv :=
  ⟨regWrite_put _ _ _ _ _ fun _ hl => lanesOf_lt hl, put_onlyRegs .., put_p .., put_fenv ..⟩

/-- `ldg` judges every lane's translation, waits for room, asks the detector, and loads (11_isa_memory.md:R239; 10_ordering.md:R234). -/
theorem exec_ldg (hi : Issues .ldg w s i) :
    let rs := loadRanges w i (i.globAddr w)
    (∀ t, s.laneFault i.ctx .load rs = some t → Traps (.ldg w) s i t) ∧
    (s.laneFault i.ctx .load rs = none → ¬ HasRoom s i .load rs → Stalls (.ldg w) s i none) ∧
    (s.laneFault i.ctx .load rs = none → HasRoom s i .load rs →
      (∀ t, i.detect 0 (s.detSectors i.ctx .load rs) s = .error t → Traps (.ldg w) s i t) ∧
      ∀ u, i.detect 0 (s.detSectors i.ctx .load rs) s = .ok u →
        let x := u.loadLanes i rs
        (x.2.1 = 0 → Completes (.ldg w) s i (x.2.2.updRef i.r (landLoad w i (laneBytes x.1)))) ∧
        (x.2.1 ≠ 0 → exec (.ldg w) s = .next
          { x.2.2.takeTrap i.r { cause := 5, mask := x.2.1, addr := rangeAddr rs x.2.1, access := 1 } with cur := none })) := by
  intro rs
  have he : exec (.ldg w) s = execLdg w s := rfl
  rw [execLdg, issueW_issues _ hi, globalLoad] at he
  refine ⟨fun t hf => ?_, fun hf hr => ?_, fun hf hr => ⟨fun t hd => ?_, fun u hd => ⟨fun hx => ?_, fun hx => ?_⟩⟩⟩
  · rw [hf] at he
    exact he
  · rw [hf] at he
    dsimp only at he
    rw [withRoom_stalls hr] at he
    exact stalls_of_stall he
  all_goals
    rw [hf] at he
    dsimp only at he
    rw [withRoom_room hr, hd] at he
    dsimp only at he
  · exact he
  · rw [if_neg (not_not.2 hx)] at he
    exact he
  · rw [if_pos hx] at he
    exact he

/-- `ldsp` refuses a range outside the allocation, asks the detector, and loads, or traps for the lanes that meet poison
(11_isa_memory.md:R238; 18_recovery.md:R324). -/
theorem exec_ldsp (hi : Issues .ldsp w s i) :
    let size := (ldType w.mod.toNat).1
    let rs := loadRanges w i (i.spAddr w)
    let inside := ∀ l ∈ i.lanes, i.spAddr w l + size ≤ i.blk.cores.length * i.scr
    let bad := maskBy i.act (fun l => i.blk.spPoisoned i.scr (i.spAddr w l) size)
    (¬ inside → Traps (.ldsp w) s i { cause := 3, mask := i.act }) ∧
    ∀ u, inside → i.detect 0 (i.detScratch rs) s = .ok u →
      (bad = 0 → Completes (.ldsp w) s i (u.updRef i.r (landLoad w i (laneBytes (rs.map
        (fun x => (x.1, i.blk.spRead i.scr x.2.1 x.2.2))))))) ∧
      (bad ≠ 0 → exec (.ldsp w) s = .next
        { u.takeTrap i.r { cause := 5, mask := bad, addr := rangeAddr rs bad } with cur := none }) := by
  intro size rs inside bad
  have he : exec (.ldsp w) s = execLdsp w s := rfl
  have hinside : (!rs.all (fun x => i.inScratch x.2.1 x.2.2)) = true ↔ ¬ inside := by
    simp [rs, loadRanges, Iss.inScratch, inside, size]
  have hbad : maskOf ((rs.filter (fun x => i.blk.spPoisoned i.scr x.2.1 x.2.2)).map Prod.fst) = bad := by
    simp only [rs, loadRanges, List.filter_map, List.map_map]
    exact congrArg maskOf (List.map_id _)
  rw [execLdsp, issueW_issues _ hi, scratchLoad] at he
  refine ⟨fun h => ?_, fun u h hd => ⟨fun hb => ?_, fun hb => ?_⟩⟩
  · rw [if_pos (hinside.2 h)] at he
    exact he
  all_goals
    rw [if_neg (mt hinside.1 (not_not.2 h)), hd] at he
    dsimp only at he
    rw [hbad] at he
  · rw [if_neg (not_not.2 hb)] at he
    exact he
  · rw [if_pos hb] at he
    exact he

/-- The bytes of a lane among lanes with bytes. -/
theorem laneBytes_map (f : Nat → List Byte) {ls : List Nat} {l : Nat} (hl : l ∈ ls) :
    laneBytes (ls.map (fun l => (l, f l))) l = f l := by
  induction ls with
  | nil => cases hl
  | cons k r ih =>
    rw [laneBytes, List.map_cons]
    by_cases h : k = l
    · rw [List.find?_cons_of_pos (by simpa using h), h]
      rfl
    · rw [List.find?_cons_of_neg (by simpa using h)]
      exact ih ((List.mem_cons.1 hl).resolve_left (Ne.symm h))

/-- Loads from both spaces (11_isa_memory.md:R238, R239, R241). -/
theorem loads : Claims.Loads := by
  intro s w i m n size value ga sa rs inside poisoned lands
  have hsize : (ldType m).1 = size := by rw [ldType_eq]
  have hvalue : ∀ d, loadValue m d = value d := fun d => by rw [loadValue_eq, hsize]
  have hrs : loadRanges w i (i.globAddr w) = rs := by
    unfold loadRanges
    rw [hsize]
    rfl
  have hss : loadRanges w i (i.spAddr w) = i.lanes.map (fun l => (l, sa l, size)) := by
    unfold loadRanges
    rw [hsize]
    rfl
  have hlands : ∀ d, lands (landLoad w i d) d := fun d wp => by
    obtain ⟨hreg, hrest⟩ := landLoad_lands w i d wp
    exact ⟨hreg.congr_val fun l _ => by rw [hvalue], hrest⟩
  refine ⟨fun t hi hf => ?_, fun hi hf hr => ?_, fun t hi hf hr hd => ?_, fun u hi hf hr hd => ?_,
    fun u l a k x hops hk hx hpage hline => ?_, fun hi hin => ?_, fun u hi hin hp hd => ?_, fun u hi hin hp hd => ?_⟩
  · exact (exec_ldg hi).1 t (hrs ▸ hf)
  · exact (exec_ldg hi).2.1 (hrs ▸ hf) (hrs ▸ hr)
  · exact ((exec_ldg hi).2.2 (hrs ▸ hf) (hrs ▸ hr)).1 t (hrs ▸ hd)
  · obtain ⟨hdone, hpoison⟩ := ((exec_ldg hi).2.2 (hrs ▸ hf) (hrs ▸ hr)).2 u (hrs ▸ hd)
    rw [hrs] at hdone hpoison
    refine ⟨fun hx => ⟨_, hdone hx, hlands _⟩, hpoison, fun sys a h => ?_⟩
    rw [(u.performs_loadLanes i rs).2 sys a h, Iss.detect_mem hd]
  · show [(l, (u.loadRange i.r i.warp.core i.ctx a k).1)] = _
    rw [State.loadRange_single hops hk hx hpage hline]
  · obtain ⟨houtside, -⟩ := exec_ldsp hi
    exact houtside (hsize ▸ hin)
  · obtain ⟨-, hinside⟩ := exec_ldsp hi
    obtain ⟨hdone, -⟩ := hinside u (hsize ▸ hin) (hss ▸ hd)
    refine ⟨_, hdone (maskBy_eq_zero_iff.2 (hsize ▸ hp)), Iss.detect_mem hd, fun wp => ?_⟩
    obtain ⟨hreg, hrest⟩ := hlands (laneBytes ((loadRanges w i (i.spAddr w)).map
      (fun x => (x.1, i.blk.spRead i.scr x.2.1 x.2.2)))) wp
    refine ⟨hreg.congr_val fun l hl => ?_, hrest⟩
    rw [hss, List.map_map]
    exact congrArg (value · % _) (laneBytes_map _ hl)
  · obtain ⟨-, hinside⟩ := exec_ldsp hi
    obtain ⟨-, hpoison⟩ := hinside u (hsize ▸ hin) (hss ▸ hd)
    refine ⟨_, rfl, fun l => ?_, hpoison (maskBy_ne_zero_iff.2 (hsize ▸ hp))⟩
    change (maskBy i.act (fun l => i.blk.spPoisoned i.scr (i.spAddr w l) (ldType m).1)).getLsbD l = true ↔ _
    rw [hsize]
    exact getLsbD_maskBy _ _ _

end Sys2Proof.Machine
end

section
/-! ## O51. Lines and leases -/

namespace Sys2Proof.Machine

variable {s : State} {core ctx len : Nat} {x : Xlat}

/-- The lease of a class (10_ordering.md:R215). -/
theorem leaseOf_eq (n : Nat) : leaseOf n = if n = 1 then 128 else if n = 2 then 512 else if n = 3 then 4000 else 0 := by
  match n with
  | 0 => rfl
  | 1 => rfl
  | 2 => rfl
  | 3 => rfl
  | n + 4 => simp [leaseOf]

/-- Which lines a core keeps (10_ordering.md:R215, R216). -/
theorem Xlat.cached_iff : x.cached = true ↔ x.sys = false ∧ (x.lc = 1 ∨ x.lc = 2 ∨ x.lc = 3 ∨ x.lc = 7) := by
  simp [Xlat.cached, or_assoc]

/-- A LOAD OF A LINE: from a copy of the core that has not expired, and from the home otherwise (10_ordering.md:R216). -/
theorem State.loadLine_cases (s : State) (core ctx : Nat) (x : Xlat) (len : Nat) :
    let mine := fun c : L1Copy => c.core == core && c.line == x.pa / 128 && c.usable s.time
    let r := s.loadLine core ctx x len
    (∀ c, x.cached = true → s.mem.l1.find? mine = some c → r.1 = (c.data.drop (x.pa % 128)).take len ∧ r.2.2 = s) ∧
    (x.cached = true → s.mem.l1.find? mine = none → r.1 = s.mem.bytes x.sys x.pa len ∧ r.2.2 = s.fillLine core ctx x) ∧
    (x.cached = false → r.1 = s.mem.bytes x.sys x.pa len ∧ r.2.2 = (s.noteSys x.sys x.pa).forgetLines core x.sys x.pa len) := by
  intro mine r
  refine ⟨fun c hx hc => ?_, fun hx hc => ?_, fun hx => ?_⟩
  · have hr : r = _ := State.loadLine.eq_def ..
    dsimp only at hr
    rw [if_pos hx, hc] at hr
    exact hr ▸ ⟨rfl, rfl⟩
  · have hr : r = _ := State.loadLine.eq_def ..
    dsimp only at hr
    rw [if_pos hx, hc] at hr
    exact hr ▸ ⟨rfl, rfl⟩
  · have hr : r = _ := State.loadLine.eq_def ..
    dsimp only at hr
    rw [hx, if_neg Bool.false_ne_true] at hr
    exact hr ▸ ⟨rfl, rfl⟩

/-- The L1 of a core has room for a line (01_device.md:R11). -/
theorem State.l1Lines_pos (s : State) (core : Nat) : 0 < s.l1Lines core := by
  unfold State.l1Lines
  omega

/-- A core that has room for a line keeps its newest copy. -/
theorem keepCopies_head {n : Nat} (hn : 0 < n) {c : L1Copy} (hc : c.core = core) (r : List L1Copy) :
    (keepCopies core n (c :: r)).head? = some c := by
  obtain ⟨n, rfl⟩ := Nat.exists_eq_succ_of_ne_zero hn.ne'
  rw [keepCopies, if_neg (not_not.2 hc)]
  rfl

/-- The fill of a line keeps its copy first, stamped with its expiry, and raises the home's bound (10_ordering.md:R216, R217). -/
theorem State.fillLine_keeps (s : State) (core ctx : Nat) (x : Xlat) :
    let e := s.time + BitVec.ofNat 64 (leaseOf x.lc)
    (∃ c, (s.fillLine core ctx x).mem.l1.head? = some c ∧ c.core = core ∧ c.line = x.pa / 128 ∧
      c.expiry = (if x.lc = 7 then none else some e) ∧ c.data = s.mem.bytes false (128 * (x.pa / 128)) 128) ∧
    ∀ k, cget (s.fillLine core ctx x).mem.lmax k =
      if k = x.pa / 128 ∧ x.lc ≠ 7 then tmax (cget s.mem.lmax (x.pa / 128)) e else cget s.mem.lmax k := by
  intro e
  let copy : L1Copy :=
    { core := core, ctx := ctx, line := x.pa / 128, expiry := if x.lc = 7 then none else some e
      data := s.mem.bytes false (128 * (x.pa / 128)) 128
      poison := (sectorsOf (128 * (x.pa / 128)) 128).filter (fun i => s.mem.poisoned false (32 * i)) }
  refine ⟨⟨copy, ?_, rfl, rfl, rfl, rfl⟩, fun k => ?_⟩
  · by_cases h7 : x.lc = 7
    · simp only [State.fillLine, State.trimL1, copy, h7, if_true]
      exact keepCopies_head (State.l1Lines_pos ..) rfl _
    · simp only [State.fillLine, State.trimL1, copy, h7, if_false]
      exact keepCopies_head (State.l1Lines_pos ..) rfl _
  · by_cases h7 : x.lc = 7
    · simp [State.fillLine, State.trimL1, h7]
    · simp [State.fillLine, State.trimL1, h7, cget_cset, e]

/-- A core that keeps no line of a range drops its copies of them, and notes an access to host memory (10_ordering.md:R213;
16_isolation.md:R310). -/
theorem State.forgetLines_noteSys (s : State) (core : Nat) (sys : Bool) (pa len : Nat) :
    let u := (s.noteSys sys pa).forgetLines core sys pa len
    u = { s with sec := u.sec, mem := { s.mem with l1 := u.mem.l1 } } ∧ (s.sec.confidential = false → u.sec = s.sec) ∧
    ∀ c, c ∈ u.mem.l1 ↔
      c ∈ s.mem.l1 ∧ ¬ (sys = false ∧ c.core = core ∧ pa < 128 * c.line + 128 ∧ 128 * c.line < pa + len) := by
  cases sys with
  | true =>
    by_cases hc : s.sec.confidential = true
    · simp [State.forgetLines, State.noteSys, hc]
    · simp [State.forgetLines, State.noteSys, hc]
  | false =>
    refine ⟨rfl, fun _ => rfl, fun c => ?_⟩
    simp only [State.forgetLines, State.noteSys, Bool.false_and, Bool.false_eq_true, if_false, List.mem_filter, inLine,
      Bool.not_eq_true', Bool.and_eq_false_imp, beq_iff_eq, decide_eq_false_iff_not, true_and, not_and]

/-- A load of a line, its copy and its lease (10_ordering.md:R215, R216, R217). -/
theorem lineLoads : Claims.LineLoads := by
  intro s core ctx len x line mine lease e kept r
  have hlease : leaseOf x.lc = lease := leaseOf_eq x.lc
  obtain ⟨hserved, hfilled, hhome⟩ := s.loadLine_cases core ctx x len
  refine ⟨fun c hk hc => hserved c (Xlat.cached_iff.2 hk) hc, fun hk hc => ?_, fun hk => ?_⟩
  · obtain ⟨hbytes, hstate⟩ := hfilled (Xlat.cached_iff.2 hk) hc
    have hkeeps := s.fillLine_keeps core ctx x
    rw [hlease, ← hstate] at hkeeps
    exact ⟨hbytes, hkeeps⟩
  · obtain ⟨hbytes, hstate⟩ := hhome (Bool.eq_false_iff.2 (mt Xlat.cached_iff.1 hk))
    have hforgets := s.forgetLines_noteSys core x.sys x.pa len
    rw [← hstate] at hforgets
    exact ⟨hbytes, hforgets⟩

/-- Settles O51: loads perform only stores that were pending (`State.performs_loadLanes`), and a load of a line is served by a copy or by
the home (`State.loadLine_cases`). -/
theorem loadWords : Obligations.LoadWords := ⟨loads, lineLoads⟩

end Sys2Proof.Machine
end

section
/-! ## O52. Store words -/

namespace Sys2Proof.Machine

variable {s : State} {w : W} {i : Iss}

/-- A word of these operations first asks whether its counter may rise (02_state.md:R31). -/
theorem exec_counted {op : Op} (w : W) (hop : op ∈ [Op.stg, .stsp, .stvf, .stld, .stst, .aconv, .atomg, .atomsp, .tcopy, .mcast, .rput,
    .rget, .rflag, .rwake, .ratom, .qpost, .launch, .tlbinv, .qsub, .ctxsave, .ctxrest]) :
    ∃ k, ∀ s, exec (Instr.ofOp op w) s = issueW op w (withCounter w k) s := by
  simp only [List.mem_cons, List.not_mem_nil, or_false] at hop
  rcases hop with rfl | rfl | rfl | rfl | rfl | rfl | rfl | rfl | rfl | rfl | rfl | rfl | rfl | rfl | rfl | rfl | rfl | rfl | rfl |
    rfl | rfl
  all_goals exact ⟨_, fun _ => rfl⟩

/-- The size in bytes of a store's type (11_isa_memory.md:R241). -/
theorem stSize_eq (m : Nat) : stSize m = if m = 0 then 4 else if m = 1 then 8 else if m = 2 then 16 else if m = 3 then 1 else 2 := by
  match m with
  | 0 => rfl
  | 1 => rfl
  | 2 => rfl
  | 3 => rfl
  | m + 4 => simp [stSize]

/-- The ranges that a store's lanes write. -/
theorem storeRanges_storeData (w : W) (i : Iss) (addr : Nat → Nat) :
    storeRanges (storeData w i addr) = i.lanes.map (fun l => (l, addr l, stSize w.mod.toNat)) := by
  unfold storeRanges storeData
  rw [List.map_map]
  exact List.map_congr_left fun l _ => by simp only [Function.comp_apply, length_leBytes]

/-- The addresses and bytes that a store's lanes write, in order. -/
theorem storeData_snd (w : W) (i : Iss) (addr : Nat → Nat) : (storeData w i addr).map Prod.snd =
    i.lanes.map (fun l => (addr l, leBytes (stSize w.mod.toNat) (i.src w (ldWords w.mod.toNat) w.b l))) := by
  unfold storeData
  rw [List.map_map]
  rfl

/-- `stg` judges every lane's translation, waits for room, asks the detector, and issues its stores (11_isa_memory.md:R239, R241). -/
theorem exec_stg (hi : Issues .stg w s i) (hc : i.warp.canRaise (i.counter w) = true) :
    let ls := storeData w i (i.globAddr w)
    let rs := storeRanges ls
    (∀ t, s.laneFault i.ctx .store rs = some t → Traps (.stg w) s i t) ∧
    (s.laneFault i.ctx .store rs = none → ¬ HasRoom s i .store rs → Stalls (.stg w) s i none) ∧
    (s.laneFault i.ctx .store rs = none → HasRoom s i .store rs →
      (∀ t, i.detect 1 (s.detSectors i.ctx .store rs) s = .error t → Traps (.stg w) s i t) ∧
      ∀ u, i.detect 1 (s.detSectors i.ctx .store rs) s = .ok u →
        Completes (.stg w) s i ((u.issueStores i w 0 (ls.map Prod.snd) false).updRef i.r id)) := by
  intro ls rs
  have he : exec (.stg w) s = execStg w s := rfl
  rw [execStg, issueW_issues _ hi, withCounter_raises hc, globalStore] at he
  refine ⟨fun t hf => ?_, fun hf hr => ?_, fun hf hr => ⟨fun t hd => ?_, fun u hd => ?_⟩⟩
  · rw [hf] at he
    exact he
  · rw [hf] at he
    dsimp only at he
    rw [withRoom_stalls hr] at he
    exact stalls_of_stall he
  all_goals
    rw [hf] at he
    dsimp only at he
    rw [withRoom_room hr, hd] at he
    exact he

/-- `stsp` refuses a range outside the allocation, asks the detector, and stores at once (11_isa_memory.md:R238; 10_ordering.md:R222). -/
theorem exec_stsp (hi : Issues .stsp w s i) (hc : i.warp.canRaise (i.counter w) = true) :
    let ls := storeData w i (i.spAddr w)
    let inside := ∀ l ∈ i.lanes, i.spAddr w l + stSize w.mod.toNat ≤ i.blk.cores.length * i.scr
    (¬ inside → Traps (.stsp w) s i { cause := 3, mask := i.act }) ∧
    (inside → (∀ t, i.detect 1 (i.detScratch (storeRanges ls)) s = .error t → Traps (.stsp w) s i t) ∧
      ∀ u, i.detect 1 (i.detScratch (storeRanges ls)) s = .ok u →
        Completes (.stsp w) s i ((i.updBlk u (fun b => b.spStores i.scr (ls.map Prod.snd))).updRef i.r id)) := by
  intro ls inside
  have he : exec (.stsp w) s = execStsp w s := rfl
  have hinside : (!ls.all (fun x => i.inScratch x.2.1 x.2.2.length)) = true ↔ ¬ inside := by
    simp [ls, storeData, Iss.inScratch, inside, length_leBytes]
  rw [execStsp, issueW_issues _ hi, withCounter_raises hc, scratchStore] at he
  refine ⟨fun h => ?_, fun h => ⟨fun t hd => ?_, fun u hd => ?_⟩⟩
  · rw [if_pos (hinside.2 h)] at he
    exact he
  all_goals
    rw [if_neg (mt hinside.1 (not_not.2 h)), hd] at he
    exact he

/-- Stores to both spaces, and the stalls of long-latency words (11_isa_memory.md:R241; 02_state.md:R31). -/
theorem stores : Claims.Stores := by
  intro s w i m n size ga sa data rs ss room inside
  have hsize : stSize m = size := stSize_eq m
  have hrs : storeRanges (storeData w i (i.globAddr w)) = rs := by
    rw [storeRanges_storeData]
    exact congrArg (fun k => i.lanes.map (fun l => (l, ga l, k))) hsize
  have hss : storeRanges (storeData w i (i.spAddr w)) = ss := by
    rw [storeRanges_storeData]
    exact congrArg (fun k => i.lanes.map (fun l => (l, sa l, k))) hsize
  have hdata : ∀ addr : Nat → Nat, (storeData w i addr).map Prod.snd = i.lanes.map (fun l => (addr l, data l)) := fun addr => by
    rw [storeData_snd]
    exact congrArg (fun k => i.lanes.map (fun l => (addr l, leBytes k (i.src w n w.b l)))) hsize
  refine ⟨fun op hop hi hc => ?_, fun t hi hc hf => ?_, fun hi hc hf hr => ?_, fun u hi hc hf hr hd => ?_, fun t hi hc hf hr hd => ?_,
    fun hi hc hin => ?_, fun u hi hc hin hd => ?_, fun t hi hc hin hd => ?_⟩
  · obtain ⟨k, hk⟩ := exec_counted w hop
    refine stalls_of_stall ?_
    rw [hk, issueW_issues _ hi, withCounter_stalls hc]
  · exact (exec_stg hi hc).1 t (hrs ▸ hf)
  · exact (exec_stg hi hc).2.1 (hrs ▸ hf) (hrs ▸ hr)
  · rw [← hdata ga]
    exact ((exec_stg hi hc).2.2 (hrs ▸ hf) (hrs ▸ hr)).2 u (hrs ▸ hd)
  · exact ((exec_stg hi hc).2.2 (hrs ▸ hf) (hrs ▸ hr)).1 t (hrs ▸ hd)
  · exact (exec_stsp hi hc).1 (hsize ▸ hin)
  · rw [← hdata sa]
    exact ⟨Iss.detect_mem hd, ((exec_stsp hi hc).2 (hsize ▸ hin)).2 u (hss ▸ hd)⟩
  · exact ((exec_stsp hi hc).2 (hsize ▸ hin)).1 t (hss ▸ hd)

end Sys2Proof.Machine
end

section
/-! ## O52. Stores that are pending -/

namespace Sys2Proof.Machine

variable {s : State} {i : Iss} {w : W}

/-- The stores that pieces of an operation put in the queue of their homes, their names ascending from `n`. -/
def queuedStores (op core : Nat) (mark : Bool) : Nat → List (Xlat × List Byte) → List HomeOp
  | _, [] => []
  | n, p :: r => { id := n, op := op, sys := p.1.sys, pa := p.1.pa, data := p.2, mark := mark, core := core } ::
      queuedStores op core mark (n + 1) r

/-- Pushing stores queues them after those that are pending. -/
theorem pushStores_eq (op core : Nat) (mark : Bool) (ps : List (Xlat × List Byte)) (s : State) : s.pushStores op core mark ps =
    { s with homeOps := s.homeOps ++ queuedStores op core mark s.nextId ps, nextId := s.nextId + ps.length } := by
  induction ps generalizing s with
  | nil => simp [State.pushStores, queuedStores]
  | cons p r ih =>
    rw [State.pushStores, List.foldl_cons]
    refine (ih _).trans ?_
    simp [State.newId, queuedStores, Nat.add_assoc, Nat.add_comm]

/-- A queued store is that of a piece, and carries what its operation gives. -/
theorem queuedStores_pieces (op core : Nat) (mark : Bool) (n : Nat) (ps : List (Xlat × List Byte)) :
    (queuedStores op core mark n ps).map (fun h => (h.sys, h.pa, h.data)) = ps.map (fun p => (p.1.sys, p.1.pa, p.2)) ∧
    ∀ h ∈ queuedStores op core mark n ps, h.op = op ∧ h.core = core ∧ h.mark = mark := by
  induction ps generalizing n with
  | nil => exact ⟨rfl, fun _ h => nomatch h⟩
  | cons p r ih =>
    obtain ⟨hpieces, hof⟩ := ih (n + 1)
    exact ⟨congrArg _ hpieces, List.forall_mem_cons.2 ⟨⟨rfl, rfl, rfl⟩, hof⟩⟩

/-- WHAT ISSUING STORES LEAVES where none were pending (10_ordering.md:R213; 03_encoding.md:R62): the TLB filled, the operation recorded,
its pieces queued and the sectors noted that they store whole. -/
theorem issueStores_eq (hops : s.homeOps = []) (kind : Nat) (ls : List (Nat × List Byte)) (mark : Bool) :
    let ps := ls.flatMap (fun x => s.storePieces i.ctx x.1 x.2)
    ∃ l n, s.issueStores i w kind ls mark =
      ({ s with
        mem := { s.mem with tlb := l }
        nextId := n
        homeOps := queuedStores s.nextId i.warp.core mark (s.nextId + 1) ps
        covers := if mark then s.covers else s.covers ++ coversOf s.nextId ps
        groups := s.groups ++ [{ op := s.nextId, lsq := i.r.lsq, tkt := i.r.tkt, wrp := i.r.wrp, ctr := i.counter w
                                 core := i.warp.core, kind := kind, left := ps.length, cpod := 0
                                 chip := ps.any (fun p => !p.1.sys) }] } : State).updRef i.r (fun wp => wp.raise (i.counter w)) := by
  intro ps
  obtain ⟨l, hfill⟩ : ∃ l, ls.foldl (fun s x => s.fillRange i.ctx x.1 x.2.length) s = { s with mem := { s.mem with tlb := l } } :=
    List.foldlRecOn ls _ (motive := fun t => ∃ l, t = { s with mem := { s.mem with tlb := l } }) ⟨_, rfl⟩ fun t ht x _ => by
      obtain ⟨l, rfl⟩ := ht
      exact State.fillRange_frame ..
  have hflush : ps.foldl (fun s p => s.flushOwn i.r p.1 p.2.length) ({ s with mem := { s.mem with tlb := l } } : State) =
      { s with mem := { s.mem with tlb := l } } :=
    List.foldlRecOn ps _ (motive := (· = _)) rfl fun t ht p _ => by
      rw [ht]
      exact State.flushOwn_nil (by exact hops) ..
  refine ⟨l, s.nextId + 1 + ps.length, ?_⟩
  unfold State.issueStores
  dsimp only
  rw [hfill, hflush, pushStores_eq]
  cases mark
  · simp only [State.startGroup, State.newId, updRef_homeOps, hops, List.nil_append, Bool.false_eq_true, if_false]
    rfl
  · simp only [State.startGroup, State.newId, updRef_homeOps, hops, List.nil_append, if_true]
    rfl

/-- Issuing stores queues their pieces and changes no byte (10_ordering.md:R213; 11_isa_memory.md:R241). -/
theorem storesArePending : Claims.StoresArePending := by
  intro s i w kind ls mark hops t ps
  obtain ⟨l, n, ht⟩ := issueStores_eq (i := i) (w := w) hops kind ls mark
  have ht : t = _ := ht
  obtain ⟨hpieces, hof⟩ := queuedStores_pieces s.nextId i.warp.core mark (s.nextId + 1) ps
  rw [ht]
  refine ⟨fun _ _ => rfl, hpieces, hof, rfl, ?_⟩
  exact warpAt_updRef _ i.r _ fun wp => by cases i.counter w <;> rfl

end Sys2Proof.Machine
end

section
/-! ## O52. Poison marks after stores -/

namespace Sys2Proof.Machine

/-- The sectors of a range: those that it shares a byte with. -/
theorem mem_sectorsOf {pa len k : Nat} : k ∈ sectorsOf pa len ↔ 0 < len ∧ pa < 32 * k + 32 ∧ 32 * k < pa + len := by
  unfold sectorsOf
  by_cases h : len = 0
  · simp [h]
  · rw [if_neg h, List.mem_map]
    simp only [List.mem_range]
    constructor
    · rintro ⟨j, hj, rfl⟩
      omega
    · intro hk
      exact ⟨k - pa / 32, by omega, by omega⟩

/-- Reading a mark after marks of some numbers have been cleared. -/
theorem cget_foldl_clear (P : Nat → Prop) [DecidablePred P] (l : List Nat) (c : Cells 1) (k : Nat) :
    cget (l.foldl (fun c i => if P i then cset c i 0 else c) c) k = if k ∈ l ∧ P k then 0 else cget c k := by
  induction l generalizing c with
  | nil => simp
  | cons i r ih =>
    rw [List.foldl_cons, ih]
    by_cases hr : k ∈ r ∧ P k
    · rw [if_pos hr, if_pos ⟨List.mem_cons_of_mem _ hr.1, hr.2⟩]
    · rw [if_neg hr]
      by_cases hi : P i
      · rw [if_pos hi, cget_cset]
        by_cases hk : k = i
        · subst hk
          rw [if_pos rfl, if_pos ⟨List.mem_cons_self, hi⟩]
        · rw [if_neg hk, if_neg]
          exact fun h => hr ⟨(List.mem_cons.1 h.1).resolve_left hk, h.2⟩
      · rw [if_neg hi, if_neg]
        rintro ⟨h, hP⟩
        obtain rfl | h := List.mem_cons.1 h
        · exact hi hP
        · exact hr ⟨h, hP⟩

/-- A mark that is cleared where a condition holds. -/
theorem cleared_eq_one_iff {P : Prop} [Decidable P] {x : BitVec 1} : (if P then 0 else x) = 1 ↔ x = 1 ∧ ¬ P := by
  by_cases h : P
  · rw [if_pos h]
    exact iff_of_false (by decide) fun hx => hx.2 h
  · rw [if_neg h]
    exact (and_iff_left h).symm

/-- The poison marks of device memory or of host memory, by sector. -/
def Memory.marks (m : Memory) (sys : Bool) : Cells 1 := if sys then m.hostPoison else m.devPoison

theorem Memory.poisoned_iff {m : Memory} {sys : Bool} {k : Nat} : m.poisoned sys (32 * k) = true ↔ cget (m.marks sys) k = 1 := by
  cases sys <;> simp [Memory.poisoned, Memory.marks]

/-- A store that is not marked cleans the sectors that it stores whole, and marks none (18_recovery.md:R323). -/
theorem Memory.poisoned_write (m : Memory) (sys : Bool) (pa : Nat) (data : List Byte) (sys' : Bool) (k : Nat) :
    (m.write sys pa data false).poisoned sys' (32 * k) = true ↔ m.poisoned sys' (32 * k) = true ∧
      ¬ (sys' = sys ∧ pa ≤ 32 * k ∧ 32 * k + 32 ≤ pa + data.length) := by
  have hmarks : cget ((m.write sys pa data false).marks sys') k =
      if sys' = sys ∧ pa ≤ 32 * k ∧ 32 * k + 32 ≤ pa + data.length then 0 else cget (m.marks sys') k := by
    by_cases hs : sys' = sys
    · have hafter : (m.write sys pa data false).marks sys' = poisonAfter (m.marks sys') pa data.length false := by
        subst hs
        cases sys' <;> rfl
      rw [hafter, poisonAfter]
      simp only [Bool.false_eq_true, if_false]
      rw [cget_foldl_clear]
      refine if_congr ?_ rfl rfl
      rw [mem_sectorsOf, and_iff_right hs]
      omega
    · have hother : (m.write sys pa data false).marks sys' = m.marks sys' := by
        obtain rfl := Bool.eq_not.2 hs
        cases sys <;> rfl
      rw [hother, if_neg fun h => hs h.1]
  rw [Memory.poisoned_iff, Memory.poisoned_iff, hmarks, cleared_eq_one_iff]

/-- Cleaned sectors are clean, and no other changes. -/
theorem Memory.poisoned_clean (m : Memory) (core : Nat) (sys : Bool) (ks : List Nat) (sys' : Bool) (k : Nat) :
    (m.clean core sys ks).poisoned sys' (32 * k) = true ↔ m.poisoned sys' (32 * k) = true ∧ ¬ (sys' = sys ∧ k ∈ ks) := by
  have hmarks : cget ((m.clean core sys ks).marks sys') k = if sys' = sys ∧ k ∈ ks then 0 else cget (m.marks sys') k := by
    by_cases hs : sys' = sys
    · have hafter : (m.clean core sys ks).marks sys' = ks.foldl (fun c k => cset c k 0) (m.marks sys') := by
        subst hs
        cases sys' <;> rfl
      have hclear := cget_foldl_clear (fun _ => True) ks (m.marks sys') k
      simp only [if_true, and_true] at hclear
      rw [hafter, hclear]
      exact if_congr (and_iff_right hs).symm rfl rfl
    · have hother : (m.clean core sys ks).marks sys' = m.marks sys' := by
        obtain rfl := Bool.eq_not.2 hs
        cases sys <;> rfl
      rw [hother, if_neg fun h => hs h.1]
  rw [Memory.poisoned_iff, Memory.poisoned_iff, hmarks, cleared_eq_one_iff]

end Sys2Proof.Machine
end

section
/-! ## O52. The sectors that the stores of a word cover between them -/

namespace Sys2Proof.Machine

variable {s t : State}

/-- A piece of a word's stores touches a sector that they cover between them. -/
def HomeOp.inCover (h : HomeOp) (c : Cover) : Bool :=
  c.op == h.op && c.sys == h.sys && (sectorsOf h.pa h.data.length).contains c.sector

/-- The pieces of a list that touch a covered sector. -/
def piecesIn (l : List HomeOp) (c : Cover) : Nat := (l.filter (fun h => h.inCover c)).length

/-- A piece with its cover: the cover is over with the last piece that touches it. -/
def Cover.after (c : Cover) (h : HomeOp) : Cover := if h.inCover c then { c with left := c.left - 1, begun := true } else c

@[simp] theorem Cover.after_sys (c : Cover) (h : HomeOp) : (c.after h).sys = c.sys := by unfold Cover.after; split <;> rfl
@[simp] theorem Cover.after_sector (c : Cover) (h : HomeOp) : (c.after h).sector = c.sector := by unfold Cover.after; split <;> rfl

/-- What has been performed of a cover does not matter to the pieces still to come. -/
@[simp] theorem piecesIn_after (l : List HomeOp) (c : Cover) (h : HomeOp) : piecesIn l (c.after h) = piecesIn l c := by
  unfold Cover.after
  split <;> rfl

theorem piecesIn_cons (h : HomeOp) (l : List HomeOp) (c : Cover) :
    piecesIn (h :: l) c = if h.inCover c = true then piecesIn l c + 1 else piecesIn l c := by
  unfold piecesIn
  rw [List.filter_cons]
  split <;> rfl

/-- A store that is not marked ends no cover. -/
theorem State.homeStore_covers (s : State) (core : Option Nat) (sys : Bool) (pa : Nat) (data : List Byte) :
    (s.homeStore core sys pa data false).covers = s.covers := by
  have hnoted : ∀ t : State, (t.noteSys sys pa).covers = t.covers := fun t => by
    unfold State.noteSys
    split <;> rfl
  have hnotified : ∀ t : State, (t.notify pa data.length).covers = t.covers := fun t => by
    unfold State.notify
    split
    · rfl
    · split <;> rfl
  unfold State.homeStore
  dsimp only
  split
  · exact hnoted _
  · exact hnotified _

/-- The covers that a performed store leaves, of a word that marks none. -/
theorem State.performHome_covers {h : HomeOp} (hm : h.mark = false) : (s.performHome h).covers =
    (s.covers.filter (fun c => !(h.inCover c && decide (c.left ≤ 1)))).map (fun c => c.after h) := by
  rw [State.performHome, pushReply_covers, hm]
  unfold State.coverDone
  dsimp only
  rw [State.homeStore_covers]
  rfl

/-- The poison marks that a performed store leaves, of a word that marks none (18_recovery.md:R323). -/
theorem State.performHome_poisoned {h : HomeOp} (hm : h.mark = false) (sys : Bool) (k : Nat) :
    (s.performHome h).mem.poisoned sys (32 * k) = true ↔ s.mem.poisoned sys (32 * k) = true ∧
      ¬ (sys = h.sys ∧ h.pa ≤ 32 * k ∧ 32 * k + 32 ≤ h.pa + h.data.length) ∧
      ¬ ∃ c ∈ s.covers, (h.inCover c = true ∧ c.left ≤ 1) ∧ c.sys = sys ∧ c.sector = k := by
  let u : State := { s with homeOps := s.homeOps.filter (fun x => x.id != h.id) }
  let v := u.homeStore (some h.core) h.sys h.pa h.data false
  have hcovers : v.covers = s.covers := State.homeStore_covers ..
  have hmem : (s.performHome h).mem =
      v.mem.clean h.core h.sys ((s.covers.filter (fun c => h.inCover c && decide (c.left ≤ 1))).map Cover.sector) := by
    rw [← hcovers, State.performHome, pushReply_mem, hm]
    rfl
  have hwrite : v.mem.poisoned sys (32 * k) = (s.mem.write h.sys h.pa h.data false).poisoned sys (32 * k) := by
    obtain ⟨_, _, hv⟩ := u.homeStore_mem (some h.core) h.sys h.pa h.data false
    rw [show v.mem = _ from hv]
    rfl
  have hended : (sys = h.sys ∧ k ∈ (s.covers.filter (fun c => h.inCover c && decide (c.left ≤ 1))).map Cover.sector) ↔
      ∃ c ∈ s.covers, (h.inCover c = true ∧ c.left ≤ 1) ∧ c.sys = sys ∧ c.sector = k := by
    have hsys : ∀ c : Cover, h.inCover c = true → c.sys = h.sys := fun c hc => by
      simp only [HomeOp.inCover, Bool.and_eq_true, beq_iff_eq] at hc
      exact hc.1.2
    simp only [List.mem_map, List.mem_filter, Bool.and_eq_true, decide_eq_true_eq]
    constructor
    · rintro ⟨rfl, c, ⟨hc, hend⟩, hk⟩
      exact ⟨c, hc, hend, hsys c hend.1, hk⟩
    · rintro ⟨c, hc, hend, rfl, hk⟩
      exact ⟨hsys c hend.1, c, ⟨hc, hend⟩, hk⟩
  rw [hmem, Memory.poisoned_clean, hwrite, Memory.poisoned_write, hended, and_assoc]

/-- THE STORES OF A WORD ALL PERFORMED: no cover is left, and a sector stays poisoned if no piece stored it whole and it was no covered
one (18_recovery.md:R323). -/
theorem performAll_poisoned (l : List HomeOp) (hm : ∀ h ∈ l, h.mark = false) (s : State)
    (hc : ∀ c ∈ s.covers, c.left = piecesIn l c ∧ 0 < piecesIn l c) (sys : Bool) (k : Nat) :
    (l.foldl State.performHome s).covers = [] ∧
    ((l.foldl State.performHome s).mem.poisoned sys (32 * k) = true ↔ s.mem.poisoned sys (32 * k) = true ∧
      (∀ h ∈ l, ¬ (sys = h.sys ∧ h.pa ≤ 32 * k ∧ 32 * k + 32 ≤ h.pa + h.data.length)) ∧
      ¬ ∃ c ∈ s.covers, c.sys = sys ∧ c.sector = k) := by
  induction l generalizing s with
  | nil =>
    have hnil : s.covers = [] := List.eq_nil_iff_forall_not_mem.2 fun c h => absurd (hc c h).2 (Nat.lt_irrefl 0)
    exact ⟨hnil, by simp [hnil]⟩
  | cons h r ih =>
    have hmark := hm h List.mem_cons_self
    have hleft : ∀ c, c ∈ (s.performHome h).covers ↔
        ∃ d ∈ s.covers, ¬ (h.inCover d = true ∧ d.left ≤ 1) ∧ d.after h = c := fun c => by
      simp only [State.performHome_covers hmark, List.mem_map, List.mem_filter, Bool.not_eq_true', Bool.and_eq_false_imp,
        decide_eq_false_iff_not, not_and, and_assoc]
    have hnext : ∀ c ∈ (s.performHome h).covers, c.left = piecesIn r c ∧ 0 < piecesIn r c := fun c hcov => by
      obtain ⟨d, hd, hmore, rfl⟩ := (hleft c).1 hcov
      obtain ⟨hcount, hpos⟩ := hc d hd
      rw [piecesIn_cons] at hcount hpos
      rw [piecesIn_after]
      by_cases hin : h.inCover d = true
      · rw [if_pos hin] at hcount
        have hlast : ¬ d.left ≤ 1 := fun hl => hmore ⟨hin, hl⟩
        rw [Cover.after, if_pos hin]
        dsimp only
        omega
      · rw [if_neg hin] at hcount hpos
        rw [Cover.after, if_neg hin]
        exact ⟨hcount, hpos⟩
    obtain ⟨hnone, hpoison⟩ := ih (fun x hx => hm x (List.mem_cons_of_mem _ hx)) (s.performHome h) hnext
    refine ⟨hnone, hpoison.trans ?_⟩
    have hcovers : (∃ c ∈ s.covers, c.sys = sys ∧ c.sector = k) ↔
        (∃ c ∈ s.covers, (h.inCover c = true ∧ c.left ≤ 1) ∧ c.sys = sys ∧ c.sector = k) ∨
        ∃ c ∈ (s.performHome h).covers, c.sys = sys ∧ c.sector = k := by
      constructor
      · rintro ⟨c, hcov, hkey⟩
        by_cases hend : h.inCover c = true ∧ c.left ≤ 1
        · exact .inl ⟨c, hcov, hend, hkey⟩
        · exact .inr ⟨_, (hleft _).2 ⟨c, hcov, hend, rfl⟩, by simpa using hkey⟩
      · rintro (⟨c, hcov, -, hkey⟩ | ⟨c, hcov, hkey⟩)
        · exact ⟨c, hcov, hkey⟩
        · obtain ⟨d, hd, -, rfl⟩ := (hleft c).1 hcov
          exact ⟨d, hd, by simpa using hkey⟩
    rw [State.performHome_poisoned hmark, hcovers, List.forall_mem_cons, not_or]
    tauto

end Sys2Proof.Machine
end

section
/-! ## O52. Whole sectors -/

namespace Sys2Proof.Machine

variable {s : State}

/-- The pending stores that are left once those of a list have been performed. -/
theorem performAll_homeOps (l : List HomeOp) (s : State) :
    (l.foldl State.performHome s).homeOps = s.homeOps.filter (fun x => l.all (fun h => x.id != h.id)) := by
  induction l generalizing s with
  | nil => simp
  | cons h r ih =>
    rw [List.foldl_cons, ih, State.performHome_homeOps, List.filter_filter]
    exact List.filter_congr fun x _ => by rw [List.all_cons, Bool.and_comm]

/-- The ranges of the pieces of a word in one memory. -/
def piecesOn (ps : List (Xlat × List Byte)) (sys : Bool) : List (Nat × Nat) :=
  (ps.filter (fun p => p.1.sys == sys)).map (fun p => (p.1.pa, p.2.length))

/-- The pieces that touch a sector are as many in the queue of their homes. -/
theorem piecesIn_queuedStores (core n : Nat) (ps : List (Xlat × List Byte)) (c : Cover) :
    piecesIn (queuedStores c.op core false n ps) c =
      ((piecesOn ps c.sys).filter (fun r => (sectorsOf r.1 r.2).contains c.sector)).length := by
  induction ps generalizing n with
  | nil => rfl
  | cons p r ih =>
    rw [queuedStores, piecesIn_cons, ih, piecesOn, piecesOn, List.filter_cons]
    have hin : HomeOp.inCover { id := n, op := c.op, sys := p.1.sys, pa := p.1.pa, data := p.2, mark := false, core := core } c =
        (p.1.sys == c.sys && (sectorsOf p.1.pa p.2.length).contains c.sector) := by
      simp only [HomeOp.inCover, beq_self_eq_true, Bool.true_and]
      rw [Bool.beq_comm]
    rw [hin]
    by_cases hs : (p.1.sys == c.sys) = true
    · rw [hs, Bool.true_and, if_pos rfl, List.map_cons, List.filter_cons]
      split <;> rfl
    · rw [Bool.eq_false_iff.2 hs, Bool.false_and, if_neg Bool.false_ne_true, if_neg Bool.false_ne_true]

/-- What holds of some queued store holds of a piece. -/
theorem exists_mem_queuedStores {op core n : Nat} {ps : List (Xlat × List Byte)} {P : Bool → Nat → List Byte → Prop} :
    (∃ h ∈ queuedStores op core false n ps, P h.sys h.pa h.data) ↔ ∃ p ∈ ps, P p.1.sys p.1.pa p.2 := by
  induction ps generalizing n with
  | nil => simp [queuedStores]
  | cons p r ih => simp [queuedStores, ih]

/-- A sector is covered when the pieces store its 32 bytes between them (18_recovery.md:R323). -/
theorem mem_coveredSectors {rs : List (Nat × Nat)} {k : Nat} :
    k ∈ coveredSectors rs ↔ ∀ j, j < 32 → ∃ r ∈ rs, r.1 ≤ 32 * k + j ∧ 32 * k + j < r.1 + r.2 := by
  simp only [coveredSectors, List.mem_filter, List.mem_eraseDups, List.mem_flatMap, List.all_eq_true, List.mem_range, List.any_eq_true,
    decide_eq_true_eq, mem_sectorsOf]
  refine and_iff_right_of_imp fun h => ?_
  obtain ⟨r, hr, hlo, hhi⟩ := h 0 (by omega)
  exact ⟨r, hr, by omega⟩

/-- A piece touches every sector that the pieces cover. -/
theorem piecesOn_touch_pos {ps : List (Xlat × List Byte)} {sys : Bool} {k : Nat} (hk : k ∈ coveredSectors (piecesOn ps sys)) :
    0 < ((piecesOn ps sys).filter (fun r => (sectorsOf r.1 r.2).contains k)).length := by
  obtain ⟨r, hr, hlo, hhi⟩ := mem_coveredSectors.1 hk 0 (by omega)
  exact List.length_pos_of_mem (List.mem_filter.2 ⟨hr, List.contains_iff_mem.2 (mem_sectorsOf.2 (by omega))⟩)

/-- The covers that a word's stores start with (18_recovery.md:R323). -/
theorem mem_coversOf {op : Nat} {ps : List (Xlat × List Byte)} {c : Cover} : c ∈ coversOf op ps ↔
    ∃ sys k, k ∈ coveredSectors (piecesOn ps sys) ∧
      { op := op, sys := sys, sector := k
        left := ((piecesOn ps sys).filter (fun r => (sectorsOf r.1 r.2).contains k)).length, begun := false } = c := by
  simp only [coversOf, List.mem_flatMap, List.mem_map, List.mem_cons, List.not_mem_nil, or_false]
  exact exists_congr fun sys => and_iff_right (by cases sys <;> simp)

/-- Each cover counts the pieces to come, and some are (18_recovery.md:R323). -/
theorem coversOf_counts {op core n : Nat} {ps : List (Xlat × List Byte)} {c : Cover} (hc : c ∈ coversOf op ps) :
    c.left = piecesIn (queuedStores op core false n ps) c ∧ 0 < piecesIn (queuedStores op core false n ps) c := by
  obtain ⟨sys, k, hk, rfl⟩ := mem_coversOf.1 hc
  rw [piecesIn_queuedStores core n ps { op := op, sys := sys, sector := k, left := _, begun := false }]
  exact ⟨rfl, piecesOn_touch_pos hk⟩

/-- The covers are the sectors that the queued stores store whole between them. -/
theorem coversOf_iff_stored {op core n : Nat} {ps : List (Xlat × List Byte)} {sys : Bool} {k : Nat} :
    (∃ c ∈ coversOf op ps, c.sys = sys ∧ c.sector = k) ↔ ∀ j, j < 32 → ∃ h ∈ queuedStores op core false n ps,
      h.sys = sys ∧ h.pa ≤ 32 * k + j ∧ 32 * k + j < h.pa + h.data.length := by
  have hcover : (∃ c ∈ coversOf op ps, c.sys = sys ∧ c.sector = k) ↔ k ∈ coveredSectors (piecesOn ps sys) := by
    constructor
    · rintro ⟨c, hc, rfl, rfl⟩
      obtain ⟨_, _, hk, rfl⟩ := mem_coversOf.1 hc
      exact hk
    · exact fun hk => ⟨_, mem_coversOf.2 ⟨sys, k, hk, rfl⟩, rfl, rfl⟩
  rw [hcover, mem_coveredSectors]
  refine forall₂_congr fun j _ => ?_
  rw [exists_mem_queuedStores (P := fun y pa data => y = sys ∧ pa ≤ 32 * k + j ∧ 32 * k + j < pa + data.length)]
  simp [piecesOn, and_assoc]

/-- The stores of a word, all performed, clean the sectors that they store whole between them, and mark none (18_recovery.md:R323). -/
theorem wholeSectorsAreClean : Claims.WholeSectorsAreClean := by
  intro s i w kind ls sys k hops hcov t u stored
  obtain ⟨l, n, ht⟩ := issueStores_eq (i := i) (w := w) hops kind ls false
  have ht : t = _ := ht
  let ps := ls.flatMap (fun x => s.storePieces i.ctx x.1 x.2)
  let queue := queuedStores s.nextId i.warp.core false (s.nextId + 1) ps
  have hqueue : t.homeOps = queue := by rw [ht]; rfl
  have hcovers : t.covers = coversOf s.nextId ps := by
    rw [ht, updRef_covers]
    exact congrArg (· ++ coversOf s.nextId ps) hcov
  have hmem : t.mem.poisoned sys (32 * k) = s.mem.poisoned sys (32 * k) := by rw [ht]; rfl
  have hunmarked : ∀ h ∈ queue, h.mark = false := fun h hh => ((queuedStores_pieces ..).2 h hh).2.2
  obtain ⟨hnone, hpoison⟩ := performAll_poisoned queue hunmarked t (fun c hc => coversOf_counts (hcovers ▸ hc)) sys k
  have hwhole : stored ↔ ∃ c ∈ t.covers, c.sys = sys ∧ c.sector = k := by
    rw [hcovers, coversOf_iff_stored (core := i.warp.core) (n := s.nextId + 1)]
    change stored ↔ ∀ j, j < 32 → ∃ h ∈ queue, _
    rw [← hqueue]
  have hpiece : (∃ h ∈ queue, sys = h.sys ∧ h.pa ≤ 32 * k ∧ 32 * k + 32 ≤ h.pa + h.data.length) → stored := by
    rintro ⟨h, hh, hs, hlo, hhi⟩ j hj
    exact ⟨h, hqueue ▸ hh, hs.symm, by omega, by omega⟩
  have hu : u = queue.foldl State.performHome t := congrArg (fun q => List.foldl State.performHome t q) hqueue
  rw [hu, ← hmem]
  refine ⟨?_, hnone, hpoison.trans ?_⟩
  · rw [performAll_homeOps, hqueue, List.filter_eq_nil_iff]
    exact fun h hh hall => by simpa using List.all_eq_true.1 hall h hh
  · rw [← hwhole]
    refine and_congr_right fun _ => and_iff_right_of_imp fun hns h hh hc => hns (hpiece ⟨h, hh, hc⟩)

/-- Settles O52: issued stores are queued piece by piece (`issueStores_eq`); as the queue is performed, each cover counts the pieces to
come and cleans its sector with the last (`performAll_poisoned`). -/
theorem storeWords : Obligations.StoreWords := ⟨stores, storesArePending, wholeSectorsAreClean⟩

end Sys2Proof.Machine
end

section
/-! ## O55. A barrier of two blocks with one name -/

namespace Sys2Proof.Machine

/-- `tbarr` on the barrier at offset 0, which `s0` names (11_isa_memory.md:R253). -/
def arriveWord : W := plainWord .none (.s ⟨0, by decide⟩) .none .none .none 0

/-- The block of the loaded program, with an armed barrier at offset 0 of its scratchpad. -/
def armedBlock : Block := { loadBlock with cores := loadBlock.cores.map (fun c => { c with sp := [(0, 0x80)] }) }

/-- The block of the loaded program, its scratchpad all zero. -/
def unarmedBlock : Block := loadBlock

/-- A state that holds two blocks of one LSQ and one ticket; a reference names the first of them. -/
def twinBlocks : State := { State.reset.loadWord 0 with blocks := [armedBlock, unarmedBlock], slots := [], cur := some loadRef }

/-- The path that issues the `tbarr`. -/
def armedIss : Iss :=
  { r := loadRef, blk := armedBlock, grid := loadGrid, warp := armedBlock.warps.headD (Warp.start 0 0 0 0 0)
    path := { mask := 0xFFFFFFFF, hdr := 0x10000, word := 1, held := loadHeader, park := .run }, act := 0xFFFFFFFF }

/-- Which blocks of a next state have an armed barrier at offset 0. -/
def armedAfter : Out → List Bool
  | .next u => u.blocks.map (fun b => (b.tbar armedIss.scr 0).arm)
  | _ => []

/-- The `tbarr` issues. -/
theorem armedIss_issues : Issues .tbarr arriveWord twinBlocks armedIss :=
  ⟨by decide +kernel, by decide +kernel, by decide +kernel, by decide +kernel⟩

/-- The barrier that it names is placed and armed. -/
theorem armedIss_armed : armedIss.uni arriveWord 1 arriveWord.a = 0 ∧ (armedIss.blk.tbar armedIss.scr 0).arm = true ∧
    16 ≤ armedIss.blk.cores.length * armedIss.scr := by
  decide +kernel

/-- Each block takes the arrivals in its own barrier: the one of the second block stays unarmed. -/
theorem armedAfter_exec : armedAfter (exec (.tbarr arriveWord) twinBlocks) = [true, false] := by
  decide +kernel

/-- The statement's next state gives the second block the barrier of the first. -/
theorem armedAfter_copied :
    let b := armedIss.blk.tbar armedIss.scr (armedIss.uni arriveWord 1 arriveWord.a)
    armedAfter (.next ((armedIss.updBlk twinBlocks (fun x => x.setTbar armedIss.scr (armedIss.uni arriveWord 1 arriveWord.a)
      (b.change armedIss.lanes.length 0))).wordDone armedIss)) = [true, true] := by
  decide +kernel

/-- Refutes O55, in its clause on `tbarr`: the statement is about every state, also one that holds two blocks of one LSQ and one ticket.
There `tbarr` lowers the counts of each block's own barrier, but the statement writes the barrier of the issuing path's block, as it
finds it before the word, to both. `tbexp` differs in the same way; the clauses on the counts themselves (10_ordering.md:R228) are not
touched by this. -/
theorem not_transferBarriers : ¬ Obligations.TransferBarriers := by
  rintro ⟨hwords, -⟩
  obtain ⟨-, -, -, -, htbarr, -⟩ := hwords twinBlocks arriveWord armedIss
  obtain ⟨hoff, harm, hfits⟩ := armedIss_armed
  have hstate := htbarr armedIss_issues (by rw [hoff]; exact ⟨⟨rfl, hfits⟩, harm⟩)
  have harms := congrArg armedAfter hstate
  rw [armedAfter_exec, armedAfter_copied] at harms
  exact absurd harms (by decide)

end Sys2Proof.Machine
end

section
/-! ## O5. Fences and drains -/

namespace Sys2Proof.Machine

variable {s : State} {w : W} {i : Iss} {ins : Instr} {k : Park} {r : Ref}

/-- A WORD THAT WAITS FOR A CONDITION completes when it holds or when its wait was released, and parks otherwise
(10_ordering.md:R221, R231). -/
theorem waits_of_parkUntil (he : exec ins s = .next (finish i (parkUntil k i s))) :
    (∀ ok v, i.path.park = .released ok v → Completes ins s i s) ∧
    ((i.path.park = .run ∨ ∃ n, i.path.park = .stall n) →
      (s.fencePassed i.warp k = true → Completes ins s i s) ∧
      (¬ s.fencePassed i.warp k = true → StepsBy ins s i (fun wp => wp.parkAt i.r.lane k))) := by
  have hjudged : (i.path.park = .run ∨ ∃ n, i.path.park = .stall n) → parkUntil k i s =
      if s.fencePassed i.warp k then .done s else .stay (s.updRef i.r (fun wp => wp.parkAt i.r.lane k)) := by
    rintro (hp | ⟨n, hp⟩)
    · rw [parkUntil, hp]
    · rw [parkUntil, hp]
  refine ⟨fun ok v hp => ?_, fun hp => ⟨fun h => ?_, fun h => ?_⟩⟩
  · rw [parkUntil, hp] at he
    exact he
  · rw [hjudged hp, if_pos h] at he
    exact he
  · rw [hjudged hp, if_neg h] at he
    exact he

/-- The operations that a fence waits for are outstanding groups of its warp, and fetches of it (10_ordering.md:R221;
07_isa_matrix.md:R195). -/
theorem mem_fenceOps {scope op : Nat} : op ∈ s.fenceOps r scope ↔
    (∃ x ∈ s.groups, (x.lsq = r.lsq ∧ x.tkt = r.tkt ∧ x.wrp = r.wrp ∧ (scope ≠ 1 ∨ x.chip = true)) ∧ x.op = op) ∨
    ∃ m ∈ s.fetches, (m.src.lsq = r.lsq ∧ m.src.tkt = r.tkt ∧ m.src.wrp = r.wrp) ∧ m.id = op := by
  simp [State.fenceOps, and_assoc]

theorem fenceOps_eq_nil_iff {scope : Nat} : s.fenceOps r scope = [] ↔
    (∀ x ∈ s.groups, ¬ (x.lsq = r.lsq ∧ x.tkt = r.tkt ∧ x.wrp = r.wrp ∧ (scope ≠ 1 ∨ x.chip = true))) ∧
    ∀ m ∈ s.fetches, ¬ (m.src.lsq = r.lsq ∧ m.src.tkt = r.tkt ∧ m.src.wrp = r.wrp) := by
  simp [State.fenceOps, List.filter_eq_nil_iff, and_assoc]

/-- No confidential copy of a warp owes its status word (17_prog_copyin.md:R318). -/
theorem statusOps_eq_nil_iff : s.statusOps r = [] ↔
    ∀ o ∈ s.copies, o.gcm.isSome = true → o.data = none → o.src.sameWarp r = false := by
  simp [State.statusOps, List.filter_eq_nil_iff]

/-- Operations that are all outstanding have completed only when there are none. -/
theorem opsDone_iff_nil {ops : List Nat}
    (h : ∀ o ∈ ops, (∃ x ∈ s.groups, x.op = o) ∨ ∃ m ∈ s.fetches, m.id = o) : s.opsDone ops = true ↔ ops = [] := by
  rw [opsDone_iff, List.eq_nil_iff_forall_not_mem]
  refine forall_congr' fun o => ⟨fun hd ho => ?_, fun hn ho => absurd ho hn⟩
  obtain ⟨hgroups, hfetches⟩ := hd ho
  obtain ⟨x, hx, hop⟩ | ⟨m, hm, hid⟩ := h o ho
  · exact hgroups x hx hop
  · exact hfetches m hm hid

/-- Every operation that a fence waits for is outstanding. -/
theorem outstanding_of_mem_fenceOps {scope op : Nat} (h : op ∈ s.fenceOps r scope) :
    (∃ x ∈ s.groups, x.op = op) ∨ ∃ m ∈ s.fetches, m.id = op :=
  (mem_fenceOps.1 h).imp (fun ⟨x, hx, _, hop⟩ => ⟨x, hx, hop⟩) fun ⟨m, hm, _, hid⟩ => ⟨m, hm, hid⟩

/-- The operations of a core on a path (10_ordering.md:R231). -/
def pathOps (s : State) (core kind : Nat) : List Nat := (s.groups.filter (fun g => g.core == core && g.kind == kind)).map OpGroup.op

theorem outstanding_of_mem_pathOps {core kind op : Nat} (h : op ∈ pathOps s core kind) :
    (∃ x ∈ s.groups, x.op = op) ∨ ∃ m ∈ s.fetches, m.id = op := by
  obtain ⟨x, hx, rfl⟩ := List.mem_map.1 h
  exact .inl ⟨x, (List.mem_filter.1 hx).1, rfl⟩

/-- The status words that a fence of the core waits for have been stored only when none is owed. -/
theorem statusPassed_iff : s.fencePassed i.warp (.fence 0 (s.statusOps r)) = true ↔ s.statusOps r = [] := by
  change s.statusDone _ = true ↔ _
  rw [statusDone_iff, List.eq_nil_iff_forall_not_mem]
  refine forall_congr' fun o => ⟨fun hd ho => ?_, fun hn ho => absurd ho hn⟩
  obtain ⟨x, hx, hop⟩ := List.mem_map.1 ho
  obtain ⟨hx, howed⟩ := List.mem_filter.1 hx
  simp only [Bool.and_eq_true, Option.isSome_iff_ne_none, Option.isNone_iff_eq_none] at howed
  obtain ⟨⟨hgcm, hdata⟩, -⟩ := howed
  exact (hd ho x hx hop).elim hgcm fun h => h hdata

/-- A fence wider than the core may go on when nothing of its scope is outstanding and the scope's time has passed
(10_ordering.md:R221). -/
theorem fencePassed_iff {scope : Nat} (hs : scope ≠ 0) : s.fencePassed i.warp (.fence scope (s.fenceOps r scope)) = true ↔
    s.fenceOps r scope = [] ∧ (i.warp.wctOf scope).toNat < s.time.toNat := by
  obtain ⟨n, rfl⟩ := Nat.exists_eq_succ_of_ne_zero hs
  change (s.opsDone _ && decide _) = true ↔ _
  rw [Bool.and_eq_true, decide_eq_true_eq, opsDone_iff_nil fun _ => outstanding_of_mem_fenceOps]

/-- A drain may go on when none of its operations is outstanding and, of an outgoing path, its time has passed
(10_ordering.md:R231). -/
theorem drainPassed_iff {kind : Nat} {ops : List Nat} {c : DWord}
    (h : ∀ o ∈ ops, (∃ x ∈ s.groups, x.op = o) ∨ ∃ m ∈ s.fetches, m.id = o) : s.fencePassed i.warp (.drain kind ops c) = true ↔
    ops = [] ∧ (kind = 1 ∨ (tmax c (i.warp.wctOf 2)).toNat < s.time.toNat) := by
  change (s.opsDone _ && (kind == 1 || decide _)) = true ↔ _
  rw [Bool.and_eq_true, Bool.or_eq_true, decide_eq_true_eq, beq_iff_eq, opsDone_iff_nil h]

theorem exec_fence (hi : Issues .fence w s i) : exec (.fence w) s = .next (finish i
    (parkUntil (.fence w.mod.toNat (if w.mod = 0 then s.statusOps i.r else s.fenceOps i.r w.mod.toNat)) i s)) := by
  have he : exec (.fence w) s = execFence w s := rfl
  rw [he, execFence, issueW_issues _ hi]

theorem exec_drain (hi : Issues .drain w s i) : exec (.drain w) s = .next (finish i (let kind := w.mod.toNat + 1
    if kind = 1 then parkUntil (.drain 1 (pathOps s i.warp.core kind) 0) i s
    else parkUntil (.drain kind (pathOps s i.warp.core kind ++ s.fenceOps i.r 2)
      (cget s.pathCpod (2 * i.warp.core + (kind - 2)))) i s)) := by
  have he : exec (.drain w) s = execDrain w s := rfl
  rw [he, execDrain, issueW_issues _ hi]
  rfl

/-- Settles O5: a fence or drain completes or parks by its condition (`waits_of_parkUntil`), and the operations that it lists are all
outstanding, so that they have completed exactly when there are none (`opsDone_iff_nil`). -/
theorem fencesAndDrains : Obligations.FencesAndDrains := by
  intro s w i scope issues own fetched ops status wctp wct passed kind mine park c both
  have hpassed : w.mod ≠ 0 → (s.fencePassed i.warp (.fence scope ops) = true ↔ passed) := fun hm =>
    fencePassed_iff fun h => hm (BitVec.eq_of_toNat_eq h)
  have hcore : s.fencePassed i.warp (.drain 1 mine 0) = true ↔ mine = [] :=
    (drainPassed_iff fun _ => outstanding_of_mem_pathOps).trans (and_iff_left (.inl rfl))
  have hout : w.mod ≠ 0 → (s.fencePassed i.warp (.drain kind both c) = true ↔ both = [] ∧ (tmax c wctp).toNat < s.time.toNat) :=
    fun hm => (drainPassed_iff fun o ho => (List.mem_append.1 ho).elim outstanding_of_mem_pathOps outstanding_of_mem_fenceOps).trans
      (and_congr_right fun _ => or_iff_right fun h => hm (BitVec.eq_of_toNat_eq (Nat.succ.inj h)))
  have hfence0 : Issues .fence w s i → w.mod = 0 → exec (.fence w) s = .next (finish i (parkUntil (.fence 0 status) i s)) :=
    fun hi hm => by
      rw [exec_fence hi, if_pos hm, hm]
      rfl
  have hfence : Issues .fence w s i → w.mod ≠ 0 → exec (.fence w) s = .next (finish i (parkUntil (.fence scope ops) i s)) :=
    fun hi hm => by rw [exec_fence hi, if_neg hm]
  have hdrain0 : Issues .drain w s i → w.mod = 0 → exec (.drain w) s = .next (finish i (parkUntil (.drain 1 mine 0) i s)) :=
    fun hi hm => by
      have hk : w.mod.toNat + 1 = 1 := by rw [hm]; rfl
      rw [exec_drain hi, if_pos hk]
      rfl
  have hdrain : Issues .drain w s i → w.mod ≠ 0 → exec (.drain w) s = .next (finish i (parkUntil (.drain kind both c) i s)) :=
    fun hi hm => by
      have hk : ¬ w.mod.toNat + 1 = 1 := fun h => hm (BitVec.eq_of_toNat_eq (Nat.succ.inj h))
      rw [exec_drain hi, if_neg hk]
      rfl
  refine ⟨statusOps_eq_nil_iff, fenceOps_eq_nil_iff, fun hi hm hp h => ?_, fun hi hm hp h => ?_, fun hi hm hp h => ?_,
    fun hi hm hp h => ?_, fun ok v hi hp => ?_, fun hi hm hp h => ?_, fun hi hm hp h => ?_, fun hi hm hp hb ht => ?_,
    fun hi hm hp h => ?_, fun ok v hi hp => ?_⟩
  · exact ((waits_of_parkUntil (hfence0 hi hm)).2 hp).1 (statusPassed_iff.2 h)
  · exact ((waits_of_parkUntil (hfence0 hi hm)).2 hp).2 (mt statusPassed_iff.1 h)
  · exact ((waits_of_parkUntil (hfence hi hm)).2 hp).1 ((hpassed hm).2 h)
  · exact ((waits_of_parkUntil (hfence hi hm)).2 hp).2 (mt (hpassed hm).1 h)
  · exact (waits_of_parkUntil (exec_fence hi)).1 ok v hp
  · exact ((waits_of_parkUntil (hdrain0 hi hm)).2 hp).1 (hcore.2 h)
  · exact ((waits_of_parkUntil (hdrain0 hi hm)).2 hp).2 (mt hcore.1 h)
  · exact ((waits_of_parkUntil (hdrain hi hm)).2 hp).1 ((hout hm).2 ⟨hb, ht⟩)
  · exact ((waits_of_parkUntil (hdrain hi hm)).2 hp).2 (mt (hout hm).1 h)
  · by_cases hm : w.mod = 0
    · exact (waits_of_parkUntil (hdrain0 hi hm)).1 ok v hp
    · exact (waits_of_parkUntil (hdrain hi hm)).1 ok v hp

end Sys2Proof.Machine
end

section
/-! ## Judgments of the detector, and places filled: what they leave -/

namespace Sys2Proof.Machine

variable {s t u : State} {i : Iss}

/-- A change of the grids alone. -/
def State.GridsOnly (s t : State) : Prop := ∃ l, t = { s with grids := l }

theorem State.GridsOnly.refl (s : State) : s.GridsOnly s := ⟨s.grids, rfl⟩

theorem State.GridsOnly.trans (hst : s.GridsOnly t) (htu : t.GridsOnly u) : s.GridsOnly u := by
  obtain ⟨_, rfl⟩ := hst
  obtain ⟨_, rfl⟩ := htu
  exact ⟨_, rfl⟩

/-- The detector notes accesses in the logs of grids alone (10_ordering.md:R234). -/
theorem Iss.detect_gridsOnly {kind : Nat} {ss : List (Nat × Nat × Nat)} (h : i.detect kind ss s = .ok u) : s.GridsOnly u := by
  unfold Iss.detect at h
  split at h
  · cases h
    exact .refl s
  · split at h
    · cases h
      exact .refl s
    · simp only at h
      split at h
      · cases h
      · cases h
        exact ⟨_, rfl⟩

/-- See `Iss.detect_gridsOnly`. -/
theorem Iss.detectAll_gridsOnly {ks : List (Nat × List (Nat × Nat × Nat))} (h : i.detectAll ks s = .ok u) : s.GridsOnly u := by
  unfold Iss.detectAll at h
  split at h
  next x hx =>
    subst h
    simpa using List.find?_some hx
  next =>
    cases h
    refine List.foldlRecOn ks _ (motive := s.GridsOnly) (.refl s) fun t ht k _ => ?_
    split
    next hk => exact ht.trans (Iss.detect_gridsOnly hk)
    next => exact ht

/-- Filling the TLB for a place changes the TLB alone (16_isolation.md:R304). -/
theorem placeFill_frame (i : Iss) (s : State) (acc : Acc) (p : Place) (rows : List (Nat × Nat)) :
    ∃ l, (placeFill i s acc p rows).2 = { s with mem := { s.mem with tlb := l } } := by
  cases p with
  | sp o => exact ⟨s.mem.tlb, rfl⟩
  | glob va =>
    refine List.foldlRecOn rows _ (motive := fun t : State => ∃ l, t = { s with mem := { s.mem with tlb := l } })
      ⟨s.mem.tlb, rfl⟩ fun t ht r _ => ?_
    obtain ⟨l, rfl⟩ := ht
    exact State.fillRange_frame ..

end Sys2Proof.Machine
end

section
/-! ## O56. Copies -/

namespace Sys2Proof.Machine

variable {s u : State} {w : W} {i : Iss}

/-- `tcopy` judges its operands and ranges, and starts its copy (11_isa_memory.md:R246, R247). -/
theorem exec_tcopy (hi : Issues .tcopy w s i) (hc : i.warp.canRaise (i.counter w) = true) : let o := tcopyOf w i
    let good := copyOk w i o = true ∧ i.optTbOk w = true ∧ placeInside i o.to_ o.rows = true ∧ placeInside i o.from_ o.srcRows = true
    (¬ good → Traps (.tcopy w) s i { cause := 3, mask := i.act }) ∧
    (good → exec (.tcopy w) s = .next (finish i (startCopy w o i s))) := by
  intro o good
  have he : exec (.tcopy w) s = execTcopy w s := rfl
  rw [execTcopy, issueW_issues _ hi, withCounter_raises hc] at he
  refine ⟨fun hg => ?_, fun hg => ?_⟩
  · by_cases hok : copyOk w i o = true ∧ i.optTbOk w = true
    · have hout : (!placeInside i o.to_ o.rows || !placeInside i o.from_ o.srcRows) = true := by
        by_contra hin
        exact hg ⟨hok.1, hok.2, by simpa using hin⟩
      have hillegal : startCopy w o i s = i.illegal s := if_pos hout
      rw [if_neg (by simp [o, hok]), hillegal] at he
      exact he
    · rw [if_pos (by simpa [o, imp_iff_not_or] using hok)] at he
      exact he
  · obtain ⟨hok, htb, -⟩ := hg
    rw [if_neg (by simp [o, hok, htb])] at he
    exact he

/-- `mcast` judges its operands and ranges, waits behind the warp's asynchronous operations, and is carried out
(11_isa_memory.md:R251; 10_ordering.md:R225). -/
theorem exec_mcast (hi : Issues .mcast w s i) (hc : i.warp.canRaise (i.counter w) = true) : let q := BitVec.ofNat 128 (i.uni w 4 w.a)
    let src := i.place w (w.mod == 0) w.b
    let rows := [(0, bits q 64 32)]
    let good := castOk q = true ∧ castInside i.grid q = true ∧ i.optTbOk w = true ∧ placeInside i src rows = true
    let ts := (rectCores (bits q 0 4) (bits q 4 4) (bits q 8 4 + 1) (bits q 12 4 + 1)).map (castTargetOf i s q)
    let g := fun u : State => (placeFill i u .load src rows).2.startGroup i w
      (if ts.any (fun t => t.core == i.warp.core) then 1 else 0) (placeFill i u .load src rows).1
      (ts.foldl (fun n t => n + t.todo.length) 0)
    let op := fun u : State => ({ op := (g u).1, src := i.r, ctx := i.ctx, from_ := src, dst := bits q 32 32, len := bits q 64 32
                                  bar := i.optTb w, rbar := if q.getLsbD 127 then some (16 * bits q 112 15) else none
                                  targets := ts } : CastOp)
    let front := i.behind .load (placeRanges i src rows) s = false
    let det := i.detectAll [(0, placeSectors i s .load src rows), (1, castSectors i s q ts)] s
    (¬ good → Traps (.mcast w) s i { cause := 3, mask := i.act }) ∧
    (∀ t, good → placeFault i s .load src rows = some t → Traps (.mcast w) s i { t with mask := i.act }) ∧
    (good → placeFault i s .load src rows = none → ¬ front → Stalls (.mcast w) s i none) ∧
    (∀ t, good → placeFault i s .load src rows = none → front → det = .error t → Traps (.mcast w) s i { t with mask := i.act }) ∧
    (∀ u, good → placeFault i s .load src rows = none → front → det = .ok u →
      Completes (.mcast w) s i { (g u).2 with casts := (g u).2.casts ++ [op u] }) := by
  intro q src rows good ts g op front det
  have he : exec (.mcast w) s = execMcast w s := rfl
  have hgood : (!castOk q || !castInside i.grid q || !i.optTbOk w || !placeInside i src rows) = true ↔ ¬ good := by
    simp [good, imp_iff_not_or, or_assoc]
  rw [execMcast, issueW_issues _ hi, withCounter_raises hc] at he
  refine ⟨fun hg => ?_, fun t hg hf => ?_, fun hg hf hb => ?_, fun t hg hf hb hd => ?_, fun u hg hf hb hd => ?_⟩
  · rw [if_pos (hgood.2 hg)] at he
    exact he
  all_goals
    rw [if_neg (mt hgood.1 (not_not.2 hg)), hf] at he
  · exact he
  all_goals
    dsimp only at he
    rw [inOrder] at he
  · rw [if_pos (Bool.eq_true_of_not_eq_false hb)] at he
    exact stalls_of_stall he
  all_goals
    rw [if_neg (Bool.eq_false_iff.1 hb), show i.detectAll _ s = _ from hd] at he
    exact he

/-- The engine's operations and the bytes of memory, once a word's accesses have been judged and a place filled. -/
theorem placeFill_engines (h : u.copies = s.copies ∧ u.casts = s.casts ∧ ∀ sys a, u.mem.byte sys a = s.mem.byte sys a)
    (acc : Acc) (p : Place) (rows : List (Nat × Nat)) : let t := (placeFill i u acc p rows).2
    t.copies = s.copies ∧ t.casts = s.casts ∧ ∀ sys a, t.mem.byte sys a = s.mem.byte sys a := by
  obtain ⟨l, hl⟩ := placeFill_frame i u acc p rows
  rw [hl]
  exact h

theorem gridsOnly_engines (h : s.GridsOnly u) :
    u.copies = s.copies ∧ u.casts = s.casts ∧ ∀ sys a, u.mem.byte sys a = s.mem.byte sys a := by
  obtain ⟨_, rfl⟩ := h
  exact ⟨rfl, rfl, fun _ _ => rfl⟩

/-- Copies and multicasts are handed to their engine with every sector to do, and no byte changes (11_isa_memory.md:R246 to R252). -/
theorem copyWords : Claims.CopyWords := by
  intro s w i hc o good clear status det kind fill both g q src rows cast ts front cdet h op
  have hinside : good → ¬ (!placeInside i o.to_ o.rows || !placeInside i o.from_ o.srcRows) = true := fun ⟨_, _, hto, hfrom⟩ => by
    simp [hto, hfrom]
  have htrap : ∀ t, Issues .tcopy w s i → good → startCopy w o i s = .trap s t → Traps (.tcopy w) s i t := fun t hi hg hr =>
    finish_congr ((exec_tcopy hi hc).2 hg) hr
  have hdone : ∀ u, Issues .tcopy w s i → good → startCopy w o i s = .done u → Completes (.tcopy w) s i u := fun u hi hg hr =>
    finish_congr ((exec_tcopy hi hc).2 hg) hr
  have hdet : det = i.detectAll [(0, placeSectors i s .load o.from_ o.srcRows),
    (1, placeSectors i s .store o.to_ o.rows ++ statusSectors i o)] s := rfl
  have hcast := fun hi : Issues .mcast w s i => exec_mcast hi hc
  refine ⟨fun hi => (exec_tcopy hi hc).1, fun t hi hg hl hs => htrap _ hi hg ?_, fun t hi hg hl hs => htrap _ hi hg ?_,
    fun t u hi hg hl hs => htrap _ hi hg ?_, fun t hi hg ⟨hl, hs⟩ hd => htrap _ hi hg ?_,
    fun v hi hg ⟨hl, hs⟩ hd => ⟨hdone _ hi hg ?_, ?_⟩, fun hi hg => ?_, fun t hi hg hf => ?_, fun hi hg hf hb => ?_,
    fun t hi hg hf hb hd => ?_, fun u hi hg hf hb hd => ⟨?_, ?_⟩⟩
  · rw [startCopy, if_neg (hinside hg), hl, hs]
  · rw [startCopy, if_neg (hinside hg), hl, hs]
  · rw [startCopy, if_neg (hinside hg), hl, hs]
  · rw [startCopy, if_neg (hinside hg), hl, hs]
    dsimp only
    rw [← hdet, hd]
  · rw [startCopy, if_neg (hinside hg), hl, hs]
    dsimp only
    rw [← hdet, hd]
  · obtain ⟨hcopies, -, hbyte⟩ := placeFill_engines (i := i) (placeFill_engines (i := i)
      (gridsOnly_engines (Iss.detectAll_gridsOnly hd)) .load o.from_ o.srcRows) .store o.to_ o.rows
    exact ⟨hcopies, hbyte⟩
  · obtain ⟨hbad, -⟩ := hcast hi
    exact hbad hg
  · obtain ⟨-, hfault, -⟩ := hcast hi
    exact hfault t hg hf
  · obtain ⟨-, -, hstall, -⟩ := hcast hi
    exact hstall hg hf hb
  · obtain ⟨-, -, -, hrefused, -⟩ := hcast hi
    exact hrefused t hg hf hb hd
  · obtain ⟨-, -, -, -, hdone⟩ := hcast hi
    exact hdone u hg hf hb hd
  · obtain ⟨-, hcasts, hbyte⟩ := placeFill_engines (i := i) (gridsOnly_engines (Iss.detectAll_gridsOnly hd)) .load src rows
    exact ⟨hcasts, hbyte⟩

/-- Every byte of a range lies in exactly one of its sectors (11_isa_memory.md:R248). -/
theorem sectorsCover : Claims.SectorsCover := by
  intro d len k hk n
  simp only [sectorCount, cdiv, sectorPiece]
  refine ⟨rfl, (d + k) / 32 - d / 32, ?_, ?_, ?_, fun i hi hlo hhi => ?_, ?_⟩ <;> omega

/-- Settles O56: a word that starts a copy or a multicast judges it, and hands it to the engine (`exec_tcopy`, `exec_mcast`); what it
judges and fills changes neither the engine's operations nor a byte (`placeFill_engines`). -/
theorem copyEngine : Obligations.CopyEngine := ⟨copyWords, sectorsCover⟩

end Sys2Proof.Machine
end

section
/-! ## Numbers and their bytes -/

namespace Sys2Proof.Machine

/-- The number of some bytes fits them (00_scope.md:R2). -/
theorem leNat_lt (l : List Byte) : leNat l < 256 ^ l.length := by
  induction l with
  | nil => exact Nat.one_pos
  | cons b r ih =>
    rw [leNat, List.length_cons, Nat.pow_succ']
    have hb : b.toNat < 256 := b.isLt
    omega

/-- The bytes of a number read back as the number, modulo what they hold (00_scope.md:R2). -/
theorem leNat_leBytes (k n : Nat) : leNat (leBytes k n) = n % 256 ^ k := by
  induction k generalizing n with
  | zero => rw [Nat.pow_zero, Nat.mod_one]; rfl
  | succ k ih =>
    rw [leBytes, leNat, ih, BitVec.toNat_ofNat, show 256 ^ (k + 1) = 256 * 256 ^ k from Nat.pow_succ']
    exact Nat.mod_mul.symm

theorem Memory.length_bytes (m : Memory) (sys : Bool) (pa n : Nat) : (m.bytes sys pa n).length = n := by
  cases sys
  · exact length_cgetMany ..
  · exact length_cgetMany ..

theorem Memory.nat_lt (m : Memory) (sys : Bool) (pa n : Nat) : m.nat sys pa n < 256 ^ n :=
  (leNat_lt _).trans_eq (by rw [Memory.length_bytes])

end Sys2Proof.Machine
end

section
/-! ## O57. Cache control -/

namespace Sys2Proof.Machine

variable {s : State} {w : W} {i : Iss}

/-- A change of the locks of lines alone. -/
def State.LocksOnly (s t : State) : Prop := t = { s with mem := { s.mem with locks := t.mem.locks } }

/-- The lock of a line changes the locks alone; it answers true with the line locked, and leaves the state when it answers false
(11_isa_memory.md:R256). -/
theorem State.lockLine_spec (s : State) (ctx : Nat) (x : Xlat) : s.LocksOnly (s.lockLine ctx x).2 ∧
    ((s.lockLine ctx x).1 = true → (s.lockLine ctx x).2.mem.locks.any (fun k => k.2 == x.pa / 128) = true) ∧
    ((s.lockLine ctx x).1 = false → (s.lockLine ctx x).2 = s) := by
  unfold State.lockLine
  dsimp only
  split
  · exact ⟨rfl, fun h => absurd h Bool.false_ne_true, fun _ => rfl⟩
  · split
    next hlocked => exact ⟨rfl, fun _ => hlocked, fun h => absurd h.symm Bool.false_ne_true⟩
    next =>
      split
      · exact ⟨rfl, fun h => absurd h Bool.false_ne_true, fun _ => rfl⟩
      · exact ⟨rfl, fun _ => by simp, fun h => absurd h.symm Bool.false_ne_true⟩

/-- The lanes of an `lkl` whose lines are locked, and the state with the locks, lanes ascending (11_isa_memory.md:R256). -/
def lockLanes (w : W) (i : Iss) (s : State) : List Nat × State :=
  i.lanes.foldl (fun (a : List Nat × State) l => match i.lineOf w a.2 l with
    | some x => let k := a.2.lockLine i.ctx x.1; (if k.1 then a.1 ++ [l] else a.1, k.2)
    | none => a) ([], s)

theorem lockLanes_locksOnly (w : W) (i : Iss) (s : State) : s.LocksOnly (lockLanes w i s).2 := by
  refine List.foldlRecOn i.lanes _ (motive := fun a : List Nat × State => s.LocksOnly a.2) rfl fun a ha l _ => ?_
  split
  next x _ =>
    have hk := (a.2.lockLine_spec i.ctx x.1).1
    unfold State.LocksOnly at ha hk ⊢
    dsimp only
    rw [hk, ha]
  next => exact ha

/-- The lines of a `ulk` that have a home slice (11_isa_memory.md:R256). -/
def unlockLines (w : W) (i : Iss) (s : State) : List Nat :=
  i.lanes.filterMap (fun l => match i.lineOf w s l with
    | some x => if x.1.sys then none else some x.2
    | none => none)

/-- `lkl` judges every lane's translation, then locks lane by lane (11_isa_memory.md:R256). -/
theorem exec_lkl (hi : Issues .lkl w s i) :
    (∀ t, s.laneFault i.ctx .load (ctlRanges w i) = some t → Traps (.lkl w) s i t) ∧
    (s.laneFault i.ctx .load (ctlRanges w i) = none → Completes (.lkl w) s i
      ((lockLanes w i s).2.updRef i.r (fun wp => wp.putP w.d i.lanes (fun l => (lockLanes w i s).1.contains l)))) := by
  have he : exec (.lkl w) s = execLkl w s := rfl
  rw [execLkl, issueW_issues _ hi] at he
  refine ⟨fun t hf => ?_, fun hf => ?_⟩
  · rw [hf] at he
    exact he
  · rw [hf] at he
    exact he

/-- `ulk` judges every lane's translation, then unlocks the lines that its context holds (11_isa_memory.md:R256). -/
theorem exec_ulk (hi : Issues .ulk w s i) :
    (∀ t, s.laneFault i.ctx .load (ctlRanges w i) = some t → Traps (.ulk w) s i t) ∧
    (s.laneFault i.ctx .load (ctlRanges w i) = none → Completes (.ulk w) s i { s with mem := { s.mem with
      locks := s.mem.locks.filter (fun k => !(k.1 == i.ctx && (unlockLines w i s).contains k.2)) } }) := by
  have he : exec (.ulk w) s = execUlk w s := rfl
  rw [execUlk, issueW_issues _ hi] at he
  refine ⟨fun t hf => ?_, fun hf => ?_⟩
  · rw [hf] at he
    exact he
  · rw [hf] at he
    exact he

/-- A change of copies in the L1, of the bounds of leases and of the TLB alone. -/
def State.CopiesOnly (s t : State) : Prop :=
  t = { s with mem := { s.mem with l1 := t.mem.l1, lmax := t.mem.lmax, tlb := t.mem.tlb } }

theorem State.CopiesOnly.byte {t : State} (h : s.CopiesOnly t) (sys : Bool) (a : Nat) : t.mem.byte sys a = s.mem.byte sys a := by
  rw [show t = _ from h]
  rfl

/-- A line that is filled, with the translation of its address (10_ordering.md:R216, R217; 16_isolation.md:R304). -/
theorem State.fillLine_copiesOnly (s : State) (core ctx va : Nat) (x : Xlat) :
    s.CopiesOnly ((s.fillTlb ctx va).fillLine core ctx x) := by
  rw [s.fillTlb_frame ctx va]
  unfold State.fillLine State.trimL1 State.CopiesOnly
  dsimp only
  split
  · rfl
  · rfl

/-- `pref` changes nothing for the L2, and fills copies for the L1 (11_isa_memory.md:R255). -/
theorem exec_pref (hi : Issues .pref w s i) : ∃ u, Completes (.pref w) s i u ∧ (w.mod = 0 → u = s) ∧ s.CopiesOnly u := by
  have he : exec (.pref w) s = execPref w s := rfl
  rw [execPref, issueW_issues _ hi] at he
  by_cases hm : w.mod = 0
  · rw [if_pos hm] at he
    exact ⟨s, he, fun _ => rfl, rfl⟩
  · rw [if_neg hm] at he
    refine ⟨_, he, fun h => absurd h hm, ?_⟩
    refine List.foldlRecOn i.lanes _ (motive := s.CopiesOnly) rfl fun t ht l _ => ?_
    split
    next x _ =>
      split
      · exact ht
      · have hfill := t.fillLine_copiesOnly i.warp.core i.ctx (i.src w 2 w.a l) x.1
        unfold State.CopiesOnly at ht hfill ⊢
        rw [hfill, ht]
    next => exact ht

/-- Lines are locked, unlocked and filled, and no byte changes (11_isa_memory.md:R255, R256). -/
theorem cacheControl : Claims.CacheControl := by
  intro s w i rs line r mine
  have hr : r = lockLanes w i s := rfl
  have hmine : mine = unlockLines w i s := rfl
  refine ⟨fun t hi => (exec_lkl hi).1 t, fun t hi => (exec_ulk hi).1 t, fun hi hf => ⟨?_, ?_⟩, fun hi hf => ?_, fun hi => ?_,
    fun x => (s.lockLine_spec i.ctx x).2.1, fun x => (s.lockLine_spec i.ctx x).2.2⟩
  · rw [hr]
    exact (exec_lkl hi).2 hf
  · rw [hr]
    exact lockLanes_locksOnly w i s
  · refine ⟨_, (exec_ulk hi).2 hf, rfl, fun c k => ?_⟩
    rw [hmine]
    simp [List.mem_filter, imp_iff_not_or]
  · obtain ⟨u, hu, hsame, honly⟩ := exec_pref hi
    exact ⟨u, hu, honly.byte, hsame, honly⟩

end Sys2Proof.Machine
end

section
/-! ## O57. Waiting for a word of memory -/

namespace Sys2Proof.Machine

variable {s u : State} {w : W} {i : Iss}

@[simp] theorem State.noteSys_time (s : State) (sys : Bool) (pa : Nat) : (s.noteSys sys pa).time = s.time := by
  unfold State.noteSys
  split <;> rfl

@[simp] theorem State.performHome_time (s : State) (h : HomeOp) : (s.performHome h).time = s.time := State.homeStore_time ..

@[simp] theorem State.flushOwn_time (s : State) (r : Ref) (x : Xlat) (len : Nat) : (s.flushOwn r x len).time = s.time :=
  List.foldlRecOn _ _ (motive := fun t : State => t.time = s.time) rfl fun t ht h _ => (t.performHome_time h).trans ht

@[simp] theorem State.fillTlb_time (s : State) (ctx va : Nat) : (s.fillTlb ctx va).time = s.time := by
  rw [s.fillTlb_frame ctx va]

/-- The four conditions of `waitw`, on a word of memory (11_isa_memory.md:R259). -/
theorem waitwHolds_iff {m : BitVec 5} (x : Nat) (hx : x < 2 ^ 64) (cmp : DWord) : let cond := m.toNat % 4
    waitwHolds (bits m 0 2) (BitVec.ofNat 64 x) cmp = true ↔
      if cond = 0 then x ≠ cmp.toNat else if cond = 1 then x = cmp.toNat else if cond = 2 then cmp.toNat ≤ x else cmp.toNat < x := by
  intro cond
  have hbits : bits m 0 2 = cond := by simp [bits, fld, cond]
  have hword : (BitVec.ofNat 64 x).toNat = x := Nat.mod_eq_of_lt hx
  have heq : BitVec.ofNat 64 x = cmp ↔ x = cmp.toNat := by rw [← BitVec.toNat_inj, hword]
  have hcond : cond < 4 := Nat.mod_lt _ (by decide)
  rw [hbits]
  obtain h | h | h | h : cond = 0 ∨ cond = 1 ∨ cond = 2 ∨ cond = 3 := by omega
  all_goals simp [waitwHolds, h, heq, hword]

/-- WHAT A `waitw` FINDS that was not released: the traps of its address, the stall behind older operations, and the outcome of its
condition at the word's home (11_isa_memory.md:R259). -/
theorem exec_waitw (hi : Issues .waitw w s i) (hwaits : ∀ ok v, i.path.park ≠ .released ok v) : let a := i.uni w 2 w.a
    let cmp := BitVec.ofNat 64 (i.uni w 2 w.b)
    let dl : Option DWord := if w.c = .none then none else some (BitVec.ofNat 64 (i.uni w 2 w.c))
    let fault := s.laneFault i.ctx .load [(i.lane0, a, 8)]
    let det := i.detect 0 (s.detSectors i.ctx .load [(i.lane0, a, 8)]) s
    let front := i.behind .load [(i.lane0, a, 8)] s = false
    let t := fun (u : State) (x : Xlat) => ((u.fillTlb i.ctx a).flushOwn i.r x 8).noteSys x.sys x.pa
    let holds := fun (u : State) (x : Xlat) => waitwHolds (bits w.mod 0 2) (BitVec.ofNat 64 ((t u x).mem.nat x.sys x.pa 8)) cmp
    let late := ∃ d, dl = some d ∧ d.toNat < s.time.toNat
    let go := fun (u : State) (b : Bool) => Completes (.waitw w) s i ((u.observed i a).updRef i.r (fun wp => wp.putP w.d i.lanes (fun _ => b)))
    (a % 8 ≠ 0 → Traps (.waitw w) s i { cause := 3, mask := i.act }) ∧
    (∀ e, a % 8 = 0 → fault = some e → Traps (.waitw w) s i { e with mask := i.act }) ∧
    ∀ x, a % 8 = 0 → fault = none → s.translate i.ctx a .load = .ok x →
      (¬ front → Stalls (.waitw w) s i none) ∧
      (front → (∀ e, det = .error e → Traps (.waitw w) s i { e with mask := i.act }) ∧
        ∀ u, det = .ok u →
          (holds u x = true → go (t u x) true) ∧
          (¬ holds u x = true → late → go (t u x) false) ∧
          (¬ holds u x = true → ¬ late → exec (.waitw w) s = .next
            { (t u x).updRef i.r (fun wp => wp.parkAt i.r.lane (.waitw x.sys x.pa (bits w.mod 0 2) cmp dl)) with cur := none })) := by
  intro a cmp dl fault det front t holds late go
  have he : exec (.waitw w) s = execWaitw w s := rfl
  rw [execWaitw, issueW_issues _ hi] at he
  dsimp only at he
  split at he
  next ok v hp => exact absurd hp (hwaits ok v)
  next =>
    refine ⟨fun ha => ?_, fun e ha hf => ?_, fun x ha hf hx => ⟨fun hb => ?_, fun hb => ⟨fun e hd => ?_, fun u hd => ?_⟩⟩⟩
    · rw [if_pos ha] at he
      exact he
    · rw [if_neg (not_not.2 ha), show s.laneFault i.ctx .load _ = _ from hf] at he
      exact he
    all_goals
      rw [if_neg (not_not.2 ha), show s.laneFault i.ctx .load _ = _ from hf, hx] at he
      dsimp only at he
    · rw [if_pos (Bool.eq_true_of_not_eq_false hb)] at he
      exact stalls_of_stall he
    all_goals
      rw [if_neg (Bool.eq_false_iff.1 hb), show i.detect 0 _ s = _ from hd] at he
      dsimp only at he
    · exact he
    · have htime : (t u x).time = s.time := by
        obtain ⟨_, rfl⟩ := Iss.detect_gridsOnly hd
        simp [t]
      have hlate : (match dl with | some d => decide (d.toNat < (t u x).time.toNat) | none => false) = true ↔ late := by
        rw [htime]
        cases hdl : dl with
        | none => simp [late, hdl]
        | some d => simp [late, hdl]
      refine ⟨fun hh => ?_, fun hh hl => ?_, fun hh hl => ?_⟩
      · rw [if_pos hh] at he
        exact he
      · rw [if_neg hh, if_pos] at he
        · exact he
        · exact hlate.2 hl
      · rw [if_neg hh, if_neg] at he
        · exact he
        · exact mt hlate.1 hl

/-- A word that was observed leaves no older copy of its line in the core's L1 (10_ordering.md:R213). -/
theorem State.observed_spec (u : State) (i : Iss) (a : Nat) : ∃ l1, u.observed i a = { u with mem := { u.mem with l1 := l1 } } ∧
    (∀ c ∈ l1, c ∈ u.mem.l1) ∧
    ∀ x, u.translate i.ctx a .load = .ok x → x.sys = false → ∀ c ∈ l1, ¬ (c.core = i.warp.core ∧ c.line = x.pa / 128) := by
  cases hx : u.translate i.ctx a .load with
  | error e => exact ⟨u.mem.l1, by rw [State.observed, hx], fun _ h => h, fun _ h => nomatch h⟩
  | ok x =>
    have hforgets : u.observed i a = u.forgetLines i.warp.core x.sys x.pa 8 := by rw [State.observed, hx]
    by_cases hs : x.sys = true
    · refine ⟨u.mem.l1, by rw [hforgets, State.forgetLines, if_pos hs], fun _ h => h, fun y hy hsys => ?_⟩
      cases hy
      exact absurd hs (Bool.eq_false_iff.1 hsys)
    · refine ⟨_, by rw [hforgets, State.forgetLines, if_neg hs], fun c hc => (List.mem_filter.1 hc).1, fun y hy _ c hc => ?_⟩
      cases hy
      rintro ⟨hcore, hline⟩
      have hkept := (List.mem_filter.1 hc).2
      simp only [hcore, hline, inLine, beq_self_eq_true, Bool.true_and, Bool.not_eq_true', decide_eq_false_iff_not] at hkept
      omega

/-- A `waitw` and what it finds (11_isa_memory.md:R259). -/
theorem waitForWord : Claims.WaitForWord := by
  intro s w i hi a cmp cond dl late holds fault det t front val go waits
  have hcond : bits w.mod 0 2 = cond := by simp [bits, fld, cond]
  have hholds : ∀ u x, waitwHolds (bits w.mod 0 2) (BitVec.ofNat 64 (val u x)) cmp = true ↔ holds (val u x) := fun u x =>
    waitwHolds_iff _ (Memory.nat_lt ..) cmp
  refine ⟨fun ok v hp => ?_, fun hw ha => ?_, fun e hw ha hf => ?_, fun x hw ha hf hx hb => ?_, fun x e hw ha hf hx hb hd => ?_,
    fun x u hw ha hf hx hb hd hh => ?_, fun x u hw ha hf hx hb hd hh hl => ?_, fun x u hw ha hf hx hb hd hh hl => ?_,
    fun u => u.observed_spec i a⟩
  · have he : exec (.waitw w) s = execWaitw w s := rfl
    rw [execWaitw, issueW_issues _ hi] at he
    dsimp only at he
    rw [hp] at he
    exact he
  · exact (exec_waitw hi hw).1 ha
  · exact (exec_waitw hi hw).2.1 e ha hf
  all_goals obtain ⟨hstall, hjudged⟩ := (exec_waitw hi hw).2.2 x ha hf hx
  · exact hstall hb
  all_goals obtain ⟨hrefused, hfound⟩ := hjudged hb
  · exact hrefused e hd
  all_goals obtain ⟨htrue, hlate, hparks⟩ := hfound u hd
  · exact htrue ((hholds u x).2 hh)
  · exact hlate (mt (hholds u x).1 hh) hl
  · rw [← hcond]
    exact hparks (mt (hholds u x).1 hh) hl

/-- Settles O57: locks and copies of lines are all that cache control changes (`lockLanes_locksOnly`, `exec_pref`); a `waitw` finds its
word at its home, or waits (`exec_waitw`). -/
theorem cacheAndWaits : Obligations.CacheAndWaits := ⟨cacheControl, waitForWord⟩

end Sys2Proof.Machine
end

section
/-! ## O54. Atomic words -/

namespace Sys2Proof.Machine

variable {s u : State} {w : W} {i : Iss}

theorem atomTy_eq (w : W) : atomTy w = w.imm.toNat % 2 ^ 8 := by simp [atomTy, bits, fld]

/-- The checks of an atomic before any access: alignment, and no destination for a float atomic of a deterministic grid
(11_isa_memory.md:R244; 10_ordering.md:R224). -/
theorem atomBad_iff {addr : Nat → Nat} : atomBad w i addr = true ↔ (∃ l ∈ i.lanes, addr l % atomBytes (atomTy w) ≠ 0) ∨
    (i.grid.rec_.det = true ∧ atomTy w = 1 ∧ w.d ≠ .none) := by
  simp [atomBad, atomRet, and_assoc]

/-- The lanes of an `atomg` performed at their homes, ascending, as one operation (11_isa_memory.md:R244). -/
def atomRun (w : W) (i : Iss) (addr : Nat → Nat) (u : State) : AtomRun × State :=
  let g := u.startGroup i w 0 true i.lanes.length
  i.lanes.foldl (fun a l => atomAtHome w i g.1 a l (addr l)) ({ got := [], bad := none }, g.2)

/-- `atomg` judges its lanes, waits for room, asks the detector, and performs its lanes at their homes, or holds them back
(11_isa_memory.md:R244; 10_ordering.md:R223, R224). -/
theorem exec_atomg (hi : Issues .atomg w s i) (hc : i.warp.canRaise (i.counter w) = true) :
    let addr := fun l => i.src w 2 w.a l
    let rs := i.lanes.map (fun l => (l, addr l, atomBytes (atomTy w)))
    let filled := fun u : State => rs.foldl (fun s x => s.fillRange i.ctx x.2.1 x.2.2) u
    let later := i.grid.rec_.det = true ∧ atomTy w = 1
    (atomBad w i addr = true → Traps (.atomg w) s i { cause := 3, mask := i.act }) ∧
    ∀ u, ¬ atomBad w i addr = true → s.laneFault i.ctx .store rs = none → HasRoom s i .store rs →
      i.detect (atomKind w) (s.detSectors i.ctx .store rs) s = .ok u →
      (later → Completes (.atomg w) s i (deferAtom w i addr (filled u))) ∧
      (¬ later → (atomRun w i addr (filled u)).1.bad = none → Completes (.atomg w) s i
        ((atomRun w i addr (filled u)).2.updRef i.r (landAtom w i (atomRun w i addr (filled u)).1))) := by
  intro addr rs filled later
  have he : exec (.atomg w) s = execAtomg w s := rfl
  have hlater : (i.grid.rec_.det && atomTy w == 1) = true ↔ later := by simp [later]
  rw [execAtomg, issueW_issues _ hi, withCounter_raises hc] at he
  dsimp only at he
  refine ⟨fun hbad => ?_, fun u hok hf hr hd => ⟨fun hl => ?_, fun hl hrun => ?_⟩⟩
  · rw [if_pos hbad] at he
    exact he
  all_goals
    rw [if_neg hok, hf] at he
    dsimp only at he
    rw [withRoom_room hr, hd] at he
    dsimp only at he
  · rw [if_pos (hlater.2 hl)] at he
    exact he
  · rw [if_neg (mt hlater.1 hl)] at he
    have hend : ∀ v, atomEnd w i (Acc.code .store) addr (atomRun w i addr (filled u)).1 v =
        .done (v.updRef i.r (landAtom w i (atomRun w i addr (filled u)).1)) := fun v => by rw [atomEnd, hrun]
    have hcut : ∀ v v' : State, (if (atomRun w i addr (filled u)).1.bad.isSome then v else v') = v' := fun v v' => by
      rw [hrun]
      rfl
    exact finish_congr he ((hend _).trans (congrArg (fun v : State => Res.done (v.updRef i.r _)) (hcut _ _)))

/-- `atomsp` judges its lanes and their ranges, asks the detector, and performs its lanes, ascending (11_isa_memory.md:R244;
10_ordering.md:R222). -/
theorem exec_atomsp (hi : Issues .atomsp w s i) (hc : i.warp.canRaise (i.counter w) = true) :
    let addr := fun l => i.src w 1 w.a l
    let rs := i.lanes.map (fun l => (l, addr l, atomBytes (atomTy w)))
    let inside := ∀ l ∈ i.lanes, addr l + atomBytes (atomTy w) ≤ i.blk.cores.length * i.scr
    let pad := i.lanes.foldl (fun a l => atomAtScratch w i a l (addr l)) ({ got := [], bad := none }, i.blk)
    (atomBad w i addr = true ∨ ¬ inside → Traps (.atomsp w) s i { cause := 3, mask := i.act }) ∧
    ∀ u, ¬ atomBad w i addr = true → inside → i.detect (atomKind w) (i.detScratch rs) s = .ok u → pad.1.bad = none →
      Completes (.atomsp w) s i ((i.updBlk u (fun b => { b with cores := pad.2.cores })).updRef i.r (landAtom w i pad.1)) := by
  intro addr rs inside pad
  have he : exec (.atomsp w) s = execAtomsp w s := rfl
  have hillegal : (atomBad w i addr || !rs.all (fun x => i.inScratch x.2.1 x.2.2)) = true ↔ atomBad w i addr = true ∨ ¬ inside := by
    simp [rs, Iss.inScratch, inside]
  rw [execAtomsp, issueW_issues _ hi, withCounter_raises hc] at he
  dsimp only at he
  refine ⟨fun h => ?_, fun u hok hin hd hrun => ?_⟩
  · rw [if_pos (hillegal.2 h)] at he
    exact he
  · rw [if_neg (mt hillegal.1 (not_or.2 ⟨hok, not_not.2 hin⟩)), hd] at he
    dsimp only at he
    rw [atomEnd, hrun] at he
    exact he

/-- The atomics of a word's lanes, in both spaces (11_isa_memory.md:R244). -/
theorem atomics : Claims.Atomics := by
  intro s w i hc ty n ga sa gs ss floatRet later inside none_ home pad
  have hn : atomBytes (atomTy w) = n := by
    rw [atomTy_eq]
    rfl
  have hgs : i.lanes.map (fun l => (l, ga l, atomBytes (atomTy w))) = gs := by rw [hn]
  have hss : i.lanes.map (fun l => (l, sa l, atomBytes (atomTy w))) = ss := by rw [hn]
  have hfloat : floatRet ↔ i.grid.rec_.det = true ∧ atomTy w = 1 ∧ w.d ≠ .none := by rw [atomTy_eq]
  have hlater : later ↔ i.grid.rec_.det = true ∧ atomTy w = 1 := by rw [atomTy_eq]
  have hbad : ∀ addr : Nat → Nat, atomBad w i addr = true ↔ (∃ l ∈ i.lanes, addr l % n ≠ 0) ∨ floatRet := fun addr => by
    rw [atomBad_iff, hn, hfloat]
  have hok : ∀ addr : Nat → Nat, (∀ l ∈ i.lanes, addr l % n = 0) → ¬ floatRet → ¬ atomBad w i addr = true := fun addr ha hf h =>
    ((hbad addr).1 h).elim (fun ⟨l, hl, hne⟩ => hne (ha l hl)) hf
  refine ⟨fun hi h => (exec_atomg hi hc).1 ((hbad ga).2 h), fun u hi ha hl hf hr hd hrun => ?_, fun u hi ha hl hnone hf hr hd => ?_,
    fun hi h => ?_, fun u hi ha hret hin hd hrun => ?_⟩
  · have hret : ¬ floatRet := fun h => hl ⟨h.1, h.2.1⟩
    obtain ⟨-, hdone⟩ := (exec_atomg hi hc).2 u (hok ga ha hret) (hgs ▸ hf) (hgs ▸ hr) (hgs ▸ hd)
    rw [hgs] at hdone
    exact hdone (mt hlater.2 hl) hrun
  · have hret : ¬ floatRet := fun h => h.2.2 hnone
    obtain ⟨hdefers, -⟩ := (exec_atomg hi hc).2 u (hok ga ha hret) (hgs ▸ hf) (hgs ▸ hr) (hgs ▸ hd)
    rw [hgs] at hdefers
    exact hdefers (hlater.1 hl)
  · refine (exec_atomsp hi hc).1 ?_
    rw [hn]
    exact (or_assoc.2 h).imp_left (hbad sa).2
  · exact (exec_atomsp hi hc).2 u (hok sa ha hret) (hn ▸ hin) (hss ▸ hd) hrun

end Sys2Proof.Machine
end

section
/-! ## O54. What an atomic leaves -/

namespace Sys2Proof.Machine

/-- A location that a store at its home has written (10_ordering.md:R213). -/
theorem State.homeStore_nat (s : State) (core : Option Nat) (sys : Bool) (pa n x : Nat) (mark : Bool) :
    (s.homeStore core sys pa (leBytes n x) mark).mem.nat sys pa n = x % 256 ^ n := by
  obtain ⟨l, k, h⟩ := s.homeStore_mem core sys pa (leBytes n x) mark
  have hbytes := Memory.bytes_write s.mem sys pa (leBytes n x) mark
  rw [length_leBytes] at hbytes
  rw [h]
  exact (congrArg leNat hbytes).trans (leNat_leBytes n x)

/-- ONE LANE'S ATOMIC at a home that is not poisoned, with no store pending (10_ordering.md:R223). -/
theorem atomAtHome_eq {s : State} {w : W} {i : Iss} {g l addr : Nat} {got : List (Nat × Nat × Flags)} {x : Xlat}
    (hops : s.homeOps = []) (hx : s.translate i.ctx addr .store = .ok x) (hclean : s.mem.poisoned x.sys x.pa = false) :
    let n := atomBytes (atomTy w)
    let old := s.mem.nat x.sys x.pa n
    let r := atomNew (atomOp w) (atomTy w) w.sat old (atomArgs w i l).1 (atomArgs w i l).2
    atomAtHome w i g ({ got := got, bad := none }, s) l addr = ({ got := got ++ [(l, old, r.2)], bad := none },
      ((s.noteSys x.sys x.pa).homeStore (some i.warp.core) x.sys x.pa (leBytes n r.1) false).pushReply g
        (s.mem.linked x.sys x.pa n) x.sys x.pa) := by
  intro n old r
  rw [atomAtHome]
  dsimp only
  rw [hx]
  dsimp only
  rw [State.flushOwn_nil hops, State.noteSys_mem, if_neg (Bool.eq_false_iff.1 hclean)]

/-- The results of an atomic on a type of `wd` bits, from its rule (11_isa_memory.md:R244; 04_isa_core.md:R102). -/
theorem atomNew_int {ty wd : Nat} {sg : Bool} (hty : ty ≠ 1) (hsg : intSigned ty = sg) (hwd : 8 * atomBytes ty = wd) (old b c : Nat)
    (sat : Bool) :
    let x := readInt sg wd old
    let y := readInt sg wd b
    atomNew 0 ty sat old b c = (written sg sat wd wd (x + y), limitFlag sg sat wd (x + y)) ∧
    atomNew 1 ty sat old b c = ((BitVec.ofInt wd (if x ≤ y then x else y)).toNat, 0) ∧
    atomNew 2 ty sat old b c = ((BitVec.ofInt wd (if x ≤ y then y else x)).toNat, 0) ∧
    atomNew 3 ty sat old b c = (old &&& b, 0) ∧ atomNew 4 ty sat old b c = (old ||| b, 0) ∧
    atomNew 5 ty sat old b c = (old ^^^ b, 0) ∧ atomNew 6 ty sat old b c = (b % 2 ^ wd, 0) ∧
    atomNew 7 ty sat old b c = (if old = c then b % 2 ^ wd else old, 0) := by
  subst hsg hwd
  intro x y
  have hplain : ∀ op, ¬ (ty = 1 ∧ op ≤ 2) := fun op h => hty h.1
  have hext : ∀ z : Int, extInt (intSigned ty) (8 * atomBytes ty) (8 * atomBytes ty) z = (BitVec.ofInt (8 * atomBytes ty) z).toNat :=
    fun z => by rw [extInt_eq le_rfl]; simp
  refine ⟨?_, ?_, ?_, ?_, ?_, ?_, ?_, ?_⟩
  all_goals
    rw [atomNew, if_neg (hplain _)]
  · exact intResult_eq le_rfl _
  · rw [← min_def, ← hext]
    rfl
  · rw [← max_def, ← hext]
    rfl
  all_goals rfl

/-- The effects of an atomic, and the results of its operations (10_ordering.md:R223; 11_isa_memory.md:R244). -/
theorem atomicEffects : Claims.AtomicEffects := by
  refine ⟨fun w i g l addr got s x hops hx hclean => ?_, fun ty old b c sat hty _ => ?_⟩
  · intro n old r y
    have hy : y = _ := atomAtHome_eq hops hx hclean
    rw [hy]
    refine ⟨rfl, ?_, fun sys a ha => ?_⟩
    · rw [pushReply_mem, State.homeStore_nat, Nat.pow_mul]
    · rw [pushReply_mem, State.byte_homeStore, Memory.byte_write_outside, State.noteSys_mem]
      rwa [length_leBytes]
  · simp only [List.mem_cons, List.not_mem_nil, or_false] at hty
    obtain rfl | rfl | rfl | rfl := hty
    · exact atomNew_int (by decide) rfl rfl old b c sat
    · exact atomNew_int (by decide) rfl rfl old b c sat
    · exact atomNew_int (by decide) rfl rfl old b c sat
    · exact atomNew_int (by decide) rfl rfl old b c sat

/-- Settles O54: an atomic judges its lanes and performs them in order (`exec_atomg`, `exec_atomsp`); one lane's atomic is a read and a
store at its home (`atomAtHome_eq`), with the results of `atomNew_int`. -/
theorem atomicWords : Obligations.AtomicWords := ⟨atomics, atomicEffects⟩

end Sys2Proof.Machine
end

section
/-! ## O53. The bytes and the poison of a block's scratchpad -/

namespace Sys2Proof.Machine

theorem getElem?_updAt {α : Type} (l : List α) (i j : Nat) (f : α → α) :
    (updAt l i f)[j]? = if i = j then l[j]?.map f else l[j]? := by
  induction l generalizing i j with
  | nil => simp [updAt]
  | cons x r ih => cases i <;> cases j <;> simp [updAt, ih]

/-! ### The pieces of a range -/

/-- A piece holds the byte at an offset of the block's scratchpad. -/
def pieceHas (size : Nat) (p : Nat × Nat × Nat) (a : Nat) : Prop :=
  p.1 = a / size ∧ p.2.1 ≤ a % size ∧ a % size < p.2.1 + p.2.2

/-- A piece holds the whole sector of an offset. -/
def pieceWhole (size : Nat) (p : Nat × Nat × Nat) (a : Nat) : Prop :=
  p.1 = a / size ∧ p.2.1 ≤ 32 * (a % size / 32) ∧ 32 * (a % size / 32) + 32 ≤ p.2.1 + p.2.2

/-- A piece that stays on its core holds the offsets from its first on. -/
theorem pieceHas_iff {size off l a : Nat} (hsize : 0 < size) (hl : l ≤ size - off % size) :
    pieceHas size (off / size, off % size, l) a ↔ off ≤ a ∧ a < off + l := by
  have ho := Nat.div_add_mod off size
  have ha := Nat.div_add_mod a size
  have hom := Nat.mod_lt off hsize
  have ham := Nat.mod_lt a hsize
  constructor
  · rintro ⟨hq, hlo, hhi⟩
    dsimp only at hq hlo hhi
    rw [← hq] at ha
    omega
  · rintro ⟨hlo, hhi⟩
    have hq : a / size = off / size := by
      refine Nat.div_eq_of_lt_le ?_ ?_
      · rw [Nat.mul_comm]; omega
      · rw [Nat.mul_comm, Nat.mul_add, Nat.mul_one]; omega
    rw [hq] at ha
    exact ⟨hq.symm, by dsimp only; omega, by dsimp only; omega⟩

/-- What remains of a range after its first piece fits the cores that remain. -/
theorem rest_fits {size off len f : Nat} (hsize : 0 < size) (hf : off % size + len ≤ (f + 1) * size) :
    let l := Nat.min len (size - off % size)
    len - l = 0 ∨ (off + l) % size + (len - l) ≤ f * size := by
  intro l
  have hom := Nat.mod_lt off hsize
  by_cases h : len ≤ size - off % size
  · left
    have : l = len := Nat.min_eq_left h
    omega
  · right
    have hl : l = size - off % size := Nat.min_eq_right (by omega)
    have hz : (off + l) % size = 0 := by
      have ho := Nat.div_add_mod off size
      have : off + l = size * (off / size + 1) := by rw [Nat.mul_add, Nat.mul_one]; omega
      rw [this, Nat.mul_mod_right]
    rw [Nat.add_mul] at hf
    omega

/-- The pieces of a range that fits hold its bytes and no others (11_isa_memory.md:R238). -/
theorem exists_pieceHas_iff {size : Nat} (hsize : 0 < size) (a f off len : Nat) (hf : len = 0 ∨ off % size + len ≤ f * size) :
    (∃ p ∈ spPieces size f off len, pieceHas size p a) ↔ off ≤ a ∧ a < off + len := by
  induction f generalizing off len with
  | zero =>
    have : len = 0 := by omega
    simp [spPieces, this]
  | succ f ih =>
    rw [spPieces]
    by_cases hlen : len = 0
    · rw [if_pos hlen]
      simp [hlen]
    · rw [if_neg hlen]
      have hl : Nat.min len (size - off % size) ≤ size - off % size := Nat.min_le_right ..
      have hlen' : Nat.min len (size - off % size) ≤ len := Nat.min_le_left ..
      simp only [List.mem_cons, exists_eq_or_imp, ih _ _ (rest_fits hsize (hf.resolve_left hlen)), pieceHas_iff hsize hl]
      generalize Nat.min len (size - off % size) = l at hl hlen'
      omega

/-- One byte is one piece. -/
theorem spPieces_one {size : Nat} (hsize : 0 < size) (f a : Nat) : spPieces size (f + 1) a 1 = [(a / size, a % size, 1)] := by
  have hone : Nat.min 1 (size - a % size) = 1 := Nat.min_eq_left (Nat.sub_pos_of_lt (Nat.mod_lt a hsize))
  have hnil : spPieces size f (a + 1) 0 = [] := by cases f <;> rfl
  rw [spPieces, if_neg Nat.one_ne_zero]
  simp only [hone, Nat.sub_self, hnil]

/-! ### A byte and its mark on the core that holds it -/

/-- The byte at an offset of the scratchpad of some cores. -/
def coreByte (cs : List BlockCore) (size a : Nat) : Byte := (cs[a / size]?).elim 0 (fun c => cget c.sp (a % size))

/-- The poison mark of the sector of an offset. -/
def coreMark (cs : List BlockCore) (size a : Nat) : BitVec 1 := (cs[a / size]?).elim 0 (fun c => cget c.spPoison (a % size / 32))

theorem Block.spRead_one {size : Nat} (hsize : 0 < size) (b : Block) (a : Nat) : b.spRead size a 1 = [coreByte b.cores size a] := by
  rw [Block.spRead, spPieces_one hsize]
  cases h : b.cores[a / size]? <;> simp [coreByte, h, cgetMany]

theorem sectorsOf_one (a : Nat) : sectorsOf a 1 = [a / 32] := by
  simp [sectorsOf]

theorem Block.spPoisoned_one {size : Nat} (hsize : 0 < size) (b : Block) (a : Nat) :
    b.spPoisoned size a 1 = true ↔ coreMark b.cores size a = 1 := by
  rw [Block.spPoisoned, spPieces_one hsize]
  cases h : b.cores[a / size]? <;> simp [coreMark, h, sectorsOf_one]

/-- A write on one core changes the bytes of its piece. -/
theorem coreByte_write (cs : List BlockCore) (size a k off : Nat) (d : List Byte) (mark : Bool) (ha : a / size < cs.length) :
    coreByte (updAt cs k (fun c => c.write off d mark)) size a =
      if k = a / size ∧ off ≤ a % size ∧ a % size < off + d.length then d.getD (a % size - off) 0 else coreByte cs size a := by
  rw [coreByte, coreByte, getElem?_updAt, List.getElem?_eq_getElem ha]
  by_cases hk : k = a / size
  · rw [if_pos hk]
    simp only [Option.map_some, Option.elim_some, BlockCore.write, cget_csetMany, hk, true_and]
  · rw [if_neg hk, if_neg (fun h => hk h.1)]

/-- An unmarked write on one core cleans the sectors that it stores whole. -/
theorem coreMark_write (cs : List BlockCore) (size a k off : Nat) (d : List Byte) :
    coreMark (updAt cs k (fun c => c.write off d false)) size a = 1 ↔
      coreMark cs size a = 1 ∧ ¬ pieceWhole size (k, off, d.length) a := by
  rw [coreMark, coreMark, getElem?_updAt]
  by_cases hk : k = a / size
  · rw [if_pos hk]
    cases cs[a / size]? with
    | none => simp
    | some c =>
      have hin : off ≤ 32 * (a % size / 32) ∧ 32 * (a % size / 32) + 32 ≤ off + d.length → a % size / 32 ∈ sectorsOf off d.length :=
        fun h => mem_sectorsOf.2 (by omega)
      have hmark : cget (c.write off d false).spPoison (a % size / 32) =
          if a % size / 32 ∈ sectorsOf off d.length ∧ off ≤ 32 * (a % size / 32) ∧ 32 * (a % size / 32) + 32 ≤ off + d.length then 0
          else cget c.spPoison (a % size / 32) :=
        cget_foldl_clear (fun k => off ≤ 32 * k ∧ 32 * k + 32 ≤ off + d.length) ..
      simp only [Option.map_some, Option.elim_some, hmark, cleared_eq_one_iff, pieceWhole, hk, true_and, and_iff_right_of_imp hin]
  · rw [if_neg hk]
    exact (and_iff_left fun h => hk h.1).symm

/-! ### The writes of a range, piece by piece -/

/-- The write of one piece: its bytes are the first of those to come. -/
def pieceWrite (mark : Bool) (a : List BlockCore × List Byte) (p : Nat × Nat × Nat) : List BlockCore × List Byte :=
  (updAt a.1 p.1 (fun c => c.write p.2.1 (a.2.take p.2.2) mark), a.2.drop p.2.2)

theorem Block.spWrite_cores (b : Block) (size off : Nat) (data : List Byte) (mark : Bool) : (b.spWrite size off data mark).cores =
    ((spPieces size (b.cores.length + 1) off data.length).foldl (pieceWrite mark) (b.cores, data)).1 := rfl

theorem length_foldl_pieceWrite (mark : Bool) (ps : List (Nat × Nat × Nat)) (x : List BlockCore × List Byte) :
    (ps.foldl (pieceWrite mark) x).1.length = x.1.length := by
  induction ps generalizing x with
  | nil => rfl
  | cons p r ih => rw [List.foldl_cons, ih, pieceWrite, length_updAt]

/-- The pieces of a write store its bytes, each at its offset (11_isa_memory.md:R238). -/
theorem coreByte_foldl_pieceWrite {size a : Nat} (hsize : 0 < size) (mark : Bool) (f off : Nat) (cs : List BlockCore) (data : List Byte)
    (ha : a / size < cs.length) (hf : data.length = 0 ∨ off % size + data.length ≤ f * size) :
    coreByte ((spPieces size f off data.length).foldl (pieceWrite mark) (cs, data)).1 size a =
      if off ≤ a ∧ a < off + data.length then data.getD (a - off) 0 else coreByte cs size a := by
  induction f generalizing off cs data with
  | zero =>
    rw [spPieces, if_neg (by omega)]
    rfl
  | succ f ih =>
    rw [spPieces]
    by_cases hlen : data.length = 0
    · rw [if_pos hlen, if_neg (by omega)]
      rfl
    · rw [if_neg hlen]
      have hl : Nat.min data.length (size - off % size) ≤ size - off % size := Nat.min_le_right ..
      have hlen' : Nat.min data.length (size - off % size) ≤ data.length := Nat.min_le_left ..
      have hrest := rest_fits hsize (hf.resolve_left hlen)
      have hhas := pieceHas_iff (a := a) hsize hl
      dsimp only at hrest ⊢
      generalize Nat.min data.length (size - off % size) = l at hl hlen' hrest hhas ⊢
      have htake : (data.take l).length = l := by rw [List.length_take]; omega
      have hdrop : (data.drop l).length = data.length - l := List.length_drop
      rw [List.foldl_cons, pieceWrite, ← hdrop, ih _ _ _ (by rw [length_updAt]; exact ha) (hdrop ▸ hrest), hdrop,
        coreByte_write _ _ _ _ _ _ _ ha, htake]
      by_cases hfirst : off ≤ a ∧ a < off + l
      · obtain ⟨hq, hlo, hhi⟩ := hhas.2 hfirst
        have hat : a % size - off % size = a - off := by
          have ho := Nat.div_add_mod off size
          have ha' := Nat.div_add_mod a size
          rw [show off / size = a / size from hq] at ho
          omega
        rw [if_neg (by omega), if_pos ⟨hq, hlo, hhi⟩, if_pos (by omega), hat, List.getD_eq_getElem?_getD, List.getD_eq_getElem?_getD,
          List.getElem?_take, if_pos (show a - off < l by omega)]
      · rw [show (if off / size = a / size ∧ off % size ≤ a % size ∧ a % size < off % size + l then _ else coreByte cs size a) =
          coreByte cs size a from if_neg fun h => hfirst (hhas.1 h)]
        by_cases hlast : off + l ≤ a ∧ a < off + data.length
        · rw [if_pos (by omega), if_pos (by omega), List.getD_eq_getElem?_getD, List.getD_eq_getElem?_getD, List.getElem?_drop,
            show l + (a - (off + l)) = a - off by omega]
        · rw [if_neg (by omega), if_neg (by omega)]

/-- The pieces of an unmarked write clean the sectors that one of them stores whole. -/
theorem coreMark_foldl_pieceWrite (size a f off : Nat) (cs : List BlockCore) (data : List Byte) :
    coreMark ((spPieces size f off data.length).foldl (pieceWrite false) (cs, data)).1 size a = 1 ↔
      coreMark cs size a = 1 ∧ ¬ ∃ p ∈ spPieces size f off data.length, pieceWhole size p a := by
  induction f generalizing off cs data with
  | zero => simp [spPieces]
  | succ f ih =>
    rw [spPieces]
    by_cases hlen : data.length = 0
    · rw [if_pos hlen]
      simp
    · rw [if_neg hlen]
      have hlen' : Nat.min data.length (size - off % size) ≤ data.length := Nat.min_le_left ..
      dsimp only
      generalize Nat.min data.length (size - off % size) = l at hlen' ⊢
      have htake : (data.take l).length = l := by rw [List.length_take]; omega
      have hdrop : (data.drop l).length = data.length - l := List.length_drop
      rw [List.foldl_cons, pieceWrite, ← hdrop, ih, coreMark_write, htake]
      simp only [List.mem_cons, exists_eq_or_imp, not_or, and_assoc]

/-- A range of the block's scratchpad fits the pieces that a write makes of it. -/
theorem range_fits {size n off len : Nat} (h : off + len ≤ n * size) : len = 0 ∨ off % size + len ≤ (n + 1) * size := by
  have := Nat.mod_le off size
  rw [Nat.add_mul]
  omega

/-- A write changes the bytes of its range and no other byte. -/
theorem coreByte_spWrite {size a : Nat} (hsize : 0 < size) {b : Block} {off : Nat} {data : List Byte} (mark : Bool)
    (hfit : off + data.length ≤ b.cores.length * size) (ha : a < b.cores.length * size) :
    coreByte (b.spWrite size off data mark).cores size a =
      if off ≤ a ∧ a < off + data.length then data.getD (a - off) 0 else coreByte b.cores size a :=
  coreByte_foldl_pieceWrite hsize mark _ off b.cores data (Nat.div_lt_of_lt_mul (Nat.mul_comm .. ▸ ha)) (range_fits hfit)

/-! ### The stores of a word -/

/-- The writes of a word's stores, in order. -/
def Block.spWrites (b : Block) (size : Nat) (ls : List (Nat × List Byte)) : Block :=
  ls.foldl (fun b x => b.spWrite size x.1 x.2 false) b

theorem Block.spStores_eq (b : Block) (size : Nat) (ls : List (Nat × List Byte)) :
    b.spStores size ls = (b.spWrites size ls).spClean size (ls.map (fun x => (x.1, x.2.length))) := rfl

theorem Block.length_spWrites (b : Block) (size : Nat) (ls : List (Nat × List Byte)) :
    (b.spWrites size ls).cores.length = b.cores.length := by
  induction ls generalizing b with
  | nil => rfl
  | cons x r ih => exact (ih _).trans (length_foldl_pieceWrite ..)

/-- The stores of a word clean the sectors that one piece of them stores whole. -/
theorem Block.coreMark_spWrites (b : Block) (size a : Nat) (ls : List (Nat × List Byte)) :
    coreMark (b.spWrites size ls).cores size a = 1 ↔ coreMark b.cores size a = 1 ∧
      ¬ ∃ x ∈ ls, ∃ p ∈ spPieces size (b.cores.length + 1) x.1 x.2.length, pieceWhole size p a := by
  induction ls generalizing b with
  | nil => simp [Block.spWrites]
  | cons x r ih =>
    have hlen : (b.spWrite size x.1 x.2 false).cores.length = b.cores.length := length_foldl_pieceWrite ..
    rw [show b.spWrites size (x :: r) = (b.spWrite size x.1 x.2 false).spWrites size r from rfl, ih, Block.spWrite_cores,
      coreMark_foldl_pieceWrite, ← Block.spWrite_cores, hlen]
    simp only [List.mem_cons, exists_eq_or_imp, not_or, and_assoc]

/-- The sectors of one core that pieces cover between them. -/
def coveredOn (ps : List (Nat × Nat × Nat)) (k : Nat) : List Nat := coveredSectors ((ps.filter (fun p => p.1 == k)).map Prod.snd)

/-- Cleaning a core's covered sectors. -/
def cleanCore (ps : List (Nat × Nat × Nat)) (c : BlockCore × Nat) : BlockCore :=
  { c.1 with spPoison := (coveredOn ps c.2).foldl (fun p k => cset p k 0) c.1.spPoison }

theorem Block.spClean_get (b : Block) (size : Nat) (rs : List (Nat × Nat)) (k : Nat) : (b.spClean size rs).cores[k]? =
    (b.cores[k]?).map (fun c => cleanCore (rs.flatMap (fun r => spPieces size (b.cores.length + 1) r.1 r.2)) (c, k)) := by
  change ((b.cores.zip (List.range b.cores.length)).map (cleanCore _))[k]? = _
  rw [List.getElem?_map, List.zip, List.getElem?_zipWith]
  by_cases hk : k < b.cores.length
  · simp [hk]
  · simp [hk]

/-- Cleaning changes no byte. -/
theorem Block.coreByte_spClean (b : Block) (size : Nat) (rs : List (Nat × Nat)) (a : Nat) :
    coreByte (b.spClean size rs).cores size a = coreByte b.cores size a := by
  rw [coreByte, coreByte, Block.spClean_get]
  cases b.cores[a / size]? <;> rfl

/-- Cleaning clears the marks of the sectors that the ranges cover between them (18_recovery.md:R323). -/
theorem Block.coreMark_spClean (b : Block) (size : Nat) (rs : List (Nat × Nat)) (a : Nat) :
    coreMark (b.spClean size rs).cores size a = 1 ↔ coreMark b.cores size a = 1 ∧
      a % size / 32 ∉ coveredOn (rs.flatMap (fun r => spPieces size (b.cores.length + 1) r.1 r.2)) (a / size) := by
  rw [coreMark, coreMark, Block.spClean_get]
  cases b.cores[a / size]? with
  | none => simp
  | some c =>
    have hmark := cget_foldl_clear (fun _ => True)
      (coveredOn (rs.flatMap (fun r => spPieces size (b.cores.length + 1) r.1 r.2)) (a / size)) c.spPoison (a % size / 32)
    simp only [if_true, and_true] at hmark
    simp only [Option.map_some, Option.elim_some, cleanCore, hmark, cleared_eq_one_iff]

/-- The bytes of an offset's sector lie on the offset's core, where a core holds whole sectors. -/
theorem sector_on_core {size a j : Nat} (hsize : 0 < size) (hunit : size % 32 = 0) (hj : j < 32) :
    (a / 32 * 32 + j) / size = a / size ∧ (a / 32 * 32 + j) % size = 32 * (a % size / 32) + j := by
  have ha := Nat.div_add_mod a size
  have ham := Nat.mod_lt a hsize
  obtain ⟨m, rfl⟩ := Nat.dvd_of_mod_eq_zero hunit
  refine (Nat.div_mod_unique hsize).2 ⟨?_, by omega⟩
  rw [Nat.mul_assoc] at ha ⊢
  generalize m * (a / (32 * m)) = q at ha ⊢
  omega

/-- A sector is covered when the stores of a word store its 32 bytes between them. -/
theorem coveredOn_iff_stored {size n a : Nat} (hsize : 0 < size) (hunit : size % 32 = 0) {ls : List (Nat × List Byte)}
    (hfit : ∀ x ∈ ls, x.1 + x.2.length ≤ n * size) :
    a % size / 32 ∈ coveredOn ((ls.map (fun x => (x.1, x.2.length))).flatMap (fun r => spPieces size (n + 1) r.1 r.2)) (a / size) ↔
      ∀ j, j < 32 → ∃ x ∈ ls, x.1 ≤ a / 32 * 32 + j ∧ a / 32 * 32 + j < x.1 + x.2.length := by
  rw [coveredOn, mem_coveredSectors]
  refine forall₂_congr fun j hj => ?_
  obtain ⟨hq, hr⟩ := sector_on_core (a := a) hsize hunit hj
  have hbyte : ∀ x ∈ ls, (∃ p ∈ spPieces size (n + 1) x.1 x.2.length, p.1 = a / size ∧ p.2.1 ≤ 32 * (a % size / 32) + j ∧
      32 * (a % size / 32) + j < p.2.1 + p.2.2) ↔ x.1 ≤ a / 32 * 32 + j ∧ a / 32 * 32 + j < x.1 + x.2.length := by
    intro x hx
    rw [← exists_pieceHas_iff hsize _ _ _ _ (range_fits (hfit x hx))]
    simp only [pieceHas, hq, hr]
  constructor
  · rintro ⟨r, hr, hlo, hhi⟩
    obtain ⟨p, hp, rfl⟩ := List.mem_map.1 hr
    obtain ⟨hp, hcore⟩ := List.mem_filter.1 hp
    obtain ⟨y, hy, hp⟩ := List.mem_flatMap.1 hp
    obtain ⟨x, hx, rfl⟩ := List.mem_map.1 hy
    exact ⟨x, hx, (hbyte x hx).1 ⟨p, hp, beq_iff_eq.1 hcore, hlo, hhi⟩⟩
  · rintro ⟨x, hx, hin⟩
    obtain ⟨p, hp, hcore, hlo, hhi⟩ := (hbyte x hx).2 hin
    exact ⟨p.2, List.mem_map_of_mem (List.mem_filter.2 ⟨List.mem_flatMap.2 ⟨_, List.mem_map_of_mem hx, hp⟩, beq_iff_eq.2 hcore⟩),
      hlo, hhi⟩

/-- The writes of a word to scratchpad, byte by byte, and the sectors that they clean. -/
theorem scratchBytes : Claims.ScratchBytes := by
  refine ⟨fun b size off a data mark hsize hfit ha => ?_, fun b size a ls hsize hunit ha hfit => ?_⟩
  · rw [Block.spRead_one hsize, Block.spRead_one hsize, coreByte_spWrite hsize mark hfit ha, ← apply_ite (fun x => [x])]
  · intro u stored
    rw [Block.spRead_one hsize, Block.spRead_one hsize, Block.spPoisoned_one hsize, Block.spPoisoned_one hsize]
    refine ⟨congrArg (fun x => [x]) (Block.coreByte_spClean ..), ?_⟩
    have hstored := coveredOn_iff_stored (a := a) hsize hunit hfit
    have hpiece : (∃ x ∈ ls, ∃ p ∈ spPieces size (b.cores.length + 1) x.1 x.2.length, pieceWhole size p a) → stored := by
      rintro ⟨x, hx, p, hp, hq, hlo, hhi⟩ j hj
      obtain ⟨hqj, hrj⟩ := sector_on_core (a := a) hsize hunit hj
      exact ⟨x, hx, (exists_pieceHas_iff hsize _ _ _ _ (range_fits (hfit x hx))).1 ⟨p, hp, by rw [pieceHas, hqj, hrj]; omega⟩⟩
    rw [show u.cores = _ from congrArg Block.cores (Block.spStores_eq b size ls), Block.coreMark_spClean, Block.length_spWrites, hstored,
      Block.coreMark_spWrites, and_assoc]
    exact and_congr_right fun _ => and_iff_right_of_imp fun hns h => hns (hpiece h)

end Sys2Proof.Machine
end

section
/-! ## O53. VF elements in memory -/

namespace Sys2Proof.Machine

variable {s u : State} {w : W} {i : Iss}

/-! ### The element of a value -/

/-- The fraction bits that an element keeps: those of the value, moved up to 8c bits or cut off below them. -/
theorem keptFraction_eq (c fr f : Nat) :
    (if fr ≤ 8 * c then f * 2 ^ (8 * c - fr) else f / 2 ^ (fr - 8 * c)) = f * 2 ^ (8 * c) / 2 ^ fr := by
  split
  next h =>
    rw [← Nat.sub_add_cancel h, pow_add, ← Nat.mul_assoc, Nat.add_sub_cancel, Nat.mul_div_cancel _ (Nat.two_pow_pos _)]
  next h =>
    have hfr : fr = fr - 8 * c + 8 * c := by omega
    conv_rhs => rw [hfr, pow_add]
    rw [Nat.mul_div_mul_right _ _ (Nat.two_pow_pos _)]

/-- A fraction bit is lost when one below the 8c kept bits is 1. -/
theorem lostFraction_eq (c fr f : Nat) :
    (decide (8 * c < fr) && f % 2 ^ (fr - 8 * c) != 0) = decide (f * 2 ^ (8 * c) % 2 ^ fr ≠ 0) := by
  by_cases h : 8 * c < fr
  · have hfr : 2 ^ fr = 2 ^ (fr - 8 * c) * 2 ^ (8 * c) := by rw [← pow_add, Nat.sub_add_cancel h.le]
    rw [hfr, Nat.mul_mod_mul_right]
    exact Bool.eq_iff_iff.2 (by simp [h])
  · have hdvd : 2 ^ fr ∣ f * 2 ^ (8 * c) := Dvd.dvd.mul_left (Nat.pow_dvd_pow 2 (by omega)) f
    simp [h, Nat.mod_eq_zero_of_dvd hdvd]

/-- The element of a value: its length code, the halfword of sign and exponent, and 8c fraction bits (05_numbers.md:R148). -/
theorem vfElemBytes_eq (c fr b : Nat) : vfElemBytes c fr b =
    (leBytes 1 c ++ leBytes 2 (b / 2 ^ fr) ++ leBytes c (b % 2 ^ fr * 2 ^ (8 * c) / 2 ^ fr),
      decide (b % 2 ^ fr * 2 ^ (8 * c) % 2 ^ fr ≠ 0)) := by
  rw [vfElemBytes, keptFraction_eq, lostFraction_eq]

/-- The fraction bits of a window. -/
theorem vfFrac_eq {k : Nat} (hk : k ≠ 0) : vfFrac k = 32 * k - 16 := by
  rw [vfFrac]
  omega

/-- A result that raises NV under a condition, beside its own flags. -/
theorem FRes.nv_eq (r : FRes) (b : Bool) : r.nv b = ⟨r.bits, r.fl ||| (if b then fNV else 0)⟩ := by
  cases b
  · exact congrArg (FRes.mk r.bits) (flags_or_zero _).symm
  · rfl

/-- An element with a legal length code lands as its value, rounded to the lane's bits. -/
theorem ldvfRes_legal {l : Nat} {d : List Byte} (hc : 1 ≤ leNat (d.take 1) ∧ leNat (d.take 1) ≤ 22) :
    let c := leNat (d.take 1)
    let x := decodeF (fmtVf (8 * c)) false (leNat ((d.drop 1).take 2) * 2 ^ (8 * c) + leNat (d.drop 3))
    ldvfRes w i l d = (round (fmtVf (precL (i.warp.precOf l))) (Mode.ofCode (precRmd (i.warp.precOf l))) w.sat false x).nv x.isSig := by
  intro c x
  have hx : vfElem d = some x := if_pos hc
  rw [ldvfRes, hx]

/-- An element with an illegal length code lands as the default NaN, and raises NV. -/
theorem ldvfRes_illegal {l : Nat} {d : List Byte} (hc : ¬ (1 ≤ leNat (d.take 1) ∧ leNat (d.take 1) ≤ 22)) :
    ldvfRes w i l d = ⟨(fmtVf (precL (i.warp.precOf l))).nanBits, fNV⟩ := by
  have hx : vfElem d = none := if_neg hc
  rw [ldvfRes, hx]
  simp [FRes.nv, Fmt.nan, fmtVf]

/-! ### The accesses -/

theorem globalLoad_done {rs : List (Nat × Nat × Nat)} {land : (Nat → List Byte) → Warp → Warp}
    (hf : s.laneFault i.ctx .load rs = none) (hr : HasRoom s i .load rs)
    (hd : i.detect 0 (s.detSectors i.ctx .load rs) s = .ok u) (hp : (u.loadLanes i rs).2.1 = 0) :
    globalLoad rs land i s = .done ((u.loadLanes i rs).2.2.updRef i.r (land (laneBytes (u.loadLanes i rs).1))) := by
  rw [globalLoad, hf]
  dsimp only
  rw [withRoom_room hr, hd]
  dsimp only
  rw [if_neg (not_not.2 hp)]

theorem scratchLoad_done {rs : List (Nat × Nat × Nat)} {land : (Nat → List Byte) → Warp → Warp}
    (hin : ∀ x ∈ rs, x.2.1 + x.2.2 ≤ i.blk.cores.length * i.scr) (hp : ∀ x ∈ rs, i.blk.spPoisoned i.scr x.2.1 x.2.2 = false)
    (hd : i.detect 0 (i.detScratch rs) s = .ok u) :
    scratchLoad rs land i s =
      .done (u.updRef i.r (land (laneBytes (rs.map (fun x => (x.1, i.blk.spRead i.scr x.2.1 x.2.2)))))) := by
  have hall : rs.all (fun x => i.inScratch x.2.1 x.2.2) = true := List.all_eq_true.2 fun x hx => decide_eq_true (hin x hx)
  have hbad : rs.filter (fun x => i.blk.spPoisoned i.scr x.2.1 x.2.2) = [] :=
    List.filter_eq_nil_iff.2 fun x hx => by simp [hp x hx]
  rw [scratchLoad, hall, hd]
  dsimp only
  rw [hbad]
  rfl

theorem globalStore_done {ls : List (Nat × Nat × List Byte)} {after : Warp → Warp}
    (hf : s.laneFault i.ctx .store (storeRanges ls) = none) (hr : HasRoom s i .store (storeRanges ls))
    (hd : i.detect 1 (s.detSectors i.ctx .store (storeRanges ls)) s = .ok u) :
    globalStore w ls after i s = .done ((u.issueStores i w 0 (ls.map Prod.snd) false).updRef i.r after) := by
  rw [globalStore, hf]
  dsimp only
  rw [withRoom_room hr, hd]

theorem scratchStore_done {ls : List (Nat × Nat × List Byte)} {after : Warp → Warp}
    (hin : ∀ x ∈ ls, x.2.1 + x.2.2.length ≤ i.blk.cores.length * i.scr) (hd : i.detect 1 (i.detScratch (storeRanges ls)) s = .ok u) :
    scratchStore ls after i s = .done ((i.updBlk u (fun b => b.spStores i.scr (ls.map Prod.snd))).updRef i.r after) := by
  have hall : ls.all (fun x => i.inScratch x.2.1 x.2.2.length) = true := List.all_eq_true.2 fun x hx => decide_eq_true (hin x hx)
  rw [scratchStore, hall, hd]
  rfl

/-! ### `stvf` -/

/-- The elements that the lanes of `stvf` store. -/
def stvfData (w : W) (i : Iss) : List (Nat × Nat × List Byte) := i.lanes.map (fun l => (l, vfAddr w w.c i l, (stvfElem w i l).1))

/-- The inexact flag of the lanes that lose a fraction bit. -/
def stvfFlags (w : W) (i : Iss) (wp : Warp) : Warp :=
  wp.raiseFlags i.lanes (fun l => unlessNF w.nf (if (stvfElem w i l).2 then fNX else 0))

theorem exec_stvf (hi : Issues .stvf w s i) (hc : i.warp.canRaise (i.counter w) = true) : exec (.stvf w) s = .next (finish i
    (if !i.warp.vfTagged w.b then i.illegal s
      else if w.mod = 1 then globalStore w (stvfData w i) (stvfFlags w i) i s else scratchStore (stvfData w i) (stvfFlags w i) i s)) := by
  have he : exec (.stvf w) s = execStvf w s := rfl
  rw [execStvf, issueW_issues _ hi, withCounter_raises hc] at he
  exact he

/-! ### `ldvf` -/

/-- The length codes that the lanes of `ldvf` read first. -/
def ldvfHeads (w : W) (i : Iss) : List (Nat × Nat × Nat) := i.lanes.map (fun l => (l, vfAddr w w.b i l, 1))

/-- The elements of length codes at hand. -/
def ldvfElems (heads : List (Nat × Nat × Nat)) (code : Nat → List Byte) : List (Nat × Nat × Nat) :=
  heads.map (fun x => (x.1, x.2.1, vfElemLen (leNat (code x.2.1))))

theorem exec_ldvf_illegal (hi : Issues .ldvf w s i)
    (hk : i.warp.oneK i.lanes = none ∨ ∃ k, i.warp.oneK i.lanes = some k ∧ w.d.vreg % vfAlign k ≠ 0) :
    Traps (.ldvf w) s i { cause := 3, mask := i.act } := by
  have he : exec (.ldvf w) s = execLdvf w s := rfl
  rw [execLdvf, issueW_issues _ hi] at he
  obtain hk | ⟨k, hk, halign⟩ := hk
  · rw [hk] at he
    exact he
  · rw [hk] at he
    dsimp only at he
    rw [if_pos halign] at he
    exact he

theorem exec_ldvf_global {k : Nat} (hi : Issues .ldvf w s i) (hk : i.warp.oneK i.lanes = some k) (halign : w.d.vreg % vfAlign k = 0)
    (hglob : w.mod = 1) (hf : s.laneFault i.ctx .load (ldvfHeads w i) = none) : exec (.ldvf w) s = .next (finish i
      (globalLoad (ldvfElems (ldvfHeads w i) (fun a => (s.loadRange i.r i.warp.core i.ctx a 1).1)) (landVf w k i) i s)) := by
  have he : exec (.ldvf w) s = execLdvf w s := rfl
  rw [execLdvf, issueW_issues _ hi, hk] at he
  dsimp only at he
  unfold ldvfHeads at hf
  rw [if_neg (not_not.2 halign), if_pos hglob, hf] at he
  exact he

theorem exec_ldvf_scratch {k : Nat} (hi : Issues .ldvf w s i) (hk : i.warp.oneK i.lanes = some k) (halign : w.d.vreg % vfAlign k = 0)
    (hglob : w.mod ≠ 1) (hin : ∀ x ∈ ldvfHeads w i, x.2.1 + 1 ≤ i.blk.cores.length * i.scr) : exec (.ldvf w) s = .next (finish i
      (scratchLoad (ldvfElems (ldvfHeads w i) (fun a => i.blk.spRead i.scr a 1)) (landVf w k i) i s)) := by
  have he : exec (.ldvf w) s = execLdvf w s := rfl
  have hall : (ldvfHeads w i).all (fun x => i.inScratch x.2.1 1) = true := List.all_eq_true.2 fun x hx => decide_eq_true (hin x hx)
  rw [execLdvf, issueW_issues _ hi, hk] at he
  dsimp only at he
  unfold ldvfHeads at hall
  rw [if_neg (not_not.2 halign), if_neg hglob, hall] at he
  exact he

/-- Elements land in the window of the lanes and raise their flags, and touch nothing else of the warp. -/
theorem landVf_lands (hi : Issues .ldvf w s i) (k : Nat) (d : Nat → List Byte) (wp : Warp) :
    WindowWrite w.d.vreg k i.lanes (fun l => vfWindow k (precL (i.warp.precOf l)) (ldvfRes w i l (d l)).bits) wp (landVf w k i d wp) ∧
      FlagRaise i.lanes (fun l => unlessNF w.nf (ldvfRes w i l (d l)).fl) wp (landVf w k i d wp) ∧
      (landVf w k i d wp).s = wp.s ∧ (landVf w k i d wp).p = wp.p ∧ OnlyRegs wp (landVf w k i d wp) := by
  have hwin := windowWrite_putWindow wp w.d.vreg k (fun l => vfWindow k (precL (i.warp.precOf l)) (ldvfRes w i l (d l)).bits)
    (issues_lanes hi) (fun _ hl => lanesOf_lt hl)
  have hflags := flagRaise_raiseFlags
    (wp.putWindow w.d.vreg k i.lanes (fun l => vfWindow k (precL (i.warp.precOf l)) (ldvfRes w i l (d l)).bits)) i.lanes
    (fun l => unlessNF w.nf (ldvfRes w i l (d l)).fl) (lanesOf_nodup _)
  refine ⟨⟨hwin.value, hwin.rest, hwin.head, hwin.tags⟩, ?_, putWindow_s, putWindow_p,
    onlyRegs_trans (putWindow_onlyRegs ..) (raiseFlags_onlyRegs ..)⟩
  rw [FlagRaise, putWindow_fenv] at hflags
  exact hflags

/-- `stvf` and `ldvf`, their elements and what they land. -/
theorem vfElements : Claims.VfElements := by
  intro s w i glob prec c elem lost code size value lands at_ ls nx room inside heads gs ss
  have hres : ∀ l d, ldvfRes w i l d = ⟨(value l d).1, (value l d).2⟩ := fun l d => by
    by_cases hc : 1 ≤ code d ∧ code d ≤ 22
    · simp only [value, if_pos hc]
      exact (ldvfRes_legal hc).trans (FRes.nv_eq ..)
    · simp only [value, if_neg hc]
      exact ldvfRes_illegal hc
  have hlands : ∀ k d, Issues .ldvf w s i → lands k (landVf w k i d) d := fun k d hi wp => by
    have h := landVf_lands hi k d wp
    simp only [hres] at h
    exact h
  have hcode : ∀ l, cdiv (precL (i.warp.precOf l)) 8 = c l := fun _ => rfl
  have hstvf : stvfData w i = ls := rfl
  have hheads : ldvfHeads w i = heads := rfl
  refine ⟨fun l h hb htag => ?_, fun l hb => ?_, fun hi hc ht => ?_, fun u hi hc ht hg hin hd => ?_,
    fun u hi hc ht hg hf hr hd => ?_, fun k u hi hk halign hg hcodes hin hp hd => ?_, fun k u hi hk halign hg hf hf' hr hd hp => ?_,
    exec_ldvf_illegal⟩
  · rw [stvfElem, hb]
    dsimp only
    rw [vfElemBytes_eq, vfFrac_eq htag, hcode]
  · rw [stvfElem]
    split
    next h heq => exact absurd heq (hb h)
    next => rw [vfElemBytes_eq, hcode]
  · have he := exec_stvf hi hc
    rw [ht] at he
    exact he
  · have he := exec_stvf hi hc
    rw [ht, if_neg hg, scratchStore_done (hstvf ▸ hin) (hstvf ▸ hd)] at he
    exact he
  · have he := exec_stvf hi hc
    rw [ht, if_pos hg, globalStore_done (hstvf ▸ hf) (hstvf ▸ hr) (hstvf ▸ hd)] at he
    exact he
  · have he := exec_ldvf_scratch hi hk halign hg hcodes
    rw [show ldvfElems _ _ = ss from rfl, scratchLoad_done hin hp hd] at he
    exact ⟨_, he, hlands k _ hi⟩
  · have he := exec_ldvf_global hi hk halign hg hf
    rw [show ldvfElems _ _ = gs from rfl, globalLoad_done hf' hr hd hp] at he
    exact ⟨_, he, hlands k _ hi⟩

/-- Settles O53: a write is its pieces in order, each on its core (`coreByte_foldl_pieceWrite`), and an element is its length code, its
halfword and its fraction bits cut to 8c (`vfElemBytes_eq`). -/
theorem elementAccess : Obligations.ElementAccess := ⟨scratchBytes, vfElements⟩

end Sys2Proof.Machine
end

section
/-! ## O6. Remote words -/

namespace Sys2Proof.Machine

variable {s u : State} {w : W} {i : Iss} {ins : Instr}

/-! ### Addresses -/

/-- A pod-global address names a module and an offset (11_isa_memory.md:R237). -/
theorem podAddr_eq (a : Nat) : podAddr a = if 2 ^ 56 ≤ a ∧ a < 2 ^ 57 then some (a / 2 ^ 50 % 64, a % 2 ^ 50) else none := by
  have hpod : a / 2 ^ 56 = 1 ↔ 2 ^ 56 ≤ a ∧ a < 2 ^ 57 := by omega
  rw [podAddr, if_congr hpod rfl rfl]
  simp [fld]

/-! ### A remote operation goes, waits, or is held back -/

/-- The target's detector may still refuse the word: it judges its grid, and has not been asked (10_ordering.md:R236). -/
def Iss.MayBeRefused (i : Iss) : Prop := i.grid.rec_.det = true ∧ i.r.handler = false ∧ ∀ ok v, i.path.park ≠ .released ok v

theorem Iss.unasked_iff : i.unasked = true ↔ i.MayBeRefused := by
  have htag : (i.detTag 0).isSome = (i.grid.rec_.det && !i.r.handler) := by
    unfold Iss.detTag
    split <;> simp_all
  rw [Iss.unasked, htag, Iss.MayBeRefused]
  cases i.path.park <;> simp

/-- The path stays at its word until the replies of an operation have come. -/
def StaysFor (ins : Instr) (s : State) (i : Iss) (x : Nat × State) : Prop :=
  exec ins s = .next { x.2.updRef i.r (fun wp =>
    let wp := wp.parkAt i.r.lane (.remote x.1)
    { wp with busy := wp.busy ++ [x.1] }) with cur := none }

/-- What becomes of a remote operation of a word: it is sent, or asks its target, or is held back (10_ordering.md:R224, R232, R236). -/
def GoesOut (ins : Instr) (s u : State) (w : W) (i : Iss) (kind : Nat) (chip : Bool) (left det : Nat) (o : RemoteOp) : Prop :=
  (i.behindHeld o = false → i.grid.rec_.det = true → StaysFor ins s i (u.issueRemote i w kind chip left [o])) ∧
  (i.behindHeld o = false → ¬ i.grid.rec_.det = true → Completes ins s i (u.issueRemote i w kind chip left [o]).2) ∧
  (i.behindHeld o = true → i.MayBeRefused →
    StaysFor ins s i (u.askDetectors i det (i.lanes.map (fun l => (o.target, l, o.off.toNat, remoteSize o.kind))))) ∧
  (i.behindHeld o = true → ¬ i.MayBeRefused → Completes ins s i (u.holdBack i w kind chip left [{ o with det := none }]).2)

theorem goesOut_of_goRemote {kind left det : Nat} {chip : Bool} {o : RemoteOp}
    (he : exec ins s = .next (finish i (i.goRemote w kind chip left det o u))) : GoesOut ins s u w i kind chip left det o := by
  rw [Iss.goRemote] at he
  refine ⟨fun hb hj => ?_, fun hb hj => ?_, fun hb hq => ?_, fun hb hq => ?_⟩
  · rw [hb, Iss.sent, if_pos hj] at he
    exact he
  · rw [hb, Iss.sent, if_neg hj] at he
    exact he
  · rw [hb, Iss.unasked_iff.2 hq] at he
    exact he
  · rw [hb, Bool.eq_false_iff.2 (mt Iss.unasked_iff.1 hq)] at he
    exact he

/-! ### `rput` and `rget` -/

/-- The operation of an `rput` that has read its source. -/
def rputOp (w : W) (i : Iss) (m off : Nat) (src : Place) (u : State) : RemoteOp :=
  let n := i.uni w 1 w.b
  let f := placeFill i u .load src [(0, n)]
  { i.remote m off (.put (f.2.engineRead i.r i.ctx src 0 n).1 ((List.range (sectorCount off n)).filter (fun k =>
      (f.2.engineRead i.r i.ctx src (sectorPiece off n k).1 (sectorPiece off n k).2).2.1))) (!w.mod.getLsbD 0) 1 with
    len := n, bar := i.optTb w }

theorem exec_rput_illegal (hi : Issues .rput w s i) (hc : i.warp.canRaise (i.counter w) = true) (hpod : podAddr (i.uni w 2 w.d) = none) :
    Traps (.rput w) s i { cause := 3, mask := i.act } := by
  have he : exec (.rput w) s = execRput w s := rfl
  rw [execRput, issueW_issues _ hi, withCounter_raises hc] at he
  dsimp only at he
  rw [hpod] at he
  exact he

theorem exec_rput {m off : Nat} (hi : Issues .rput w s i) (hc : i.warp.canRaise (i.counter w) = true)
    (hpod : podAddr (i.uni w 2 w.d) = some (m, off)) :
    let n := i.uni w 1 w.b
    let src := i.place w (!w.mod.getLsbD 1) w.a
    remoteLenOk n src.base = true ∧ i.optTbOk w = true → placeInside i src [(0, n)] = true →
    placeFault i s .load src [(0, n)] = none →
    (i.behind .load (placeRanges i src [(0, n)]) s = true → Stalls (.rput w) s i none) ∧
    (i.behind .load (placeRanges i src [(0, n)]) s = false → i.detect 0 (placeSectors i s .load src [(0, n)]) s = .ok u →
      GoesOut (.rput w) s ((placeFill i u .load src [(0, n)]).2.engineRead i.r i.ctx src 0 n).2.2 w i 3
        (placeFill i u .load src [(0, n)]).1 1 1 (rputOp w i m off src u)) := by
  intro n src hgood hin hf
  obtain ⟨hlen, htb⟩ := hgood
  have he : exec (.rput w) s = execRput w s := rfl
  rw [execRput, issueW_issues _ hi, withCounter_raises hc] at he
  dsimp only at he
  rw [hpod] at he
  dsimp only at he
  rw [hlen, htb, hin, show placeFault i s .load _ _ = none from hf] at he
  dsimp only [Bool.not_true, Bool.or_false, Bool.false_eq_true, if_false] at he
  rw [inOrder] at he
  refine ⟨fun hb => ?_, fun hb hd => ?_⟩
  · rw [if_pos hb] at he
    exact stalls_of_stall he
  · rw [show i.behind .load _ s = false from hb, if_neg Bool.false_ne_true] at he
    rw [show i.detect 0 _ s = .ok u from hd] at he
    exact goesOut_of_goRemote he

theorem exec_rget_illegal (hi : Issues .rget w s i) (hc : i.warp.canRaise (i.counter w) = true) (hpod : podAddr (i.uni w 2 w.a) = none) :
    Traps (.rget w) s i { cause := 3, mask := i.act } := by
  have he : exec (.rget w) s = execRget w s := rfl
  rw [execRget, issueW_issues _ hi, withCounter_raises hc] at he
  dsimp only at he
  rw [hpod] at he
  exact he

/-- The `drain` path of an `rget`. -/
def rgetPath (i : Iss) (dst : Place) (n : Nat) : Nat :=
  match dst with
  | .glob _ => 2
  | .sp _ => if onOwnCore i dst [(0, n)] then 1 else 0

theorem exec_rget {m off : Nat} (hi : Issues .rget w s i) (hc : i.warp.canRaise (i.counter w) = true)
    (hpod : podAddr (i.uni w 2 w.a) = some (m, off)) :
    let n := i.uni w 1 w.b
    let dst := i.place w (!w.mod.getLsbD 1) w.d
    remoteLenOk n dst.base = true ∧ i.optTbOk w = true → placeInside i dst [(0, n)] = true →
    placeFault i s .store dst [(0, n)] = none →
    (i.behind .store (placeRanges i dst [(0, n)]) s = true → Stalls (.rget w) s i none) ∧
    (i.behind .store (placeRanges i dst [(0, n)]) s = false → i.detect 1 (placeSectors i s .store dst [(0, n)]) s = .ok u →
      GoesOut (.rget w) s (placeFill i u .store dst [(0, n)]).2 w i (rgetPath i dst n) (placeFill i u .store dst [(0, n)]).1
        (sectorCount dst.base n) 0
        { i.remote m off (.get n) (!w.mod.getLsbD 0) 0 with len := n, bar := i.optTb w, to_ := some dst }) := by
  intro n dst hgood hin hf
  obtain ⟨hlen, htb⟩ := hgood
  have he : exec (.rget w) s = execRget w s := rfl
  rw [execRget, issueW_issues _ hi, withCounter_raises hc] at he
  dsimp only at he
  rw [hpod] at he
  dsimp only at he
  rw [hlen, htb, hin, show placeFault i s .store _ _ = none from hf] at he
  dsimp only [Bool.not_true, Bool.or_false, Bool.false_eq_true, if_false] at he
  rw [inOrder] at he
  refine ⟨fun hb => ?_, fun hb hd => ?_⟩
  · rw [if_pos hb] at he
    exact stalls_of_stall he
  · rw [show i.behind .store _ s = false from hb, if_neg Bool.false_ne_true] at he
    rw [show i.detect 1 _ s = .ok u from hd] at he
    exact goesOut_of_goRemote he

/-! ### `rflag` and `rwake` -/

theorem exec_rflag (w : W) (s : State) :
    exec (.rflag w) s = issueW .rflag w (remoteWord (fun i => .flag (BitVec.ofNat 64 (i.uni w 2 w.b))) true 1 w) s := rfl

theorem exec_rwake (w : W) (s : State) :
    exec (.rwake w) s = issueW .rwake w (remoteWord (fun i => .wake (BitVec.ofNat 64 (i.uni w 1 w.b))) false 2 w) s := rfl

section
variable {op : Op} {kind : Iss → RemoteKind} {ordered : Bool} {det : Nat} (hi : Issues op w s i)
  (hc : i.warp.canRaise (i.counter w) = true) (he : exec ins s = issueW op w (remoteWord kind ordered det w) s)
include hi hc he

theorem remoteWord_illegal (hbad : ∀ x, podAddr (i.uni w 2 w.a) = some x → x.2 % 8 ≠ 0) :
    Traps ins s i { cause := 3, mask := i.act } := by
  rw [issueW_issues _ hi, remoteWord, withCounter_raises hc] at he
  cases hpod : podAddr (i.uni w 2 w.a) with
  | none =>
    rw [hpod] at he
    exact he
  | some x =>
    rw [hpod] at he
    dsimp only at he
    rw [if_pos (hbad x hpod)] at he
    exact he

theorem remoteWord_goes {m off : Nat} (hpod : podAddr (i.uni w 2 w.a) = some (m, off)) (hal : off % 8 = 0) :
    GoesOut ins s s w i 3 false 1 det (i.remote m off (kind i) ordered det) := by
  rw [issueW_issues _ hi, remoteWord, withCounter_raises hc, hpod] at he
  dsimp only at he
  rw [if_neg (not_not.2 hal)] at he
  exact goesOut_of_goRemote he

end

/-! ### `ratom` -/

/-- The module and the offset that a lane of `ratom` names. -/
def ratomAt (w : W) (i : Iss) (l : Nat) : Option (Nat × Nat) := podAddr (i.src w 2 w.a l)

/-- The operations of a `ratom`, one for each lane. -/
def ratomOps (w : W) (i : Iss) : List RemoteOp :=
  i.lanes.filterMap (fun l => (ratomAt w i l).map (fun x =>
    { i.remote x.1 x.2 (.atom (atomOp w) (atomTy w) w.sat (BitVec.ofNat 64 (atomArgs w i l).1)
        (BitVec.ofNat 64 (atomArgs w i l).2)) (!w.mod.getLsbD 4) (atomKind w) with
      lane := l, dst := some w.d, nf := w.nf, det := none }))

/-- The checks of a `ratom` before it asks or sends. -/
def ratomBad (w : W) (i : Iss) : Bool :=
  i.lanes.any (fun l => match ratomAt w i l with | some x => x.2 % atomBytes (atomTy w) != 0 | none => true) ||
    (i.grid.rec_.det && atomTy w == 1 && atomRet w)

theorem atomRet_iff : atomRet w = true ↔ w.d ≠ .none := by simp [atomRet]

theorem ratomBad_iff : ratomBad w i = true ↔
    ¬ (∀ l ∈ i.lanes, ∃ x, ratomAt w i l = some x ∧ x.2 % atomBytes (atomTy w) = 0) ∨
      ((i.grid.rec_.det = true ∧ atomTy w = 1) ∧ w.d ≠ .none) := by
  have hlane : ∀ l, (match ratomAt w i l with | some x => x.2 % atomBytes (atomTy w) != 0 | none => true) = true ↔
      ¬ ∃ x, ratomAt w i l = some x ∧ x.2 % atomBytes (atomTy w) = 0 := by
    intro l
    cases ratomAt w i l <;> simp
  rw [ratomBad, Bool.or_eq_true, List.any_eq_true]
  simp only [hlane, Bool.and_eq_true, beq_iff_eq, atomRet_iff]
  push Not
  rfl

/-- A `ratom` that passes its checks asks its targets, is held back, or is sent (10_ordering.md:R224, R232, R236). -/
theorem exec_ratom (hi : Issues .ratom w s i) (hc : i.warp.canRaise (i.counter w) = true) : exec (.ratom w) s = .next (finish i
    (if ratomBad w i then i.illegal s
    else if i.unasked then i.awaitRemote (s.askDetectors i (atomKind w)
      ((ratomOps w i).map (fun o => (o.target, o.lane, o.off.toNat, atomBytes (atomTy w)))))
    else if i.grid.rec_.det && (atomTy w == 1 || (!atomRet w && (ratomOps w i).any i.behindHeld)) then
      .done (deferRatom w i (ratomOps w i) s)
    else if (ratomOps w i).any i.behindHeld then i.awaitRemote (s.holdBack i w 3 false (ratomOps w i).length (ratomOps w i))
    else i.awaitRemote (s.issueRemote i w 3 false (ratomOps w i).length (ratomOps w i)))) := by
  have he : exec (.ratom w) s = execRatom w s := rfl
  rw [execRatom, issueW_issues _ hi, withCounter_raises hc] at he
  exact he

/-- A `ratom` that no detector has still to judge is held back to the end of the interval, and completes, when it is a float one of a
deterministic grid, or returns no value and comes behind one held back there. -/
theorem ratomDeferred_iff : (i.grid.rec_.det && (atomTy w == 1 || (!atomRet w && (ratomOps w i).any i.behindHeld))) = true ↔
    (i.grid.rec_.det = true ∧ atomTy w = 1) ∨
      (i.grid.rec_.det = true ∧ w.d = .none ∧ ∃ o ∈ ratomOps w i, i.behindHeld o = true) := by
  have hret : (!atomRet w) = true ↔ w.d = .none := by simp [atomRet]
  rw [Bool.and_eq_true, Bool.or_eq_true, Bool.and_eq_true, hret, beq_iff_eq, List.any_eq_true, and_or_left]

/-! ### Behind an operation that is held back -/

/-- An operation follows one that is held back: an `rflag` any, an ordered one an ordered one, and any one an operation that is no float
atomic and writes to a byte of it (10_ordering.md:R213, R224, R232). -/
theorem follows_held_iff (o x : RemoteOp) : o.follows (if x.isFloat then { x with kind := .get 0 } else x) = true ↔
    x.target = o.target ∧ (o.isFlag = true ∨ (o.ordered = true ∧ x.ordered = true) ∨
      (x.isFloat = false ∧ remoteReads x.kind = false ∧ x.off.toNat < o.off.toNat + remoteSize o.kind ∧
        o.off.toNat < x.off.toNat + remoteSize x.kind)) := by
  cases hx : x.isFloat with
  | true => simp [RemoteOp.follows, remoteReads]
  | false =>
    simp only [RemoteOp.follows, RemoteOp.overlaps, Bool.false_eq_true, if_false, Bool.and_eq_true, Bool.or_eq_true, beq_iff_eq,
      Bool.not_eq_true', decide_eq_true_eq, true_and, or_assoc]
    refine and_congr_right fun ht => ?_
    simp only [ht, true_and]

theorem Iss.behindHeld_iff (o : RemoteOp) : i.behindHeld o = true ↔ ∃ a ∈ i.grid.detAtoms, a.tkt = i.blk.tkt ∧ a.wrp = i.r.wrp ∧
    ∃ x, a.rop = some x ∧ o.follows (if x.isFloat then { x with kind := .get 0 } else x) = true := by
  simp only [Iss.behindHeld, List.any_eq_true, Bool.and_eq_true, beq_iff_eq, Option.any_eq_true, and_assoc]

/-- Holding operations back adds them to those that their grid holds back, and sends none (10_ordering.md:R224). -/
theorem State.holdBack_keeps (u : State) (i : Iss) (w : W) (kind left : Nat) (chip : Bool) (l : List RemoteOp) :
    let x := (u.holdBack i w kind chip left l).2
    x.rops = u.rops ∧ x.mem = u.mem ∧ (x.grid? i.r.lsq).map (fun g => g.detAtoms.map DetAtom.rop) =
      (u.grid? i.r.lsq).map (fun g => g.detAtoms.map DetAtom.rop ++ l.map (fun o => some { o with grp := u.nextId })) := by
  intro x
  refine ⟨rfl, rfl, ?_⟩
  have hgrid : x.grid? i.r.lsq = _ := find_updIf (fun g : Grid => g.lsq == i.r.lsq) (fun g : Grid => g.lsq == i.r.lsq) _ _ (fun _ => rfl)
  rw [hgrid]
  change Option.map _ (Option.map _ (u.grid? i.r.lsq)) = _
  cases hg : u.grid? i.r.lsq with
  | none => rfl
  | some g =>
    have hlsq : (g.lsq == i.r.lsq) = true := List.find?_some (p := fun g : Grid => g.lsq == i.r.lsq) hg
    simp only [Option.map_some, hlsq, if_true, List.map_append, List.map_map]
    rfl

/-! ### The probes of a word -/

/-- Sending an operation adds it to those that are out. -/
theorem State.sendRemote_rops (s : State) (o : RemoteOp) :
    ∃ x, (s.sendRemote o).rops = s.rops ++ [x] ∧ x.grp = o.grp ∧ x.target = o.target ∧ x.kind = o.kind :=
  ⟨_, rfl, rfl, rfl, rfl⟩

/-- An operation that is out has the group, the target and the kind of a given one. -/
def RemoteOp.SentAs (x o : RemoteOp) : Prop := x.grp = o.grp ∧ x.target = o.target ∧ x.kind = o.kind

/-- Operations that are sent one by one are out, and no others are new. -/
theorem foldl_sendRemote_rops (f : Nat → RemoteOp) (ms : List Nat) (s : State) :
    let u := ms.foldl (fun s m => s.sendRemote (f m)) s
    (∀ x ∈ s.rops, x ∈ u.rops) ∧ (∀ m ∈ ms, ∃ x ∈ u.rops, x.SentAs (f m)) ∧
      ∀ x ∈ u.rops, x ∈ s.rops ∨ ∃ m ∈ ms, x.SentAs (f m) := by
  induction ms generalizing s with
  | nil => exact ⟨fun _ h => h, fun _ h => absurd h List.not_mem_nil, fun _ h => .inl h⟩
  | cons m r ih =>
    obtain ⟨y, hy, hsent⟩ := s.sendRemote_rops (f m)
    obtain ⟨hkeep, hout, hnew⟩ := ih (s.sendRemote (f m))
    rw [hy] at hkeep hnew
    refine ⟨fun x hx => hkeep x (List.mem_append_left _ hx), fun k hk => ?_, fun x hx => ?_⟩
    · obtain rfl | hk := List.mem_cons.1 hk
      · exact ⟨y, hkeep y (List.mem_append_right _ List.mem_cons_self), hsent⟩
      · exact hout k hk
    · obtain hx | ⟨k, hk, hx⟩ := hnew x hx
      · obtain hx | hx := List.mem_append.1 hx
        · exact .inl hx
        · exact .inr ⟨m, List.mem_cons_self, List.mem_singleton.1 hx ▸ hsent⟩
      · exact .inr ⟨k, List.mem_cons_of_mem _ hk, hx⟩

/-- Asking the detectors sends one probe to each target, which names all the word's accesses there (10_ordering.md:R236). -/
theorem State.askDetectors_rops (s : State) (i : Iss) (kind : Nat) (rs : List (Nat × Nat × Nat × Nat)) :
    let u := (s.askDetectors i kind rs).2
    let probed := fun t : Nat => (rs.filter (fun x => x.1 == t)).map Prod.snd
    (∀ y ∈ rs, ∃ x ∈ u.rops, x.grp = s.nextId ∧ x.target = y.1 ∧ x.kind = .probe (probed y.1)) ∧
    ∀ x ∈ u.rops, x ∈ s.rops ∨ (x.grp = s.nextId ∧ x.kind = .probe (probed x.target)) := by
  intro u probed
  obtain ⟨-, hout, hnew⟩ := foldl_sendRemote_rops (fun m => { i.remote m 0 (.probe (probed m)) false kind with grp := s.nextId })
    (rs.map Prod.fst).eraseDups { s with nextId := s.nextId + 1 }
  refine ⟨fun y hy => ?_, fun x hx => (hnew x hx).imp_right ?_⟩
  · exact hout y.1 (List.mem_eraseDups.2 (List.mem_map_of_mem hy))
  · rintro ⟨m, -, hgrp, htarget, hkind⟩
    have htarget : x.target = m := htarget
    exact ⟨hgrp, htarget ▸ hkind⟩

/-- Settles O6: a remote operation goes out by `goesOut_of_goRemote`, a `ratom` by the branches of `exec_ratom`, and the probes of a word
are one for each target (`State.askDetectors_rops`). -/
theorem remoteWords : Obligations.RemoteWords := by
  intro s w i m off hc n sp ordered src dst good illegal judged unasked stays goes put get v ab lane aligned os held front ask probed later
  have hprobed : ∀ t, ((os.map (fun o => (o.target, o.lane, o.off.toNat, ab))).filter (fun x => x.1 == t)).map Prod.snd = probed t := by
    intro t
    rw [List.filter_map, List.map_map]
    rfl
  obtain ⟨hasked, hnew⟩ := s.askDetectors_rops i (atomKind w) (os.map (fun o => (o.target, o.lane, o.off.toNat, ab)))
  simp only [hprobed] at hasked hnew
  have hheld : (ratomOps w i).any i.behindHeld = true ↔ held := List.any_eq_true
  have hbad : ¬ ratomBad w i = true ↔ aligned ∧ (later → w.d = .none) := by
    rw [ratomBad_iff, not_or, not_not, not_and, not_not]
    rfl
  refine ⟨podAddr_eq, fun hi hp => exec_rput_illegal hi hc hp, fun hi hp => exec_rget_illegal hi hc hp,
    fun hi hp => remoteWord_illegal hi hc (exec_rflag w s) (by simp [hp]),
    fun hi hp => remoteWord_illegal hi hc (exec_rwake w s) (by simp [hp]),
    fun u hi hp hg hin hf hb hd => (exec_rput hi hc hp hg hin hf).2 hb hd,
    fun hi hp hg hin hf hb => (exec_rput (u := s) hi hc hp hg hin hf).1 (eq_true_of_ne_false hb),
    fun u hi hp hg hin hf hb hd => (exec_rget hi hc hp hg hin hf).2 hb hd,
    fun hi hp hg hin hf hb => (exec_rget (u := s) hi hc hp hg hin hf).1 (eq_true_of_ne_false hb),
    fun hi hp hal => remoteWord_goes hi hc (exec_rflag w s) hp hal, fun hi hp hal => remoteWord_goes hi hc (exec_rwake w s) hp hal,
    fun hi hp hal => remoteWord_illegal hi hc (exec_rflag w s) (by simpa [hp] using hal),
    fun hi hp hal => remoteWord_illegal hi hc (exec_rwake w s) (by simpa [hp] using hal),
    fun hi hal => ?_, fun hi hl hd => ?_, fun hi hal hl hq => ?_, fun hi hal hq hl hh => ?_, fun hi hal hq hl hd => ?_,
    fun hi hal hq hl hh hd => ?_, fun o => ?_, fun u kind left chip l => u.holdBack_keeps i w kind left chip l,
    State.askDetectors_mem .., fun o ho => ?_, hnew⟩
  · have he := exec_ratom hi hc
    rw [if_pos (ratomBad_iff.2 (.inl hal))] at he
    exact he
  · have he := exec_ratom hi hc
    rw [if_pos (ratomBad_iff.2 (.inr ⟨hl, hd⟩))] at he
    exact he
  · have he := exec_ratom hi hc
    rw [if_neg (hbad.2 ⟨hal, hl⟩), if_pos (Iss.unasked_iff.2 hq)] at he
    exact he
  · have he := exec_ratom hi hc
    rw [if_neg (hbad.2 ⟨hal, fun h => absurd h hl⟩), if_neg (mt Iss.unasked_iff.1 hq),
      if_neg fun h => (ratomDeferred_iff.1 h).elim hl fun h => hh h.2.2, if_neg (mt hheld.1 hh)] at he
    exact he
  · have he := exec_ratom hi hc
    rw [if_neg (hbad.2 ⟨hal, fun _ => hd⟩), if_neg (mt Iss.unasked_iff.1 hq),
      if_pos (ratomDeferred_iff.2 (hl.imp_right fun ⟨hj, hh⟩ => ⟨hj, hd, hh⟩))] at he
    exact he
  · have he := exec_ratom hi hc
    rw [if_neg (hbad.2 ⟨hal, fun h => absurd h hl⟩), if_neg (mt Iss.unasked_iff.1 hq),
      if_neg fun h => (ratomDeferred_iff.1 h).elim hl fun h => hd ⟨h.1, h.2.1⟩, if_pos (hheld.2 hh)] at he
    exact he
  · rw [Iss.behindHeld_iff]
    simp only [follows_held_iff]
  · exact hasked _ (List.mem_map_of_mem ho)

end Sys2Proof.Machine
end
